-- ==== Sys2Proof/Word.lean ====
section
/-! DEFINITION. The words of the machine (R12, R19) and their plainest arithmetic: widths, sign
extension of a bit field, bits of a number, and little-endian byte lists. -/

namespace Sys2Proof

/-- A byte: 8 bits (R12). -/
abbrev Byte := BitVec 8
/-- A scalar register's value: 64 bits (R19). -/
abbrev Word := BitVec 64
/-- A vector register's value: 128 bits (R19). -/
abbrev VWord := BitVec 128
/-- A 6-bit register field: bit 5 is the bank, bits 4..0 the number (R62). -/
abbrev RegField := BitVec 6
/-- A 3-bit compact register field: k names register 8 + k of the thread's own bank (R62). -/
abbrev CReg := BitVec 3
/-- A segment register number, 0 to 7 (R62). -/
abbrev SegField := BitVec 3

end Sys2Proof
end

