-- ==== Sys2Proof/Config.lean ====
section
/-! DEFINITION. What an implementation fixes and the free values: the values the spec leaves open, each an
opaque constant that no proof can look into. -/

namespace Sys2Proof.Config

/-- The value of a TCM or deck byte that nothing has written since its core or allocation was prepared
(R301, R347): free, by the epoch of the preparation and the byte's address. -/
opaque undefByte : Nat → Nat → BitVec 8

/-- A 128-bit key that Aetheth draws at a package reset (R397): free, by the number of the reset and the
number of the key. -/
opaque drawnKey : Nat → Nat → BitVec 128

/-- The SHA-512 digest of the image of a boot stage (R439), whether its signature and its security version pass, and that
version: free, by the number of the reset and the stage. -/
opaque imageDigest : Nat → Nat → BitVec 512
opaque imageOk : Nat → Nat → Bool
opaque imageVersion : Nat → Nat → BitVec 64

/-- The RSASSA-PSS signature of an attestation report (R440): free, by the report's bytes. -/
opaque signature : List (BitVec 8) → List (BitVec 8)

/-- The device's serial number (R440). -/
opaque deviceSerial : BitVec 64

/-- A fixed hash of a block's address, or of a core's number, that picks a causeway port (R441). -/
opaque routeHash : Nat → Nat

/-- The payload of the causeway flits that carry a request or a message, whose form the spec does not give (R414): free, by
the number of the flit and the device it is for. -/
opaque flitPayload : Nat → Nat → List (BitVec 8)

/-- Whether a retrain that nothing outside has ended brings its port back (R415): free, by port and count of retrains. -/
opaque trainOk : Nat → Nat → Bool

/-- The local address at which a span's pool region begins (R276): free, by the span. -/
opaque poolBase : Nat → Nat

/-- The local address at which a span's save region begins (R388): free, by the span. -/
opaque saveBase : Nat → Nat

/-- Whether an access to a block misses the memory-side cache, which shows itself as timing alone (R339): free, by tick and
block; the row of its channel in which a local address lies (R340, R419): free, by the address. -/
opaque mscMiss : Nat → Nat → Bool
opaque rowOf : Nat → Nat

/-- The set of its span's memory-side cache in which a block's line lies (R339): free, by the block. -/
opaque mscSet : Nat → Nat

/-- What a peer device's home knows of its own pages (R266): whether a physical page of 64 KiB is ONCE there; whether the page's
key ID is live, by page and tick; the presence code of a block and a byte of its memory, by tick; how it answers a word or a
part that an engine writes, by address and tick. -/
opaque peerOnce : Nat → Bool
opaque peerKeyLive : Nat → Nat → Bool
opaque peerPresence : Nat → Nat → Nat
opaque peerByte : Nat → Nat → BitVec 8
opaque peerAnswer : Nat → Nat → Nat

/-- The fields of the request or the message that a data flit from a peer carries, whose form the spec does not give (R231, R266,
R414): free, by the payload and the number of the field. -/
opaque flitField : List (BitVec 8) → Nat → Nat

/-- The bytes of a sector that a host's cache held modified when the device recalled it (R299, R337): free, by the number of
the recall. -/
opaque hostSector : Nat → BitVec 512

/-- What an aligned doubleword of the management space is, whose registers the spec gives no addresses (R436): its kind (1 a site's
injector, 2 a lane's, 3 `strain.limit`, 4 a doubleword of a span's health record, 5 a span's answer word, 6 the base of a span's
pool region, otherwise none that the spec describes) and which of its kind; the value of one that the spec does not describe, by
tick: all free. -/
opaque managedKind : Nat → Nat
opaque managedIndex : Nat → Nat
opaque managementWord : Nat → Nat → BitVec 64

/-- The cause of an error entry of kind 9, which the spec does not give (R379): free, by the tick of the entry. -/
opaque unstated : Nat → BitVec 64

end Sys2Proof.Config
end

