-- ==== Sys2Proof/Machine/Map.lean ====
section
/-! DEFINITION. The two finite maps every piece of state is held in. `Tab` is a table keyed by a number,
read with a default. `Mem` is byte memory: a list of cells with strictly rising addresses in which no
listed byte equals what an unlisted address reads as, so that equal memories are equal lists. -/

namespace Sys2Proof.Machine

/-- A table: the entries that differ from the default, by rising key. -/
abbrev Tab (α : Type) := List (Nat × α)

/-- The entry under key `k`, or the default. -/
def Tab.get {α : Type} (t : Tab α) (dflt : α) (k : Nat) : α :=
  match t with
  | [] => dflt
  | (j, v) :: rest => if j = k then v else Tab.get rest dflt k

/-- The entry under key `k`, if one is listed. -/
def Tab.find {α : Type} (t : Tab α) (k : Nat) : Option α :=
  match t with
  | [] => none
  | (j, v) :: rest => if j = k then some v else Tab.find rest k

/-- The table without key `k`. -/
def Tab.drop {α : Type} (t : Tab α) (k : Nat) : Tab α :=
  match t with
  | [] => []
  | (j, v) :: rest => if j = k then Tab.drop rest k else (j, v) :: Tab.drop rest k

/-- The entry `(k, v)` put before the first greater key. -/
def Tab.ins {α : Type} (t : Tab α) (k : Nat) (v : α) : Tab α :=
  match t with
  | [] => [(k, v)]
  | (j, u) :: rest => if k < j then (k, v) :: (j, u) :: rest else (j, u) :: Tab.ins rest k v

/-- The table with `v` under key `k`. -/
def Tab.put {α : Type} (t : Tab α) (k : Nat) (v : α) : Tab α := (t.drop k).ins k v

/-- The keys are strictly rising. -/
def Tab.rising {α : Type} : Tab α → Bool
  | [] => true
  | [_] => true
  | (j, _) :: (k, v) :: rest => decide (j < k) && Tab.rising ((k, v) :: rest)

/-- Byte memory: the listed cells, each a `Host.Cell`. -/
abbrev Mem := List (Nat × Byte)

/-- What a byte of global memory that nothing has written reads as (DESIGN CHOICE, assumption 2). -/
def Mem.unwritten : Byte := 0

/-- One byte of memory. -/
def Mem.read (m : Mem) (a : Nat) : Byte := Tab.get m Mem.unwritten a

/-- Memory with one byte written: writing the unwritten value removes the cell. -/
def Mem.write (m : Mem) (a : Nat) (b : Byte) : Mem :=
  if b = Mem.unwritten then Tab.drop m a else Tab.put m a b

/-- The canonical form: rising addresses and no cell that an unlisted address would read as. -/
def Mem.wf (m : Mem) : Bool := Tab.rising m && m.all (fun c => c.2 != Mem.unwritten)

/-- `n` bytes from `a`, lowest address first. -/
def Mem.readList (m : Mem) (a : Nat) : Nat → List Byte
  | 0 => []
  | n + 1 => m.read a :: Mem.readList m (a + 1) n

/-- Memory with a list of bytes written from `a` upward. -/
def Mem.writeList (m : Mem) (a : Nat) : List Byte → Mem
  | [] => m
  | b :: bs => Mem.writeList (m.write a b) (a + 1) bs

/-- A list of bytes read little-endian (R12). -/
def ofBytesLE : List Byte → Nat
  | [] => 0
  | b :: bs => b.toNat + 256 * ofBytesLE bs

/-- The `n` low bytes of a number, little-endian (R12). -/
def toBytesLE (x : Nat) : Nat → List Byte
  | 0 => []
  | n + 1 => BitVec.ofNat 8 x :: toBytesLE (x / 256) n

/-- `n` bytes at `a`, read little-endian. -/
def Mem.readLE (m : Mem) (a n : Nat) : Nat := ofBytesLE (m.readList a n)

/-- The `n` low bytes of `x` written little-endian at `a`. -/
def Mem.writeLE (m : Mem) (a n x : Nat) : Mem := m.writeList a (toBytesLE x n)

/-- Field of a number: bits `lo + n - 1` down to `lo`. -/
def field (x lo n : Nat) : Nat := x / 2 ^ lo % 2 ^ n

/-- One bit of a number. -/
def bitAt (x i : Nat) : Bool := x / 2 ^ i % 2 == 1

end Sys2Proof.Machine
end

