-- ==== Sys2Proof/Syntax.lean ====
section
/-! DEFINITION. The instructions and steps of the machine: one constructor of `Instr` for each row of
spec/opcode_table.json. The rows without an encoding (the steps of an engine, a home, a distributor, a link,
a host) come first and carry the names of what they act on; the rows with an encoding follow and carry their
operand fields as R60 to R83, R157, R178, R222, R234 and R237 place them. (The steps stand first because Lean
compiles code that builds a constructor with fields only for the first 245 constructors of a type, and the
meanings build steps.) -/

namespace Sys2Proof

/-- The width code of a vector instruction (R157): lanes of 8, 16, 32 or 64 bits. -/
inductive Width where
  | b8 | h16 | w32 | d64
deriving DecidableEq, Repr, Inhabited

/-- The type code of a vector floating-point instruction (R157); code 11 is not assigned. -/
inductive FType where
  | f32 | f16 | bf16
deriving DecidableEq, Repr, Inhabited

/-- The scope of a fence (R78, R146); code 11 is not assigned. -/
inductive Scope where
  | cluster | package | system
deriving DecidableEq, Repr, Inhabited

/-- The state of a 64-byte sector in a cluster cache or a CXL host (R325). -/
inductive SectorState where
  | invalid | shared | exclusive | modified
deriving DecidableEq, Repr, Inhabited

/-- The instructions and steps, one constructor per row of spec/opcode_table.json: steps first, then the encoded
instructions, each part in the table's order. -/
inductive Instr where
  /-- DIVISION_WRITE (R98). A division or remainder performs its register write at issue + 48 (or issue + 24 for the word forms), and its thread re-enters the rotation. -/
  | divisionWrite (t : Nat)
  /-- LOAD_REPLY (R117). The reply of a load arrives and its data register is written, or pushed or released where the register is a port. -/
  | loadReply (r : Nat)
  /-- ILLEGAL_UNIT (R84). A unit with a reserved or unassigned encoding traps ILLEGAL and records its halfwords. -/
  | illegalUnit (raw : Word)
  /-- SPECIAL_FUNCTION_WRITE (R176). A VSPEC unit performs its write at issue + 32 or + 48, and its thread re-enters the rotation. -/
  | specialFunctionWrite (t : Nat)
  /-- MATRIX_OPERATION_START (R182). The operation at the head of the queue makes its checks and starts once the previous operation has ended and its tiles are ready. -/
  | matrixOperationStart (core : Nat)
  /-- MATRIX_OPERATION_END (R182). An operation ends after its duration, pops its tiles, returns its permit, and releases its issuing thread. -/
  | matrixOperationEnd (core : Nat)
  /-- COPY_ACCEPTANCE (R304). The copy engine reaches a copy, reads its record or list, checks it and adds its units to psect. -/
  | copyAcceptance (core : Nat)
  /-- COPY_UNIT_REQUEST (R305). The copy engine sends a source request for a unit of the oldest accepted copy. -/
  | copyUnitRequest (core : Nat)
  /-- COPY_UNIT_DONE (R198). A unit's writes are performed and psect is decremented at the barrier's bank. -/
  | copyUnitDone (copy : Nat) (u : Nat)
  /-- STREAM_REFILL (R311). The copy engine requests the next units of a binding ahead of its reads. -/
  | streamRefill (t : Nat) (v : Nat)
  /-- STREAM_UNIT_ARRIVAL (R211). A refill unit arrives, and a read waiting for it completes. -/
  | streamUnitArrival (t : Nat) (v : Nat)
  /-- WINDOW_FETCH_REPLY (R329). A window's block fetch returns data, or a not-FULL or POISON result, and the waiting accesses proceed. -/
  | windowFetchReply (cluster : Nat) (win : Nat) (blk : Nat)
  /-- SEQUENCER_EMIT (R220). When its queue has room and pmt < P, the sequencer emits the next iteration record with its token. -/
  | sequencerEmit (core : Nat)
  /-- PARK_TIMEOUT (R227). A park's timeout expires without a token, and d receives 0. -/
  | parkTimeout (t : Nat)
  /-- WAKE_ARRIVAL (R227). A wake reaches its slot and sets the token of the thread of the launch there, or is discarded. -/
  | wakeArrival (t : Nat) (launch : Nat)
  /-- MESSAGE_DELIVERY (R364). A message reaches its core and is written into a free ring entry or the overflow pool, or is dropped. -/
  | messageDelivery (core : Nat)
  /-- ROUTINE_SPAWN (R349). The core starts a thread under its routine table for the oldest startable delivered entry. -/
  | routineSpawn (core : Nat)
  /-- OVERFLOW_MOVE (R58). In the tick after a ring entry frees, the core's oldest overflow entry moves into it. -/
  | overflowMove (core : Nat)
  /-- FLOW_CONTROL_RELEASE (R58). The network accepts a send or mig held back by flow control. -/
  | flowControlRelease (t : Nat)
  /-- EVENT_ARRIVAL (R236). An event reaches its slot and sets evt.ev of the launch's thread there. -/
  | eventArrival (t : Nat) (launch : Nat)
  /-- TWIN_COMPARE (R412). Before a check point or the 257th unit, the pair compares fingerprints and either agrees or rolls back. -/
  | twinCompare (t : Nat)
  /-- TRANSLATION_WALK (R343). A walker serves a miss-buffer entry, fills the TLBs, or reports a fault record. -/
  | translationWalk (span : Nat) (entry : Nat)
  /-- FAULT_SERVE (R381). An answer word with verdict serve makes the span walk again and wake the parked accesses. -/
  | faultServe (span : Nat) (entry : Nat)
  /-- FAULT_REJECT (R381). An answer word with verdict reject makes each parked access trap PAGE or fail. -/
  | faultReject (span : Nat) (entry : Nat)
  /-- PAGE_FAULT_WAKE (R381). A wake message with a matching park number reaches a parked thread, which re-issues from check 8. -/
  | pageFaultWake (t : Nat) (park : Nat) (reject : Bool)
  /-- SET_ASIDE (R382). After 4,096 ticks in PFAULT, a parked thread is saved aside so a waiting entry can start in its slot. -/
  | setAside (t : Nat)
  /-- SET_ASIDE_RETURN (R382). A set-aside thread whose wake has come returns in the first tick its slot is free. -/
  | setAsideReturn (t : Nat)
  /-- HOME_LOAD (R271). A load, bwait or stream read reaches a ONCE block at its home and returns data or registers a waiter. -/
  | homeLoad (r : Nat)
  /-- HOME_COVERING_STORE (R124). A store reaches a ONCE block at its home and covers its words, or is refused. -/
  | homeCoveringStore (r : Nat)
  /-- HOME_BFIN (R132). A bfin reaches the home and zero-fills the block's uncovered words. -/
  | homeBfin (r : Nat)
  /-- HOME_BHOLD (R283). A bhold reaches the home and is granted or queued. -/
  | homeBhold (r : Nat)
  /-- HOME_BARM (R130). A barm reaches the home and registers an arm waiter or sends a notice at once. -/
  | homeBarm (r : Nat)
  /-- HOME_CLEAR (R131). A bclr or bclr.g reaches the home and clears the block or traps CLEAR. -/
  | homeClear (r : Nat)
  /-- WAITER_WITHDRAWAL (R278). A withdrawal reaches the home and removes its waiter entry from the list. -/
  | waiterWithdrawal (blk : Nat) (waiter : Word)
  /-- HOLD_WITHDRAWAL (R269). A withdrawal of a pre-empted bhold removes its queued hold or ends its reservation. -/
  | holdWithdrawal (blk : Nat) (r : Nat)
  /-- POOL_BLOCK_FREED (R276). A pool block frees and the oldest request waiting for one proceeds. -/
  | poolBlockFreed (span : Nat)
  /-- BLOCK_POISONING (R282). An uncorrectable error or a failed holder poisons a block and releases its waiters with POISON. -/
  | blockPoisoning (blk : Nat)
  /-- GETS (R327). A load miss requests a sector in a shared state across the span. -/
  | gets (cluster : Nat) (sector : Nat)
  /-- GETM (R327). A store miss requests a sector in M. -/
  | getm (cluster : Nat) (sector : Nat)
  /-- UPG (R327). A store to a shared sector requests an upgrade to M. -/
  | upg (cluster : Nat) (sector : Nat)
  /-- WB (R327). An evicted M sector is written back. -/
  | wb (cluster : Nat) (sector : Nat)
  /-- RCL (R327). The span port recalls a sector from its holders. -/
  | rcl (span : Nat) (sector : Nat)
  /-- INV (R327). The span port invalidates a shared sector. -/
  | inv (span : Nat) (sector : Nat)
  /-- WRW (R332). A word-masked write to a window-held line recalls and invalidates the written words, then writes. -/
  | wrw (r : Nat)
  /-- WRITEBACK_ARRIVAL (R336). A write-back reaches the home and is applied if its version matches, or else cancelled. -/
  | writebackArrival (w : Nat)
  /-- RECALL_REPLY (R336). A holder's reply to a recall reaches the home and is applied with its in-flight words. -/
  | recallReply (w : Nat)
  /-- RECALL_TIMEOUT (R344). A recall unanswered for 2^24 ticks makes its holder fail. -/
  | recallTimeout (w : Nat)
  /-- HOLDER_FAILURE (R344). A holder with modified data fails, and its blocks are poisoned and logged. -/
  | holderFailure (holder : Nat)
  /-- ROW_ACTIVATION (R419). A channel counts a row activation, lists the row, spaces it, or refreshes its neighbours. -/
  | rowActivation (channel : Nat) (row : Nat)
  /-- REFRESH_WINDOW_END (R419). At the end of each 32 ms window, the throttling list and counts clear. -/
  | refreshWindowEnd (channel : Nat)
  /-- PLACEMENT_DECISION (R357). Every 32 ticks the distributor places the first fitting crew in priority order. -/
  | placementDecision (span : Nat)
  /-- CREW_RETIREMENT (R366). A crew retires when no thread, operation, copy or waiting entry of it remains, closing its windows. -/
  | crewRetirement (crew : Nat)
  /-- RELIEF (R360). After 2^16 ticks with every resident thread parked, the distributor pre-empts a consumer crew. -/
  | relief (span : Nat)
  /-- PREEMPTION_REQUEST (R387). Pre-emption is requested for a whole crew. -/
  | preemptionRequest (crew : Nat)
  /-- THREAD_STOP (R265). A thread reaches the boundary at which pre-emption stops it. -/
  | threadStop (t : Nat)
  /-- CONTEXT_SAVE (R389). Once every thread has stopped, windows are written back, engines drain and the save record is written. -/
  | contextSave (crew : Nat)
  /-- KILL_SCRUB_END (R386). After 64 ticks of scrubbing, a killed thread's slot becomes free. -/
  | killScrubEnd (t : Nat)
  /-- JOIN_NOTICE (R362). A notice of a joined launch's stage placement or retirement arrives over the causeway. -/
  | joinNotice (group : Nat) (home : Nat) (stage : Nat) (dev : Nat) (retired : Bool)
  /-- PACKET_TAKE (R350). A command processor takes the next valid packet of one of its queues. -/
  | packetTake (cp : Nat)
  /-- PROOF_RUN_RETIREMENT (R406). A proof or third run retires and its digest is compared, possibly reaching a verdict. -/
  | proofRunRetirement (crew : Nat)
  /-- JOURNAL_SPACE_FREED (R401). A verdict frees journal space and a journaled access waiting for it proceeds. -/
  | journalSpaceFreed (span : Nat)
  /-- ROW_REMAP (R374). Once the cluster has drained, the closed site passes through and the row's logical cores shift up. -/
  | rowRemap (site : Nat)
  /-- SITE_INJECTOR_WRITE (R369). Firmware writes a core site's test injector word. -/
  | siteInjectorWrite (site : Nat) (w : Word)
  /-- STRAIN_LIMIT_WRITE (R409). Firmware writes strain.limit, closing every site already at or above it. -/
  | strainLimitWrite (limit : Nat)
  /-- SITE_REOPEN (R409). An authenticated command sets a site's score to 0 and reopens it. -/
  | siteReopen (site : Nat) (auth : Bool)
  /-- FLIT_RECEIVE (R415). A causeway flit is received and accepted, or discarded with one nak per gap. -/
  | flitReceive (port : Nat) (seq : Nat) (typ : Nat) (crcOk : Bool) (payload : List Byte)
  /-- ACK (R415). An ack flit arrives and releases acknowledged flits from the replay buffer. -/
  | ack (port : Nat) (seq : Nat)
  /-- NAK (R415). A nak flit arrives, and the transmitter replays every unacknowledged flit from the named number. -/
  | nak (port : Nat) (seq : Nat)
  /-- ACK_TIMER (R415). 256 ticks after an accepted flit, the receiver sends a cumulative ack. -/
  | ackTimer (port : Nat)
  /-- RETRAIN (R415). After 8 consecutive replays of one flit, the port retrains. -/
  | retrain (port : Nat)
  /-- PORT_DOWN (R416). After four failed retrains, a port is down and its flits are resent elsewhere, or a device leaves the domain. -/
  | portDown (port : Nat)
  /-- LANE_INJECTOR_WRITE (R417). Firmware writes a causeway lane's injector word. -/
  | laneInjectorWrite (port : Nat) (lane : Nat) (w : Word)
  /-- ROUTE_TABLE_WRITE (R441). Firmware writes a route mask, which takes effect once earlier flits are acknowledged. -/
  | routeTableWrite (dev : Nat) (mask : BitVec 12)
  /-- NOTIFY (R424). A host write to a queue's notify register delivers a class-62 message to the serving command processor. -/
  | notify (iface : Nat) (j : Nat) (w : Word)
  /-- QCTL (R351). A host write of a queue's control word, clamped to prcap. -/
  | qctl (iface : Nat) (j : Nat) (w : Word)
  /-- QRING (R433). A host write sets a queue's ring descriptor and resets its read index. -/
  | qring (iface : Nat) (j : Nat) (w : Word)
  /-- QSTOP (R433). Writing 1 pre-empts every resident crew of the queue's launches. -/
  | qstop (iface : Nat) (j : Nat) (w : Word)
  /-- REGISTER_WRITE (R433). A write to a register with no behaviour of its own, such as apbase. -/
  | registerWrite (iface : Nat) (off : Nat) (w : Word)
  /-- HOST_READ (R431). A host read of device memory is performed in 16-byte parts, or refused. -/
  | hostRead (iface : Nat) (off : Nat) (n : Nat)
  /-- HOST_WRITE (R431). A host write is performed in 16-byte parts, covering ONCE words or being refused part by part. -/
  | hostWrite (iface : Nat) (off : Nat) (data : List Byte) (mask : List Bool)
  /-- HOST_SECTOR_REQUEST (R337). A CXL host requests a sector in S, E or M at the home. -/
  | hostSectorRequest (port : Nat) (sector : Nat) (kind : SectorState)
  /-- FUNCTION_LEVEL_RESET (R434). A function reset disables its queues, discards its crews and ends its launches without a signal. -/
  | functionLevelReset (iface : Nat)
  /-- CLAUNCH (R426). A firmware store submits a ring slot to acceptance, which checks the packet and creates a launch or rejects it. -/
  | claunch (cp : Nat) (w : Word)
  /-- CSTAT (R425). A firmware load returns the status and handle of its last claunch. -/
  | cstat (cp : Nat)
  /-- CDEC (R428). A firmware store of a handle decrements the launch's completion signal at system scope. -/
  | cdec (cp : Nat) (w : Word)
  /-- ATTESTATION_REQUEST (R440). A mailbox request with a nonce returns a signed attestation report. -/
  | attestationRequest (port : Nat) (nonce : BitVec 512)
  /-- KEY_LOAD (R438). Loads a wrapped key and its ranges into a key ID. -/
  | keyLoad (id : Nat) (key : BitVec 512) (ranges : List (Nat × Nat))
  /-- KEY_DESTROY (R438). Destroys a live key ID, dropping its data everywhere in one step. -/
  | keyDestroy (id : Nat)
  /-- KEY_CLEARING_DONE (R438). Every range of a clearing key ID has been cleared, so the ID becomes live. -/
  | keyClearingDone (id : Nat)
  /-- KEY_RELEASE (R438). Returns a dead or clearing key ID to FREE. -/
  | keyRelease (id : Nat)
  /-- PACKAGE_RESET (R439). Package reset runs the measured, signed boot chain and draws the keys. -/
  | packageReset
  /-- CHECKPOINT (R442). Copies the whole HBM4 to a buddy's refuge over the causeway. -/
  | checkpoint (buddy : Nat)
  /-- POWER_LIMIT_WRITE (R444). Firmware sets the package power limit. -/
  | powerLimitWrite (watts : Nat)
  /-- POWER_STEP_DOWN (R444). When the 10 ms average exceeds the limit, the device steps down one power state. -/
  | powerStepDown
  /-- POWER_STEP_UP (R444). After 100 ms below 90 % of the limit, the device steps up one power state. -/
  | powerStepUp
  /-- MEMORY_REPLY (R118). The reply of a non-relaxed or relaxed store, atomic, block instruction, scrub or record read arrives, any register write is performed and the waiting thread leaves WMEM or PBLK. -/
  | memoryReply (r : Nat)
  /-- TICK (R14). Each arithmetic-domain clock tick advances h31 and the counters of R38, runs the slot selection of R252, serves deck banks and ends YIELDED states. -/
  | tick
  /-- RETRAIN_COMPLETION (R415). A port retrain ends within 2^18 ticks, either bringing the port back to carrying flits or counting as a failed retrain toward PORT_DOWN. -/
  | retrainCompletion (port : Nat) (ok : Bool)
  /-- INJECTED_DELAY_EXPIRY (R417). The delay of a lane injector in mode 10 runs out and the held flit and every later flit of the port are released. -/
  | injectedDelayExpiry (port : Nat)
  /-- CHECKPOINT_RESTORE (R442). A restore copies a refuge image and its wrapped keys back onto a device and re-places the pending crews. -/
  | checkpointRestore (buddy : Nat)
  /-- MEASUREMENT_EXTENSION (R439). A signed command extends one of MEAS5 to MEAS7 at runtime. -/
  | measurementExtension (reg : Nat) (digest : BitVec 512) (signed : Bool)
  /-- CONFIGURATION_CHANGE (R440). A command signed by Herostad or the enrolled owner key changes the device configuration. -/
  | configurationChange (field : Nat) (value : Word) (signed : Bool)
  /-- ADD (R100). Writes A + B, modulo 2^64, to d. -/
  | add (d : RegField) (a : RegField) (b : RegField)
  /-- SUB (R100). Writes A − B to d. -/
  | sub (d : RegField) (a : RegField) (b : RegField)
  /-- AND (R100). Writes the bitwise AND of A and B to d. -/
  | and (d : RegField) (a : RegField) (b : RegField)
  /-- OR (R100). Writes the bitwise OR of A and B to d. -/
  | or (d : RegField) (a : RegField) (b : RegField)
  /-- XOR (R100). Writes the bitwise XOR of A and B to d. -/
  | xor (d : RegField) (a : RegField) (b : RegField)
  /-- ANDN (R100). Writes A AND NOT B to d. -/
  | andn (d : RegField) (a : RegField) (b : RegField)
  /-- ORN (R100). Writes A OR NOT B to d. -/
  | orn (d : RegField) (a : RegField) (b : RegField)
  /-- SLL (R100). Shifts A left by B[5:0] and writes the result to d. -/
  | sll (d : RegField) (a : RegField) (b : RegField)
  /-- SRL (R100). Shifts A right logically by B[5:0] and writes the result to d. -/
  | srl (d : RegField) (a : RegField) (b : RegField)
  /-- SRA (R100). Shifts A right arithmetically by B[5:0] and writes the result to d. -/
  | sra (d : RegField) (a : RegField) (b : RegField)
  /-- ROL (R100). Rotates A left by B[5:0] and writes the result to d. -/
  | rol (d : RegField) (a : RegField) (b : RegField)
  /-- ROR (R100). Rotates A right by B[5:0] and writes the result to d. -/
  | ror (d : RegField) (a : RegField) (b : RegField)
  /-- SLT (R100). Writes 1 to d if A < B signed, else 0. -/
  | slt (d : RegField) (a : RegField) (b : RegField)
  /-- SLTU (R100). Writes 1 to d if A < B unsigned, else 0. -/
  | sltu (d : RegField) (a : RegField) (b : RegField)
  /-- MIN (R100). Writes the signed minimum of A and B to d. -/
  | min (d : RegField) (a : RegField) (b : RegField)
  /-- MAX (R100). Writes the signed maximum of A and B to d. -/
  | max (d : RegField) (a : RegField) (b : RegField)
  /-- MINU (R100). Writes the unsigned minimum of A and B to d. -/
  | minu (d : RegField) (a : RegField) (b : RegField)
  /-- MAXU (R100). Writes the unsigned maximum of A and B to d. -/
  | maxu (d : RegField) (a : RegField) (b : RegField)
  /-- CMOV (R100). Writes A to d when B is non-zero, and otherwise leaves d unchanged. -/
  | cmov (d : RegField) (a : RegField) (b : RegField)
  /-- ADDW (R100). Writes the 32-bit sum of A and B, sign-extended, to d. -/
  | addw (d : RegField) (a : RegField) (b : RegField)
  /-- SUBW (R100). Writes the 32-bit difference of A and B, sign-extended, to d. -/
  | subw (d : RegField) (a : RegField) (b : RegField)
  /-- SLLW (R100). Writes the 32-bit left shift of A by B[4:0], sign-extended, to d. -/
  | sllw (d : RegField) (a : RegField) (b : RegField)
  /-- SRLW (R100). Writes the 32-bit logical right shift of A by B[4:0], sign-extended, to d. -/
  | srlw (d : RegField) (a : RegField) (b : RegField)
  /-- SRAW (R100). Writes the 32-bit arithmetic right shift of A by B[4:0], sign-extended, to d. -/
  | sraw (d : RegField) (a : RegField) (b : RegField)
  /-- MUL (R101). Writes the low 64 bits of A × B to d. -/
  | mul (d : RegField) (a : RegField) (b : RegField)
  /-- MULH (R101). Writes the high 64 bits of the signed product A × B to d. -/
  | mulh (d : RegField) (a : RegField) (b : RegField)
  /-- MULHU (R101). Writes the high 64 bits of the unsigned product A × B to d. -/
  | mulhu (d : RegField) (a : RegField) (b : RegField)
  /-- MULHSU (R101). Writes the high 64 bits of signed A times unsigned B to d. -/
  | mulhsu (d : RegField) (a : RegField) (b : RegField)
  /-- DIV (R101). Starts a signed 64-bit division; the thread leaves the rotation until the result is written. -/
  | div (d : RegField) (a : RegField) (b : RegField)
  /-- DIVU (R101). Starts an unsigned 64-bit division. -/
  | divu (d : RegField) (a : RegField) (b : RegField)
  /-- REM (R101). Starts a signed 64-bit remainder. -/
  | rem (d : RegField) (a : RegField) (b : RegField)
  /-- REMU (R101). Starts an unsigned 64-bit remainder. -/
  | remu (d : RegField) (a : RegField) (b : RegField)
  /-- MULW (R101). Writes the 32-bit product of A and B, sign-extended, to d. -/
  | mulw (d : RegField) (a : RegField) (b : RegField)
  /-- DIVW (R101). Starts a signed 32-bit division. -/
  | divw (d : RegField) (a : RegField) (b : RegField)
  /-- REMW (R101). Starts a signed 32-bit remainder. -/
  | remw (d : RegField) (a : RegField) (b : RegField)
  /-- POPC (R103). Writes the number of 1 bits in A to d. -/
  | popc (d : RegField) (a : RegField)
  /-- CLZ (R103). Writes the number of leading zero bits of A to d. -/
  | clz (d : RegField) (a : RegField)
  /-- CTZ (R103). Writes the number of trailing zero bits of A to d. -/
  | ctz (d : RegField) (a : RegField)
  /-- BREV (R103). Writes A with its bit order reversed to d. -/
  | brev (d : RegField) (a : RegField)
  /-- BSWAP (R103). Writes A with its byte order reversed to d. -/
  | bswap (d : RegField) (a : RegField)
  /-- BEXT (R104). Writes to d the bit field of A that the descriptor in B selects. -/
  | bext (d : RegField) (a : RegField) (b : RegField)
  /-- BINS (R104). Inserts the low bits of A into the field of d that the descriptor in B selects. -/
  | bins (d : RegField) (a : RegField) (b : RegField)
  /-- SEXT_B (R103). Writes A[7:0], sign-extended, to d. -/
  | sextB (d : RegField) (a : RegField)
  /-- SEXT_H (R103). Writes A[15:0], sign-extended, to d. -/
  | sextH (d : RegField) (a : RegField)
  /-- SEXT_W (R103). Writes A[31:0], sign-extended, to d. -/
  | sextW (d : RegField) (a : RegField)
  /-- ZEXT_B (R103). Writes A[7:0], zero-extended, to d. -/
  | zextB (d : RegField) (a : RegField)
  /-- ZEXT_H (R103). Writes A[15:0], zero-extended, to d. -/
  | zextH (d : RegField) (a : RegField)
  /-- ZEXT_W (R103). Writes A[31:0], zero-extended, to d. -/
  | zextW (d : RegField) (a : RegField)
  /-- LSB (R103). Writes the lowest 1 bit of A alone to d. -/
  | lsb (d : RegField) (a : RegField)
  /-- MSK (R103). Writes a mask of A low ones to d, or all ones when A is 64 or more. -/
  | msk (d : RegField) (a : RegField)
  /-- ADDI (R105). Writes A plus the sign-extended immediate to d. -/
  | addi (d : RegField) (a : RegField) (i : BitVec 13)
  /-- ANDI (R105). Writes A AND the sign-extended immediate to d. -/
  | andi (d : RegField) (a : RegField) (i : BitVec 13)
  /-- ORI (R105). Writes A OR the sign-extended immediate to d. -/
  | ori (d : RegField) (a : RegField) (i : BitVec 13)
  /-- XORI (R105). Writes A XOR the sign-extended immediate to d. -/
  | xori (d : RegField) (a : RegField) (i : BitVec 13)
  /-- SLTI (R105). Writes 1 to d if A is below the immediate, signed, else 0. -/
  | slti (d : RegField) (a : RegField) (i : BitVec 13)
  /-- SLTIU (R105). Writes 1 to d if A is below the sign-extended immediate, unsigned, else 0. -/
  | sltiu (d : RegField) (a : RegField) (i : BitVec 13)
  /-- ADDIW (R105). Writes the 32-bit sum of A and the immediate, sign-extended, to d. -/
  | addiw (d : RegField) (a : RegField) (i : BitVec 13)
  /-- SLLI (R105). Shifts A left by an immediate count and writes the result to d. -/
  | slli (d : RegField) (a : RegField) (s : BitVec 6)
  /-- SRLI (R105). Shifts A right logically by an immediate count. -/
  | srli (d : RegField) (a : RegField) (s : BitVec 6)
  /-- SRAI (R105). Shifts A right arithmetically by an immediate count. -/
  | srai (d : RegField) (a : RegField) (s : BitVec 6)
  /-- SLLIW (R105). Shifts A[31:0] left by an immediate count and sign-extends the result. -/
  | slliw (d : RegField) (a : RegField) (s : BitVec 5)
  /-- SRLIW (R105). Shifts A[31:0] right logically by an immediate count and sign-extends the result. -/
  | srliw (d : RegField) (a : RegField) (s : BitVec 5)
  /-- SRAIW (R105). Shifts A[31:0] right arithmetically by an immediate count and sign-extends the result. -/
  | sraiw (d : RegField) (a : RegField) (s : BitVec 5)
  /-- LUI (R106). Writes the sign-extended imm19 × 2^13 to d. -/
  | lui (d : RegField) (i : BitVec 19)
  /-- LPC (R106). Writes the unit's own PC plus imm19 × 2^13 to d. -/
  | lpc (d : RegField) (i : BitVec 19)
  /-- JAL (R107). Writes the link P + 4 to d and continues at the PC-relative target. -/
  | jal (d : RegField) (i : BitVec 19)
  /-- JALR (R108). Jumps to s(a) + imm, trapping SEG for a target above 2^57, and writes the link to d. -/
  | jalr (d : RegField) (a : RegField) (i : BitVec 13)
  /-- BEQ (R109). Branches when A = B. -/
  | beq (a : RegField) (b : RegField) (i : BitVec 13)
  /-- BNE (R109). Branches when A ≠ B. -/
  | bne (a : RegField) (b : RegField) (i : BitVec 13)
  /-- BLT (R109). Branches when A < B, signed. -/
  | blt (a : RegField) (b : RegField) (i : BitVec 13)
  /-- BGE (R109). Branches when A ≥ B, signed. -/
  | bge (a : RegField) (b : RegField) (i : BitVec 13)
  /-- BLTU (R109). Branches when A < B, unsigned. -/
  | bltu (a : RegField) (b : RegField) (i : BitVec 13)
  /-- BGEU (R109). Branches when A ≥ B, unsigned. -/
  | bgeu (a : RegField) (b : RegField) (i : BitVec 13)
  /-- BANY (R110). Branches when A AND B is non-zero. -/
  | bany (a : RegField) (b : RegField) (i : BitVec 10)
  /-- BALL (R110). Branches when every bit of B is set in A. -/
  | ball (a : RegField) (b : RegField) (i : BitVec 10)
  /-- BNONE (R110). Branches when A AND B is zero. -/
  | bnone (a : RegField) (b : RegField) (i : BitVec 10)
  /-- BBS (R110). Branches when bit n of A is 1. -/
  | bbs (a : RegField) (n : BitVec 6) (i : BitVec 10)
  /-- BBC (R110). Branches when bit n of A is 0. -/
  | bbc (a : RegField) (n : BitVec 6) (i : BitVec 10)
  /-- LD_B (R116). Loads a sign-extended byte through a segment at base + imm10. -/
  | ldB (d : RegField) (base : RegField) (seg : SegField) (imm : BitVec 10)
  /-- LD_BU (R116). Loads a zero-extended byte. -/
  | ldBu (d : RegField) (base : RegField) (seg : SegField) (imm : BitVec 10)
  /-- LD_H (R116). Loads a sign-extended halfword. -/
  | ldH (d : RegField) (base : RegField) (seg : SegField) (imm : BitVec 10)
  /-- LD_HU (R116). Loads a zero-extended halfword. -/
  | ldHu (d : RegField) (base : RegField) (seg : SegField) (imm : BitVec 10)
  /-- LD_W (R116). Loads a sign-extended word. -/
  | ldW (d : RegField) (base : RegField) (seg : SegField) (imm : BitVec 10)
  /-- LD_WU (R116). Loads a zero-extended word. -/
  | ldWu (d : RegField) (base : RegField) (seg : SegField) (imm : BitVec 10)
  /-- LD_D (R116). Loads a doubleword. -/
  | ldD (d : RegField) (base : RegField) (seg : SegField) (imm : BitVec 10)
  /-- ST_B (R116). Stores the low byte of data. -/
  | stB (d : RegField) (base : RegField) (seg : SegField) (imm : BitVec 10)
  /-- ST_H (R116). Stores the low halfword of data. -/
  | stH (d : RegField) (base : RegField) (seg : SegField) (imm : BitVec 10)
  /-- ST_W (R116). Stores the low word of data. -/
  | stW (d : RegField) (base : RegField) (seg : SegField) (imm : BitVec 10)
  /-- ST_D (R116). Stores a doubleword. -/
  | stD (d : RegField) (base : RegField) (seg : SegField) (imm : BitVec 10)
  /-- VLD (R116). Loads 16 bytes into a vector register. -/
  | vld (d : RegField) (base : RegField) (seg : SegField) (imm : BitVec 10)
  /-- VST (R116). Stores 16 bytes from a vector register. -/
  | vst (d : RegField) (base : RegField) (seg : SegField) (imm : BitVec 10)
  /-- LD_B_INDEXED (R116). Indexed form of ld.b, with offset base + index × size. -/
  | ldBIndexed (d : RegField) (base : RegField) (idx : RegField) (seg : SegField)
  /-- LD_BU_INDEXED (R116). Indexed form of ld.bu. -/
  | ldBuIndexed (d : RegField) (base : RegField) (idx : RegField) (seg : SegField)
  /-- LD_H_INDEXED (R116). Indexed form of ld.h. -/
  | ldHIndexed (d : RegField) (base : RegField) (idx : RegField) (seg : SegField)
  /-- LD_HU_INDEXED (R116). Indexed form of ld.hu. -/
  | ldHuIndexed (d : RegField) (base : RegField) (idx : RegField) (seg : SegField)
  /-- LD_W_INDEXED (R116). Indexed form of ld.w. -/
  | ldWIndexed (d : RegField) (base : RegField) (idx : RegField) (seg : SegField)
  /-- LD_WU_INDEXED (R116). Indexed form of ld.wu. -/
  | ldWuIndexed (d : RegField) (base : RegField) (idx : RegField) (seg : SegField)
  /-- LD_D_INDEXED (R116). Indexed form of ld.d. -/
  | ldDIndexed (d : RegField) (base : RegField) (idx : RegField) (seg : SegField)
  /-- ST_B_INDEXED (R116). Indexed form of st.b. -/
  | stBIndexed (d : RegField) (base : RegField) (idx : RegField) (seg : SegField)
  /-- ST_H_INDEXED (R116). Indexed form of st.h. -/
  | stHIndexed (d : RegField) (base : RegField) (idx : RegField) (seg : SegField)
  /-- ST_W_INDEXED (R116). Indexed form of st.w. -/
  | stWIndexed (d : RegField) (base : RegField) (idx : RegField) (seg : SegField)
  /-- ST_D_INDEXED (R116). Indexed form of st.d. -/
  | stDIndexed (d : RegField) (base : RegField) (idx : RegField) (seg : SegField)
  /-- VLD_INDEXED (R116). Indexed form of vld. -/
  | vldIndexed (d : RegField) (base : RegField) (idx : RegField) (seg : SegField)
  /-- VST_INDEXED (R116). Indexed form of vst. -/
  | vstIndexed (d : RegField) (base : RegField) (idx : RegField) (seg : SegField)
  /-- BWAIT (R128). Waits, as a park waiter at the home, until the block is FULL, or traps POISON. -/
  | bwait (base : RegField) (seg : SegField)
  /-- BHOLD (R129). Finds or awaits an empty, unreserved block, reserves it, and writes its generation. -/
  | bhold (d : RegField) (base : RegField) (seg : SegField)
  /-- BARM (R130). Registers an arm waiter that yields one block notice when the block is FULL or POISON. -/
  | barm (base : RegField) (idx : RegField) (seg : SegField)
  /-- BPOLL (R128). Writes the block's presence code to d. -/
  | bpoll (d : RegField) (base : RegField) (seg : SegField)
  /-- BGEN (R128). Writes the block's generation to d. -/
  | bgen (d : RegField) (base : RegField) (seg : SegField)
  /-- BCLR (R131). Clears a FULL block to EMPTY at the next generation. -/
  | bclr (base : RegField) (seg : SegField)
  /-- BCLR_G (R131). Clears a FULL block only if its generation matches the expected one. -/
  | bclrG (base : RegField) (idx : RegField) (seg : SegField)
  /-- BFIN (R132). Zeroes every uncovered word of the block and completes its fill. -/
  | bfin (base : RegField) (seg : SegField)
  /-- AMO_ADD_W (R134). Indivisibly adds x to a word in memory and returns the old value. -/
  | amoAddW (d : RegField) (base : RegField) (idx : RegField) (seg : SegField)
  /-- AMO_AND_W (R134). Indivisible word AND. -/
  | amoAndW (d : RegField) (base : RegField) (idx : RegField) (seg : SegField)
  /-- AMO_OR_W (R134). Indivisible word OR. -/
  | amoOrW (d : RegField) (base : RegField) (idx : RegField) (seg : SegField)
  /-- AMO_XOR_W (R134). Indivisible word XOR. -/
  | amoXorW (d : RegField) (base : RegField) (idx : RegField) (seg : SegField)
  /-- AMO_MIN_W (R134). Indivisible signed word minimum. -/
  | amoMinW (d : RegField) (base : RegField) (idx : RegField) (seg : SegField)
  /-- AMO_MAX_W (R134). Indivisible signed word maximum. -/
  | amoMaxW (d : RegField) (base : RegField) (idx : RegField) (seg : SegField)
  /-- AMO_MINU_W (R134). Indivisible unsigned word minimum. -/
  | amoMinuW (d : RegField) (base : RegField) (idx : RegField) (seg : SegField)
  /-- AMO_MAXU_W (R134). Indivisible unsigned word maximum. -/
  | amoMaxuW (d : RegField) (base : RegField) (idx : RegField) (seg : SegField)
  /-- AMO_SWAP_W (R134). Indivisible word swap. -/
  | amoSwapW (d : RegField) (base : RegField) (idx : RegField) (seg : SegField)
  /-- AMO_CAS_W (R134). Indivisible word compare-and-swap. -/
  | amoCasW (d : RegField) (base : RegField) (idx : RegField) (seg : SegField)
  /-- AMO_FADD_W (R134). Indivisible FP32 add with fixed rounding to nearest. -/
  | amoFaddW (d : RegField) (base : RegField) (idx : RegField) (seg : SegField)
  /-- AMO_INC_W (R134). Indivisible bounded word increment that wraps to 0 at the bound. -/
  | amoIncW (d : RegField) (base : RegField) (idx : RegField) (seg : SegField)
  /-- AMO_ADD_D (R134). Indivisible doubleword add. -/
  | amoAddD (d : RegField) (base : RegField) (idx : RegField) (seg : SegField)
  /-- AMO_AND_D (R134). Indivisible doubleword AND. -/
  | amoAndD (d : RegField) (base : RegField) (idx : RegField) (seg : SegField)
  /-- AMO_OR_D (R134). Indivisible doubleword OR. -/
  | amoOrD (d : RegField) (base : RegField) (idx : RegField) (seg : SegField)
  /-- AMO_XOR_D (R134). Indivisible doubleword XOR. -/
  | amoXorD (d : RegField) (base : RegField) (idx : RegField) (seg : SegField)
  /-- AMO_MIN_D (R134). Indivisible signed doubleword minimum. -/
  | amoMinD (d : RegField) (base : RegField) (idx : RegField) (seg : SegField)
  /-- AMO_MAX_D (R134). Indivisible signed doubleword maximum. -/
  | amoMaxD (d : RegField) (base : RegField) (idx : RegField) (seg : SegField)
  /-- AMO_MINU_D (R134). Indivisible unsigned doubleword minimum. -/
  | amoMinuD (d : RegField) (base : RegField) (idx : RegField) (seg : SegField)
  /-- AMO_MAXU_D (R134). Indivisible unsigned doubleword maximum. -/
  | amoMaxuD (d : RegField) (base : RegField) (idx : RegField) (seg : SegField)
  /-- AMO_SWAP_D (R134). Indivisible doubleword swap. -/
  | amoSwapD (d : RegField) (base : RegField) (idx : RegField) (seg : SegField)
  /-- AMO_CAS_D (R134). Indivisible doubleword compare-and-swap. -/
  | amoCasD (d : RegField) (base : RegField) (idx : RegField) (seg : SegField)
  /-- AMO_INC_D (R134). Indivisible bounded doubleword increment. -/
  | amoIncD (d : RegField) (base : RegField) (idx : RegField) (seg : SegField)
  /-- FENCE_ACQ (R145). Waits until every earlier relaxed load and atomic of the thread has returned. -/
  | fenceAcq (s : Scope)
  /-- FENCE_REL (R145). Waits until every earlier store and atomic of the thread is performed at the scope. -/
  | fenceRel (s : Scope)
  /-- FENCE_FULL (R145). Waits for both the acquire and the release conditions. -/
  | fenceFull (s : Scope)
  /-- RLX (R137). Prefix that lets the following access issue without waiting for its reply. -/
  | rlx
  /-- REP (R141). Prefix that runs the following instruction count times, one iteration per turn, stepping its destination. -/
  | rep (count : BitVec 6) (stride : BitVec 5)
  /-- C_ADDI (R83). Compact addi. -/
  | cAddi (d : CReg) (a : CReg) (i : BitVec 5)
  /-- C_LI (R83). Compact load immediate. -/
  | cLi (d : CReg) (i : BitVec 8)
  /-- C_MV (R83). Compact register move. -/
  | cMv (d : CReg) (a : CReg)
  /-- C_ADD (R83). Compact add of a into d. -/
  | cAdd (d : CReg) (a : CReg)
  /-- C_SUB (R83). Compact subtract of a from d. -/
  | cSub (d : CReg) (a : CReg)
  /-- C_AND (R83). Compact AND of a into d. -/
  | cAnd (d : CReg) (a : CReg)
  /-- C_SLLI (R112). Compact left shift of d by an immediate count. -/
  | cSlli (d : CReg) (s : BitVec 6)
  /-- C_SRLI (R112). Compact logical right shift of d by an immediate count. -/
  | cSrli (d : CReg) (s : BitVec 6)
  /-- C_BEQZ (R112). Compact branch when a′ is zero. -/
  | cBeqz (a : CReg) (o : BitVec 7)
  /-- C_BNEZ (R112). Compact branch when a′ is non-zero. -/
  | cBnez (a : CReg) (o : BitVec 7)
  /-- C_LD_D (R83). Compact doubleword load through m1. -/
  | cLdD (d : CReg) (a : CReg) (i : BitVec 5)
  /-- C_ST_D (R83). Compact doubleword store through m1. -/
  | cStD (d : CReg) (a : CReg) (i : BitVec 5)
  /-- C_VLD (R83). Compact vector load through m1. -/
  | cVld (d : CReg) (a : CReg) (i : BitVec 5)
  /-- C_VST (R83). Compact vector store through m1. -/
  | cVst (d : CReg) (a : CReg) (i : BitVec 5)
  /-- C_J (R83). Compact jump with no link. -/
  | cJ (o : BitVec 11)
  /-- VADD (R163). Lane-wise integer add. -/
  | vadd (d : RegField) (a : RegField) (b : RegField) (w : Width)
  /-- VSUB (R163). Lane-wise integer subtract. -/
  | vsub (d : RegField) (a : RegField) (b : RegField) (w : Width)
  /-- VADDS (R163). Lane-wise signed saturating add. -/
  | vadds (d : RegField) (a : RegField) (b : RegField) (w : Width)
  /-- VADDSU (R163). Lane-wise unsigned saturating add. -/
  | vaddsu (d : RegField) (a : RegField) (b : RegField) (w : Width)
  /-- VSUBS (R163). Lane-wise signed saturating subtract. -/
  | vsubs (d : RegField) (a : RegField) (b : RegField) (w : Width)
  /-- VSUBSU (R163). Lane-wise unsigned saturating subtract. -/
  | vsubsu (d : RegField) (a : RegField) (b : RegField) (w : Width)
  /-- VMUL (R163). Lane-wise low product. -/
  | vmul (d : RegField) (a : RegField) (b : RegField) (w : Width)
  /-- VMULH (R163). Lane-wise signed high product. -/
  | vmulh (d : RegField) (a : RegField) (b : RegField) (w : Width)
  /-- VMULHU (R163). Lane-wise unsigned high product. -/
  | vmulhu (d : RegField) (a : RegField) (b : RegField) (w : Width)
  /-- VMIN (R163). Lane-wise signed minimum. -/
  | vmin (d : RegField) (a : RegField) (b : RegField) (w : Width)
  /-- VMINU (R163). Lane-wise unsigned minimum. -/
  | vminu (d : RegField) (a : RegField) (b : RegField) (w : Width)
  /-- VMAX (R163). Lane-wise signed maximum. -/
  | vmax (d : RegField) (a : RegField) (b : RegField) (w : Width)
  /-- VMAXU (R163). Lane-wise unsigned maximum. -/
  | vmaxu (d : RegField) (a : RegField) (b : RegField) (w : Width)
  /-- VABSD (R163). Lane-wise absolute difference. -/
  | vabsd (d : RegField) (a : RegField) (b : RegField) (w : Width)
  /-- VAVGU (R163). Lane-wise rounded unsigned average. -/
  | vavgu (d : RegField) (a : RegField) (b : RegField) (w : Width)
  /-- VAND (R164). Bitwise AND of two vectors. -/
  | vand (d : RegField) (a : RegField) (b : RegField)
  /-- VOR (R164). Bitwise OR of two vectors. -/
  | vor (d : RegField) (a : RegField) (b : RegField)
  /-- VXOR (R164). Bitwise XOR of two vectors. -/
  | vxor (d : RegField) (a : RegField) (b : RegField)
  /-- VANDN (R164). Bitwise a AND NOT b. -/
  | vandn (d : RegField) (a : RegField) (b : RegField)
  /-- VBSL (R164). Bitwise select of a or b under the bits of d. -/
  | vbsl (d : RegField) (a : RegField) (b : RegField)
  /-- VSLL (R164). Lane-wise left shift by lane counts. -/
  | vsll (d : RegField) (a : RegField) (b : RegField) (w : Width)
  /-- VSRL (R164). Lane-wise logical right shift by lane counts. -/
  | vsrl (d : RegField) (a : RegField) (b : RegField) (w : Width)
  /-- VSRA (R164). Lane-wise arithmetic right shift by lane counts. -/
  | vsra (d : RegField) (a : RegField) (b : RegField) (w : Width)
  /-- VSLLI (R164). Lane-wise left shift by an immediate. -/
  | vslli (d : RegField) (a : RegField) (k : BitVec 6) (w : Width)
  /-- VSRLI (R164). Lane-wise logical right shift by an immediate. -/
  | vsrli (d : RegField) (a : RegField) (k : BitVec 6) (w : Width)
  /-- VSRAI (R164). Lane-wise arithmetic right shift by an immediate. -/
  | vsrai (d : RegField) (a : RegField) (k : BitVec 6) (w : Width)
  /-- VCEQ (R165). Writes a mask of lanes that are equal. -/
  | vceq (d : RegField) (a : RegField) (b : RegField) (w : Width)
  /-- VCNE (R165). Writes a mask of lanes that differ. -/
  | vcne (d : RegField) (a : RegField) (b : RegField) (w : Width)
  /-- VCLT (R165). Writes a mask of signed less-than lanes. -/
  | vclt (d : RegField) (a : RegField) (b : RegField) (w : Width)
  /-- VCLTU (R165). Writes a mask of unsigned less-than lanes. -/
  | vcltu (d : RegField) (a : RegField) (b : RegField) (w : Width)
  /-- VCLE (R165). Writes a mask of signed less-or-equal lanes. -/
  | vcle (d : RegField) (a : RegField) (b : RegField) (w : Width)
  /-- VCLEU (R165). Writes a mask of unsigned less-or-equal lanes. -/
  | vcleu (d : RegField) (a : RegField) (b : RegField) (w : Width)
  /-- VFCEQ (R165). Writes a mask of floating-point equal lanes. -/
  | vfceq (d : RegField) (a : RegField) (b : RegField) (t : FType)
  /-- VFCNE (R165). Writes a mask of lanes that are not floating-point equal. -/
  | vfcne (d : RegField) (a : RegField) (b : RegField) (t : FType)
  /-- VFCLT (R165). Writes a mask of ordered floating-point less-than lanes. -/
  | vfclt (d : RegField) (a : RegField) (b : RegField) (t : FType)
  /-- VFCLE (R165). Writes a mask of ordered floating-point less-or-equal lanes. -/
  | vfcle (d : RegField) (a : RegField) (b : RegField) (t : FType)
  /-- VFCUN (R165). Writes a mask of unordered lanes. -/
  | vfcun (d : RegField) (a : RegField) (b : RegField) (t : FType)
  /-- VSHUF (R166). Selects lanes of a by the indices in b. -/
  | vshuf (d : RegField) (a : RegField) (b : RegField) (w : Width)
  /-- VZIPL (R166). Interleaves the low halves of a and b. -/
  | vzipl (d : RegField) (a : RegField) (b : RegField) (w : Width)
  /-- VZIPH (R166). Interleaves the high halves of a and b. -/
  | vziph (d : RegField) (a : RegField) (b : RegField) (w : Width)
  /-- VUNZIPE (R166). Gathers the even lanes of a and b. -/
  | vunzipe (d : RegField) (a : RegField) (b : RegField) (w : Width)
  /-- VUNZIPO (R166). Gathers the odd lanes of a and b. -/
  | vunzipo (d : RegField) (a : RegField) (b : RegField) (w : Width)
  /-- VREV (R166). Reverses the lane order of a. -/
  | vrev (d : RegField) (a : RegField) (w : Width)
  /-- VPACKS (R166). Narrows a and b with signed saturation. -/
  | vpacks (d : RegField) (a : RegField) (b : RegField) (w : Width)
  /-- VPACKSU (R166). Narrows a and b with unsigned saturation. -/
  | vpacksu (d : RegField) (a : RegField) (b : RegField) (w : Width)
  /-- VWIDENL (R166). Sign-extends the low lanes of a. -/
  | vwidenl (d : RegField) (a : RegField) (w : Width)
  /-- VWIDENH (R166). Sign-extends the high lanes of a. -/
  | vwidenh (d : RegField) (a : RegField) (w : Width)
  /-- VWIDENLU (R166). Zero-extends the low lanes of a. -/
  | vwidenlu (d : RegField) (a : RegField) (w : Width)
  /-- VWIDENHU (R166). Zero-extends the high lanes of a. -/
  | vwidenhu (d : RegField) (a : RegField) (w : Width)
  /-- VFADD (R167). Lane-wise rounded floating-point add. -/
  | vfadd (d : RegField) (a : RegField) (b : RegField) (t : FType)
  /-- VFSUB (R167). Lane-wise rounded floating-point subtract. -/
  | vfsub (d : RegField) (a : RegField) (b : RegField) (t : FType)
  /-- VFMUL (R167). Lane-wise rounded floating-point multiply. -/
  | vfmul (d : RegField) (a : RegField) (b : RegField) (t : FType)
  /-- VFMIN (R167). Lane-wise floating-point minimum. -/
  | vfmin (d : RegField) (a : RegField) (b : RegField) (t : FType)
  /-- VFMAX (R167). Lane-wise floating-point maximum. -/
  | vfmax (d : RegField) (a : RegField) (b : RegField) (t : FType)
  /-- VFABS (R167). Clears the sign bit of each lane. -/
  | vfabs (d : RegField) (a : RegField) (t : FType)
  /-- VFNEG (R167). Inverts the sign bit of each lane. -/
  | vfneg (d : RegField) (a : RegField) (t : FType)
  /-- VFROUND (R167). Rounds each lane to an integral value under fmode.rm. -/
  | vfround (d : RegField) (a : RegField) (t : FType)
  /-- VFMA (R168). Fused d + a × b with one rounding, optionally broadcasting a lane of b. -/
  | vfma (d : RegField) (a : RegField) (b : RegField) (l : BitVec 3) (bc : Bool) (t : FType)
  /-- VFMS (R168). Fused d − a × b with one rounding. -/
  | vfms (d : RegField) (a : RegField) (b : RegField) (l : BitVec 3) (bc : Bool) (t : FType)
  /-- VCVT_F16_F32 (R170). Narrows four FP32 lanes into a part of FP16 elements. -/
  | vcvtF16F32 (d : RegField) (a : RegField) (p : BitVec 3)
  /-- VCVT_BF16_F32 (R170). Narrows four FP32 lanes into a part of BF16 elements. -/
  | vcvtBf16F32 (d : RegField) (a : RegField) (p : BitVec 3)
  /-- VCVT_E4M3_F32 (R170). Scaled narrowing of FP32 lanes into E4M3. -/
  | vcvtE4m3F32 (d : RegField) (a : RegField) (b : RegField) (p : BitVec 3)
  /-- VCVT_E5M2_F32 (R170). Scaled narrowing of FP32 lanes into E5M2. -/
  | vcvtE5m2F32 (d : RegField) (a : RegField) (b : RegField) (p : BitVec 3)
  /-- VCVT_E2M1_F32 (R170). Scaled narrowing of FP32 lanes into E2M1. -/
  | vcvtE2m1F32 (d : RegField) (a : RegField) (b : RegField) (p : BitVec 3)
  /-- VCVT_F16_F32_SAT (R170). Saturating narrowing into FP16. -/
  | vcvtF16F32Sat (d : RegField) (a : RegField) (p : BitVec 3)
  /-- VCVT_BF16_F32_SAT (R170). Saturating narrowing into BF16. -/
  | vcvtBf16F32Sat (d : RegField) (a : RegField) (p : BitVec 3)
  /-- VCVT_E4M3_F32_SAT (R170). Saturating scaled narrowing into E4M3. -/
  | vcvtE4m3F32Sat (d : RegField) (a : RegField) (b : RegField) (p : BitVec 3)
  /-- VCVT_E5M2_F32_SAT (R170). Saturating scaled narrowing into E5M2. -/
  | vcvtE5m2F32Sat (d : RegField) (a : RegField) (b : RegField) (p : BitVec 3)
  /-- VCVT_E2M1_F32_SAT (R170). Saturating scaled narrowing into E2M1. -/
  | vcvtE2m1F32Sat (d : RegField) (a : RegField) (b : RegField) (p : BitVec 3)
  /-- VCVT_F32_F16 (R171). Widens a part of FP16 elements to FP32. -/
  | vcvtF32F16 (d : RegField) (a : RegField) (p : BitVec 3)
  /-- VCVT_F32_BF16 (R171). Widens a part of BF16 elements to FP32. -/
  | vcvtF32Bf16 (d : RegField) (a : RegField) (p : BitVec 3)
  /-- VCVT_F32_E4M3 (R171). Scaled widening of E4M3 elements to FP32. -/
  | vcvtF32E4m3 (d : RegField) (a : RegField) (b : RegField) (p : BitVec 3)
  /-- VCVT_F32_E5M2 (R171). Scaled widening of E5M2 elements to FP32. -/
  | vcvtF32E5m2 (d : RegField) (a : RegField) (b : RegField) (p : BitVec 3)
  /-- VCVT_F32_E2M1 (R171). Scaled widening of E2M1 elements to FP32. -/
  | vcvtF32E2m1 (d : RegField) (a : RegField) (b : RegField) (p : BitVec 3)
  /-- VCVT_I32_F32 (R172). Rounds FP32 lanes to INT32. -/
  | vcvtI32F32 (d : RegField) (a : RegField)
  /-- VCVT_F32_I32 (R172). Rounds INT32 lanes to FP32. -/
  | vcvtF32I32 (d : RegField) (a : RegField)
  /-- VRSUM (R173). Sums the sign-extended lanes into a scalar. -/
  | vrsum (d : RegField) (a : RegField) (w : Width)
  /-- VRSUMU (R173). Sums the zero-extended lanes into a scalar. -/
  | vrsumu (d : RegField) (a : RegField) (w : Width)
  /-- VRMIN (R173). Writes the signed minimum lane. -/
  | vrmin (d : RegField) (a : RegField) (w : Width)
  /-- VRMINU (R173). Writes the unsigned minimum lane. -/
  | vrminu (d : RegField) (a : RegField) (w : Width)
  /-- VRMAX (R173). Writes the signed maximum lane. -/
  | vrmax (d : RegField) (a : RegField) (w : Width)
  /-- VRMAXU (R173). Writes the unsigned maximum lane. -/
  | vrmaxu (d : RegField) (a : RegField) (w : Width)
  /-- VFRSUM (R174). Floating-point tree sum of the lanes. -/
  | vfrsum (d : RegField) (a : RegField) (t : FType)
  /-- VFRMIN (R173). Floating-point minimum of the lanes. -/
  | vfrmin (d : RegField) (a : RegField) (t : FType)
  /-- VFRMAX (R173). Floating-point maximum of the lanes. -/
  | vfrmax (d : RegField) (a : RegField) (t : FType)
  /-- VMV (R175). Copies a vector register. -/
  | vmv (d : RegField) (a : RegField)
  /-- VBCST (R175). Broadcasts a scalar into every lane. -/
  | vbcst (d : RegField) (a : RegField) (w : Width)
  /-- VINS (R175). Inserts a scalar into lane L. -/
  | vins (d : RegField) (a : RegField) (l : BitVec 5) (w : Width)
  /-- VEXTR (R175). Extracts lane L, sign-extended, into a scalar. -/
  | vextr (d : RegField) (a : RegField) (l : BitVec 5) (w : Width)
  /-- VEXTRU (R175). Extracts lane L, zero-extended, into a scalar. -/
  | vextru (d : RegField) (a : RegField) (l : BitVec 5) (w : Width)
  /-- VMEXP (R175). Expands a scalar mask into lane selectors. -/
  | vmexp (d : RegField) (a : RegField) (w : Width)
  /-- VFRCP (R176). Starts a correctly rounded FP32 reciprocal. -/
  | vfrcp (d : RegField) (a : RegField)
  /-- VFRSQ (R176). Starts a correctly rounded FP32 reciprocal square root. -/
  | vfrsq (d : RegField) (a : RegField)
  /-- VFEXP2 (R176). Starts a correctly rounded FP32 power of two. -/
  | vfexp2 (d : RegField) (a : RegField)
  /-- VFLOG2 (R176). Starts a correctly rounded FP32 base-2 logarithm. -/
  | vflog2 (d : RegField) (a : RegField)
  /-- VFDIV (R176). Starts a correctly rounded FP32 division. -/
  | vfdiv (d : RegField) (a : RegField) (b : RegField)
  /-- VFSQRT (R176). Starts a correctly rounded FP32 square root. -/
  | vfsqrt (d : RegField) (a : RegField)
  /-- MX_CFG (R183). Sets the matrix engine's configuration word. -/
  | mxCfg (a : RegField)
  /-- MX_RING (R184). Writes a ring descriptor and resets its slots, after the ring's operations and copies are done. -/
  | mxRing (a : RegField) (n : BitVec 2)
  /-- MX_ZERO (R189). Queues an operation that zeroes an accumulator and sets its type tag. -/
  | mxZero (acc : BitVec 2) (int : Bool)
  /-- MX_MMA (R190). Queues one matrix step from the heads of two rings into an accumulator. -/
  | mxMma (acc : BitVec 2) (ra : BitVec 2) (rb : BitVec 2) (ka : Bool) (kb : Bool) (ret : Bool)
  /-- MX_MMA4 (R190). Queues four steps that reuse one A tile across four B tiles into a0 to a3. -/
  | mxMma4 (ra : BitVec 2) (rb : BitVec 2) (ka : Bool) (kb : Bool) (ret : Bool)
  /-- MX_SCALE (R188). Reads the A and B MX scale blocks into the scale buffer. -/
  | mxScale (a : RegField) (b : RegField)
  /-- MX_DRAIN (R194). Queues an operation that converts an accumulator and writes its rows through a segment. -/
  | mxDrain (acc : BitVec 2) (a : RegField) (b : RegField) (clr : Bool) (ret : Bool)
  /-- MX_LOAD (R189). Queues an operation that loads 16 rows into an accumulator. -/
  | mxLoad (acc : BitVec 2) (a : RegField) (b : RegField) (int : Bool)
  /-- MX_PUSH (R185). Claims the tail slot of a ring as ready, releasing the thread's deck writes. -/
  | mxPush (n : BitVec 2)
  /-- MX_POP (R185). Discards the tile at the head of a ring. -/
  | mxPop (n : BitVec 2)
  /-- CP_IN (R197). Issues a copy of one tensor box from global memory into the deck or a ring slot. -/
  | cpIn (d : RegField) (a : RegField) (b : RegField) (ring : Bool) (ret : Bool)
  /-- CP_OUT (R202). Issues a copy of a box from the deck to its tensor in global memory. -/
  | cpOut (d : RegField) (a : RegField) (b : RegField) (sys : Bool) (ret : Bool)
  /-- CP_DD (R201). Issues a copy of a deck range to another deck range. -/
  | cpDd (d : RegField) (a : RegField) (b : RegField) (ret : Bool)
  /-- CP_GATHER (R203). Issues a copy of rows chosen by an index list. -/
  | cpGather (d : RegField) (a : RegField) (b : RegField) (ring : Bool) (ret : Bool)
  /-- CP_PF (R204). Prefetches a box's in-tensor bytes into the cluster cache. -/
  | cpPf (a : RegField) (b : RegField)
  /-- SM_BIND (R210). Reads a stream record, checks it, and binds a vector register to the stream. -/
  | smBind (d : BitVec 5) (a : RegField)
  /-- SM_FREE (R213). Ends a stream binding and discards its units. -/
  | smFree (d : BitVec 5)
  /-- SM_SKIP (R213). Discards the next s(a) units of a stream. -/
  | smSkip (d : BitVec 5) (a : RegField)
  /-- TB_INIT (R207). Waits for psect 0, then sets init and parr and clears the barrier. -/
  | tbInit (a : RegField) (b : RegField)
  /-- TB_ARRIVE (R207). Returns the phase and counts an arrival on a transaction barrier. -/
  | tbArrive (d : RegField) (a : RegField)
  /-- TB_WAIT (R207). Waits until the phase differs from the token, then traps ASYNC if the barrier is poisoned. -/
  | tbWait (a : RegField) (b : RegField)
  /-- TB_TEST (R207). Writes whether the phase differs from the token. -/
  | tbTest (d : RegField) (a : RegField) (b : RegField)
  /-- WIN_OPEN (R214). Opens a cluster window over a global range, with every mask at 0. -/
  | winOpen (a : RegField) (b : RegField) (w : BitVec 3) (seg : SegField)
  /-- WIN_FLUSH (R215). Writes back every dirty word of a window and waits until they are performed. -/
  | winFlush (w : BitVec 3)
  /-- WIN_CLOSE (R216). Flushes a window and then closes it. -/
  | winClose (w : BitVec 3)
  /-- WIN_DROP (R216). Closes a window and discards its dirty words. -/
  | winDrop (w : BitVec 3)
  /-- SEQ_CFG (R219). Loads a nest record into the core's loop sequencer. -/
  | seqCfg (a : RegField)
  /-- SEQ_START (R220). Starts the configured nest with P permits. -/
  | seqStart (a : RegField)
  /-- SEQ_STOP (R221). Stops the sequencer, discarding its queue and its held-out tokens. -/
  | seqStop
  /-- SEQ_RET (R221). Returns the token in the permit latch. -/
  | seqRet
  /-- SPAWN (R223). Starts a thread of the crew in the lowest free slot, or writes all ones when no slot is free. -/
  | spawn (d : RegField) (a : RegField) (b : RegField)
  /-- EXIT (R224). Completes the thread's relaxed accesses, releases its claims and latches, and frees its slot. -/
  | exit
  /-- YIELD (R226). Gives up the thread's next own turn. -/
  | yield
  /-- PARK (R227). Consumes the wake token, or waits for it with an optional timeout. -/
  | park (d : RegField) (a : RegField)
  /-- WAKE (R227). Sends a wake toward a named thread of the launch. -/
  | wake (a : RegField)
  /-- FUSE (R228). Waits at a rendezvous and then joins the thread into a gang of 2 or 4. -/
  | fuse (d : RegField) (a : RegField)
  /-- SPLIT (R229). Ends the gang of the issuing thread. -/
  | split
  /-- SEND (R231). Forms a message from the send word and payload and hands it to the network. -/
  | send (a : RegField) (b : RegField)
  /-- RECV (R232). Claims the oldest qualifying waiting-only entry, waiting until one exists. -/
  | recv (d : RegField) (a : RegField)
  /-- RECVP (R232). Claims a qualifying entry, or writes 0 without waiting. -/
  | recvp (d : RegField) (a : RegField)
  /-- MIG (R233). Sends the thread's PC and s1 to s8 as a message and ends the thread. -/
  | mig (a : RegField)
  /-- BAR_INIT (R235). Sets the expected count of a named barrier. -/
  | barInit (a : RegField) (n : BitVec 8)
  /-- BAR_ARRIVE (R235). Waits for earlier stores, then arrives at a named barrier and returns the phase. -/
  | barArrive (d : RegField) (n : BitVec 8)
  /-- BAR_WAIT (R235). Waits until the named barrier's phase differs from the token. -/
  | barWait (a : RegField) (n : BitVec 8)
  /-- BAR_SYNC (R235). Arrives at a named barrier and waits for its toggle. -/
  | barSync (n : BitVec 8)
  /-- WFE (R236). Consumes a pending event, or waits for one. -/
  | wfe
  /-- SEV (R236). Sends events to the masked slots of a core. -/
  | sev (a : RegField)
  /-- CSRR (R238). Reads a CSR into d. -/
  | csrr (d : RegField) (csr : BitVec 12)
  /-- CSRW (R238). Writes a CSR. -/
  | csrw (x : RegField) (csr : BitVec 12)
  /-- CSRS (R238). Sets bits of a CSR. -/
  | csrs (x : RegField) (csr : BitVec 12)
  /-- CSRC (R238). Clears bits of a CSR. -/
  | csrc (x : RegField) (csr : BitVec 12)
  /-- TRAP (R239). Completes and raises SYSCALL with its code. -/
  | trap (k : BitVec 12)
  /-- BRK (R239). Completes and raises BRK. -/
  | brk
  /-- ERET (R240). Leaves a handler and continues at tepc. -/
  | eret
  /-- SEGW (R241). Narrows a segment register of the thread. -/
  | segw (a : RegField) (b : RegField) (c : RegField) (seg : SegField)
  /-- TLBINV (R242). Removes translations and waits until the removal and earlier walks are done. -/
  | tlbinv (a : RegField) (b : RegField)
  /-- SCRUB (R243). Reads and corrects each doubleword of a TCM or deck range. -/
  | scrub (a : RegField) (b : RegField) (seg : SegField)
  /-- TWIN_ON (R244). Pairs the thread with its partner in lockstep twin mode after a rendezvous. -/
  | twinOn (d : RegField)
  /-- TWIN_OFF (R245). A check point that ends twin mode in both threads. -/
  | twinOff
deriving DecidableEq, Repr

end Sys2Proof
end

