-- ==== Sys2Proof/Machine/State.lean ====
section
/-! DEFINITION. The state of one package as plain data: threads, cores, clusters, homes, launches, hosts,
links, keys and memory, with what is in flight between them; the reasons a step can stop; the state after
package reset. -/

namespace Sys2Proof.Machine

/-- Why the machine stops. Raised nowhere a spec rule gives an effect. -/
inductive Fault where
  /-- An access to a local physical address that names nothing (R436): raised by the accesses and the instruction fetches
  of command-processor threads through the fixed map. Safe: the spec gives no outcome. -/
  | addressNamesNothing (addr : Nat)
deriving DecidableEq, Repr

/-- Why the model gives no next state. -/
inductive Refusal where
  /-- An instruction that has no meaning yet: raised by `exec` alone. Safe. -/
  | notModelled (mnemonic : String)
deriving DecidableEq, Repr

/-- The state of a thread slot (R250). -/
inductive SlotState where
  | free | ready | yielded | wmem | wmx | wsfu | pblk | wsync | pfault | stopping | killed
deriving DecidableEq, Repr, Inhabited

/-- The space of a segment (R39). -/
inductive Space where
  | tcm | deck | global | peer
deriving DecidableEq, Repr, Inhabited

/-- A segment register (R39). -/
structure Seg where
  base : BitVec 57 := 0
  length : BitVec 57 := 0
  space : Space := .tcm
  x : Bool := false
  w : Bool := false
  rd : Bool := false
deriving DecidableEq, Repr, Inhabited

/-- The cause codes of R375. -/
inductive Cause where
  | illegal | priv | align | seg | page | once2 | clear | poison | rep | port | async | deadkey | twin
  | verify | regpoison | brk | syscall | ring
deriving DecidableEq, Repr, Inhabited

/-- An operand latch: the vector register it records, its hold bit and its value (R247, R390); whether it holds an uncorrectable
error (R385). -/
structure Latch where
  reg : BitVec 6 := 0
  hold : Bool := false
  value : VWord := 0
  bad : Bool := false
deriving DecidableEq, Repr, Inhabited

/-- `repc` (R35). -/
structure RepC where
  act : Bool := false
  done : BitVec 6 := 0
  left : BitVec 6 := 0
deriving DecidableEq, Repr, Inhabited

/-- What a unit that cannot issue yet waits for. Nothing has been consumed (R446). -/
inductive Cond where
  /-- one entry more than stood in the scalar (or vector) queue from a direction when the unit could not issue (R22) -/
  | portEntry (dir : Nat) (vec : Bool) (stood : Nat := 0)
  /-- room in the scalar (or vector) queue toward a direction (R22) -/
  | portRoom (dir : Nat) (vec : Bool)
  /-- an iteration record, or a sequencer that has stopped (R23) -/
  | iterRecord
  /-- one claimable receive-ring entry more than there were when the unit could not issue (R24) -/
  | ringEntry (stood : Nat := 0)
  /-- a relaxed access completing while eight are outstanding (R137) -/
  | relaxedSlot
  /-- the value of a register awaited from a relaxed access (R138): class and field -/
  | register (vec : Bool) (reg : RegField)
  /-- every relaxed load and atomic (loads), or every relaxed access, of the thread (R145, R224, R235) -/
  | relaxedDone (loadsOnly : Bool)
  /-- a deck range free of copies in flight (R119) -/
  | deckRange (addr n : Nat)
  /-- a range-scoreboard entry (R205) -/
  | copyEntry
  /-- room in, or a free slot at the tail of, a ring (R185) -/
  | ringSlot (n : Nat)
  /-- a tile in a ring (R185) -/
  | ringTile (n : Nat)
  /-- no operation or copy naming a ring (R184) -/
  | ringIdle (n : Nat)
  /-- the network accepting a message (R58) -/
  | network (dst : Nat)
  /-- a window fetch in flight (R320): cluster, window, block -/
  | windowFetch (cluster win blk : Nat)
  /-- a unit of a stream binding (R211) -/
  | streamUnit (v : Nat)
  /-- a twin comparison (R260) -/
  | twinCompare
  /-- the stores a started thread must not precede (R223, R348): request numbers -/
  | stores (reqs : List Nat)
deriving DecidableEq, Repr, Inhabited

/-- What a thread waits for. -/
inductive Wait where
  | none
  /-- before issue -/
  | retry (c : Cond)
  /-- a division's write: destination, value, tick (R98) -/
  | division (d : RegField) (value : Word) (due : Nat)
  /-- a special function's write (R176) -/
  | special (d : RegField) (value : VWord) (flags : BitVec 5) (due : Nat)
  /-- the reply of an access -/
  | reply (r : Nat)
  /-- a fence: its relaxed loads and atomics, its relaxed stores and atomics (R145) -/
  | fence (loads stores : Bool)
  | recv (d : RegField) (mask : Word)
  | park (d : RegField) (deadline : Option Nat)
  | wfe
  /-- a named barrier whose phase is to differ -/
  | barrier (n : Nat) (phase : Bool)
  | tbInit (addr : Nat) (count : Nat)
  | tbArrive (d : RegField) (addr : Nat) (phase : Nat)
  | tbWait (addr : Nat) (off : Word) (token : Nat)
  | tbTest (d : RegField) (addr : Nat) (off : Word) (token : Nat)
  /-- the deck banks of an engine unit's record (R263, R316) -/
  | banks
  /-- a matrix operation of its own -/
  | engine (op : Nat)
  | fuse (d : RegField) (g : Nat)
  | twinOn (d : RegField)
  /-- the write-backs of a window -/
  | flush (key : Nat)
  /-- a barrier unit's stores (R235): the destination of `bar.arrive`, none for `bar.sync`; the barrier; the accesses -/
  | barHold (d : Option RegField) (n : Nat) (stores : List Nat)
  /-- a tick -/
  | timed (due : Nat)
  /-- the doublewords of a scrub, one a tick from tick `since` on (R243): TCM or deck, the segment's base, the next address,
  how many are left -/
  | scrub (tcm : Bool) (base addr left since : Nat)
  /-- the translation of an instruction fetch that has missed: its DVA (R120) -/
  | fetch (dva : Nat)
deriving DecidableEq, Repr, Inhabited

/-- A fault of a relaxed access that its thread has not taken yet (R139). -/
structure PendingFault where
  key : Option Nat := none
  order : Nat := 0
  pc : BitVec 57 := 0
  cause : Cause := .illegal
  addr : Word := 0
deriving DecidableEq, Repr, Inhabited

/-- A stream binding (R209 to R212): the record, the segment it goes through, the next unit's indices, the
units fetched ahead. -/
structure Binding where
  reg : Nat := 0
  seg : Seg := {}
  segNo : Nat := 0
  off : Nat := 0
  st : List Int := []
  cnt : List Nat := []
  next : Nat := 0
  fetched : List (Nat × VWord) := []
  /-- The first unit that has not been requested ahead; whether the banks of a deck unit have been asked for it. -/
  ahead : Nat := 0
  asked : Bool := false
  /-- The thread's relaxed accesses before the `sm.bind`, which its refills follow (R212, R293). -/
  after : List Nat := []
deriving DecidableEq, Repr, Inhabited

/-- The part of a thread that a twin pair's rollback restores (R412). -/
structure Context where
  s : Tab Word := []
  v : Tab VWord := []
  seg : Tab Seg := []
  pc : BitVec 57 := 0
  fmode : BitVec 2 := 0
  fflags : BitVec 5 := 0
  repc : RepC := {}
  evt : Bool := false
  tcause : BitVec 8 := 0
  taddr : Word := 0
  tepc : BitVec 57 := 0
  tvec : BitVec 57 := 0
  tscratch : Word := 0
  intrap : Bool := false
  cseg : BitVec 3 := 7
deriving DecidableEq, Repr, Inhabited

/-- A store of a twin leader that a check point has not performed yet (R244): segment, offset, bytes. -/
structure HeldStore where
  seg : BitVec 3 := 0
  off : Word := 0
  data : List Byte := []
deriving DecidableEq, Repr, Inhabited

/-- What a twin pair keeps since its agreed point (R411 to R413). -/
structure TwinPair where
  print : BitVec 32 := 0xFFFFFFFF
  units : Nat := 0
  agreed : Context := {}
  held : List HeldStore := []
  disagreed : Bool := false
  diverged : Bool := false
  /-- A comparison has agreed; the held stores that it still has to perform. -/
  approved : Bool := false
  toDo : Nat := 0
deriving DecidableEq, Repr, Inhabited

/-- How the attempt of a unit ended: issued, waiting before issue, trapped, stopped at a register in error (R385). -/
inductive IssueEnd where
  | issued | held | trapped
  /-- issued, its fault taken by both members of a twin pair (R239, R245) -/
  | both
  | poisoned (aux : Nat)
deriving DecidableEq, Repr, Inhabited

/-- A thread's unit in progress: the instruction's own address, the offset after the unit, its prefixes, the
iteration under `rep`, its halfwords, its major (64 for a compact one), whether a twin pair executes it as a
check point, how its attempt ended. -/
structure Issue where
  ipc : BitVec 57 := 0
  npc : BitVec 57 := 0
  rlx : Bool := false
  rep : Bool := false
  iter : Nat := 0
  left : Nat := 0
  raw : Word := 0
  major : Nat := 64
  alone : Bool := false
  ended : IssueEnd := .issued
deriving DecidableEq, Repr, Inhabited

/-- A thread slot and the thread it holds. -/
structure Thread where
  state : SlotState := .free
  /-- `s0` to `s31` (R19), `v0` to `v31` (R19), `m0` to `m7` (R39). -/
  s : Tab Word := []
  v : Tab VWord := []
  seg : Tab Seg := []
  pc : BitVec 57 := 0
  /-- `fmode.rm`, `fflags`, `repc`, `evt.ev` and the trap CSRs (R35). -/
  fmode : BitVec 2 := 0
  fflags : BitVec 5 := 0
  repc : RepC := {}
  evt : Bool := false
  tcause : BitVec 8 := 0
  taddr : Word := 0
  tepc : BitVec 57 := 0
  tvec : BitVec 57 := 0
  tscratch : Word := 0
  /-- The fields of `tstat` (R33). -/
  intrap : Bool := false
  cseg : BitVec 3 := 7
  twin : Bool := false
  split : Bool := false
  leader : Bool := false
  gang : BitVec 2 := 0
  priv : Bool := false
  rlxn : Nat := 0
  /-- The coordinates (R36). -/
  bay : BitVec 3 := 0
  nbay : BitVec 3 := 0
  crew : BitVec 32 := 0
  ncore : BitVec 5 := 0
  stage : BitVec 4 := 0
  nstage : BitVec 4 := 0
  tid : BitVec 8 := 0
  nthr : BitVec 8 := 0
  proofHold : Bool := false
  proofRun : BitVec 2 := 0
  /-- The latches no instruction names (R23, R30, R247). -/
  half : Option Word := none
  permit : Option Byte := none
  latchD : Latch := {}
  latchA : Latch := {}
  latchB : Latch := {}
  /-- The wake token (R227) and the park number (R381). -/
  token : Bool := false
  park : Byte := 0
  /-- The slot counters 0x800 to 0x809 (R38). -/
  counters : Tab Word := []
  /-- The tick of the last attempt (R252). -/
  lastAttempt : Option Nat := none
  /-- The iteration a `rep` unit has reached: done and left (R141). -/
  repAt : Option (Nat × Nat) := none
  wait : Wait := .none
  /-- The unit in progress, and the registers (field, bit 6 set: vector) that relaxed accesses will write (R138). -/
  iss : Issue := {}
  awaited : List Nat := []
  /-- The tick in which PFAULT was entered (R382). -/
  faultSince : Nat := 0
  pendingFaults : List PendingFault := []
  bindings : List Binding := []
  /-- The launch and crew the thread belongs to, its message class (R57), the crew its slot is given to (R346). -/
  launch : Nat := 0
  crewId : Nat := 0
  msgClass : Option Nat := none
  given : Option Nat := none
  /-- Pre-emption has been requested (R265); a `yield` is outstanding (R226). -/
  stopReq : Bool := false
  pair : TwinPair := {}
  /-- Entries of the thread's journal stream consumed by a proof run (R405). -/
  journalAt : Nat := 0
  /-- The thread's journal stream, by number of its start within its crew (R399). -/
  stream : Nat := 0
  /-- Copies issued since the thread started. -/
  copiesIssued : Nat := 0
  /-- The fault by which the thread ends once its relaxed accesses have completed (R140): cause, address, offset. -/
  dying : Option (Cause × Word × BitVec 57) := none
  /-- Where the thread stands in a line that is served in order of issue attempts, and which one (R309, R314). -/
  lineAt : Option (Nat × Cond) := none
  /-- Own registers (number, bit 6 set: vector) holding an uncorrectable error (R385); the tick a kill ends (R386). -/
  errors : List Nat := []
  scrubEnd : Nat := 0
  /-- The register whose error has killed the thread, until its relaxed accesses have completed (R386). -/
  killAux : Option Nat := none
deriving DecidableEq, Repr, Inhabited

/-- The destination of a register write. -/
inductive Dest where
  /-- a thread's own scalar or vector register -/
  | own (n : Nat)
  | ownV (n : Nat)
  /-- a register field, 0 to 63, that discards the value (R96) -/
  | discard (f : Nat)
  /-- the flags of a floating-point unit (R156) -/
  | flags
  | shared (n : Nat)
  | sharedV (n : Nat)
  | port (dir : Nat)
  | portV (dir : Nat)
  | release
deriving DecidableEq, Repr, Inhabited

/-- A register write that its core performs at tick `due` (R98, R160, R448): the slot of the unit's thread, and of the unit
its major (R369), whether it goes into a twin pair's fingerprints (R411), whether a pair's leader executed it alone (R245). -/
structure PendWrite where
  due : Nat := 0
  slot : Nat := 0
  dest : Dest := .release
  value : VWord := 0
  major : Nat := 64
  noted : Bool := false
  both : Bool := false
deriving DecidableEq, Repr, Inhabited

/-- The state of a ring slot (R313). -/
inductive RingSlotState where
  | free | linked | ready | stale
deriving DecidableEq, Repr, Inhabited

/-- A ring slot with its link: the copy, its barrier's deck address and offset, the phase at issue, and the swizzle the
copy wrote with (R185, R186). -/
structure RingSlot where
  state : RingSlotState := .free
  copy : Nat := 0
  bar : Nat := 0
  barOff : Nat := 0
  phase : Nat := 0
  linked : Bool := false
  /-- The linked phase completed with poison set (R193, R313). -/
  poison : Bool := false
  swz : Option Nat := none
deriving DecidableEq, Repr, Inhabited

/-- A ring descriptor (R49). -/
structure Ring where
  swzen : Bool := false
  swz : BitVec 3 := 0
  cnt : Nat := 0
  tail : Nat := 0
  head : Nat := 0
  tsz : Nat := 0
  nslot : Nat := 0
  base : Nat := 0
  slots : Tab RingSlot := []
deriving DecidableEq, Repr, Inhabited

/-- What a matrix operation does. -/
inductive MxKind where
  | zero (acc : Nat) (int : Bool)
  | load (acc : Nat) (int : Bool) (off ctl : Word)
  | mma (acc ra rb : Nat) (ka kb : Bool)
  | mma4 (ra rb : Nat) (ka kb : Bool)
  | drain (acc : Nat) (off ctl : Word) (clr : Bool)
deriving DecidableEq, Repr, Inhabited

/-- A queued matrix operation with what it captured at issue (R181, R183, R188, R221). -/
structure MxOp where
  id : Nat := 0
  thread : Nat := 0
  kind : MxKind := .zero 0 false
  cfg : BitVec 9 := 0
  scale : Tab Byte := []
  permit : Option Byte := none
  seg : Seg := {}
  /-- Bytes of a drain or load that are done. -/
  progress : Nat := 0
  buf : List Byte := []
  pc : BitVec 57 := 0
  /-- The slots whose tiles a step reads, as they stood at the heads when it started: that of ring a, then those of ring b
  (R190). -/
  slots : List Nat := []
deriving DecidableEq, Repr, Inhabited

/-- A named barrier (R52). -/
structure NamedBarrier where
  phase : Bool := false
  arr : Nat := 0
  exp : Nat := 0
deriving DecidableEq, Repr, Inhabited

/-- A nest record (R218): levels minus 1, the bases, and per level the count and increments. -/
structure Nest where
  lv : Nat := 0
  base0 : Nat := 0
  base1 : Nat := 0
  n : List Nat := []
  inc0 : List Nat := []
  inc1 : List Nat := []
deriving DecidableEq, Repr, Inhabited

/-- The loop sequencer (R218 to R221). -/
structure Sequencer where
  nest : Option Nest := none
  permits : Nat := 0
  running : Bool := false
  done : Bool := false
  emitted : Nat := 0
  out : List Byte := []
  queue : List (VWord × Byte) := []
  /-- The tick after that of the last emission (R317). -/
  lastAt : Nat := 0
deriving DecidableEq, Repr, Inhabited

/-- A receive-ring entry's state (R55). -/
inductive EntryState where
  | free
  | delivered
  | claimed (slot : Nat)
deriving DecidableEq, Repr, Inhabited

/-- A receive-ring entry: its state, its place in delivery order, its header, the tick after that in which it became free (R349). -/
structure RingEntry where
  state : EntryState := .free
  order : Nat := 0
  hdr : Word := 0
  freedAt : Nat := 0
deriving DecidableEq, Repr, Inhabited

/-- A message (R53): its header, its payload, where it goes, whose launch sent it. -/
structure Message where
  hdr : Word := 0
  payload : List Word := []
  dstDev : Nat := 0
  dstCore : Nat := 0
  launch : Nat := 0
  crew : Nat := 0
  /-- The launch group of a peer's thread that sends it (R363). -/
  join : Option Nat := none
  /-- The accesses that must be performed before delivery (R231). -/
  after : List Nat := []
  /-- A message for another device that has left on a flit (R364, R414). -/
  sent : Bool := false
deriving DecidableEq, Repr, Inhabited

/-- What a thread started under the routine table copies from the thread that last wrote `rtab` (R30). -/
structure Writer where
  thread : Nat := 0
  seg : Tab Seg := []
  launch : Nat := 0
  crewId : Nat := 0
  bay : BitVec 3 := 0
  nbay : BitVec 3 := 0
  crew : BitVec 32 := 0
  ncore : BitVec 5 := 0
  stage : BitVec 4 := 0
  nstage : BitVec 4 := 0
  nthr : BitVec 8 := 0
  priv : Bool := false
  proofHold : Bool := false
  proofRun : BitVec 2 := 0
  tid : BitVec 8 := 0
  stores : List Nat := []
deriving DecidableEq, Repr, Inhabited

/-- The state one core holds for all its threads (R6, R19). -/
structure Core where
  h : Tab Word := []
  w : Tab VWord := []
  /-- Element 256·tile + e of the accumulators, and the tags (true: INT32) (R28). -/
  acc : Tab (BitVec 32) := []
  accInt : Tab Bool := []
  /-- The queues into this core, by the direction they come from (R22). -/
  portQ : Tab (List Word) := []
  portVQ : Tab (List VWord) := []
  pend : List PendWrite := []
  mxCfg : BitVec 9 := 0
  mxScale : Tab Byte := []
  rings : Tab Ring := []
  /-- The operations issued and not started, in order: the first two hold the entries of the engine's queue (R181, R314). -/
  mxQueue : List MxOp := []
  mxRun : Option (MxOp × Nat) := none
  /-- Of the operation that executes: the ticks τ in which all its pieces or rows were served, and the banks that have not
  served those of τ yet (R315). -/
  mxTau : Nat := 0
  mxNeed : List Nat := []
  mxCan : Bool := false
  seq : Sequencer := {}
  bars : Tab NamedBarrier := []
  rtabBase : BitVec 7 := 0
  rtabEn : Bool := false
  rtabBy : Option Writer := none
  entries : Tab RingEntry := []
  overflow : List Message := []
  drop : Nat := 0
  delivered : Nat := 0
  /-- The tick after that of the last delivery (R364), and of the last start under the routine table (R349). -/
  lastDelivery : Nat := 0
  lastStart : Nat := 0
  /-- The tick after that of the last acceptance of a copy (R305). -/
  lastAccept : Nat := 0
  /-- The engine counters 0x810 to 0x817 (R38), and those that advance at the end of this tick (R238). -/
  counters : Tab Word := []
  counting : List Nat := []
  /-- The launch whose threads the core holds (R29). -/
  launch : Option Nat := none
  tcmEpoch : Nat := 0
  /-- Shared registers and accumulators marked poisoned (R385): field, bit 6 vector, bit 7 accumulator. -/
  poisoned : List Nat := []
  tcmErrors : List Nat := []
  /-- TCM granules whose error is correctable (R384). -/
  tcmSoft : List Nat := []
deriving DecidableEq, Repr, Inhabited

/-- A window block's state (R328). -/
inductive WinState where
  | u | f | w | v
deriving DecidableEq, Repr, Inhabited

/-- One block of a window (R50, R328, R335). -/
structure WinBlock where
  state : WinState := .u
  valid : BitVec 64 := 0
  dirty : BitVec 64 := 0
  version : BitVec 4 := 0
  /-- The block's translation, once a touch has made it: physical address and page discipline. -/
  mapped : Bool := false
  phys : Nat := 0
  once : Bool := false
  /-- The place of its fetch in flight among the fetches of the package, in order of their start (R333). -/
  order : Nat := 0
  /-- Of a ONCE page: the relaxed accesses that its covering stores follow (R290). -/
  after : List Nat := []
deriving DecidableEq, Repr, Inhabited

/-- The write-back of a window's dirty words that has begun (R215, R217, R321): for a thread that waits, or for the
crew; whether the window then closes; the words still to go, by block; the first failure; the write-backs sent. -/
structure Flush where
  thread : Option Nat := none
  closing : Bool := false
  todo : List (Nat × BitVec 64) := []
  fail : Option (Cause × Nat) := none
  sent : List Nat := []
deriving DecidableEq, Repr, Inhabited

/-- A window descriptor (R50) with its owner and its blocks. -/
structure Window where
  valid : Bool := false
  gbase : BitVec 57 := 0
  nblk : Nat := 0
  dbase : Nat := 0
  writable : Bool := false
  launch : Nat := 0
  crewId : Nat := 0
  /-- The core on which it was opened (R391). -/
  core : Nat := 0
  asid : Nat := 0
  blocks : Tab WinBlock := []
  flushes : List Flush := []
deriving DecidableEq, Repr, Inhabited

/-- The kinds of copy (R178). -/
inductive CopyKind where
  | cpIn | cpOut | cpDd | cpGather
deriving DecidableEq, Repr, Inhabited

/-- The stages of a copy (R304). -/
inductive CopyStage where
  | issued | accepted | retired
deriving DecidableEq, Repr, Inhabited

/-- A layout record's contents (R47). -/
structure Layout where
  box : List Nat := []
  str : List Nat := []
  dim : List Nat := []
  fill : Nat := 0
  swz : Option Nat := none
  rank : Nat := 1
  type : Nat := 0
  base : Nat := 0
deriving DecidableEq, Repr, Inhabited

/-- A copy in flight, with what its unit read at issue (R195 to R206, R304). -/
structure Copy where
  kind : CopyKind := .cpIn
  stage : CopyStage := .issued
  core : Nat := 0
  thread : Nat := 0
  crewId : Nat := 0
  launch : Nat := 0
  pc : BitVec 57 := 0
  /-- The thread that issued it, as it stood then (R383); the unit's word and the target word (R389). -/
  issuer : Nat := 0
  word : Word := 0
  target : Word := 0
  segs : Tab Seg := []
  m1 : Seg := {}
  recOff : Nat := 0
  listOff : Nat := 0
  rows : Nat := 0
  origin : List Int := []
  /-- Deck addresses of the barrier and of the destination (or source), and the byte count once known. -/
  bar : Nat := 0
  barOff : Nat := 0
  doff : Nat := 0
  src : Nat := 0
  bytes : Option Nat := none
  ring : Option (Nat × Nat) := none
  sys : Bool := false
  permit : Option Byte := none
  layout : Layout := {}
  idx : List Int := []
  outstanding : Nat := 0
  requested : List Nat := []
  done : List Nat := []
  /-- The block that holds the copy, 2^62 for a miss, or 2^62 + 1 where a miss finds no entry (R197, R199, R305); a suspension
  (R387). -/
  heldOn : Option Nat := none
  suspended : Bool := false
  /-- Its record and list have been asked for (R197). -/
  asked : Bool := false
  /-- The thread's `tid` and its count of copies at issue; its earlier relaxed accesses (R206); the words of ONCE
  blocks it has covered. -/
  tid : Nat := 0
  ordinal : Nat := 0
  after : List Nat := []
  covered : List Nat := []
  /-- The elements that a `cp.out` has written to OPEN pages. -/
  written : List Nat := []
  /-- It has failed, and the barrier's bank has not served the access that says so (R310, R316). -/
  failing : Bool := false
deriving DecidableEq, Repr, Inhabited

/-- The operation of an atomic (R77). -/
inductive AmoOp where
  | add | and | or | xor | min | max | minu | maxu | swap | cas | fadd | inc
deriving DecidableEq, Repr, Inhabited

/-- What a request asks its home for. -/
inductive ReqKind where
  | load (signed : Bool)
  | store
  | amo (op : AmoOp)
  | bwait | bhold | barm | bpoll | bgen | bclr | bclrG | bfin
  | stream (v : Nat) (unit : Nat)
deriving DecidableEq, Repr, Inhabited

/-- Where a request stands. -/
inductive ReqStatus where
  /-- on its way to the home -/
  | issued
  /-- awaiting a walk or an answer (R343, R381) -/
  | missed
  /-- waiting at the cluster port or the deck for room, a copy, a window fetch or an earlier access to the same
  bytes (R119, R137, R320, R343, R401) -/
  | blocked
  /-- parked on a block, or queued as a hold (R123, R129) -/
  | parked
  /-- answered; the reply is on its way -/
  | replied
  /-- refused; the reply carries the cause -/
  | refused (c : Cause) (addr : Word)
  /-- on its way to TCM, or waiting for the banks of its deck bytes (R263) -/
  | banked
  /-- waiting for its cluster cache to hold its sector with the right it needs (R326, R327) -/
  | awaiting
deriving DecidableEq, Repr, Inhabited

/-- A thread of another device, which makes an access to memory of this one (R266, R267). -/
structure Remote where
  dev : BitVec 8 := 0
  core : BitVec 13 := 0
  slot : BitVec 4 := 0
deriving DecidableEq, Repr, Inhabited

/-- A request of a thread to a home. -/
structure Req where
  live : Bool := false
  /-- Another device's thread, where the access has come over the causeway. -/
  from_ : Option Remote := none
  thread : Nat := 0
  cluster : Nat := 0
  launch : Nat := 0
  crewId : Nat := 0
  kind : ReqKind := .store
  status : ReqStatus := .issued
  seg : BitVec 3 := 0
  space : Space := .global
  off : Word := 0
  dva : BitVec 57 := 0
  phys : Nat := 0
  once : Bool := false
  n : Nat := 0
  vec : Bool := false
  dest : Option RegField := none
  /-- The value stored or combined; the value answered. -/
  data : VWord := 0
  expect : Word := 0
  result : VWord := 0
  major : Nat := 64
  relaxed : Bool := false
  pc : BitVec 57 := 0
  hold : Bool := false
  priv : Bool := false
  park : Byte := 0
  /-- The place kept in the thread's journal stream (R399). -/
  jslot : Option Nat := none
  /-- The ONCE block and generation that a read has found (R399). -/
  ref : Option (Nat × BitVec 6) := none
  /-- A twin pair made it in lockstep: both members take its answer; the bytes that the pair held back when it was made, by byte
  of the access (R244). -/
  twin : Bool := false
  overlay : List (Option Byte) := []
  /-- Its reply has come, and waits for room in the port queue that it pushes to (R117). -/
  arrived : Bool := false
deriving DecidableEq, Repr, Inhabited

/-- A waiter registered at a home (R44). -/
structure Waiter where
  win : Bool := false
  gen : BitVec 6 := 0
  tag : BitVec 24 := 0
  cls : BitVec 6 := 0
  slot : BitVec 4 := 0
  core : BitVec 13 := 0
  dev : BitVec 8 := 0
  arm : Bool := false
  /-- The request a park waiter stands for (the model's own link). -/
  req : Nat := 0
  launch : Nat := 0
  dva : BitVec 57 := 0
deriving DecidableEq, Repr, Inhabited

/-- The presence codes (R42). -/
inductive Presence where
  | empty | full | deferred | poison
deriving DecidableEq, Repr, Inhabited

/-- What a fill-assembly entry holds (R272): coverage, the contributors whose verdicts are pending, the reserving thread,
the queued holds and the pool blocks of their queue, the waiter area, the pool blocks that it has been spilled to (R274). -/
structure FillEntry where
  cov : BitVec 64 := 0
  verdicts : List Nat := []
  res : Option Waiter := none
  holds : List Nat := []
  queue : List Nat := []
  area : List Byte := []
  spill : List Nat := []
  touched : Nat := 0
deriving DecidableEq, Repr, Inhabited

/-- A block's metadata (R43) and what the home keeps of it (R270, R272, R275). -/
structure Block where
  pres : Presence := .empty
  held : Bool := false
  gen : BitVec 6 := 0
  version : BitVec 4 := 0
  spans : BitVec 8 := 0
  hosts : BitVec 2 := 0
  win : Bool := false
  dir : BitVec 2 := 0
  entry : Option FillEntry := none
  waiters : List Waiter := []
  /-- The pool blocks in which the list goes on, in order (R45, R275); whether it names another device (R279). -/
  chain : List Nat := []
  peerw : Bool := false
  /-- Words written by privileged stores since an OPEN block became POISON (R126). -/
  cured : BitVec 64 := 0
  /-- Journals that hold a reference to the block (R400): crew and generation. -/
  refs : List (Nat × BitVec 6) := []
deriving DecidableEq, Repr, Inhabited

/-- What waits for a pool block of a span (R276): a request, a window's fetch, a copy, a drain, a window's write-back, a host
port's write; a step of the home itself never waits. -/
inductive PoolUser where
  | req (r : Nat)
  | fetch (key blk : Nat)
  | copy (id : Nat)
  | drain (core : Nat)
  | flush (key : Nat)
  | host (port : Nat)
  | home
deriving DecidableEq, Repr

/-- A page that a walk has found mapped: the address space and the page's DVA, its physical address, its size in bits, its
discipline and its key ID (R42, R266). Address space 4,096 stands for a page that only another device has named. -/
structure PageMap where
  asid : Nat := 0
  dva : Nat := 0
  phys : Nat := 0
  bits : Nat := 16
  once : Bool := false
  key : Nat := 0
deriving DecidableEq, Repr

/-- A sector-directory entry (R334): per sector the owner (15: none) and the sharers. -/
structure SectorEntry where
  owner : List (BitVec 4) := [15, 15, 15, 15]
  sharers : List (BitVec 10) := [0, 0, 0, 0]
  touched : Nat := 0
deriving DecidableEq, Repr, Inhabited

/-- What a notice asks for (R327). -/
inductive NoticeKind where
  | getS | getM | upg | wb
  /-- a word-masked write of a request -/
  | wrw (r : Nat)
  /-- a word-masked write of an engine, which makes it at the home itself -/
  | mask
  /-- from the span port -/
  | rcl | inv
deriving DecidableEq, Repr

/-- A notice on a span's notification network (R326): the tick of its injection, its injector, the cluster that asks, the line,
the sectors and the words that it names. -/
structure SpanNotice where
  at_ : Nat := 0
  span : Nat := 0
  injector : Nat := 0
  cluster : Nat := 0
  kind : NoticeKind := .getS
  line : Nat := 0
  sectors : BitVec 4 := 0
  words : BitVec 64 := 0
deriving DecidableEq, Repr

/-- A write-back or recall reply in flight (R335, R336): words of a block with a mask. -/
structure WriteBack where
  block : Nat := 0
  cluster : Nat := 0
  version : BitVec 4 := 0
  mask : BitVec 64 := 0
  data : List Byte := []
  isRecall : Bool := false
  asked : Nat := 0
  holder : Nat := 0
  /-- A recall reply has carried its words home. -/
  carried : Bool := false
deriving DecidableEq, Repr, Inhabited

/-- A translation held by a TLB (R342). -/
structure TlbEntry where
  asid : Nat := 0
  level : Nat := 0
  tag : Nat := 0
  leaf : Word := 0
deriving DecidableEq, Repr, Inhabited

/-- What joins a miss-buffer entry (R343). -/
inductive Joined where
  | req (r : Nat)
  /-- a copy, with the DVA of its access -/
  | copy (c dva : Nat)
  /-- an instruction fetch, or the touch of a window by an engine's unit: the thread, and the park number that it has once it
  parks -/
  | fetch (t : Nat) (park : Byte)
  | winFetch (cluster win blk : Nat)
  /-- a drain, by its core, with the DVA of its access -/
  | drain (core dva : Nat)
deriving DecidableEq, Repr, Inhabited

/-- A miss-buffer entry (R343, R381). -/
structure Miss where
  /-- An answer has been given, and the span walks again (R381). -/
  serving : Bool := false
  asid : Nat := 0
  page : Nat := 0
  dva : BitVec 57 := 0
  /-- The launch of the first access. -/
  launch : Nat := 0
  answering : Bool := false
  joined : List Joined := []
  kmask : BitVec 4 := 0
  tick : Nat := 0
deriving DecidableEq, Repr, Inhabited

/-- A fault record sent to a command processor (R381). -/
structure FaultRecord where
  cp : Nat := 0
  tick : Nat := 0
  kmask : BitVec 4 := 0
  joined : Nat := 0
  entry : Nat := 0
  span : Nat := 0
  asid : Nat := 0
  dva : BitVec 57 := 0
deriving DecidableEq, Repr, Inhabited

/-- An entry of a journal stream (R399). -/
inductive JEntry where
  | loadValue (v : VWord) (n : Nat)
  | atomicResult (v : Word)
  | blockResult (v : Word)
  /-- by the block's physical number, in the place of its DVA -/
  | reference (blk : Nat) (gen : BitVec 6)
  | message (hdr : Word) (payload : List Word)
  | windowFetch (mask : BitVec 64) (words : List Nat)
  | windowRef (blk : Nat) (gen : BitVec 6)
  | copyRead (bytes : List Byte)
  /-- the blocks that a unit reads: number by DVA, physical number, generation -/
  | copyRefs (blks : List (Nat × Nat × BitVec 6))
deriving DecidableEq, Repr, Inhabited

/-- A run's digest (R402) and how it ended. -/
structure Digest where
  lo : Word := 0
  hi : Word := 0
  none : Bool := false
deriving DecidableEq, Repr, Inhabited

/-- Where a crew stands (R355, R361, R366, R404). -/
inductive CrewStatus where
  | pending | resident | stopping | saved | retired | discarded
deriving DecidableEq, Repr, Inhabited

/-- What pre-emption saves (R389 to R393): per core its index and its parts, per thread its slot and its part. -/
structure SaveRecord where
  cores : List (Nat × Core) := []
  threads : List (Nat × Nat × Thread) := []
  asides : List (Nat × Nat × Thread) := []
  /-- By core index, and for the deck range: the dirty regions, coded (R392). -/
  tcm : List (Nat × List Byte) := []
  deck : List Byte := []
  deckBase : Nat := 0
  windows : List (Nat × Window) := []
  copies : List (Nat × Copy) := []
  tick : Nat := 0
  size : Nat := 0
  /-- Where in its span's save region it stands, and the header written there (R388, R389). -/
  place : Nat := 0
  header : List Byte := []
deriving DecidableEq, Repr, Inhabited

/-- A crew (R255, R352) and its runs (R396 to R406). -/
structure Crew where
  launch : Nat := 0
  num : Nat := 0
  stage : Nat := 0
  bay : Nat := 0
  span : Nat := 0
  status : CrewStatus := .pending
  cluster : Nat := 0
  firstCore : Nat := 0
  slots : List Nat := []
  deckBase : Nat := 0
  prio : Nat := 0
  placedAt : Nat := 0
  placed : Bool := false
  drawn : Bool := false
  sampled : Bool := false
  hold : Bool := false
  /-- 0 original not sampled, 1 sampled original, 2 proof run, 3 third run (R36). -/
  run : Nat := 0
  original : Nat := 0
  digest : Digest := {}
  rerun : Bool := false
  majority : Option Digest := none
  compared : List Digest := []
  usedSites : List Nat := []
  avoid : List Nat := []
  passed : Bool := false
  /-- The sample is void (R400). -/
  void : Bool := false
  preempt : Bool := false
  /-- Bytes of the save region kept for the record of a crew that stops (R387). -/
  reserved : Nat := 0
  save : Option SaveRecord := none
  /-- Threads started so far, by `tid` (R399); window fetches served from the journal (R370). -/
  starts : Tab Nat := []
  winAt : Nat := 0
  heldBlocks : List Nat := []
deriving DecidableEq, Repr, Inhabited

/-- A launch: what acceptance took from its packet (R352, R422, R426). -/
structure Launch where
  live : Bool := false
  serial : Word := 0
  cp : Nat := 0
  queue : Nat := 0
  slot : Nat := 0
  asid : Nat := 0
  signal : BitVec 57 := 0
  arg : BitVec 57 := 0
  errDva : BitVec 57 := 0
  errLen : Nat := 0
  tvec : BitVec 57 := 0
  join : Option Nat := none
  cores : Nat := 1
  threads : Nat := 1
  deck : Nat := 256
  stageCrews : List Nat := []
  entries : List Nat := []
  segs : Tab Seg := []
  nbay : Nat := 1
  nstage : Nat := 1
  spans : List Nat := []
  lend : Bool := false
  priv : Bool := false
  shared : BitVec 16 := 0
  pfrac : Nat := 0
  phold : Bool := false
  order : Nat := 0
  completed : Bool := false
  /-- The message of its completion has been posted (R428). -/
  told : Bool := false
  signalled : Bool := false
  crews : List Nat := []
deriving DecidableEq, Repr, Inhabited

/-- A notice of a joined launch (R362): its group and the group's home device, the stage, the device it is about, whether
the stage has retired there. -/
structure Notice where
  group : Nat := 0
  home : Nat := 0
  stage : Nat := 0
  dev : Nat := 0
  retired : Bool := false
deriving DecidableEq, Repr, Inhabited

/-- A host queue (R350, R351, R421, R425, R433). -/
structure Queue where
  pfrac : Nat := 0
  phold : Bool := false
  en : Bool := false
  agecap : Nat := 0
  wgt : Nat := 0
  prio : Nat := 0
  ring : BitVec 57 := 0
  lg : Nat := 0
  rdx : Nat := 0
  widx : Nat := 0
deriving DecidableEq, Repr, Inhabited

/-- A command processor (R350, R397, R425): where its control page lies, the status and handle of each slot's last
`claunch` store, the stores and loads of the page that await their reply, the packets submitted and not yet taken. -/
structure CmdProc where
  page : Option Nat := none
  results : Tab (Nat × Nat) := []
  launchReqs : List (Nat × Word) := []
  statReqs : List Nat := []
  decReqs : List (Nat × Word) := []
  /-- Queue, slot, the request and the thread's slot. -/
  submitted : List (Nat × Nat × Option Nat × Nat) := []
  lastAccept : Option Nat := none
  accepted : Nat := 0
  faults : List FaultRecord := []
deriving DecidableEq, Repr, Inhabited

/-- A core site (R369, R408, R409). -/
structure Site where
  strain : Nat := 0
  pass : Nat := 0
  closed : Bool := false
  closing : Bool := false
  injector : Word := 0
deriving DecidableEq, Repr, Inhabited

/-- A span's health record (R380). -/
structure Health where
  plog : List Word := []
  pwait : Nat := 0
  uncorr : Nat := 0
  corr : Nat := 0
  pnext : Nat := 0
deriving DecidableEq, Repr, Inhabited

/-- The state of a key ID (R438). -/
inductive KeyState where
  | free | live | dead | clearing
deriving DecidableEq, Repr, Inhabited

/-- A key ID: its state, its key, its ranges of local addresses (R438). -/
structure Key where
  state : KeyState := .free
  key : BitVec 512 := 0
  ranges : List (Nat × Nat) := []
deriving DecidableEq, Repr, Inhabited

/-- A flit (R414); the device that a data flit is for, and the message that it carries. -/
structure Flit where
  seq : Nat := 0
  typ : Nat := 0
  payload : List Byte := []
  dst : Nat := 0
  note : Option Message := none
  /-- The bits of the 64 bytes that injectors invert on the wire (R417). -/
  flipped : List Nat := []
  /-- How often it has been sent again without an acknowledgement (R415); it comes from a port that went down (R416). -/
  again : Nat := 0
  moved : Bool := false
deriving DecidableEq, Repr, Inhabited

/-- A causeway port: transmitter, receiver, lane injectors and counters (R414 to R418). -/
structure Port where
  up : Bool := true
  training : Bool := false
  txSeq : Nat := 0
  replay : List Flit := []
  rxSeq : Nat := 0
  gap : Bool := false
  unacked : Nat := 0
  failedTrains : Nat := 0
  injectors : Tab Word := []
  /-- Flits that a delay injection holds, each with the tick at which it leaves (R417). -/
  delayed : List (Nat × Flit) := []
  /-- Data flits that wait for the replay buffer, or for the port to carry flits. -/
  backlog : List Flit := []
  wire : List Flit := []
  received : List (List Byte) := []
  sent : Nat := 0
  crcErrors : Nat := 0
  naks : Nat := 0
  replays : Nat := 0
  retrains : Nat := 0
deriving DecidableEq, Repr, Inhabited

/-- A host interface (R432, R433). -/
structure Iface where
  asid : Option Nat := none
  nq : Nat := 0
  queues : Tab Nat := []
  apbase : BitVec 57 := 0
  keyFirst : Nat := 0
  keyCount : Nat := 0
  ecount : Nat := 0
  prcap : Word := 0
  mailbox : Tab Word := []
deriving DecidableEq, Repr, Inhabited

/-- What a host request received (R430): unsupported request, completer abort, or data. -/
inductive Completion where
  | data (bytes : List Byte)
  | poisoned (bytes : List Byte)
  | unsupported
  | abort
deriving DecidableEq, Repr, Inhabited

/-- A block request in the queue of a channel (R340): its row, the tick it arrives, the thread that waits for it, the step that
serves it. -/
structure RowWait where
  row : Nat := 0
  due : Nat := 0
  thread : Option Nat := none
  next : Instr := .tick
deriving DecidableEq, Repr, Inhabited

/-- A channel's activation counts and its list (R419). -/
structure Channel where
  counts : Tab Nat := []
  listed : List Nat := []
  last : Tab Nat := []
  refreshed : Nat := 0
  queue : List RowWait := []
deriving DecidableEq, Repr, Inhabited

/-- A queue's turn at one level of one distributor (R357). -/
structure Turn where
  queue : Option Nat := none
  credit : Nat := 0
deriving DecidableEq, Repr, Inhabited

/-- A set-aside thread (R382). -/
structure Aside where
  thread : Nat := 0
  saved : Thread := {}
  /-- Where its record stands in the span's save region (R382). -/
  place : Nat := 0
  woken : Bool := false
  rejected : Bool := false
deriving DecidableEq, Repr, Inhabited

/-- A checkpoint image held in a buddy's refuge region (R442): its memory by local address, its blocks' metadata, its key IDs,
and what of HBM4 the model keeps elsewhere: the pending crews with their records, and the journal. -/
structure Refuge where
  mem : Mem := []
  blocks : Tab Block := []
  keys : Tab Key := []
  launches : Tab Launch := []
  crews : Tab Crew := []
  journal : Tab (List JEntry) := []
  journalCopy : Tab (List Nat × List Byte) := []
  mapped : List PageMap := []
  pool : Tab (List Nat) := []
deriving DecidableEq, Repr, Inhabited

/-- The power states (R443). -/
inductive Power where
  | p0 | p1 | p2 | p3 | idle
deriving DecidableEq, Repr, Inhabited

/-- A deck bank (R263, R316): the thread and the engine that it served last, and whether the last of its ticks in which both
classes waited served an engine. -/
structure Bank where
  thread : Nat := 255
  engine : Nat := 32
  engineLast : Bool := false
deriving DecidableEq, Repr, Inhabited

/-- For whom deck banks are asked, which says what follows once all of them have served (R316). -/
inductive Asker where
  /-- the access of a request -/
  | access (r : Nat)
  /-- an engine unit or a transaction-barrier unit that its thread waits for -/
  | unit (thread : Nat)
  /-- a unit of a copy; its decrement; the failure of a copy -/
  | copyUnit (copy unit : Nat)
  | decrement (copy : Nat)
  | copyFail (copy : Nat) (cause : Cause) (addr : Nat)
  /-- a copy's record and list -/
  | records (core : Nat)
  /-- a refill of a stream binding -/
  | refill (thread reg : Nat)
  /-- the words of a window's block that have arrived: window key, block -/
  | fetch (key blk : Nat)
  /-- the words of a write-back or a recall -/
  | leaving
deriving DecidableEq, Repr

/-- A request for deck banks: its cluster, its class and number (R316), the tick from which the banks see it, the banks that
have not served it yet. -/
structure Ask where
  cluster : Nat := 0
  engine : Bool := false
  number : Nat := 0
  since : Nat := 0
  banks : List Nat := []
  asker : Asker := .leaving
deriving DecidableEq, Repr

/-- The state of the package. -/
structure State where
  /-- Ticks since package reset: `h31` (R26). -/
  tick : Word := 0
  /-- Steps that are due, in order, and steps due at a tick (the model's own order of the agents). -/
  events : List Instr := []
  timers : List (Nat × Instr) := []
  /-- The threads selected in this tick and not yet attempted (R252); the thread whose unit executes. -/
  sels : List Nat := []
  cur : Nat := 0
  /-- Steps that may be made once the accesses with these numbers are performed (R227, R236). -/
  heldSteps : List (List Nat × Instr) := []
  /-- By 16 · core + slot. -/
  threads : Tab Thread := []
  /-- By linear core number; command processor p is core 8192 + p. -/
  cores : Tab Core := []
  /-- By 8 · cluster + window. -/
  windows : Tab Window := []
  /-- TCM bytes by core · 2^16 + address; deck bytes by cluster · 2^21 + address; the epoch of each 4 KiB
  of deck by cluster · 512 + page. -/
  tcm : Tab Byte := []
  deck : Tab Byte := []
  deckEpoch : Tab Nat := []
  /-- Deck granules that hold an uncorrectable error (R384), by cluster · 2^18 + granule. -/
  deckErrors : List Nat := []
  deckSoft : List Nat := []
  /-- Errors that the check bits have corrected in this tick: the core, and whether it was in a register (R384, R408). -/
  corrections : List (Nat × Bool) := []
  epochs : Nat := 0
  /-- By cluster · 128 + bank; the requests that wait for banks, in order of asking (R263, R316). -/
  banks : Tab Bank := []
  asks : List Ask := []
  /-- Global memory by device · 2^48 + local address (R7). -/
  mem : Mem := []
  /-- By physical address ÷ 256. -/
  blocks : Tab Block := []
  reqs : Tab Req := []
  nextReq : Nat := 1
  copies : Tab Copy := []
  nextCopy : Nat := 1
  nextOp : Nat := 1
  /-- Messages in flight, in order of sending (R364); how many messages of one core the network's buffers hold (R58). -/
  flight : List Message := []
  netRoom : Nat := 64
  /-- Cluster-cache sectors by cluster · 2^50 + physical address ÷ 64 (R325); CXL host sectors by port · 2^50 + sector. -/
  cache : Tab SectorState := []
  hostSectors : Tab SectorState := []
  sectorDir : Tab SectorEntry := []
  /-- The version that a cluster's cache keeps with a line, by cluster · 2^48 + block (R335). -/
  lineVersion : Tab (BitVec 4) := []
  /-- The requests to a block that wait at its home, in order of arrival (R333), by block; whether the first has been tried in
  this tick. -/
  homeLine : Tab (List (Instr × Bool)) := []
  writeBacks : Tab WriteBack := []
  nextWb : Nat := 1
  /-- The notices that the spans' networks carry, in order of injection (R326). -/
  spanNet : List SpanNotice := []
  /-- The sectors that copy engines have asked for with a notice and not used yet: 2 · copy, or 2 · core + 1 for a drain, and the
  sector (R326). -/
  engineAsked : List (Nat × Nat) := []
  /-- How many modified sectors of host caches have been recalled (R337): the model's own count. -/
  hostRecalls : Nat := 0
  l1 : Tab (List TlbEntry) := []
  lltlb : Tab (List TlbEntry) := []
  misses : Tab Miss := []
  roots : Tab Nat := []
  channels : Tab Channel := []
  /-- The pages that walks have found mapped and that have not been unmapped since (R42, R341). -/
  mapped : List PageMap := []
  /-- By span: the blocks of the pool, those in use, and what waits for one (R276); span · 4096 + queue: wait counts (R356);
  span · 16 + level: turns (R357); span: the ticks with every resident thread parked (R360). -/
  pool : Tab Nat := []
  poolUsed : Tab (List Nat) := []
  poolWait : Tab (List PoolUser) := []
  qwait : Tab Nat := []
  turns : Tab Turn := []
  parkedTicks : Tab Nat := []
  /-- The spans that stand so in this tick. -/
  parkedNow : List Nat := []
  /-- The threads that have waited in this tick for a row held back by activation throttling, outside a channel's queue
  (R340). -/
  rowWaits : List Nat := []
  /-- The cores whose ring, the last 4 KiB of TCM, has been written since the core was prepared (R29, R392). -/
  ringDirty : List Nat := []
  /-- By cluster: the size of the overflow pool in bytes (R365). -/
  overflowSize : Tab Nat := []
  health : Tab Health := []
  journal : Tab (List JEntry) := []
  journalSize : Tab Nat := []
  journalUsed : Tab Nat := []
  journalWait : Tab (List Nat) := []
  journalCopy : Tab (List Nat × List Byte) := []
  saveSize : Tab Nat := []
  saveUsed : Tab Nat := []
  launches : Tab Launch := []
  nextLaunch : Nat := 1
  crews : Tab Crew := []
  nextCrew : Nat := 1
  /-- Join notices that have arrived or been sent; the stages for which launches of a group on other devices have crews:
  group, home, stage (R355, R362). -/
  notices : List Notice := []
  remoteStages : List (Nat × Nat × Nat) := []
  queues : Tab Queue := []
  cps : Tab CmdProc := []
  sites : Tab Site := []
  strainLimit : Nat := 1024
  asides : List Aside := []
  ifaces : Tab Iface := []
  hostReplies : List Completion := []
  /-- By port: the requests received and not yet served, in order (R299). -/
  hostQueue : Tab (List Instr) := []
  ports : Tab Port := []
  routes : Tab (BitVec 12) := []
  pendingRoutes : List (Nat × BitVec 12) := []
  gone : List Nat := []
  keys : Tab Key := []
  ks : BitVec 128 := 0
  k1 : BitVec 128 := 0
  k2 : BitVec 128 := 0
  resets : Nat := 0
  meas : Tab (BitVec 512) := []
  secVersions : Tab Nat := []
  /-- The signed configuration as it is stored, and as the boot chain has applied it (R429, R439, R440). -/
  config : Tab Word := []
  active : Tab Word := []
  attestations : List (List Byte) := []
  /-- The device's number (R7), whether its ports run CXL (R429), the buddy of a checkpoint that has stopped acceptance
  (R442), whether the boot chain stopped at an image (R439). -/
  dev : BitVec 8 := 0
  cxl : Tab Bool := []
  checkpointTo : Option Nat := none
  bootStopped : Bool := false
  /-- The images of checkpoints by buddy: memory, metadata and keys (R442). -/
  refuge : Tab Refuge := []
  power : Power := .p0
  powerLimit : Nat := 2600
deriving DecidableEq, Repr, Inhabited

/-- The machine right after package reset, before any launch (R19, R26, R29, R31 to R38, R409, R439). -/
def State.reset : State :=
  { ks := Config.drawnKey 0 0, k1 := Config.drawnKey 0 1, k2 := Config.drawnKey 0 2 }

end Sys2Proof.Machine
end

