-- ==== Sys2Proof/Machine/Basic.lean ====
section
/-! DEFINITION. The first operations that everything is written over: reaching a thread, a core and a site; queueing steps;
TCM, deck and global memory; the page walk. -/

namespace Sys2Proof.Machine

/-! ### Reaching the parts of the state -/

/-- The thread in a slot, by 16 · core + slot. -/
def State.thread (s : State) (t : Nat) : Thread := s.threads.get {} t
def State.setThread (s : State) (t : Nat) (x : Thread) : State := { s with threads := s.threads.put t x }
def State.modThread (s : State) (t : Nat) (f : Thread → Thread) : State := s.setThread t (f (s.thread t))
/-- The thread whose unit executes. -/
def State.me (s : State) : Thread := s.thread s.cur

def State.core (s : State) (c : Nat) : Core := s.cores.get {} c
def State.setCore (s : State) (c : Nat) (x : Core) : State := { s with cores := s.cores.put c x }
def State.modCore (s : State) (c : Nat) (f : Core → Core) : State := s.setCore c (f (s.core c))

def State.launchOf (s : State) (l : Nat) : Launch := s.launches.get {} l
def State.modLaunch (s : State) (l : Nat) (f : Launch → Launch) : State :=
  { s with launches := s.launches.put l (f (s.launchOf l)) }
def State.crewOf (s : State) (c : Nat) : Crew := s.crews.get {} c
def State.modCrew (s : State) (c : Nat) (f : Crew → Crew) : State :=
  { s with crews := s.crews.put c (f (s.crewOf c)) }

def coreOf (t : Nat) : Nat := t / 16
def slotOf (t : Nat) : Nat := t % 16
/-- The cluster of a core, 0 to 511 (R6); command processor p is alone in cluster 512 + p. -/
def clusterOf (c : Nat) : Nat := if c < 8192 then c / 16 else 512 + (c - 8192)
/-- The span of a core, 0 to 7; the spans' resources for command processors are those of span 8. -/
def spanOf (c : Nat) : Nat := if c < 8192 then c / 1024 else 8
def spanOfCluster (k : Nat) : Nat := if k < 512 then k / 64 else 8
/-- The logical core within its cluster. -/
def logical (c : Nat) : Nat := if c < 8192 then c % 16 else 0
/-- A slot of a command processor (R3). -/
def isFirmware (t : Nat) : Bool := 8192 ≤ coreOf t
/-- A slot that holds a thread. -/
def Thread.live (x : Thread) : Bool := x.state != .free && x.state != .killed

/-- A step that is due now, and one due at a tick. -/
def State.emit (s : State) (i : Instr) : State := { s with events := s.events ++ [i] }
/-- Steps made before every other that is due: what a home does before it serves the next request (R333). -/
def State.emitFirst (s : State) (is : List Instr) : State := { s with events := is ++ s.events }
def State.later (s : State) (due : Nat) (i : Instr) : State := { s with timers := s.timers ++ [(due, i)] }
/-- A step due at a tick that also waits for accesses to be performed (R227, R236). -/
def State.laterAfter (s : State) (rs : List Nat) (due : Nat) (i : Instr) : State :=
  if rs.isEmpty then s.later due i else { s with heldSteps := s.heldSteps ++ [(rs, i)] }
/-- The tick as a number. -/
def State.now (s : State) : Nat := s.tick.toNat

/-! ### TCM, deck and global memory -/

/-- A TCM byte; one that nothing has written since the core was prepared is undefined (R347). -/
def State.tcmByte (s : State) (core a : Nat) : Byte :=
  (s.tcm.find (core * 2 ^ 16 + a)).getD (Config.undefByte (s.core core).tcmEpoch (core * 2 ^ 16 + a))

/-- A deck byte; one that nothing has written since its allocation was placed is undefined (R301). -/
def State.deckByte (s : State) (cluster a : Nat) : Byte :=
  (s.deck.find (cluster * 2 ^ 21 + a)).getD
    (Config.undefByte (s.deckEpoch.get 0 (cluster * 512 + a / 4096)) (2 ^ 30 + cluster * 2 ^ 21 + a))

def readBytes (f : Nat → Byte) (a : Nat) : Nat → List Byte
  | 0 => []
  | n + 1 => f a :: readBytes f (a + 1) n

def putBytes (m : Tab Byte) (a : Nat) : List Byte → Tab Byte
  | [] => m
  | b :: bs => putBytes (m.put a b) (a + 1) bs

def State.tcmRead (s : State) (core a n : Nat) : Nat := ofBytesLE (readBytes (s.tcmByte core) a n)
def State.tcmWrite (s : State) (core a : Nat) (bs : List Byte) : State :=
  { s with tcm := putBytes s.tcm (core * 2 ^ 16 + a) bs,
           ringDirty := if a + bs.length ≤ 0xF000 ∨ s.ringDirty.contains core = true then s.ringDirty else core :: s.ringDirty }
def State.deckRead (s : State) (cluster a n : Nat) : Nat := ofBytesLE (readBytes (s.deckByte cluster) a n)
def State.deckWrite (s : State) (cluster a : Nat) (bs : List Byte) : State :=
  { s with deck := putBytes s.deck (cluster * 2 ^ 21 + a) bs }

/-- Global memory by physical address (R7). -/
def State.memRead (s : State) (a n : Nat) : Nat := s.mem.readLE a n
def State.memWrite (s : State) (a : Nat) (bs : List Byte) : State := { s with mem := s.mem.writeList a bs }

/-- The physical address of a local address of this device. -/
def State.local (s : State) (a : Nat) : Nat := s.dev.toNat * 2 ^ 48 + a

/-- An uncorrectable error found, counted in a span's health record (R380). -/
def State.countFound (s : State) (span : Nat) : State :=
  let h := s.health.get {} span
  { s with health := s.health.put span { h with uncorr := min (2 ^ 32 - 1) (h.uncorr + 1) } }

/-! ### Translation (R341) -/

/-- A leaf: home device, page address, key ID, page discipline, rights, page size in bits. -/
structure Leaf where
  dev : Nat
  addr : Nat
  key : Nat
  nospec : Bool
  once : Bool
  w : Bool
  rd : Bool
  bits : Nat
deriving DecidableEq, Repr

/-- The end of HBM4 and of the management space in local addresses (R436). -/
def hbmEnd : Nat := 0xC000000000
def managementEnd : Nat := 0xC100000000

/-- The fields of a leaf entry. -/
def leafOf (e : Nat) (bits : Nat) : Leaf :=
  { dev := field e 56 8, addr := field e 16 32 * 2 ^ 16, key := field e 6 9, nospec := bitAt e 5,
    once := bitAt e 4, w := bitAt e 3, rd := bitAt e 2, bits := bits }

/-- A leaf's key ID is one that its address space may name, and its page, where it is this device's, lies in a range of that ID;
ID 0 is for firmware spaces alone (R437, R438). What another device's home makes of the page is checked there (R266). -/
def State.keyFits (s : State) (asid : Nat) (l : Leaf) : Bool :=
  let owner := s.ifaces.find? (fun p => p.2.asid == some asid)
  if l.key = 0 then owner.isNone
  else
    (match owner with
      | some p => decide (p.2.keyFirst ≤ l.key ∧ l.key < p.2.keyFirst + p.2.keyCount)
      | none => true) &&
    (l.dev != s.dev.toNat || (s.keys.get {} l.key).ranges.any (fun r => decide (r.1 ≤ l.addr ∧ l.addr + 2 ^ l.bits ≤ r.1 + r.2)))

/-- What makes a leaf valid at the walk (R341). -/
def State.leafFits (s : State) (asid e bits : Nat) : Option Leaf :=
  let l := leafOf e bits
  if bits ≠ 0 ∧ field e 48 8 = 0 ∧ field e 15 1 = 0 ∧ l.addr % 2 ^ bits = 0 ∧ l.addr + 2 ^ bits ≤ hbmEnd ∧
      s.keyFits asid l = true
  then some l else none

/-- The levels of a walk: the lowest DVA bit and the number of bits of the index, and the page size in bits
where a leaf is allowed (0: none). -/
def walkLevels : List (Nat × Nat × Nat) := [(46, 11, 0), (37, 9, 0), (28, 9, 28), (21, 7, 21), (16, 5, 16)]

/-- The walk from a table downward (R341); none where an entry is invalid. -/
def State.walkFrom (s : State) (asid dva table : Nat) : List (Nat × Nat × Nat) → Option Leaf
  | [] => none
  | (lo, n, bits) :: rest =>
    let e := s.memRead (s.local (table + 8 * field dva lo n)) 8
    if !bitAt e 0 then none
    else if bitAt e 1 then s.leafFits asid e bits
    else if field e 48 16 = 0 ∧ field e 2 10 = 0 ∧ field e 12 36 * 2 ^ 12 < hbmEnd then
      s.walkFrom asid dva (field e 12 36 * 2 ^ 12) rest
    else none

/-- The walk of an address space's tables for a DVA. -/
def State.walk (s : State) (asid dva : Nat) : Option Leaf :=
  s.walkFrom asid dva (s.roots.get 0 asid) walkLevels

/-- The physical address of a DVA under a leaf. -/
def Leaf.phys (l : Leaf) (dva : Nat) : Nat := l.dev * 2 ^ 48 + l.addr + dva % 2 ^ l.bits

/-- The leaf of the fixed map of command-processor threads (R436). -/
def State.fixedLeaf (s : State) (dva : Nat) : Leaf :=
  { dev := s.dev.toNat, addr := field dva 16 32 * 2 ^ 16, key := 0, nospec := true, once := false, w := true,
    rd := true, bits := 16 }

/-- The outcome type of every meaning. -/
abbrev Out := Host.Outcome State Fault Refusal

end Sys2Proof.Machine
end

