-- ==== Sys2Proof/Machine/Bank.lean ====
section
/-! DEFINITION. The deck's banks (R263, R315, R316): who waits for a bank, whom it serves in a tick, and what follows once
every bank that an access needs has served it. -/

namespace Sys2Proof.Machine

/-- The banks of `n` bytes at a deck address, one for each doubleword. -/
def banksOf (a n : Nat) : List Nat := (List.range ((a % 8 + n + 7) / 8)).map fun i => (a / 8 + i) % 128

/-- A thread's requester number (R263), the numbers of a core's matrix engine and copy engine, and that of the cluster
memory port (R316). -/
def requester (t : Nat) : Nat := logical (coreOf t) * 16 + slotOf t
def mxNumber (core : Nat) : Nat := 2 * logical core
def copyNumber (core : Nat) : Nat := 2 * logical core + 1
def portNumber : Nat := 32

/-- The core of a cluster with a logical number. -/
def coreIn (cluster l : Nat) : Nat := if cluster < 512 then cluster * 16 + l else 8192 + (cluster - 512)

/-- Ticks from the issue of a deck access to its reply when no bank is contended, which is the first tick in which the banks
may serve it (R118). -/
def deckTrip : Nat := 6

/-- A request for banks joins those that wait. -/
def State.ask (s : State) (x : Ask) : State := { s with asks := s.asks ++ [x] }

/-- A thread's unit asks for `n` bytes of the deck and waits. -/
def State.askUnit (s : State) (t a n : Nat) : State :=
  s.ask { cluster := clusterOf (coreOf t), number := requester t, since := s.now + deckTrip, banks := banksOf a n,
          asker := .unit t }

/-- The copy engine of a core asks for banks. -/
def State.askCopy (s : State) (core : Nat) (banks : List Nat) (by_ : Asker) : State :=
  s.ask { cluster := clusterOf core, engine := true, number := copyNumber core, since := s.now, banks := banks, asker := by_ }

/-- The cluster memory port asks for the banks of a block. -/
def State.askPort (s : State) (cluster : Nat) (banks : List Nat) (by_ : Asker) : State :=
  s.ask { cluster := cluster, engine := true, number := portNumber, since := s.now, banks := banks, asker := by_ }

/-- The request waits at a bank now. -/
def Ask.wants (x : Ask) (now cluster bank : Nat) : Bool :=
  x.cluster == cluster && decide (x.since ≤ now) && x.banks.contains bank

/-- Round robin: the lowest number above the last one served, wrapping to the lowest (R263). -/
def nextNumber (last : Nat) (ns : List Nat) : Option Nat :=
  match (ns.filter fun n => decide (last < n)).min? with
  | some n => some n
  | none => ns.min?

/-- The numbers of one class that wait at a bank; the pieces of matrix operations wait with the engines (R315). -/
def State.waitingAt (s : State) (engine : Bool) (cluster bank : Nat) : List Nat :=
  ((s.asks.filter fun x => x.engine == engine && x.wants s.now cluster bank).map (·.number)) ++
    if engine then
      (s.cores.filter fun (p : Nat × Core) => clusterOf p.1 == cluster && p.2.mxNeed.contains bank).map fun p => mxNumber p.1
    else []

/-- The first request that fits has been served by a bank. -/
def serveFirst (f : Ask → Bool) (bank : Nat) : List Ask → List Ask
  | [] => []
  | x :: xs => if f x then { x with banks := x.banks.erase bank } :: xs else x :: serveFirst f bank xs

/-- A bank's access of a requester: its oldest request, or a piece of its matrix operation. -/
def State.grantBank (s : State) (engine : Bool) (n cluster bank : Nat) : State :=
  let f (x : Ask) : Bool := x.engine == engine && x.number == n && x.wants s.now cluster bank
  if s.asks.any f then { s with asks := serveFirst f bank s.asks }
  else s.modCore (coreIn cluster (n / 2)) fun c => { c with mxNeed := c.mxNeed.erase bank }

/-- One tick of a bank: where both classes wait it serves the one that it did not serve at its last such tick, and in a
class the next number (R263, R316). -/
def State.serveBank (s : State) (cluster bank : Nat) : State :=
  let ts := s.waitingAt false cluster bank
  let es := s.waitingAt true cluster bank
  let x := s.banks.get {} (cluster * 128 + bank)
  let both := !ts.isEmpty && !es.isEmpty
  let engine := if both then !x.engineLast else ts.isEmpty
  match nextNumber (if engine then x.engine else x.thread) (if engine then es else ts) with
  | none => s
  | some n =>
    let y : Bank := if engine then { x with engine := n } else { x with thread := n }
    { s with banks := s.banks.put (cluster * 128 + bank) (if both then { y with engineLast := engine } else y) }.grantBank
      engine n cluster bank

/-- The banks at which something waits in this tick, by cluster · 128 + bank. -/
def State.busyBanks (s : State) : List Nat :=
  (((s.asks.filter fun x => decide (x.since ≤ s.now)).flatMap fun x => x.banks.map fun b => x.cluster * 128 + b) ++
    s.cores.flatMap fun (p : Nat × Core) => p.2.mxNeed.map fun b => clusterOf p.1 * 128 + b).eraseDups

/-- Every bank serves one access. -/
def State.serveBanks (s : State) : State := s.busyBanks.foldl (fun s k => s.serveBank (k / 128) (k % 128)) s

/-- The banks that the copy engine of a core waits for now. -/
def State.copyDebt (s : State) (core : Nat) : Nat :=
  s.asks.foldl (fun n x => if x.engine && x.number == copyNumber core && x.cluster == clusterOf core && decide (x.since ≤ s.now)
    then n + x.banks.length else n) 0

end Sys2Proof.Machine
end

