-- ==== Sys2Proof/WellFormed.lean ====
section
/-! DEFINITION. Which combinations of operand values are instructions: the values of a field that its
chapter does not assign make the unit ILLEGAL (R63, R79, R157), and those that the operand types do not
already rule out are refused here. The steps that have no encoding carry no such field. -/

namespace Sys2Proof

/-- The width of an element in bits (R157). -/
def Width.bits : Width → Nat
  | .b8 => 8
  | .h16 => 16
  | .w32 => 32
  | .d64 => 64

/-- The number of lanes of a vector register (R157). -/
def Width.lanes : Width → Nat
  | .b8 => 16
  | .h16 => 8
  | .w32 => 4
  | .d64 => 2

/-- The operand values an instruction admits: shift immediates below the lane width (R164), wider forms of
16 bits or more (R166), broadcast lanes (R168), parts of a register (R169), lane numbers below the lane
count (R175), two different rings (R190). -/
def Instr.wellFormed : Instr → Bool
  | .add _ _ _ => true
  | .sub _ _ _ => true
  | .and _ _ _ => true
  | .or _ _ _ => true
  | .xor _ _ _ => true
  | .andn _ _ _ => true
  | .orn _ _ _ => true
  | .sll _ _ _ => true
  | .srl _ _ _ => true
  | .sra _ _ _ => true
  | .rol _ _ _ => true
  | .ror _ _ _ => true
  | .slt _ _ _ => true
  | .sltu _ _ _ => true
  | .min _ _ _ => true
  | .max _ _ _ => true
  | .minu _ _ _ => true
  | .maxu _ _ _ => true
  | .cmov _ _ _ => true
  | .addw _ _ _ => true
  | .subw _ _ _ => true
  | .sllw _ _ _ => true
  | .srlw _ _ _ => true
  | .sraw _ _ _ => true
  | .mul _ _ _ => true
  | .mulh _ _ _ => true
  | .mulhu _ _ _ => true
  | .mulhsu _ _ _ => true
  | .div _ _ _ => true
  | .divu _ _ _ => true
  | .rem _ _ _ => true
  | .remu _ _ _ => true
  | .mulw _ _ _ => true
  | .divw _ _ _ => true
  | .remw _ _ _ => true
  | .divisionWrite _ => true
  | .popc _ _ => true
  | .clz _ _ => true
  | .ctz _ _ => true
  | .brev _ _ => true
  | .bswap _ _ => true
  | .bext _ _ _ => true
  | .bins _ _ _ => true
  | .sextB _ _ => true
  | .sextH _ _ => true
  | .sextW _ _ => true
  | .zextB _ _ => true
  | .zextH _ _ => true
  | .zextW _ _ => true
  | .lsb _ _ => true
  | .msk _ _ => true
  | .addi _ _ _ => true
  | .andi _ _ _ => true
  | .ori _ _ _ => true
  | .xori _ _ _ => true
  | .slti _ _ _ => true
  | .sltiu _ _ _ => true
  | .addiw _ _ _ => true
  | .slli _ _ _ => true
  | .srli _ _ _ => true
  | .srai _ _ _ => true
  | .slliw _ _ _ => true
  | .srliw _ _ _ => true
  | .sraiw _ _ _ => true
  | .lui _ _ => true
  | .lpc _ _ => true
  | .jal _ _ => true
  | .jalr _ _ _ => true
  | .beq _ _ _ => true
  | .bne _ _ _ => true
  | .blt _ _ _ => true
  | .bge _ _ _ => true
  | .bltu _ _ _ => true
  | .bgeu _ _ _ => true
  | .bany _ _ _ => true
  | .ball _ _ _ => true
  | .bnone _ _ _ => true
  | .bbs _ _ _ => true
  | .bbc _ _ _ => true
  | .ldB _ _ _ _ => true
  | .ldBu _ _ _ _ => true
  | .ldH _ _ _ _ => true
  | .ldHu _ _ _ _ => true
  | .ldW _ _ _ _ => true
  | .ldWu _ _ _ _ => true
  | .ldD _ _ _ _ => true
  | .stB _ _ _ _ => true
  | .stH _ _ _ _ => true
  | .stW _ _ _ _ => true
  | .stD _ _ _ _ => true
  | .vld _ _ _ _ => true
  | .vst _ _ _ _ => true
  | .ldBIndexed _ _ _ _ => true
  | .ldBuIndexed _ _ _ _ => true
  | .ldHIndexed _ _ _ _ => true
  | .ldHuIndexed _ _ _ _ => true
  | .ldWIndexed _ _ _ _ => true
  | .ldWuIndexed _ _ _ _ => true
  | .ldDIndexed _ _ _ _ => true
  | .stBIndexed _ _ _ _ => true
  | .stHIndexed _ _ _ _ => true
  | .stWIndexed _ _ _ _ => true
  | .stDIndexed _ _ _ _ => true
  | .vldIndexed _ _ _ _ => true
  | .vstIndexed _ _ _ _ => true
  | .loadReply _ => true
  | .bwait _ _ => true
  | .bhold _ _ _ => true
  | .barm _ _ _ => true
  | .bpoll _ _ _ => true
  | .bgen _ _ _ => true
  | .bclr _ _ => true
  | .bclrG _ _ _ => true
  | .bfin _ _ => true
  | .amoAddW _ _ _ _ => true
  | .amoAndW _ _ _ _ => true
  | .amoOrW _ _ _ _ => true
  | .amoXorW _ _ _ _ => true
  | .amoMinW _ _ _ _ => true
  | .amoMaxW _ _ _ _ => true
  | .amoMinuW _ _ _ _ => true
  | .amoMaxuW _ _ _ _ => true
  | .amoSwapW _ _ _ _ => true
  | .amoCasW _ _ _ _ => true
  | .amoFaddW _ _ _ _ => true
  | .amoIncW _ _ _ _ => true
  | .amoAddD _ _ _ _ => true
  | .amoAndD _ _ _ _ => true
  | .amoOrD _ _ _ _ => true
  | .amoXorD _ _ _ _ => true
  | .amoMinD _ _ _ _ => true
  | .amoMaxD _ _ _ _ => true
  | .amoMinuD _ _ _ _ => true
  | .amoMaxuD _ _ _ _ => true
  | .amoSwapD _ _ _ _ => true
  | .amoCasD _ _ _ _ => true
  | .amoIncD _ _ _ _ => true
  | .fenceAcq _ => true
  | .fenceRel _ => true
  | .fenceFull _ => true
  | .rlx => true
  | .rep _ _ => true
  | .illegalUnit _ => true
  | .cAddi _ _ _ => true
  | .cLi _ _ => true
  | .cMv _ _ => true
  | .cAdd _ _ => true
  | .cSub _ _ => true
  | .cAnd _ _ => true
  | .cSlli _ _ => true
  | .cSrli _ _ => true
  | .cBeqz _ _ => true
  | .cBnez _ _ => true
  | .cLdD _ _ _ => true
  | .cStD _ _ _ => true
  | .cVld _ _ _ => true
  | .cVst _ _ _ => true
  | .cJ _ => true
  | .vadd _ _ _ _ => true
  | .vsub _ _ _ _ => true
  | .vadds _ _ _ _ => true
  | .vaddsu _ _ _ _ => true
  | .vsubs _ _ _ _ => true
  | .vsubsu _ _ _ _ => true
  | .vmul _ _ _ _ => true
  | .vmulh _ _ _ _ => true
  | .vmulhu _ _ _ _ => true
  | .vmin _ _ _ _ => true
  | .vminu _ _ _ _ => true
  | .vmax _ _ _ _ => true
  | .vmaxu _ _ _ _ => true
  | .vabsd _ _ _ _ => true
  | .vavgu _ _ _ _ => true
  | .vand _ _ _ => true
  | .vor _ _ _ => true
  | .vxor _ _ _ => true
  | .vandn _ _ _ => true
  | .vbsl _ _ _ => true
  | .vsll _ _ _ _ => true
  | .vsrl _ _ _ _ => true
  | .vsra _ _ _ _ => true
  | .vslli _ _ k w => decide (k.toNat < w.bits)
  | .vsrli _ _ k w => decide (k.toNat < w.bits)
  | .vsrai _ _ k w => decide (k.toNat < w.bits)
  | .vceq _ _ _ _ => true
  | .vcne _ _ _ _ => true
  | .vclt _ _ _ _ => true
  | .vcltu _ _ _ _ => true
  | .vcle _ _ _ _ => true
  | .vcleu _ _ _ _ => true
  | .vfceq _ _ _ _ => true
  | .vfcne _ _ _ _ => true
  | .vfclt _ _ _ _ => true
  | .vfcle _ _ _ _ => true
  | .vfcun _ _ _ _ => true
  | .vshuf _ _ _ _ => true
  | .vzipl _ _ _ _ => true
  | .vziph _ _ _ _ => true
  | .vunzipe _ _ _ _ => true
  | .vunzipo _ _ _ _ => true
  | .vrev _ _ _ => true
  | .vpacks _ _ _ w => decide (w ≠ .b8)
  | .vpacksu _ _ _ w => decide (w ≠ .b8)
  | .vwidenl _ _ w => decide (w ≠ .b8)
  | .vwidenh _ _ w => decide (w ≠ .b8)
  | .vwidenlu _ _ w => decide (w ≠ .b8)
  | .vwidenhu _ _ w => decide (w ≠ .b8)
  | .vfadd _ _ _ _ => true
  | .vfsub _ _ _ _ => true
  | .vfmul _ _ _ _ => true
  | .vfmin _ _ _ _ => true
  | .vfmax _ _ _ _ => true
  | .vfabs _ _ _ => true
  | .vfneg _ _ _ => true
  | .vfround _ _ _ => true
  | .vfma _ _ _ l bc t => decide ((bc = false → l = 0) ∧ (t = .f32 → l.toNat < 4))
  | .vfms _ _ _ l bc t => decide ((bc = false → l = 0) ∧ (t = .f32 → l.toNat < 4))
  | .vcvtF16F32 _ _ p => decide (p.toNat < 2)
  | .vcvtBf16F32 _ _ p => decide (p.toNat < 2)
  | .vcvtE4m3F32 _ _ _ p => decide (p.toNat < 4)
  | .vcvtE5m2F32 _ _ _ p => decide (p.toNat < 4)
  | .vcvtE2m1F32 _ _ _ _ => true
  | .vcvtF16F32Sat _ _ p => decide (p.toNat < 2)
  | .vcvtBf16F32Sat _ _ p => decide (p.toNat < 2)
  | .vcvtE4m3F32Sat _ _ _ p => decide (p.toNat < 4)
  | .vcvtE5m2F32Sat _ _ _ p => decide (p.toNat < 4)
  | .vcvtE2m1F32Sat _ _ _ _ => true
  | .vcvtF32F16 _ _ p => decide (p.toNat < 2)
  | .vcvtF32Bf16 _ _ p => decide (p.toNat < 2)
  | .vcvtF32E4m3 _ _ _ p => decide (p.toNat < 4)
  | .vcvtF32E5m2 _ _ _ p => decide (p.toNat < 4)
  | .vcvtF32E2m1 _ _ _ _ => true
  | .vcvtI32F32 _ _ => true
  | .vcvtF32I32 _ _ => true
  | .vrsum _ _ _ => true
  | .vrsumu _ _ _ => true
  | .vrmin _ _ _ => true
  | .vrminu _ _ _ => true
  | .vrmax _ _ _ => true
  | .vrmaxu _ _ _ => true
  | .vfrsum _ _ _ => true
  | .vfrmin _ _ _ => true
  | .vfrmax _ _ _ => true
  | .vmv _ _ => true
  | .vbcst _ _ _ => true
  | .vins _ _ l w => decide (l.toNat < w.lanes)
  | .vextr _ _ l w => decide (l.toNat < w.lanes)
  | .vextru _ _ l w => decide (l.toNat < w.lanes)
  | .vmexp _ _ _ => true
  | .vfrcp _ _ => true
  | .vfrsq _ _ => true
  | .vfexp2 _ _ => true
  | .vflog2 _ _ => true
  | .vfdiv _ _ _ => true
  | .vfsqrt _ _ => true
  | .specialFunctionWrite _ => true
  | .mxCfg _ => true
  | .mxRing _ _ => true
  | .mxZero _ _ => true
  | .mxMma _ ra rb _ _ _ => decide (ra ≠ rb)
  | .mxMma4 ra rb _ _ _ => decide (ra ≠ rb)
  | .mxScale _ _ => true
  | .mxDrain _ _ _ _ _ => true
  | .mxLoad _ _ _ _ => true
  | .mxPush _ => true
  | .mxPop _ => true
  | .matrixOperationStart _ => true
  | .matrixOperationEnd _ => true
  | .cpIn _ _ _ _ _ => true
  | .cpOut _ _ _ _ _ => true
  | .cpDd _ _ _ _ => true
  | .cpGather _ _ _ _ _ => true
  | .cpPf _ _ => true
  | .copyAcceptance _ => true
  | .copyUnitRequest _ => true
  | .copyUnitDone _ _ => true
  | .smBind _ _ => true
  | .smFree _ => true
  | .smSkip _ _ => true
  | .streamRefill _ _ => true
  | .streamUnitArrival _ _ => true
  | .tbInit _ _ => true
  | .tbArrive _ _ => true
  | .tbWait _ _ => true
  | .tbTest _ _ _ => true
  | .winOpen _ _ _ _ => true
  | .winFlush _ => true
  | .winClose _ => true
  | .winDrop _ => true
  | .windowFetchReply _ _ _ => true
  | .seqCfg _ => true
  | .seqStart _ => true
  | .seqStop => true
  | .seqRet => true
  | .sequencerEmit _ => true
  | .spawn _ _ _ => true
  | .exit => true
  | .yield => true
  | .park _ _ => true
  | .parkTimeout _ => true
  | .wake _ => true
  | .wakeArrival _ _ => true
  | .fuse _ _ => true
  | .split => true
  | .send _ _ => true
  | .recv _ _ => true
  | .recvp _ _ => true
  | .mig _ => true
  | .messageDelivery _ => true
  | .routineSpawn _ => true
  | .overflowMove _ => true
  | .flowControlRelease _ => true
  | .barInit _ _ => true
  | .barArrive _ _ => true
  | .barWait _ _ => true
  | .barSync _ => true
  | .wfe => true
  | .sev _ => true
  | .eventArrival _ _ => true
  | .csrr _ _ => true
  | .csrw _ _ => true
  | .csrs _ _ => true
  | .csrc _ _ => true
  | .trap _ => true
  | .brk => true
  | .eret => true
  | .segw _ _ _ _ => true
  | .tlbinv _ _ => true
  | .scrub _ _ _ => true
  | .twinOn _ => true
  | .twinOff => true
  | .twinCompare _ => true
  | .translationWalk _ _ => true
  | .faultServe _ _ => true
  | .faultReject _ _ => true
  | .pageFaultWake _ _ _ => true
  | .setAside _ => true
  | .setAsideReturn _ => true
  | .homeLoad _ => true
  | .homeCoveringStore _ => true
  | .homeBfin _ => true
  | .homeBhold _ => true
  | .homeBarm _ => true
  | .homeClear _ => true
  | .waiterWithdrawal _ _ => true
  | .holdWithdrawal _ _ => true
  | .poolBlockFreed _ => true
  | .blockPoisoning _ => true
  | .gets _ _ => true
  | .getm _ _ => true
  | .upg _ _ => true
  | .wb _ _ => true
  | .rcl _ _ => true
  | .inv _ _ => true
  | .wrw _ => true
  | .writebackArrival _ => true
  | .recallReply _ => true
  | .recallTimeout _ => true
  | .holderFailure _ => true
  | .rowActivation _ _ => true
  | .refreshWindowEnd _ => true
  | .placementDecision _ => true
  | .crewRetirement _ => true
  | .relief _ => true
  | .preemptionRequest _ => true
  | .threadStop _ => true
  | .contextSave _ => true
  | .killScrubEnd _ => true
  | .joinNotice _ _ _ _ _ => true
  | .packetTake _ => true
  | .proofRunRetirement _ => true
  | .journalSpaceFreed _ => true
  | .rowRemap _ => true
  | .siteInjectorWrite _ _ => true
  | .strainLimitWrite _ => true
  | .siteReopen _ _ => true
  | .flitReceive _ _ _ _ _ => true
  | .ack _ _ => true
  | .nak _ _ => true
  | .ackTimer _ => true
  | .retrain _ => true
  | .portDown _ => true
  | .laneInjectorWrite _ _ _ => true
  | .routeTableWrite _ _ => true
  | .notify _ _ _ => true
  | .qctl _ _ _ => true
  | .qring _ _ _ => true
  | .qstop _ _ _ => true
  | .registerWrite _ _ _ => true
  | .hostRead _ _ _ => true
  | .hostWrite _ _ _ _ => true
  | .hostSectorRequest _ _ _ => true
  | .functionLevelReset _ => true
  | .claunch _ _ => true
  | .cstat _ => true
  | .cdec _ _ => true
  | .attestationRequest _ _ => true
  | .keyLoad _ _ _ => true
  | .keyDestroy _ => true
  | .keyClearingDone _ => true
  | .keyRelease _ => true
  | .packageReset => true
  | .checkpoint _ => true
  | .powerLimitWrite _ => true
  | .powerStepDown => true
  | .powerStepUp => true
  | .memoryReply _ => true
  | .tick => true
  | .retrainCompletion _ _ => true
  | .injectedDelayExpiry _ => true
  | .checkpointRestore _ => true
  | .measurementExtension _ _ _ => true
  | .configurationChange _ _ _ => true

end Sys2Proof
end

