-- ==== Sys2Proof/Decode.lean ====
section
/-! DEFINITION. Decoding and encoding. `decode` reads one instruction or prefix from a list of bytes and
rejects by name what is not one; `unitOf` forms a unit from a prefix or two and the instruction that
follows (R59 to R68, R84); `encode` writes the halfwords of an instruction from the same tables. -/

namespace Sys2Proof

open Machine

-- Lean compiles no code that builds the constructors of Instr past the 245th: what builds them is left uncompiled.
noncomputable section

/-- Bits `lo + n - 1` to `lo` of a word, as a field of `n` bits. -/
def bitsAt (n w lo : Nat) : BitVec n := BitVec.ofNat n (w / 2 ^ lo)

/-- The width code of R157. -/
def Width.code : Width → Nat
  | .b8 => 0
  | .h16 => 1
  | .w32 => 2
  | .d64 => 3

/-- The type code of R157. -/
def FType.code : FType → Nat
  | .f32 => 0
  | .f16 => 1
  | .bf16 => 2

/-- The scope code of R78. -/
def Scope.code : Scope → Nat
  | .cluster => 0
  | .package => 1
  | .system => 2

/-- The width that a two-bit code names. -/
def widthAt (w lo : Nat) : Width :=
  match field w lo 2 with
  | 0 => .b8
  | 1 => .h16
  | 2 => .w32
  | _ => .d64

/-- The type that a two-bit code below 3 names. -/
def ftypeAt (w lo : Nat) : FType :=
  match field w lo 2 with
  | 0 => .f32
  | 1 => .f16
  | _ => .bf16

/-- The scope that a two-bit code below 3 names. -/
def scopeAt (w lo : Nat) : Scope :=
  match field w lo 2 with
  | 0 => .cluster
  | 1 => .package
  | _ => .system


/-- Major 0x00 (R100 and its format). -/
def decodeOp (w : Nat) : Option Instr :=
  if field w 25 7 = 0 then some (.add (bitsAt 6 w 7) (bitsAt 6 w 13) (bitsAt 6 w 19))
  else if field w 25 7 = 1 then some (.sub (bitsAt 6 w 7) (bitsAt 6 w 13) (bitsAt 6 w 19))
  else if field w 25 7 = 2 then some (.and (bitsAt 6 w 7) (bitsAt 6 w 13) (bitsAt 6 w 19))
  else if field w 25 7 = 3 then some (.or (bitsAt 6 w 7) (bitsAt 6 w 13) (bitsAt 6 w 19))
  else if field w 25 7 = 4 then some (.xor (bitsAt 6 w 7) (bitsAt 6 w 13) (bitsAt 6 w 19))
  else if field w 25 7 = 5 then some (.andn (bitsAt 6 w 7) (bitsAt 6 w 13) (bitsAt 6 w 19))
  else if field w 25 7 = 6 then some (.orn (bitsAt 6 w 7) (bitsAt 6 w 13) (bitsAt 6 w 19))
  else if field w 25 7 = 7 then some (.sll (bitsAt 6 w 7) (bitsAt 6 w 13) (bitsAt 6 w 19))
  else if field w 25 7 = 8 then some (.srl (bitsAt 6 w 7) (bitsAt 6 w 13) (bitsAt 6 w 19))
  else if field w 25 7 = 9 then some (.sra (bitsAt 6 w 7) (bitsAt 6 w 13) (bitsAt 6 w 19))
  else if field w 25 7 = 10 then some (.rol (bitsAt 6 w 7) (bitsAt 6 w 13) (bitsAt 6 w 19))
  else if field w 25 7 = 11 then some (.ror (bitsAt 6 w 7) (bitsAt 6 w 13) (bitsAt 6 w 19))
  else if field w 25 7 = 12 then some (.slt (bitsAt 6 w 7) (bitsAt 6 w 13) (bitsAt 6 w 19))
  else if field w 25 7 = 13 then some (.sltu (bitsAt 6 w 7) (bitsAt 6 w 13) (bitsAt 6 w 19))
  else if field w 25 7 = 14 then some (.min (bitsAt 6 w 7) (bitsAt 6 w 13) (bitsAt 6 w 19))
  else if field w 25 7 = 15 then some (.max (bitsAt 6 w 7) (bitsAt 6 w 13) (bitsAt 6 w 19))
  else if field w 25 7 = 16 then some (.minu (bitsAt 6 w 7) (bitsAt 6 w 13) (bitsAt 6 w 19))
  else if field w 25 7 = 17 then some (.maxu (bitsAt 6 w 7) (bitsAt 6 w 13) (bitsAt 6 w 19))
  else if field w 25 7 = 18 then some (.cmov (bitsAt 6 w 7) (bitsAt 6 w 13) (bitsAt 6 w 19))
  else if field w 25 7 = 19 then some (.addw (bitsAt 6 w 7) (bitsAt 6 w 13) (bitsAt 6 w 19))
  else if field w 25 7 = 20 then some (.subw (bitsAt 6 w 7) (bitsAt 6 w 13) (bitsAt 6 w 19))
  else if field w 25 7 = 21 then some (.sllw (bitsAt 6 w 7) (bitsAt 6 w 13) (bitsAt 6 w 19))
  else if field w 25 7 = 22 then some (.srlw (bitsAt 6 w 7) (bitsAt 6 w 13) (bitsAt 6 w 19))
  else if field w 25 7 = 23 then some (.sraw (bitsAt 6 w 7) (bitsAt 6 w 13) (bitsAt 6 w 19))
  else none

/-- Major 0x01 (R101 and its format). -/
def decodeMul (w : Nat) : Option Instr :=
  if field w 25 7 = 0 then some (.mul (bitsAt 6 w 7) (bitsAt 6 w 13) (bitsAt 6 w 19))
  else if field w 25 7 = 1 then some (.mulh (bitsAt 6 w 7) (bitsAt 6 w 13) (bitsAt 6 w 19))
  else if field w 25 7 = 2 then some (.mulhu (bitsAt 6 w 7) (bitsAt 6 w 13) (bitsAt 6 w 19))
  else if field w 25 7 = 3 then some (.mulhsu (bitsAt 6 w 7) (bitsAt 6 w 13) (bitsAt 6 w 19))
  else if field w 25 7 = 4 then some (.div (bitsAt 6 w 7) (bitsAt 6 w 13) (bitsAt 6 w 19))
  else if field w 25 7 = 5 then some (.divu (bitsAt 6 w 7) (bitsAt 6 w 13) (bitsAt 6 w 19))
  else if field w 25 7 = 6 then some (.rem (bitsAt 6 w 7) (bitsAt 6 w 13) (bitsAt 6 w 19))
  else if field w 25 7 = 7 then some (.remu (bitsAt 6 w 7) (bitsAt 6 w 13) (bitsAt 6 w 19))
  else if field w 25 7 = 8 then some (.mulw (bitsAt 6 w 7) (bitsAt 6 w 13) (bitsAt 6 w 19))
  else if field w 25 7 = 9 then some (.divw (bitsAt 6 w 7) (bitsAt 6 w 13) (bitsAt 6 w 19))
  else if field w 25 7 = 10 then some (.remw (bitsAt 6 w 7) (bitsAt 6 w 13) (bitsAt 6 w 19))
  else none

/-- Major 0x02 (R103 and its format). -/
def decodeBit (w : Nat) : Option Instr :=
  if field w 19 13 = 0 then some (.popc (bitsAt 6 w 7) (bitsAt 6 w 13))
  else if field w 19 13 = 64 then some (.clz (bitsAt 6 w 7) (bitsAt 6 w 13))
  else if field w 19 13 = 128 then some (.ctz (bitsAt 6 w 7) (bitsAt 6 w 13))
  else if field w 19 13 = 192 then some (.brev (bitsAt 6 w 7) (bitsAt 6 w 13))
  else if field w 19 13 = 256 then some (.bswap (bitsAt 6 w 7) (bitsAt 6 w 13))
  else if field w 25 7 = 5 then some (.bext (bitsAt 6 w 7) (bitsAt 6 w 13) (bitsAt 6 w 19))
  else if field w 25 7 = 6 then some (.bins (bitsAt 6 w 7) (bitsAt 6 w 13) (bitsAt 6 w 19))
  else if field w 19 13 = 448 then some (.sextB (bitsAt 6 w 7) (bitsAt 6 w 13))
  else if field w 19 13 = 512 then some (.sextH (bitsAt 6 w 7) (bitsAt 6 w 13))
  else if field w 19 13 = 576 then some (.sextW (bitsAt 6 w 7) (bitsAt 6 w 13))
  else if field w 19 13 = 640 then some (.zextB (bitsAt 6 w 7) (bitsAt 6 w 13))
  else if field w 19 13 = 704 then some (.zextH (bitsAt 6 w 7) (bitsAt 6 w 13))
  else if field w 19 13 = 768 then some (.zextW (bitsAt 6 w 7) (bitsAt 6 w 13))
  else if field w 19 13 = 832 then some (.lsb (bitsAt 6 w 7) (bitsAt 6 w 13))
  else if field w 19 13 = 896 then some (.msk (bitsAt 6 w 7) (bitsAt 6 w 13))
  else none

/-- Major 0x09 (R105 and its format). -/
def decodeShiftImm (w : Nat) : Option Instr :=
  if field w 25 7 = 0 then some (.slli (bitsAt 6 w 7) (bitsAt 6 w 13) (bitsAt 6 w 19))
  else if field w 25 7 = 2 then some (.srli (bitsAt 6 w 7) (bitsAt 6 w 13) (bitsAt 6 w 19))
  else if field w 25 7 = 4 then some (.srai (bitsAt 6 w 7) (bitsAt 6 w 13) (bitsAt 6 w 19))
  else if field w 24 8 = 12 then some (.slliw (bitsAt 6 w 7) (bitsAt 6 w 13) (bitsAt 5 w 19))
  else if field w 24 8 = 16 then some (.srliw (bitsAt 6 w 7) (bitsAt 6 w 13) (bitsAt 5 w 19))
  else if field w 24 8 = 20 then some (.sraiw (bitsAt 6 w 7) (bitsAt 6 w 13) (bitsAt 5 w 19))
  else none

/-- Major 0x15 (R110 and its format). -/
def decodeMaskTest (w : Nat) : Option Instr :=
  if field w 19 3 = 0 then some (.bany (bitsAt 6 w 13) (bitsAt 6 w 7) (bitsAt 10 w 22))
  else if field w 19 3 = 1 then some (.ball (bitsAt 6 w 13) (bitsAt 6 w 7) (bitsAt 10 w 22))
  else if field w 19 3 = 2 then some (.bnone (bitsAt 6 w 13) (bitsAt 6 w 7) (bitsAt 10 w 22))
  else if field w 19 3 = 3 then some (.bbs (bitsAt 6 w 13) (bitsAt 6 w 7) (bitsAt 10 w 22))
  else if field w 19 3 = 4 then some (.bbc (bitsAt 6 w 13) (bitsAt 6 w 7) (bitsAt 10 w 22))
  else none

/-- Major 0x25 (R116 and its format). -/
def decodeIndexed (w : Nat) : Option Instr :=
  if field w 28 4 = 0 then some (.ldBIndexed (bitsAt 6 w 7) (bitsAt 6 w 13) (bitsAt 6 w 19) (bitsAt 3 w 25))
  else if field w 28 4 = 1 then some (.ldBuIndexed (bitsAt 6 w 7) (bitsAt 6 w 13) (bitsAt 6 w 19) (bitsAt 3 w 25))
  else if field w 28 4 = 2 then some (.ldHIndexed (bitsAt 6 w 7) (bitsAt 6 w 13) (bitsAt 6 w 19) (bitsAt 3 w 25))
  else if field w 28 4 = 3 then some (.ldHuIndexed (bitsAt 6 w 7) (bitsAt 6 w 13) (bitsAt 6 w 19) (bitsAt 3 w 25))
  else if field w 28 4 = 4 then some (.ldWIndexed (bitsAt 6 w 7) (bitsAt 6 w 13) (bitsAt 6 w 19) (bitsAt 3 w 25))
  else if field w 28 4 = 5 then some (.ldWuIndexed (bitsAt 6 w 7) (bitsAt 6 w 13) (bitsAt 6 w 19) (bitsAt 3 w 25))
  else if field w 28 4 = 6 then some (.ldDIndexed (bitsAt 6 w 7) (bitsAt 6 w 13) (bitsAt 6 w 19) (bitsAt 3 w 25))
  else if field w 28 4 = 7 then some (.stBIndexed (bitsAt 6 w 7) (bitsAt 6 w 13) (bitsAt 6 w 19) (bitsAt 3 w 25))
  else if field w 28 4 = 8 then some (.stHIndexed (bitsAt 6 w 7) (bitsAt 6 w 13) (bitsAt 6 w 19) (bitsAt 3 w 25))
  else if field w 28 4 = 9 then some (.stWIndexed (bitsAt 6 w 7) (bitsAt 6 w 13) (bitsAt 6 w 19) (bitsAt 3 w 25))
  else if field w 28 4 = 10 then some (.stDIndexed (bitsAt 6 w 7) (bitsAt 6 w 13) (bitsAt 6 w 19) (bitsAt 3 w 25))
  else if field w 28 4 = 11 then some (.vldIndexed (bitsAt 6 w 7) (bitsAt 6 w 13) (bitsAt 6 w 19) (bitsAt 3 w 25))
  else if field w 28 4 = 12 then some (.vstIndexed (bitsAt 6 w 7) (bitsAt 6 w 13) (bitsAt 6 w 19) (bitsAt 3 w 25))
  else none

/-- Major 0x26 (R128 and its format). -/
def decodeBlock (w : Nat) : Option Instr :=
  if field w 28 4 = 0 ∧ field w 19 6 = 0 ∧ field w 7 6 = 0 then some (.bwait (bitsAt 6 w 13) (bitsAt 3 w 25))
  else if field w 28 4 = 1 ∧ field w 19 6 = 0 then some (.bhold (bitsAt 6 w 7) (bitsAt 6 w 13) (bitsAt 3 w 25))
  else if field w 28 4 = 2 ∧ field w 7 6 = 0 then some (.barm (bitsAt 6 w 13) (bitsAt 6 w 19) (bitsAt 3 w 25))
  else if field w 28 4 = 3 ∧ field w 19 6 = 0 then some (.bpoll (bitsAt 6 w 7) (bitsAt 6 w 13) (bitsAt 3 w 25))
  else if field w 28 4 = 4 ∧ field w 19 6 = 0 then some (.bgen (bitsAt 6 w 7) (bitsAt 6 w 13) (bitsAt 3 w 25))
  else if field w 28 4 = 5 ∧ field w 19 6 = 0 ∧ field w 7 6 = 0 then some (.bclr (bitsAt 6 w 13) (bitsAt 3 w 25))
  else if field w 28 4 = 6 ∧ field w 7 6 = 0 then some (.bclrG (bitsAt 6 w 13) (bitsAt 6 w 19) (bitsAt 3 w 25))
  else if field w 28 4 = 7 ∧ field w 19 6 = 0 ∧ field w 7 6 = 0 then some (.bfin (bitsAt 6 w 13) (bitsAt 3 w 25))
  else none

/-- Major 0x27 (R134 and its format). -/
def decodeAmoW (w : Nat) : Option Instr :=
  if field w 28 4 = 0 then some (.amoAddW (bitsAt 6 w 7) (bitsAt 6 w 13) (bitsAt 6 w 19) (bitsAt 3 w 25))
  else if field w 28 4 = 1 then some (.amoAndW (bitsAt 6 w 7) (bitsAt 6 w 13) (bitsAt 6 w 19) (bitsAt 3 w 25))
  else if field w 28 4 = 2 then some (.amoOrW (bitsAt 6 w 7) (bitsAt 6 w 13) (bitsAt 6 w 19) (bitsAt 3 w 25))
  else if field w 28 4 = 3 then some (.amoXorW (bitsAt 6 w 7) (bitsAt 6 w 13) (bitsAt 6 w 19) (bitsAt 3 w 25))
  else if field w 28 4 = 4 then some (.amoMinW (bitsAt 6 w 7) (bitsAt 6 w 13) (bitsAt 6 w 19) (bitsAt 3 w 25))
  else if field w 28 4 = 5 then some (.amoMaxW (bitsAt 6 w 7) (bitsAt 6 w 13) (bitsAt 6 w 19) (bitsAt 3 w 25))
  else if field w 28 4 = 6 then some (.amoMinuW (bitsAt 6 w 7) (bitsAt 6 w 13) (bitsAt 6 w 19) (bitsAt 3 w 25))
  else if field w 28 4 = 7 then some (.amoMaxuW (bitsAt 6 w 7) (bitsAt 6 w 13) (bitsAt 6 w 19) (bitsAt 3 w 25))
  else if field w 28 4 = 8 then some (.amoSwapW (bitsAt 6 w 7) (bitsAt 6 w 13) (bitsAt 6 w 19) (bitsAt 3 w 25))
  else if field w 28 4 = 9 then some (.amoCasW (bitsAt 6 w 7) (bitsAt 6 w 13) (bitsAt 6 w 19) (bitsAt 3 w 25))
  else if field w 28 4 = 10 then some (.amoFaddW (bitsAt 6 w 7) (bitsAt 6 w 13) (bitsAt 6 w 19) (bitsAt 3 w 25))
  else if field w 28 4 = 11 then some (.amoIncW (bitsAt 6 w 7) (bitsAt 6 w 13) (bitsAt 6 w 19) (bitsAt 3 w 25))
  else none

/-- Major 0x28 (R134 and its format). -/
def decodeAmoD (w : Nat) : Option Instr :=
  if field w 28 4 = 0 then some (.amoAddD (bitsAt 6 w 7) (bitsAt 6 w 13) (bitsAt 6 w 19) (bitsAt 3 w 25))
  else if field w 28 4 = 1 then some (.amoAndD (bitsAt 6 w 7) (bitsAt 6 w 13) (bitsAt 6 w 19) (bitsAt 3 w 25))
  else if field w 28 4 = 2 then some (.amoOrD (bitsAt 6 w 7) (bitsAt 6 w 13) (bitsAt 6 w 19) (bitsAt 3 w 25))
  else if field w 28 4 = 3 then some (.amoXorD (bitsAt 6 w 7) (bitsAt 6 w 13) (bitsAt 6 w 19) (bitsAt 3 w 25))
  else if field w 28 4 = 4 then some (.amoMinD (bitsAt 6 w 7) (bitsAt 6 w 13) (bitsAt 6 w 19) (bitsAt 3 w 25))
  else if field w 28 4 = 5 then some (.amoMaxD (bitsAt 6 w 7) (bitsAt 6 w 13) (bitsAt 6 w 19) (bitsAt 3 w 25))
  else if field w 28 4 = 6 then some (.amoMinuD (bitsAt 6 w 7) (bitsAt 6 w 13) (bitsAt 6 w 19) (bitsAt 3 w 25))
  else if field w 28 4 = 7 then some (.amoMaxuD (bitsAt 6 w 7) (bitsAt 6 w 13) (bitsAt 6 w 19) (bitsAt 3 w 25))
  else if field w 28 4 = 8 then some (.amoSwapD (bitsAt 6 w 7) (bitsAt 6 w 13) (bitsAt 6 w 19) (bitsAt 3 w 25))
  else if field w 28 4 = 9 then some (.amoCasD (bitsAt 6 w 7) (bitsAt 6 w 13) (bitsAt 6 w 19) (bitsAt 3 w 25))
  else if field w 28 4 = 11 then some (.amoIncD (bitsAt 6 w 7) (bitsAt 6 w 13) (bitsAt 6 w 19) (bitsAt 3 w 25))
  else none

/-- Major 0x29 (R145 and its format). -/
def decodeFence (w : Nat) : Option Instr :=
  if field w 23 9 = 0 ∧ field w 7 14 = 0 ∧ field w 21 2 < 3 then some (.fenceAcq (scopeAt w 21))
  else if field w 23 9 = 0 ∧ field w 7 14 = 4096 ∧ field w 21 2 < 3 then some (.fenceRel (scopeAt w 21))
  else if field w 23 9 = 0 ∧ field w 7 14 = 8192 ∧ field w 21 2 < 3 then some (.fenceFull (scopeAt w 21))
  else none

/-- Major 0x2C (R163 and its format). -/
def decodeVint (w : Nat) : Option Instr :=
  if field w 27 5 = 0 then some (.vadd (bitsAt 6 w 7) (bitsAt 6 w 13) (bitsAt 6 w 19) (widthAt w 25))
  else if field w 27 5 = 1 then some (.vsub (bitsAt 6 w 7) (bitsAt 6 w 13) (bitsAt 6 w 19) (widthAt w 25))
  else if field w 27 5 = 2 then some (.vadds (bitsAt 6 w 7) (bitsAt 6 w 13) (bitsAt 6 w 19) (widthAt w 25))
  else if field w 27 5 = 3 then some (.vaddsu (bitsAt 6 w 7) (bitsAt 6 w 13) (bitsAt 6 w 19) (widthAt w 25))
  else if field w 27 5 = 4 then some (.vsubs (bitsAt 6 w 7) (bitsAt 6 w 13) (bitsAt 6 w 19) (widthAt w 25))
  else if field w 27 5 = 5 then some (.vsubsu (bitsAt 6 w 7) (bitsAt 6 w 13) (bitsAt 6 w 19) (widthAt w 25))
  else if field w 27 5 = 6 then some (.vmul (bitsAt 6 w 7) (bitsAt 6 w 13) (bitsAt 6 w 19) (widthAt w 25))
  else if field w 27 5 = 7 then some (.vmulh (bitsAt 6 w 7) (bitsAt 6 w 13) (bitsAt 6 w 19) (widthAt w 25))
  else if field w 27 5 = 8 then some (.vmulhu (bitsAt 6 w 7) (bitsAt 6 w 13) (bitsAt 6 w 19) (widthAt w 25))
  else if field w 27 5 = 9 then some (.vmin (bitsAt 6 w 7) (bitsAt 6 w 13) (bitsAt 6 w 19) (widthAt w 25))
  else if field w 27 5 = 10 then some (.vminu (bitsAt 6 w 7) (bitsAt 6 w 13) (bitsAt 6 w 19) (widthAt w 25))
  else if field w 27 5 = 11 then some (.vmax (bitsAt 6 w 7) (bitsAt 6 w 13) (bitsAt 6 w 19) (widthAt w 25))
  else if field w 27 5 = 12 then some (.vmaxu (bitsAt 6 w 7) (bitsAt 6 w 13) (bitsAt 6 w 19) (widthAt w 25))
  else if field w 27 5 = 13 then some (.vabsd (bitsAt 6 w 7) (bitsAt 6 w 13) (bitsAt 6 w 19) (widthAt w 25))
  else if field w 27 5 = 14 then some (.vavgu (bitsAt 6 w 7) (bitsAt 6 w 13) (bitsAt 6 w 19) (widthAt w 25))
  else none

/-- Major 0x2D (R164 and its format). -/
def decodeVlog (w : Nat) : Option Instr :=
  if field w 25 7 = 0 then some (.vand (bitsAt 6 w 7) (bitsAt 6 w 13) (bitsAt 6 w 19))
  else if field w 25 7 = 4 then some (.vor (bitsAt 6 w 7) (bitsAt 6 w 13) (bitsAt 6 w 19))
  else if field w 25 7 = 8 then some (.vxor (bitsAt 6 w 7) (bitsAt 6 w 13) (bitsAt 6 w 19))
  else if field w 25 7 = 12 then some (.vandn (bitsAt 6 w 7) (bitsAt 6 w 13) (bitsAt 6 w 19))
  else if field w 25 7 = 16 then some (.vbsl (bitsAt 6 w 7) (bitsAt 6 w 13) (bitsAt 6 w 19))
  else if field w 27 5 = 5 then some (.vsll (bitsAt 6 w 7) (bitsAt 6 w 13) (bitsAt 6 w 19) (widthAt w 25))
  else if field w 27 5 = 6 then some (.vsrl (bitsAt 6 w 7) (bitsAt 6 w 13) (bitsAt 6 w 19) (widthAt w 25))
  else if field w 27 5 = 7 then some (.vsra (bitsAt 6 w 7) (bitsAt 6 w 13) (bitsAt 6 w 19) (widthAt w 25))
  else if field w 27 5 = 8 then some (.vslli (bitsAt 6 w 7) (bitsAt 6 w 13) (bitsAt 6 w 19) (widthAt w 25))
  else if field w 27 5 = 9 then some (.vsrli (bitsAt 6 w 7) (bitsAt 6 w 13) (bitsAt 6 w 19) (widthAt w 25))
  else if field w 27 5 = 10 then some (.vsrai (bitsAt 6 w 7) (bitsAt 6 w 13) (bitsAt 6 w 19) (widthAt w 25))
  else none

/-- Major 0x2E (R165 and its format). -/
def decodeVcmp (w : Nat) : Option Instr :=
  if field w 27 5 = 0 then some (.vceq (bitsAt 6 w 7) (bitsAt 6 w 13) (bitsAt 6 w 19) (widthAt w 25))
  else if field w 27 5 = 1 then some (.vcne (bitsAt 6 w 7) (bitsAt 6 w 13) (bitsAt 6 w 19) (widthAt w 25))
  else if field w 27 5 = 2 then some (.vclt (bitsAt 6 w 7) (bitsAt 6 w 13) (bitsAt 6 w 19) (widthAt w 25))
  else if field w 27 5 = 3 then some (.vcltu (bitsAt 6 w 7) (bitsAt 6 w 13) (bitsAt 6 w 19) (widthAt w 25))
  else if field w 27 5 = 4 then some (.vcle (bitsAt 6 w 7) (bitsAt 6 w 13) (bitsAt 6 w 19) (widthAt w 25))
  else if field w 27 5 = 5 then some (.vcleu (bitsAt 6 w 7) (bitsAt 6 w 13) (bitsAt 6 w 19) (widthAt w 25))
  else if field w 27 5 = 6 ∧ field w 25 2 < 3 then some (.vfceq (bitsAt 6 w 7) (bitsAt 6 w 13) (bitsAt 6 w 19) (ftypeAt w 25))
  else if field w 27 5 = 7 ∧ field w 25 2 < 3 then some (.vfcne (bitsAt 6 w 7) (bitsAt 6 w 13) (bitsAt 6 w 19) (ftypeAt w 25))
  else if field w 27 5 = 8 ∧ field w 25 2 < 3 then some (.vfclt (bitsAt 6 w 7) (bitsAt 6 w 13) (bitsAt 6 w 19) (ftypeAt w 25))
  else if field w 27 5 = 9 ∧ field w 25 2 < 3 then some (.vfcle (bitsAt 6 w 7) (bitsAt 6 w 13) (bitsAt 6 w 19) (ftypeAt w 25))
  else if field w 27 5 = 10 ∧ field w 25 2 < 3 then some (.vfcun (bitsAt 6 w 7) (bitsAt 6 w 13) (bitsAt 6 w 19) (ftypeAt w 25))
  else none

/-- Major 0x2F (R166 and its format). -/
def decodeVperm (w : Nat) : Option Instr :=
  if field w 27 5 = 0 then some (.vshuf (bitsAt 6 w 7) (bitsAt 6 w 13) (bitsAt 6 w 19) (widthAt w 25))
  else if field w 27 5 = 1 then some (.vzipl (bitsAt 6 w 7) (bitsAt 6 w 13) (bitsAt 6 w 19) (widthAt w 25))
  else if field w 27 5 = 2 then some (.vziph (bitsAt 6 w 7) (bitsAt 6 w 13) (bitsAt 6 w 19) (widthAt w 25))
  else if field w 27 5 = 3 then some (.vunzipe (bitsAt 6 w 7) (bitsAt 6 w 13) (bitsAt 6 w 19) (widthAt w 25))
  else if field w 27 5 = 4 then some (.vunzipo (bitsAt 6 w 7) (bitsAt 6 w 13) (bitsAt 6 w 19) (widthAt w 25))
  else if field w 27 5 = 5 ∧ field w 19 6 = 0 then some (.vrev (bitsAt 6 w 7) (bitsAt 6 w 13) (widthAt w 25))
  else if field w 27 5 = 6 then some (.vpacks (bitsAt 6 w 7) (bitsAt 6 w 13) (bitsAt 6 w 19) (widthAt w 25))
  else if field w 27 5 = 7 then some (.vpacksu (bitsAt 6 w 7) (bitsAt 6 w 13) (bitsAt 6 w 19) (widthAt w 25))
  else if field w 27 5 = 8 ∧ field w 19 6 = 0 then some (.vwidenl (bitsAt 6 w 7) (bitsAt 6 w 13) (widthAt w 25))
  else if field w 27 5 = 9 ∧ field w 19 6 = 0 then some (.vwidenh (bitsAt 6 w 7) (bitsAt 6 w 13) (widthAt w 25))
  else if field w 27 5 = 10 ∧ field w 19 6 = 0 then some (.vwidenlu (bitsAt 6 w 7) (bitsAt 6 w 13) (widthAt w 25))
  else if field w 27 5 = 11 ∧ field w 19 6 = 0 then some (.vwidenhu (bitsAt 6 w 7) (bitsAt 6 w 13) (widthAt w 25))
  else none

/-- Major 0x30 (R167 and its format). -/
def decodeVfp (w : Nat) : Option Instr :=
  if field w 27 5 = 0 ∧ field w 25 2 < 3 then some (.vfadd (bitsAt 6 w 7) (bitsAt 6 w 13) (bitsAt 6 w 19) (ftypeAt w 25))
  else if field w 27 5 = 1 ∧ field w 25 2 < 3 then some (.vfsub (bitsAt 6 w 7) (bitsAt 6 w 13) (bitsAt 6 w 19) (ftypeAt w 25))
  else if field w 27 5 = 2 ∧ field w 25 2 < 3 then some (.vfmul (bitsAt 6 w 7) (bitsAt 6 w 13) (bitsAt 6 w 19) (ftypeAt w 25))
  else if field w 27 5 = 3 ∧ field w 25 2 < 3 then some (.vfmin (bitsAt 6 w 7) (bitsAt 6 w 13) (bitsAt 6 w 19) (ftypeAt w 25))
  else if field w 27 5 = 4 ∧ field w 25 2 < 3 then some (.vfmax (bitsAt 6 w 7) (bitsAt 6 w 13) (bitsAt 6 w 19) (ftypeAt w 25))
  else if field w 27 5 = 5 ∧ field w 19 6 = 0 ∧ field w 25 2 < 3 then some (.vfabs (bitsAt 6 w 7) (bitsAt 6 w 13) (ftypeAt w 25))
  else if field w 27 5 = 6 ∧ field w 19 6 = 0 ∧ field w 25 2 < 3 then some (.vfneg (bitsAt 6 w 7) (bitsAt 6 w 13) (ftypeAt w 25))
  else if field w 27 5 = 7 ∧ field w 19 6 = 0 ∧ field w 25 2 < 3 then some (.vfround (bitsAt 6 w 7) (bitsAt 6 w 13) (ftypeAt w 25))
  else none

/-- Major 0x31 (R168 and its format). -/
def decodeVfma (w : Nat) : Option Instr :=
  if field w 29 1 = 0 ∧ field w 30 2 < 3 then some (.vfma (bitsAt 6 w 7) (bitsAt 6 w 13) (bitsAt 6 w 19) (bitsAt 3 w 25) (bitAt w 28) (ftypeAt w 30))
  else if field w 29 1 = 1 ∧ field w 30 2 < 3 then some (.vfms (bitsAt 6 w 7) (bitsAt 6 w 13) (bitsAt 6 w 19) (bitsAt 3 w 25) (bitAt w 28) (ftypeAt w 30))
  else none

/-- Major 0x32 (R170 and its format). -/
def decodeVcvt (w : Nat) : Option Instr :=
  if field w 28 4 = 0 ∧ field w 19 6 = 0 then some (.vcvtF16F32 (bitsAt 6 w 7) (bitsAt 6 w 13) (bitsAt 3 w 25))
  else if field w 28 4 = 1 ∧ field w 19 6 = 0 then some (.vcvtBf16F32 (bitsAt 6 w 7) (bitsAt 6 w 13) (bitsAt 3 w 25))
  else if field w 28 4 = 2 then some (.vcvtE4m3F32 (bitsAt 6 w 7) (bitsAt 6 w 13) (bitsAt 6 w 19) (bitsAt 3 w 25))
  else if field w 28 4 = 3 then some (.vcvtE5m2F32 (bitsAt 6 w 7) (bitsAt 6 w 13) (bitsAt 6 w 19) (bitsAt 3 w 25))
  else if field w 28 4 = 4 then some (.vcvtE2m1F32 (bitsAt 6 w 7) (bitsAt 6 w 13) (bitsAt 6 w 19) (bitsAt 3 w 25))
  else if field w 28 4 = 5 ∧ field w 19 6 = 0 then some (.vcvtF16F32Sat (bitsAt 6 w 7) (bitsAt 6 w 13) (bitsAt 3 w 25))
  else if field w 28 4 = 6 ∧ field w 19 6 = 0 then some (.vcvtBf16F32Sat (bitsAt 6 w 7) (bitsAt 6 w 13) (bitsAt 3 w 25))
  else if field w 28 4 = 7 then some (.vcvtE4m3F32Sat (bitsAt 6 w 7) (bitsAt 6 w 13) (bitsAt 6 w 19) (bitsAt 3 w 25))
  else if field w 28 4 = 8 then some (.vcvtE5m2F32Sat (bitsAt 6 w 7) (bitsAt 6 w 13) (bitsAt 6 w 19) (bitsAt 3 w 25))
  else if field w 28 4 = 9 then some (.vcvtE2m1F32Sat (bitsAt 6 w 7) (bitsAt 6 w 13) (bitsAt 6 w 19) (bitsAt 3 w 25))
  else if field w 28 4 = 10 ∧ field w 19 6 = 0 then some (.vcvtF32F16 (bitsAt 6 w 7) (bitsAt 6 w 13) (bitsAt 3 w 25))
  else if field w 28 4 = 11 ∧ field w 19 6 = 0 then some (.vcvtF32Bf16 (bitsAt 6 w 7) (bitsAt 6 w 13) (bitsAt 3 w 25))
  else if field w 28 4 = 12 then some (.vcvtF32E4m3 (bitsAt 6 w 7) (bitsAt 6 w 13) (bitsAt 6 w 19) (bitsAt 3 w 25))
  else if field w 28 4 = 13 then some (.vcvtF32E5m2 (bitsAt 6 w 7) (bitsAt 6 w 13) (bitsAt 6 w 19) (bitsAt 3 w 25))
  else if field w 28 4 = 14 then some (.vcvtF32E2m1 (bitsAt 6 w 7) (bitsAt 6 w 13) (bitsAt 6 w 19) (bitsAt 3 w 25))
  else if field w 19 13 = 7680 then some (.vcvtI32F32 (bitsAt 6 w 7) (bitsAt 6 w 13))
  else if field w 19 13 = 7744 then some (.vcvtF32I32 (bitsAt 6 w 7) (bitsAt 6 w 13))
  else none

/-- Major 0x33 (R173 and its format). -/
def decodeVred (w : Nat) : Option Instr :=
  if field w 27 5 = 0 ∧ field w 19 6 = 0 then some (.vrsum (bitsAt 6 w 7) (bitsAt 6 w 13) (widthAt w 25))
  else if field w 27 5 = 1 ∧ field w 19 6 = 0 then some (.vrsumu (bitsAt 6 w 7) (bitsAt 6 w 13) (widthAt w 25))
  else if field w 27 5 = 2 ∧ field w 19 6 = 0 then some (.vrmin (bitsAt 6 w 7) (bitsAt 6 w 13) (widthAt w 25))
  else if field w 27 5 = 3 ∧ field w 19 6 = 0 then some (.vrminu (bitsAt 6 w 7) (bitsAt 6 w 13) (widthAt w 25))
  else if field w 27 5 = 4 ∧ field w 19 6 = 0 then some (.vrmax (bitsAt 6 w 7) (bitsAt 6 w 13) (widthAt w 25))
  else if field w 27 5 = 5 ∧ field w 19 6 = 0 then some (.vrmaxu (bitsAt 6 w 7) (bitsAt 6 w 13) (widthAt w 25))
  else if field w 27 5 = 6 ∧ field w 19 6 = 0 ∧ field w 25 2 < 3 then some (.vfrsum (bitsAt 6 w 7) (bitsAt 6 w 13) (ftypeAt w 25))
  else if field w 27 5 = 7 ∧ field w 19 6 = 0 ∧ field w 25 2 < 3 then some (.vfrmin (bitsAt 6 w 7) (bitsAt 6 w 13) (ftypeAt w 25))
  else if field w 27 5 = 8 ∧ field w 19 6 = 0 ∧ field w 25 2 < 3 then some (.vfrmax (bitsAt 6 w 7) (bitsAt 6 w 13) (ftypeAt w 25))
  else none

/-- Major 0x34 (R175 and its format). -/
def decodeVmov (w : Nat) : Option Instr :=
  if field w 19 13 = 0 then some (.vmv (bitsAt 6 w 7) (bitsAt 6 w 13))
  else if field w 27 5 = 1 ∧ field w 19 6 = 0 then some (.vbcst (bitsAt 6 w 7) (bitsAt 6 w 13) (widthAt w 25))
  else if field w 27 5 = 2 ∧ field w 24 1 = 0 then some (.vins (bitsAt 6 w 7) (bitsAt 6 w 13) (bitsAt 5 w 19) (widthAt w 25))
  else if field w 27 5 = 3 ∧ field w 24 1 = 0 then some (.vextr (bitsAt 6 w 7) (bitsAt 6 w 13) (bitsAt 5 w 19) (widthAt w 25))
  else if field w 27 5 = 4 ∧ field w 24 1 = 0 then some (.vextru (bitsAt 6 w 7) (bitsAt 6 w 13) (bitsAt 5 w 19) (widthAt w 25))
  else if field w 27 5 = 5 ∧ field w 19 6 = 0 then some (.vmexp (bitsAt 6 w 7) (bitsAt 6 w 13) (widthAt w 25))
  else none

/-- Major 0x35 (R176 and its format). -/
def decodeVspec (w : Nat) : Option Instr :=
  if field w 19 13 = 0 then some (.vfrcp (bitsAt 6 w 7) (bitsAt 6 w 13))
  else if field w 19 13 = 256 then some (.vfrsq (bitsAt 6 w 7) (bitsAt 6 w 13))
  else if field w 19 13 = 512 then some (.vfexp2 (bitsAt 6 w 7) (bitsAt 6 w 13))
  else if field w 19 13 = 768 then some (.vflog2 (bitsAt 6 w 7) (bitsAt 6 w 13))
  else if field w 25 7 = 16 then some (.vfdiv (bitsAt 6 w 7) (bitsAt 6 w 13) (bitsAt 6 w 19))
  else if field w 19 13 = 1280 then some (.vfsqrt (bitsAt 6 w 7) (bitsAt 6 w 13))
  else none

/-- Major 0x36 (R183 and its format). -/
def decodeMatrix (w : Nat) : Option Instr :=
  if field w 19 13 = 0 ∧ field w 7 6 = 0 then some (.mxCfg (bitsAt 6 w 13))
  else if field w 19 13 = 512 ∧ field w 9 4 = 0 then some (.mxRing (bitsAt 6 w 13) (bitsAt 2 w 7))
  else if field w 26 6 = 8 ∧ field w 9 16 = 0 then some (.mxZero (bitsAt 2 w 7) (bitAt w 25))
  else if field w 28 4 = 3 ∧ field w 21 4 = 0 ∧ field w 15 4 = 0 ∧ field w 9 4 = 0 then some (.mxMma (bitsAt 2 w 7) (bitsAt 2 w 13) (bitsAt 2 w 19) (bitAt w 25) (bitAt w 26) (bitAt w 27))
  else if field w 28 4 = 4 ∧ field w 21 4 = 0 ∧ field w 15 4 = 0 ∧ field w 7 6 = 0 then some (.mxMma4 (bitsAt 2 w 13) (bitsAt 2 w 19) (bitAt w 25) (bitAt w 26) (bitAt w 27))
  else if field w 25 7 = 40 ∧ field w 7 6 = 0 then some (.mxScale (bitsAt 6 w 13) (bitsAt 6 w 19))
  else if field w 28 4 = 6 ∧ field w 26 1 = 0 ∧ field w 9 4 = 0 then some (.mxDrain (bitsAt 2 w 7) (bitsAt 6 w 13) (bitsAt 6 w 19) (bitAt w 25) (bitAt w 27))
  else if field w 26 6 = 28 ∧ field w 9 4 = 0 then some (.mxLoad (bitsAt 2 w 7) (bitsAt 6 w 13) (bitsAt 6 w 19) (bitAt w 25))
  else if field w 9 23 = 4194304 then some (.mxPush (bitsAt 2 w 7))
  else if field w 9 23 = 4718592 then some (.mxPop (bitsAt 2 w 7))
  else none

/-- Major 0x37 (R197 and its format). -/
def decodeCopy (w : Nat) : Option Instr :=
  if field w 28 4 = 0 ∧ field w 25 1 = 0 then some (.cpIn (bitsAt 6 w 7) (bitsAt 6 w 13) (bitsAt 6 w 19) (bitAt w 26) (bitAt w 27))
  else if field w 28 4 = 1 ∧ field w 26 1 = 0 then some (.cpOut (bitsAt 6 w 7) (bitsAt 6 w 13) (bitsAt 6 w 19) (bitAt w 25) (bitAt w 27))
  else if field w 28 4 = 2 ∧ field w 25 2 = 0 then some (.cpDd (bitsAt 6 w 7) (bitsAt 6 w 13) (bitsAt 6 w 19) (bitAt w 27))
  else if field w 28 4 = 3 ∧ field w 25 1 = 0 then some (.cpGather (bitsAt 6 w 7) (bitsAt 6 w 13) (bitsAt 6 w 19) (bitAt w 26) (bitAt w 27))
  else if field w 25 7 = 32 ∧ field w 7 6 = 0 then some (.cpPf (bitsAt 6 w 13) (bitsAt 6 w 19))
  else none

/-- Major 0x38 (R210 and its format). -/
def decodeStream (w : Nat) : Option Instr :=
  if field w 19 13 = 0 ∧ field w 12 1 = 0 then some (.smBind (bitsAt 5 w 7) (bitsAt 6 w 13))
  else if field w 12 20 = 65536 then some (.smFree (bitsAt 5 w 7))
  else if field w 19 13 = 1024 ∧ field w 12 1 = 0 then some (.smSkip (bitsAt 5 w 7) (bitsAt 6 w 13))
  else none

/-- Major 0x39 (R207 and its format). -/
def decodeTBarrier (w : Nat) : Option Instr :=
  if field w 25 7 = 0 ∧ field w 7 6 = 0 then some (.tbInit (bitsAt 6 w 13) (bitsAt 6 w 19))
  else if field w 19 13 = 512 then some (.tbArrive (bitsAt 6 w 7) (bitsAt 6 w 13))
  else if field w 25 7 = 16 ∧ field w 7 6 = 0 then some (.tbWait (bitsAt 6 w 13) (bitsAt 6 w 19))
  else if field w 25 7 = 24 then some (.tbTest (bitsAt 6 w 7) (bitsAt 6 w 13) (bitsAt 6 w 19))
  else none

/-- Major 0x3A (R214 and its format). -/
def decodeWindow (w : Nat) : Option Instr :=
  if field w 28 4 = 0 ∧ field w 10 3 = 0 then some (.winOpen (bitsAt 6 w 13) (bitsAt 6 w 19) (bitsAt 3 w 7) (bitsAt 3 w 25))
  else if field w 10 22 = 262144 then some (.winFlush (bitsAt 3 w 7))
  else if field w 10 22 = 524288 then some (.winClose (bitsAt 3 w 7))
  else if field w 10 22 = 786432 then some (.winDrop (bitsAt 3 w 7))
  else none

/-- Major 0x3B (R219 and its format). -/
def decodeSequencer (w : Nat) : Option Instr :=
  if field w 19 13 = 0 ∧ field w 7 6 = 0 then some (.seqCfg (bitsAt 6 w 13))
  else if field w 19 13 = 512 ∧ field w 7 6 = 0 then some (.seqStart (bitsAt 6 w 13))
  else if field w 7 25 = 4194304 then some (.seqStop)
  else if field w 7 25 = 6291456 then some (.seqRet)
  else none

/-- Major 0x3C (R223 and its format). -/
def decodeThread (w : Nat) : Option Instr :=
  if field w 25 7 = 0 then some (.spawn (bitsAt 6 w 7) (bitsAt 6 w 13) (bitsAt 6 w 19))
  else if field w 7 25 = 262144 then some (.exit)
  else if field w 7 25 = 524288 then some (.yield)
  else if field w 19 13 = 192 then some (.park (bitsAt 6 w 7) (bitsAt 6 w 13))
  else if field w 19 13 = 256 ∧ field w 7 6 = 0 then some (.wake (bitsAt 6 w 13))
  else if field w 19 13 = 320 then some (.fuse (bitsAt 6 w 7) (bitsAt 6 w 13))
  else if field w 7 25 = 1572864 then some (.split)
  else if field w 25 7 = 7 ∧ field w 7 6 = 0 then some (.send (bitsAt 6 w 13) (bitsAt 6 w 19))
  else if field w 19 13 = 512 then some (.recv (bitsAt 6 w 7) (bitsAt 6 w 13))
  else if field w 19 13 = 576 then some (.recvp (bitsAt 6 w 7) (bitsAt 6 w 13))
  else if field w 19 13 = 640 ∧ field w 7 6 = 0 then some (.mig (bitsAt 6 w 13))
  else none

/-- Major 0x3D (R235 and its format). -/
def decodeSync (w : Nat) : Option Instr :=
  if field w 27 5 = 0 ∧ field w 7 6 = 0 then some (.barInit (bitsAt 6 w 13) (bitsAt 8 w 19))
  else if field w 27 5 = 4 ∧ field w 13 6 = 0 then some (.barArrive (bitsAt 6 w 7) (bitsAt 8 w 19))
  else if field w 27 5 = 8 ∧ field w 7 6 = 0 then some (.barWait (bitsAt 6 w 13) (bitsAt 8 w 19))
  else if field w 27 5 = 12 ∧ field w 7 12 = 0 then some (.barSync (bitsAt 8 w 19))
  else if field w 7 25 = 16777216 then some (.wfe)
  else if field w 19 13 = 5120 ∧ field w 7 6 = 0 then some (.sev (bitsAt 6 w 13))
  else none

/-- Major 0x3E (R238 and its format). -/
def decodeSys (w : Nat) : Option Instr :=
  if field w 25 7 = 0 then some (.csrr (bitsAt 6 w 7) (bitsAt 12 w 13))
  else if field w 25 7 = 8 then some (.csrw (bitsAt 6 w 7) (bitsAt 12 w 13))
  else if field w 25 7 = 16 then some (.csrs (bitsAt 6 w 7) (bitsAt 12 w 13))
  else if field w 25 7 = 24 then some (.csrc (bitsAt 6 w 7) (bitsAt 12 w 13))
  else if field w 25 7 = 32 ∧ field w 7 6 = 0 then some (.trap (bitsAt 12 w 13))
  else if field w 7 25 = 10485760 then some (.brk)
  else if field w 7 25 = 12582912 then some (.eret)
  else if field w 28 4 = 7 then some (.segw (bitsAt 6 w 13) (bitsAt 6 w 19) (bitsAt 6 w 7) (bitsAt 3 w 25))
  else if field w 25 7 = 64 ∧ field w 7 6 = 0 then some (.tlbinv (bitsAt 6 w 13) (bitsAt 6 w 19))
  else if field w 28 4 = 9 ∧ field w 7 6 = 0 then some (.scrub (bitsAt 6 w 13) (bitsAt 6 w 19) (bitsAt 3 w 25))
  else if field w 13 19 = 327680 then some (.twinOn (bitsAt 6 w 7))
  else if field w 7 25 = 23068672 then some (.twinOff)
  else none

/-- The instruction that a 32-bit value lays out, by its major (R60, R69). -/
def decodeMajor (w : Nat) : Option Instr :=
  match field w 1 6 with
  | 0 => decodeOp w
  | 1 => decodeMul w
  | 2 => decodeBit w
  | 3 => some (.addi (bitsAt 6 w 7) (bitsAt 6 w 13) (bitsAt 13 w 19))
  | 4 => some (.andi (bitsAt 6 w 7) (bitsAt 6 w 13) (bitsAt 13 w 19))
  | 5 => some (.ori (bitsAt 6 w 7) (bitsAt 6 w 13) (bitsAt 13 w 19))
  | 6 => some (.xori (bitsAt 6 w 7) (bitsAt 6 w 13) (bitsAt 13 w 19))
  | 7 => some (.slti (bitsAt 6 w 7) (bitsAt 6 w 13) (bitsAt 13 w 19))
  | 8 => some (.sltiu (bitsAt 6 w 7) (bitsAt 6 w 13) (bitsAt 13 w 19))
  | 9 => decodeShiftImm w
  | 10 => some (.addiw (bitsAt 6 w 7) (bitsAt 6 w 13) (bitsAt 13 w 19))
  | 11 => some (.lui (bitsAt 6 w 7) (bitsAt 19 w 13))
  | 12 => some (.lpc (bitsAt 6 w 7) (bitsAt 19 w 13))
  | 13 => some (.jal (bitsAt 6 w 7) (bitsAt 19 w 13))
  | 14 => some (.jalr (bitsAt 6 w 7) (bitsAt 6 w 13) (bitsAt 13 w 19))
  | 15 => some (.beq (bitsAt 6 w 13) (bitsAt 6 w 7) (bitsAt 13 w 19))
  | 16 => some (.bne (bitsAt 6 w 13) (bitsAt 6 w 7) (bitsAt 13 w 19))
  | 17 => some (.blt (bitsAt 6 w 13) (bitsAt 6 w 7) (bitsAt 13 w 19))
  | 18 => some (.bge (bitsAt 6 w 13) (bitsAt 6 w 7) (bitsAt 13 w 19))
  | 19 => some (.bltu (bitsAt 6 w 13) (bitsAt 6 w 7) (bitsAt 13 w 19))
  | 20 => some (.bgeu (bitsAt 6 w 13) (bitsAt 6 w 7) (bitsAt 13 w 19))
  | 21 => decodeMaskTest w
  | 24 => some (.ldB (bitsAt 6 w 7) (bitsAt 6 w 13) (bitsAt 3 w 19) (bitsAt 10 w 22))
  | 25 => some (.ldBu (bitsAt 6 w 7) (bitsAt 6 w 13) (bitsAt 3 w 19) (bitsAt 10 w 22))
  | 26 => some (.ldH (bitsAt 6 w 7) (bitsAt 6 w 13) (bitsAt 3 w 19) (bitsAt 10 w 22))
  | 27 => some (.ldHu (bitsAt 6 w 7) (bitsAt 6 w 13) (bitsAt 3 w 19) (bitsAt 10 w 22))
  | 28 => some (.ldW (bitsAt 6 w 7) (bitsAt 6 w 13) (bitsAt 3 w 19) (bitsAt 10 w 22))
  | 29 => some (.ldWu (bitsAt 6 w 7) (bitsAt 6 w 13) (bitsAt 3 w 19) (bitsAt 10 w 22))
  | 30 => some (.ldD (bitsAt 6 w 7) (bitsAt 6 w 13) (bitsAt 3 w 19) (bitsAt 10 w 22))
  | 31 => some (.stB (bitsAt 6 w 7) (bitsAt 6 w 13) (bitsAt 3 w 19) (bitsAt 10 w 22))
  | 32 => some (.stH (bitsAt 6 w 7) (bitsAt 6 w 13) (bitsAt 3 w 19) (bitsAt 10 w 22))
  | 33 => some (.stW (bitsAt 6 w 7) (bitsAt 6 w 13) (bitsAt 3 w 19) (bitsAt 10 w 22))
  | 34 => some (.stD (bitsAt 6 w 7) (bitsAt 6 w 13) (bitsAt 3 w 19) (bitsAt 10 w 22))
  | 35 => some (.vld (bitsAt 6 w 7) (bitsAt 6 w 13) (bitsAt 3 w 19) (bitsAt 10 w 22))
  | 36 => some (.vst (bitsAt 6 w 7) (bitsAt 6 w 13) (bitsAt 3 w 19) (bitsAt 10 w 22))
  | 37 => decodeIndexed w
  | 38 => decodeBlock w
  | 39 => decodeAmoW w
  | 40 => decodeAmoD w
  | 41 => decodeFence w
  | 44 => decodeVint w
  | 45 => decodeVlog w
  | 46 => decodeVcmp w
  | 47 => decodeVperm w
  | 48 => decodeVfp w
  | 49 => decodeVfma w
  | 50 => decodeVcvt w
  | 51 => decodeVred w
  | 52 => decodeVmov w
  | 53 => decodeVspec w
  | 54 => decodeMatrix w
  | 55 => decodeCopy w
  | 56 => decodeStream w
  | 57 => decodeTBarrier w
  | 58 => decodeWindow w
  | 59 => decodeSequencer w
  | 60 => decodeThread w
  | 61 => decodeSync w
  | 62 => decodeSys w
  | _ => none

/-- The compact instruction or prefix that a halfword lays out (R61, R83). -/
def decodeCompact (w : Nat) : Option Instr :=
  match field w 1 4 with
  | 1 =>
    some (.cAddi (bitsAt 3 w 5) (bitsAt 3 w 8) (bitsAt 5 w 11))
  | 2 =>
    some (.cLi (bitsAt 3 w 5) (bitsAt 8 w 8))
  | 3 =>
    if field w 11 5 = 0 then some (.cMv (bitsAt 3 w 5) (bitsAt 3 w 8))
    else none
  | 4 =>
    if field w 11 5 = 0 then some (.cAdd (bitsAt 3 w 5) (bitsAt 3 w 8))
    else none
  | 5 =>
    if field w 11 5 = 0 then some (.cSub (bitsAt 3 w 5) (bitsAt 3 w 8))
    else if field w 11 5 = 1 then some (.cAnd (bitsAt 3 w 5) (bitsAt 3 w 8))
    else none
  | 6 =>
    if field w 14 2 = 0 then some (.cSlli (bitsAt 3 w 5) (bitsAt 6 w 8))
    else if field w 14 2 = 2 then some (.cSrli (bitsAt 3 w 5) (bitsAt 6 w 8))
    else none
  | 7 =>
    if field w 15 1 = 0 then some (.cBeqz (bitsAt 3 w 8) (bitsAt 4 w 11 ++ bitsAt 3 w 5))
    else if field w 15 1 = 1 then some (.cBnez (bitsAt 3 w 8) (bitsAt 4 w 11 ++ bitsAt 3 w 5))
    else none
  | 8 =>
    some (.cLdD (bitsAt 3 w 5) (bitsAt 3 w 8) (bitsAt 5 w 11))
  | 9 =>
    some (.cStD (bitsAt 3 w 5) (bitsAt 3 w 8) (bitsAt 5 w 11))
  | 10 =>
    some (.cVld (bitsAt 3 w 5) (bitsAt 3 w 8) (bitsAt 5 w 11))
  | 11 =>
    some (.cVst (bitsAt 3 w 5) (bitsAt 3 w 8) (bitsAt 5 w 11))
  | 12 =>
    if field w 5 11 = 0 then some (.rlx)
    else none
  | 13 =>
    some (.rep (bitsAt 6 w 5) (bitsAt 5 w 11))
  | 14 =>
    some (.cJ (bitsAt 11 w 5))
  | _ => none

/-- What a field's definition does not assign is ILLEGAL (R63). -/
def checked (i : Option Instr) : Option Instr :=
  match i with
  | some j => if j.wellFormed then some j else none
  | none => none

/-- The instruction in the low halfword (bit 0 clear) or the two halfwords (bit 0 set) of `w` (R59). -/
def decodeWord (w : Nat) : Option Instr :=
  if w % 2 = 1 then checked (decodeMajor (w % 2 ^ 32)) else checked (decodeCompact (w % 2 ^ 16))

/-- How many halfwords the instruction at the start of `w` has (R59). -/
def halfwords (w : Nat) : Nat := if w % 2 = 1 then 2 else 1

/-- Why bytes are not an instruction. -/
inductive DecodeError where
  /-- fewer bytes than the instruction has -/
  | truncated
  /-- a pattern that R84 lists -/
  | illegal
deriving DecidableEq, Repr

/-- The instruction or prefix at the start of a list of bytes, with the bytes after it. -/
def decode (bytes : List Byte) : Except DecodeError (Instr × List Byte) :=
  let w := ofBytesLE (bytes.take 4)
  let n := 2 * halfwords w
  if bytes.length < 2 ∨ bytes.length < n then .error .truncated
  else
    match decodeWord w with
    | some i => .ok (i, bytes.drop n)
    | none => .error .illegal

/-- The instruction in a word of the opcode table: its bytes as the machine stores them, then zeros. -/
def decodeTableWord (nbits w : Nat) : Option Instr :=
  match decode (toBytesLE w (nbits / 8) ++ toBytesLE 0 4) with
  | .ok (i, _) => some i
  | .error _ => none

/-- The length in halfwords of an instruction's encoding; 0 for a step that has none. -/
def Instr.size : Instr → Nat
  | .add _ _ _ => 2
  | .sub _ _ _ => 2
  | .and _ _ _ => 2
  | .or _ _ _ => 2
  | .xor _ _ _ => 2
  | .andn _ _ _ => 2
  | .orn _ _ _ => 2
  | .sll _ _ _ => 2
  | .srl _ _ _ => 2
  | .sra _ _ _ => 2
  | .rol _ _ _ => 2
  | .ror _ _ _ => 2
  | .slt _ _ _ => 2
  | .sltu _ _ _ => 2
  | .min _ _ _ => 2
  | .max _ _ _ => 2
  | .minu _ _ _ => 2
  | .maxu _ _ _ => 2
  | .cmov _ _ _ => 2
  | .addw _ _ _ => 2
  | .subw _ _ _ => 2
  | .sllw _ _ _ => 2
  | .srlw _ _ _ => 2
  | .sraw _ _ _ => 2
  | .mul _ _ _ => 2
  | .mulh _ _ _ => 2
  | .mulhu _ _ _ => 2
  | .mulhsu _ _ _ => 2
  | .div _ _ _ => 2
  | .divu _ _ _ => 2
  | .rem _ _ _ => 2
  | .remu _ _ _ => 2
  | .mulw _ _ _ => 2
  | .divw _ _ _ => 2
  | .remw _ _ _ => 2
  | .divisionWrite _ => 0
  | .popc _ _ => 2
  | .clz _ _ => 2
  | .ctz _ _ => 2
  | .brev _ _ => 2
  | .bswap _ _ => 2
  | .bext _ _ _ => 2
  | .bins _ _ _ => 2
  | .sextB _ _ => 2
  | .sextH _ _ => 2
  | .sextW _ _ => 2
  | .zextB _ _ => 2
  | .zextH _ _ => 2
  | .zextW _ _ => 2
  | .lsb _ _ => 2
  | .msk _ _ => 2
  | .addi _ _ _ => 2
  | .andi _ _ _ => 2
  | .ori _ _ _ => 2
  | .xori _ _ _ => 2
  | .slti _ _ _ => 2
  | .sltiu _ _ _ => 2
  | .addiw _ _ _ => 2
  | .slli _ _ _ => 2
  | .srli _ _ _ => 2
  | .srai _ _ _ => 2
  | .slliw _ _ _ => 2
  | .srliw _ _ _ => 2
  | .sraiw _ _ _ => 2
  | .lui _ _ => 2
  | .lpc _ _ => 2
  | .jal _ _ => 2
  | .jalr _ _ _ => 2
  | .beq _ _ _ => 2
  | .bne _ _ _ => 2
  | .blt _ _ _ => 2
  | .bge _ _ _ => 2
  | .bltu _ _ _ => 2
  | .bgeu _ _ _ => 2
  | .bany _ _ _ => 2
  | .ball _ _ _ => 2
  | .bnone _ _ _ => 2
  | .bbs _ _ _ => 2
  | .bbc _ _ _ => 2
  | .ldB _ _ _ _ => 2
  | .ldBu _ _ _ _ => 2
  | .ldH _ _ _ _ => 2
  | .ldHu _ _ _ _ => 2
  | .ldW _ _ _ _ => 2
  | .ldWu _ _ _ _ => 2
  | .ldD _ _ _ _ => 2
  | .stB _ _ _ _ => 2
  | .stH _ _ _ _ => 2
  | .stW _ _ _ _ => 2
  | .stD _ _ _ _ => 2
  | .vld _ _ _ _ => 2
  | .vst _ _ _ _ => 2
  | .ldBIndexed _ _ _ _ => 2
  | .ldBuIndexed _ _ _ _ => 2
  | .ldHIndexed _ _ _ _ => 2
  | .ldHuIndexed _ _ _ _ => 2
  | .ldWIndexed _ _ _ _ => 2
  | .ldWuIndexed _ _ _ _ => 2
  | .ldDIndexed _ _ _ _ => 2
  | .stBIndexed _ _ _ _ => 2
  | .stHIndexed _ _ _ _ => 2
  | .stWIndexed _ _ _ _ => 2
  | .stDIndexed _ _ _ _ => 2
  | .vldIndexed _ _ _ _ => 2
  | .vstIndexed _ _ _ _ => 2
  | .loadReply _ => 0
  | .bwait _ _ => 2
  | .bhold _ _ _ => 2
  | .barm _ _ _ => 2
  | .bpoll _ _ _ => 2
  | .bgen _ _ _ => 2
  | .bclr _ _ => 2
  | .bclrG _ _ _ => 2
  | .bfin _ _ => 2
  | .amoAddW _ _ _ _ => 2
  | .amoAndW _ _ _ _ => 2
  | .amoOrW _ _ _ _ => 2
  | .amoXorW _ _ _ _ => 2
  | .amoMinW _ _ _ _ => 2
  | .amoMaxW _ _ _ _ => 2
  | .amoMinuW _ _ _ _ => 2
  | .amoMaxuW _ _ _ _ => 2
  | .amoSwapW _ _ _ _ => 2
  | .amoCasW _ _ _ _ => 2
  | .amoFaddW _ _ _ _ => 2
  | .amoIncW _ _ _ _ => 2
  | .amoAddD _ _ _ _ => 2
  | .amoAndD _ _ _ _ => 2
  | .amoOrD _ _ _ _ => 2
  | .amoXorD _ _ _ _ => 2
  | .amoMinD _ _ _ _ => 2
  | .amoMaxD _ _ _ _ => 2
  | .amoMinuD _ _ _ _ => 2
  | .amoMaxuD _ _ _ _ => 2
  | .amoSwapD _ _ _ _ => 2
  | .amoCasD _ _ _ _ => 2
  | .amoIncD _ _ _ _ => 2
  | .fenceAcq _ => 2
  | .fenceRel _ => 2
  | .fenceFull _ => 2
  | .rlx => 1
  | .rep _ _ => 1
  | .illegalUnit _ => 0
  | .cAddi _ _ _ => 1
  | .cLi _ _ => 1
  | .cMv _ _ => 1
  | .cAdd _ _ => 1
  | .cSub _ _ => 1
  | .cAnd _ _ => 1
  | .cSlli _ _ => 1
  | .cSrli _ _ => 1
  | .cBeqz _ _ => 1
  | .cBnez _ _ => 1
  | .cLdD _ _ _ => 1
  | .cStD _ _ _ => 1
  | .cVld _ _ _ => 1
  | .cVst _ _ _ => 1
  | .cJ _ => 1
  | .vadd _ _ _ _ => 2
  | .vsub _ _ _ _ => 2
  | .vadds _ _ _ _ => 2
  | .vaddsu _ _ _ _ => 2
  | .vsubs _ _ _ _ => 2
  | .vsubsu _ _ _ _ => 2
  | .vmul _ _ _ _ => 2
  | .vmulh _ _ _ _ => 2
  | .vmulhu _ _ _ _ => 2
  | .vmin _ _ _ _ => 2
  | .vminu _ _ _ _ => 2
  | .vmax _ _ _ _ => 2
  | .vmaxu _ _ _ _ => 2
  | .vabsd _ _ _ _ => 2
  | .vavgu _ _ _ _ => 2
  | .vand _ _ _ => 2
  | .vor _ _ _ => 2
  | .vxor _ _ _ => 2
  | .vandn _ _ _ => 2
  | .vbsl _ _ _ => 2
  | .vsll _ _ _ _ => 2
  | .vsrl _ _ _ _ => 2
  | .vsra _ _ _ _ => 2
  | .vslli _ _ _ _ => 2
  | .vsrli _ _ _ _ => 2
  | .vsrai _ _ _ _ => 2
  | .vceq _ _ _ _ => 2
  | .vcne _ _ _ _ => 2
  | .vclt _ _ _ _ => 2
  | .vcltu _ _ _ _ => 2
  | .vcle _ _ _ _ => 2
  | .vcleu _ _ _ _ => 2
  | .vfceq _ _ _ _ => 2
  | .vfcne _ _ _ _ => 2
  | .vfclt _ _ _ _ => 2
  | .vfcle _ _ _ _ => 2
  | .vfcun _ _ _ _ => 2
  | .vshuf _ _ _ _ => 2
  | .vzipl _ _ _ _ => 2
  | .vziph _ _ _ _ => 2
  | .vunzipe _ _ _ _ => 2
  | .vunzipo _ _ _ _ => 2
  | .vrev _ _ _ => 2
  | .vpacks _ _ _ _ => 2
  | .vpacksu _ _ _ _ => 2
  | .vwidenl _ _ _ => 2
  | .vwidenh _ _ _ => 2
  | .vwidenlu _ _ _ => 2
  | .vwidenhu _ _ _ => 2
  | .vfadd _ _ _ _ => 2
  | .vfsub _ _ _ _ => 2
  | .vfmul _ _ _ _ => 2
  | .vfmin _ _ _ _ => 2
  | .vfmax _ _ _ _ => 2
  | .vfabs _ _ _ => 2
  | .vfneg _ _ _ => 2
  | .vfround _ _ _ => 2
  | .vfma _ _ _ _ _ _ => 2
  | .vfms _ _ _ _ _ _ => 2
  | .vcvtF16F32 _ _ _ => 2
  | .vcvtBf16F32 _ _ _ => 2
  | .vcvtE4m3F32 _ _ _ _ => 2
  | .vcvtE5m2F32 _ _ _ _ => 2
  | .vcvtE2m1F32 _ _ _ _ => 2
  | .vcvtF16F32Sat _ _ _ => 2
  | .vcvtBf16F32Sat _ _ _ => 2
  | .vcvtE4m3F32Sat _ _ _ _ => 2
  | .vcvtE5m2F32Sat _ _ _ _ => 2
  | .vcvtE2m1F32Sat _ _ _ _ => 2
  | .vcvtF32F16 _ _ _ => 2
  | .vcvtF32Bf16 _ _ _ => 2
  | .vcvtF32E4m3 _ _ _ _ => 2
  | .vcvtF32E5m2 _ _ _ _ => 2
  | .vcvtF32E2m1 _ _ _ _ => 2
  | .vcvtI32F32 _ _ => 2
  | .vcvtF32I32 _ _ => 2
  | .vrsum _ _ _ => 2
  | .vrsumu _ _ _ => 2
  | .vrmin _ _ _ => 2
  | .vrminu _ _ _ => 2
  | .vrmax _ _ _ => 2
  | .vrmaxu _ _ _ => 2
  | .vfrsum _ _ _ => 2
  | .vfrmin _ _ _ => 2
  | .vfrmax _ _ _ => 2
  | .vmv _ _ => 2
  | .vbcst _ _ _ => 2
  | .vins _ _ _ _ => 2
  | .vextr _ _ _ _ => 2
  | .vextru _ _ _ _ => 2
  | .vmexp _ _ _ => 2
  | .vfrcp _ _ => 2
  | .vfrsq _ _ => 2
  | .vfexp2 _ _ => 2
  | .vflog2 _ _ => 2
  | .vfdiv _ _ _ => 2
  | .vfsqrt _ _ => 2
  | .specialFunctionWrite _ => 0
  | .mxCfg _ => 2
  | .mxRing _ _ => 2
  | .mxZero _ _ => 2
  | .mxMma _ _ _ _ _ _ => 2
  | .mxMma4 _ _ _ _ _ => 2
  | .mxScale _ _ => 2
  | .mxDrain _ _ _ _ _ => 2
  | .mxLoad _ _ _ _ => 2
  | .mxPush _ => 2
  | .mxPop _ => 2
  | .matrixOperationStart _ => 0
  | .matrixOperationEnd _ => 0
  | .cpIn _ _ _ _ _ => 2
  | .cpOut _ _ _ _ _ => 2
  | .cpDd _ _ _ _ => 2
  | .cpGather _ _ _ _ _ => 2
  | .cpPf _ _ => 2
  | .copyAcceptance _ => 0
  | .copyUnitRequest _ => 0
  | .copyUnitDone _ _ => 0
  | .smBind _ _ => 2
  | .smFree _ => 2
  | .smSkip _ _ => 2
  | .streamRefill _ _ => 0
  | .streamUnitArrival _ _ => 0
  | .tbInit _ _ => 2
  | .tbArrive _ _ => 2
  | .tbWait _ _ => 2
  | .tbTest _ _ _ => 2
  | .winOpen _ _ _ _ => 2
  | .winFlush _ => 2
  | .winClose _ => 2
  | .winDrop _ => 2
  | .windowFetchReply _ _ _ => 0
  | .seqCfg _ => 2
  | .seqStart _ => 2
  | .seqStop => 2
  | .seqRet => 2
  | .sequencerEmit _ => 0
  | .spawn _ _ _ => 2
  | .exit => 2
  | .yield => 2
  | .park _ _ => 2
  | .parkTimeout _ => 0
  | .wake _ => 2
  | .wakeArrival _ _ => 0
  | .fuse _ _ => 2
  | .split => 2
  | .send _ _ => 2
  | .recv _ _ => 2
  | .recvp _ _ => 2
  | .mig _ => 2
  | .messageDelivery _ => 0
  | .routineSpawn _ => 0
  | .overflowMove _ => 0
  | .flowControlRelease _ => 0
  | .barInit _ _ => 2
  | .barArrive _ _ => 2
  | .barWait _ _ => 2
  | .barSync _ => 2
  | .wfe => 2
  | .sev _ => 2
  | .eventArrival _ _ => 0
  | .csrr _ _ => 2
  | .csrw _ _ => 2
  | .csrs _ _ => 2
  | .csrc _ _ => 2
  | .trap _ => 2
  | .brk => 2
  | .eret => 2
  | .segw _ _ _ _ => 2
  | .tlbinv _ _ => 2
  | .scrub _ _ _ => 2
  | .twinOn _ => 2
  | .twinOff => 2
  | .twinCompare _ => 0
  | .translationWalk _ _ => 0
  | .faultServe _ _ => 0
  | .faultReject _ _ => 0
  | .pageFaultWake _ _ _ => 0
  | .setAside _ => 0
  | .setAsideReturn _ => 0
  | .homeLoad _ => 0
  | .homeCoveringStore _ => 0
  | .homeBfin _ => 0
  | .homeBhold _ => 0
  | .homeBarm _ => 0
  | .homeClear _ => 0
  | .waiterWithdrawal _ _ => 0
  | .holdWithdrawal _ _ => 0
  | .poolBlockFreed _ => 0
  | .blockPoisoning _ => 0
  | .gets _ _ => 0
  | .getm _ _ => 0
  | .upg _ _ => 0
  | .wb _ _ => 0
  | .rcl _ _ => 0
  | .inv _ _ => 0
  | .wrw _ => 0
  | .writebackArrival _ => 0
  | .recallReply _ => 0
  | .recallTimeout _ => 0
  | .holderFailure _ => 0
  | .rowActivation _ _ => 0
  | .refreshWindowEnd _ => 0
  | .placementDecision _ => 0
  | .crewRetirement _ => 0
  | .relief _ => 0
  | .preemptionRequest _ => 0
  | .threadStop _ => 0
  | .contextSave _ => 0
  | .killScrubEnd _ => 0
  | .joinNotice _ _ _ _ _ => 0
  | .packetTake _ => 0
  | .proofRunRetirement _ => 0
  | .journalSpaceFreed _ => 0
  | .rowRemap _ => 0
  | .siteInjectorWrite _ _ => 0
  | .strainLimitWrite _ => 0
  | .siteReopen _ _ => 0
  | .flitReceive _ _ _ _ _ => 0
  | .ack _ _ => 0
  | .nak _ _ => 0
  | .ackTimer _ => 0
  | .retrain _ => 0
  | .portDown _ => 0
  | .laneInjectorWrite _ _ _ => 0
  | .routeTableWrite _ _ => 0
  | .notify _ _ _ => 0
  | .qctl _ _ _ => 0
  | .qring _ _ _ => 0
  | .qstop _ _ _ => 0
  | .registerWrite _ _ _ => 0
  | .hostRead _ _ _ => 0
  | .hostWrite _ _ _ _ => 0
  | .hostSectorRequest _ _ _ => 0
  | .functionLevelReset _ => 0
  | .claunch _ _ => 0
  | .cstat _ => 0
  | .cdec _ _ => 0
  | .attestationRequest _ _ => 0
  | .keyLoad _ _ _ => 0
  | .keyDestroy _ => 0
  | .keyClearingDone _ => 0
  | .keyRelease _ => 0
  | .packageReset => 0
  | .checkpoint _ => 0
  | .powerLimitWrite _ => 0
  | .powerStepDown => 0
  | .powerStepUp => 0
  | .memoryReply _ => 0
  | .tick => 0
  | .retrainCompletion _ _ => 0
  | .injectedDelayExpiry _ => 0
  | .checkpointRestore _ => 0
  | .measurementExtension _ _ _ => 0
  | .configurationChange _ _ _ => 0
/-- The bits of a code with the fields d, a, b at their places. -/
def encDAB (code : Nat) (d : RegField) (a : RegField) (b : RegField) : Nat :=
  code + d.toNat * 2 ^ 7 + a.toNat * 2 ^ 13 + b.toNat * 2 ^ 19

/-- The bits of a code with the fields d, a at their places. -/
def encDA (code : Nat) (d : RegField) (a : RegField) : Nat :=
  code + d.toNat * 2 ^ 7 + a.toNat * 2 ^ 13

/-- The bits of a code with the fields d, a, i at their places. -/
def encDAI (code : Nat) (d : RegField) (a : RegField) (i : BitVec 13) : Nat :=
  code + d.toNat * 2 ^ 7 + a.toNat * 2 ^ 13 + i.toNat * 2 ^ 19

/-- The bits of a code with the fields d, a, s at their places. -/
def encDAS (code : Nat) (d : RegField) (a : RegField) (s : BitVec 6) : Nat :=
  code + d.toNat * 2 ^ 7 + a.toNat * 2 ^ 13 + s.toNat * 2 ^ 19

/-- The bits of a code with the fields d, a, s at their places. -/
def encDAS2 (code : Nat) (d : RegField) (a : RegField) (s : BitVec 5) : Nat :=
  code + d.toNat * 2 ^ 7 + a.toNat * 2 ^ 13 + s.toNat * 2 ^ 19

/-- The bits of a code with the fields d, i at their places. -/
def encDI (code : Nat) (d : RegField) (i : BitVec 19) : Nat :=
  code + d.toNat * 2 ^ 7 + i.toNat * 2 ^ 13

/-- The bits of a code with the fields a, b, i at their places. -/
def encABI (code : Nat) (a : RegField) (b : RegField) (i : BitVec 13) : Nat :=
  code + a.toNat * 2 ^ 13 + b.toNat * 2 ^ 7 + i.toNat * 2 ^ 19

/-- The bits of a code with the fields a, b, i at their places. -/
def encABI2 (code : Nat) (a : RegField) (b : RegField) (i : BitVec 10) : Nat :=
  code + a.toNat * 2 ^ 13 + b.toNat * 2 ^ 7 + i.toNat * 2 ^ 22

/-- The bits of a code with the fields a, n, i at their places. -/
def encANI (code : Nat) (a : RegField) (n : BitVec 6) (i : BitVec 10) : Nat :=
  code + a.toNat * 2 ^ 13 + n.toNat * 2 ^ 7 + i.toNat * 2 ^ 22

/-- The bits of a code with the fields d, base, seg, imm at their places. -/
def encDBaseSegImm (code : Nat) (d : RegField) (base : RegField) (seg : SegField) (imm : BitVec 10) : Nat :=
  code + d.toNat * 2 ^ 7 + base.toNat * 2 ^ 13 + seg.toNat * 2 ^ 19 + imm.toNat * 2 ^ 22

/-- The bits of a code with the fields d, base, idx, seg at their places. -/
def encDBaseIdxSeg (code : Nat) (d : RegField) (base : RegField) (idx : RegField) (seg : SegField) : Nat :=
  code + d.toNat * 2 ^ 7 + base.toNat * 2 ^ 13 + idx.toNat * 2 ^ 19 + seg.toNat * 2 ^ 25

/-- The bits of a code with the fields base, seg at their places. -/
def encBaseSeg (code : Nat) (base : RegField) (seg : SegField) : Nat :=
  code + base.toNat * 2 ^ 13 + seg.toNat * 2 ^ 25

/-- The bits of a code with the fields d, base, seg at their places. -/
def encDBaseSeg (code : Nat) (d : RegField) (base : RegField) (seg : SegField) : Nat :=
  code + d.toNat * 2 ^ 7 + base.toNat * 2 ^ 13 + seg.toNat * 2 ^ 25

/-- The bits of a code with the fields base, idx, seg at their places. -/
def encBaseIdxSeg (code : Nat) (base : RegField) (idx : RegField) (seg : SegField) : Nat :=
  code + base.toNat * 2 ^ 13 + idx.toNat * 2 ^ 19 + seg.toNat * 2 ^ 25

/-- The bits of a code with the fields s at their places. -/
def encS (code : Nat) (s : Scope) : Nat :=
  code + s.code * 2 ^ 21

/-- The bits of a code with the fields none at their places. -/
def encCCode (code : Nat) : Nat :=
  code

/-- The bits of a code with the fields count, stride at their places. -/
def encCCountStride (code : Nat) (count : BitVec 6) (stride : BitVec 5) : Nat :=
  code + count.toNat * 2 ^ 5 + stride.toNat * 2 ^ 11

/-- The bits of a code with the fields d, a, i at their places. -/
def encCDAI (code : Nat) (d : CReg) (a : CReg) (i : BitVec 5) : Nat :=
  code + d.toNat * 2 ^ 5 + a.toNat * 2 ^ 8 + i.toNat * 2 ^ 11

/-- The bits of a code with the fields d, i at their places. -/
def encCDI (code : Nat) (d : CReg) (i : BitVec 8) : Nat :=
  code + d.toNat * 2 ^ 5 + i.toNat * 2 ^ 8

/-- The bits of a code with the fields d, a at their places. -/
def encCDA (code : Nat) (d : CReg) (a : CReg) : Nat :=
  code + d.toNat * 2 ^ 5 + a.toNat * 2 ^ 8

/-- The bits of a code with the fields d, s at their places. -/
def encCDS (code : Nat) (d : CReg) (s : BitVec 6) : Nat :=
  code + d.toNat * 2 ^ 5 + s.toNat * 2 ^ 8

/-- The bits of a code with the fields a, o at their places. -/
def encCAO (code : Nat) (a : CReg) (o : BitVec 7) : Nat :=
  code + a.toNat * 2 ^ 8 + o.toNat / 8 * 2 ^ 11 + o.toNat % 8 * 2 ^ 5

/-- The bits of a code with the fields o at their places. -/
def encCO (code : Nat) (o : BitVec 11) : Nat :=
  code + o.toNat * 2 ^ 5

/-- The bits of a code with the fields d, a, b, w at their places. -/
def encDABW (code : Nat) (d : RegField) (a : RegField) (b : RegField) (w : Width) : Nat :=
  code + d.toNat * 2 ^ 7 + a.toNat * 2 ^ 13 + b.toNat * 2 ^ 19 + w.code * 2 ^ 25

/-- The bits of a code with the fields d, a, k, w at their places. -/
def encDAKW (code : Nat) (d : RegField) (a : RegField) (k : BitVec 6) (w : Width) : Nat :=
  code + d.toNat * 2 ^ 7 + a.toNat * 2 ^ 13 + k.toNat * 2 ^ 19 + w.code * 2 ^ 25

/-- The bits of a code with the fields d, a, b, t at their places. -/
def encDABT (code : Nat) (d : RegField) (a : RegField) (b : RegField) (t : FType) : Nat :=
  code + d.toNat * 2 ^ 7 + a.toNat * 2 ^ 13 + b.toNat * 2 ^ 19 + t.code * 2 ^ 25

/-- The bits of a code with the fields d, a, w at their places. -/
def encDAW (code : Nat) (d : RegField) (a : RegField) (w : Width) : Nat :=
  code + d.toNat * 2 ^ 7 + a.toNat * 2 ^ 13 + w.code * 2 ^ 25

/-- The bits of a code with the fields d, a, t at their places. -/
def encDAT (code : Nat) (d : RegField) (a : RegField) (t : FType) : Nat :=
  code + d.toNat * 2 ^ 7 + a.toNat * 2 ^ 13 + t.code * 2 ^ 25

/-- The bits of a code with the fields d, a, b, l, bc, t at their places. -/
def encDABLBcT (code : Nat) (d : RegField) (a : RegField) (b : RegField) (l : BitVec 3) (bc : Bool) (t : FType) : Nat :=
  code + d.toNat * 2 ^ 7 + a.toNat * 2 ^ 13 + b.toNat * 2 ^ 19 + l.toNat * 2 ^ 25 + bc.toNat * 2 ^ 28 + t.code * 2 ^ 30

/-- The bits of a code with the fields d, a, p at their places. -/
def encDAP (code : Nat) (d : RegField) (a : RegField) (p : BitVec 3) : Nat :=
  code + d.toNat * 2 ^ 7 + a.toNat * 2 ^ 13 + p.toNat * 2 ^ 25

/-- The bits of a code with the fields d, a, b, p at their places. -/
def encDABP (code : Nat) (d : RegField) (a : RegField) (b : RegField) (p : BitVec 3) : Nat :=
  code + d.toNat * 2 ^ 7 + a.toNat * 2 ^ 13 + b.toNat * 2 ^ 19 + p.toNat * 2 ^ 25

/-- The bits of a code with the fields d, a, l, w at their places. -/
def encDALW (code : Nat) (d : RegField) (a : RegField) (l : BitVec 5) (w : Width) : Nat :=
  code + d.toNat * 2 ^ 7 + a.toNat * 2 ^ 13 + l.toNat * 2 ^ 19 + w.code * 2 ^ 25

/-- The bits of a code with the fields a at their places. -/
def encA (code : Nat) (a : RegField) : Nat :=
  code + a.toNat * 2 ^ 13

/-- The bits of a code with the fields a, n at their places. -/
def encAN (code : Nat) (a : RegField) (n : BitVec 2) : Nat :=
  code + a.toNat * 2 ^ 13 + n.toNat * 2 ^ 7

/-- The bits of a code with the fields acc, int at their places. -/
def encAccInt (code : Nat) (acc : BitVec 2) (int : Bool) : Nat :=
  code + acc.toNat * 2 ^ 7 + int.toNat * 2 ^ 25

/-- The bits of a code with the fields acc, ra, rb, ka, kb, ret at their places. -/
def encAccRaRbKaKbRet (code : Nat) (acc : BitVec 2) (ra : BitVec 2) (rb : BitVec 2) (ka : Bool) (kb : Bool) (ret : Bool) : Nat :=
  code + acc.toNat * 2 ^ 7 + ra.toNat * 2 ^ 13 + rb.toNat * 2 ^ 19 + ka.toNat * 2 ^ 25 + kb.toNat * 2 ^ 26 + ret.toNat * 2 ^ 27

/-- The bits of a code with the fields ra, rb, ka, kb, ret at their places. -/
def encRaRbKaKbRet (code : Nat) (ra : BitVec 2) (rb : BitVec 2) (ka : Bool) (kb : Bool) (ret : Bool) : Nat :=
  code + ra.toNat * 2 ^ 13 + rb.toNat * 2 ^ 19 + ka.toNat * 2 ^ 25 + kb.toNat * 2 ^ 26 + ret.toNat * 2 ^ 27

/-- The bits of a code with the fields a, b at their places. -/
def encAB (code : Nat) (a : RegField) (b : RegField) : Nat :=
  code + a.toNat * 2 ^ 13 + b.toNat * 2 ^ 19

/-- The bits of a code with the fields acc, a, b, clr, ret at their places. -/
def encAccABClrRet (code : Nat) (acc : BitVec 2) (a : RegField) (b : RegField) (clr : Bool) (ret : Bool) : Nat :=
  code + acc.toNat * 2 ^ 7 + a.toNat * 2 ^ 13 + b.toNat * 2 ^ 19 + clr.toNat * 2 ^ 25 + ret.toNat * 2 ^ 27

/-- The bits of a code with the fields acc, a, b, int at their places. -/
def encAccABInt (code : Nat) (acc : BitVec 2) (a : RegField) (b : RegField) (int : Bool) : Nat :=
  code + acc.toNat * 2 ^ 7 + a.toNat * 2 ^ 13 + b.toNat * 2 ^ 19 + int.toNat * 2 ^ 25

/-- The bits of a code with the fields n at their places. -/
def encN (code : Nat) (n : BitVec 2) : Nat :=
  code + n.toNat * 2 ^ 7

/-- The bits of a code with the fields d, a, b, ring, ret at their places. -/
def encDABRingRet (code : Nat) (d : RegField) (a : RegField) (b : RegField) (ring : Bool) (ret : Bool) : Nat :=
  code + d.toNat * 2 ^ 7 + a.toNat * 2 ^ 13 + b.toNat * 2 ^ 19 + ring.toNat * 2 ^ 26 + ret.toNat * 2 ^ 27

/-- The bits of a code with the fields d, a, b, sys, ret at their places. -/
def encDABSysRet (code : Nat) (d : RegField) (a : RegField) (b : RegField) (sys : Bool) (ret : Bool) : Nat :=
  code + d.toNat * 2 ^ 7 + a.toNat * 2 ^ 13 + b.toNat * 2 ^ 19 + sys.toNat * 2 ^ 25 + ret.toNat * 2 ^ 27

/-- The bits of a code with the fields d, a, b, ret at their places. -/
def encDABRet (code : Nat) (d : RegField) (a : RegField) (b : RegField) (ret : Bool) : Nat :=
  code + d.toNat * 2 ^ 7 + a.toNat * 2 ^ 13 + b.toNat * 2 ^ 19 + ret.toNat * 2 ^ 27

/-- The bits of a code with the fields d, a at their places. -/
def encDA2 (code : Nat) (d : BitVec 5) (a : RegField) : Nat :=
  code + d.toNat * 2 ^ 7 + a.toNat * 2 ^ 13

/-- The bits of a code with the fields d at their places. -/
def encD (code : Nat) (d : BitVec 5) : Nat :=
  code + d.toNat * 2 ^ 7

/-- The bits of a code with the fields a, b, w, seg at their places. -/
def encABWSeg (code : Nat) (a : RegField) (b : RegField) (w : BitVec 3) (seg : SegField) : Nat :=
  code + a.toNat * 2 ^ 13 + b.toNat * 2 ^ 19 + w.toNat * 2 ^ 7 + seg.toNat * 2 ^ 25

/-- The bits of a code with the fields w at their places. -/
def encW (code : Nat) (w : BitVec 3) : Nat :=
  code + w.toNat * 2 ^ 7

/-- The bits of a code with the fields none at their places. -/
def encCode (code : Nat) : Nat :=
  code

/-- The bits of a code with the fields a, n at their places. -/
def encAN2 (code : Nat) (a : RegField) (n : BitVec 8) : Nat :=
  code + a.toNat * 2 ^ 13 + n.toNat * 2 ^ 19

/-- The bits of a code with the fields d, n at their places. -/
def encDN (code : Nat) (d : RegField) (n : BitVec 8) : Nat :=
  code + d.toNat * 2 ^ 7 + n.toNat * 2 ^ 19

/-- The bits of a code with the fields n at their places. -/
def encN2 (code : Nat) (n : BitVec 8) : Nat :=
  code + n.toNat * 2 ^ 19

/-- The bits of a code with the fields d, csr at their places. -/
def encDCsr (code : Nat) (d : RegField) (csr : BitVec 12) : Nat :=
  code + d.toNat * 2 ^ 7 + csr.toNat * 2 ^ 13

/-- The bits of a code with the fields x, csr at their places. -/
def encXCsr (code : Nat) (x : RegField) (csr : BitVec 12) : Nat :=
  code + x.toNat * 2 ^ 7 + csr.toNat * 2 ^ 13

/-- The bits of a code with the fields k at their places. -/
def encK (code : Nat) (k : BitVec 12) : Nat :=
  code + k.toNat * 2 ^ 13

/-- The bits of a code with the fields a, b, c, seg at their places. -/
def encABCSeg (code : Nat) (a : RegField) (b : RegField) (c : RegField) (seg : SegField) : Nat :=
  code + a.toNat * 2 ^ 13 + b.toNat * 2 ^ 19 + c.toNat * 2 ^ 7 + seg.toNat * 2 ^ 25

/-- The bits of a code with the fields a, b, seg at their places. -/
def encABSeg (code : Nat) (a : RegField) (b : RegField) (seg : SegField) : Nat :=
  code + a.toNat * 2 ^ 13 + b.toNat * 2 ^ 19 + seg.toNat * 2 ^ 25

/-- The bits of a code with the fields d at their places. -/
def encD2 (code : Nat) (d : RegField) : Nat :=
  code + d.toNat * 2 ^ 7


/-- The bits of an instruction's encoding. -/
def Instr.bits : Instr → Nat
  | .add d a b => encDAB 0x1 d a b
  | .sub d a b => encDAB 0x2000001 d a b
  | .and d a b => encDAB 0x4000001 d a b
  | .or d a b => encDAB 0x6000001 d a b
  | .xor d a b => encDAB 0x8000001 d a b
  | .andn d a b => encDAB 0xA000001 d a b
  | .orn d a b => encDAB 0xC000001 d a b
  | .sll d a b => encDAB 0xE000001 d a b
  | .srl d a b => encDAB 0x10000001 d a b
  | .sra d a b => encDAB 0x12000001 d a b
  | .rol d a b => encDAB 0x14000001 d a b
  | .ror d a b => encDAB 0x16000001 d a b
  | .slt d a b => encDAB 0x18000001 d a b
  | .sltu d a b => encDAB 0x1A000001 d a b
  | .min d a b => encDAB 0x1C000001 d a b
  | .max d a b => encDAB 0x1E000001 d a b
  | .minu d a b => encDAB 0x20000001 d a b
  | .maxu d a b => encDAB 0x22000001 d a b
  | .cmov d a b => encDAB 0x24000001 d a b
  | .addw d a b => encDAB 0x26000001 d a b
  | .subw d a b => encDAB 0x28000001 d a b
  | .sllw d a b => encDAB 0x2A000001 d a b
  | .srlw d a b => encDAB 0x2C000001 d a b
  | .sraw d a b => encDAB 0x2E000001 d a b
  | .mul d a b => encDAB 0x3 d a b
  | .mulh d a b => encDAB 0x2000003 d a b
  | .mulhu d a b => encDAB 0x4000003 d a b
  | .mulhsu d a b => encDAB 0x6000003 d a b
  | .div d a b => encDAB 0x8000003 d a b
  | .divu d a b => encDAB 0xA000003 d a b
  | .rem d a b => encDAB 0xC000003 d a b
  | .remu d a b => encDAB 0xE000003 d a b
  | .mulw d a b => encDAB 0x10000003 d a b
  | .divw d a b => encDAB 0x12000003 d a b
  | .remw d a b => encDAB 0x14000003 d a b
  | .divisionWrite _ => 0
  | .popc d a => encDA 0x5 d a
  | .clz d a => encDA 0x2000005 d a
  | .ctz d a => encDA 0x4000005 d a
  | .brev d a => encDA 0x6000005 d a
  | .bswap d a => encDA 0x8000005 d a
  | .bext d a b => encDAB 0xA000005 d a b
  | .bins d a b => encDAB 0xC000005 d a b
  | .sextB d a => encDA 0xE000005 d a
  | .sextH d a => encDA 0x10000005 d a
  | .sextW d a => encDA 0x12000005 d a
  | .zextB d a => encDA 0x14000005 d a
  | .zextH d a => encDA 0x16000005 d a
  | .zextW d a => encDA 0x18000005 d a
  | .lsb d a => encDA 0x1A000005 d a
  | .msk d a => encDA 0x1C000005 d a
  | .addi d a i => encDAI 0x7 d a i
  | .andi d a i => encDAI 0x9 d a i
  | .ori d a i => encDAI 0xB d a i
  | .xori d a i => encDAI 0xD d a i
  | .slti d a i => encDAI 0xF d a i
  | .sltiu d a i => encDAI 0x11 d a i
  | .addiw d a i => encDAI 0x15 d a i
  | .slli d a s => encDAS 0x13 d a s
  | .srli d a s => encDAS 0x4000013 d a s
  | .srai d a s => encDAS 0x8000013 d a s
  | .slliw d a s => encDAS2 0xC000013 d a s
  | .srliw d a s => encDAS2 0x10000013 d a s
  | .sraiw d a s => encDAS2 0x14000013 d a s
  | .lui d i => encDI 0x17 d i
  | .lpc d i => encDI 0x19 d i
  | .jal d i => encDI 0x1B d i
  | .jalr d a i => encDAI 0x1D d a i
  | .beq a b i => encABI 0x1F a b i
  | .bne a b i => encABI 0x21 a b i
  | .blt a b i => encABI 0x23 a b i
  | .bge a b i => encABI 0x25 a b i
  | .bltu a b i => encABI 0x27 a b i
  | .bgeu a b i => encABI 0x29 a b i
  | .bany a b i => encABI2 0x2B a b i
  | .ball a b i => encABI2 0x8002B a b i
  | .bnone a b i => encABI2 0x10002B a b i
  | .bbs a n i => encANI 0x18002B a n i
  | .bbc a n i => encANI 0x20002B a n i
  | .ldB d base seg imm => encDBaseSegImm 0x31 d base seg imm
  | .ldBu d base seg imm => encDBaseSegImm 0x33 d base seg imm
  | .ldH d base seg imm => encDBaseSegImm 0x35 d base seg imm
  | .ldHu d base seg imm => encDBaseSegImm 0x37 d base seg imm
  | .ldW d base seg imm => encDBaseSegImm 0x39 d base seg imm
  | .ldWu d base seg imm => encDBaseSegImm 0x3B d base seg imm
  | .ldD d base seg imm => encDBaseSegImm 0x3D d base seg imm
  | .stB d base seg imm => encDBaseSegImm 0x3F d base seg imm
  | .stH d base seg imm => encDBaseSegImm 0x41 d base seg imm
  | .stW d base seg imm => encDBaseSegImm 0x43 d base seg imm
  | .stD d base seg imm => encDBaseSegImm 0x45 d base seg imm
  | .vld d base seg imm => encDBaseSegImm 0x47 d base seg imm
  | .vst d base seg imm => encDBaseSegImm 0x49 d base seg imm
  | .ldBIndexed d base idx seg => encDBaseIdxSeg 0x4B d base idx seg
  | .ldBuIndexed d base idx seg => encDBaseIdxSeg 0x1000004B d base idx seg
  | .ldHIndexed d base idx seg => encDBaseIdxSeg 0x2000004B d base idx seg
  | .ldHuIndexed d base idx seg => encDBaseIdxSeg 0x3000004B d base idx seg
  | .ldWIndexed d base idx seg => encDBaseIdxSeg 0x4000004B d base idx seg
  | .ldWuIndexed d base idx seg => encDBaseIdxSeg 0x5000004B d base idx seg
  | .ldDIndexed d base idx seg => encDBaseIdxSeg 0x6000004B d base idx seg
  | .stBIndexed d base idx seg => encDBaseIdxSeg 0x7000004B d base idx seg
  | .stHIndexed d base idx seg => encDBaseIdxSeg 0x8000004B d base idx seg
  | .stWIndexed d base idx seg => encDBaseIdxSeg 0x9000004B d base idx seg
  | .stDIndexed d base idx seg => encDBaseIdxSeg 0xA000004B d base idx seg
  | .vldIndexed d base idx seg => encDBaseIdxSeg 0xB000004B d base idx seg
  | .vstIndexed d base idx seg => encDBaseIdxSeg 0xC000004B d base idx seg
  | .loadReply _ => 0
  | .bwait base seg => encBaseSeg 0x4D base seg
  | .bhold d base seg => encDBaseSeg 0x1000004D d base seg
  | .barm base idx seg => encBaseIdxSeg 0x2000004D base idx seg
  | .bpoll d base seg => encDBaseSeg 0x3000004D d base seg
  | .bgen d base seg => encDBaseSeg 0x4000004D d base seg
  | .bclr base seg => encBaseSeg 0x5000004D base seg
  | .bclrG base idx seg => encBaseIdxSeg 0x6000004D base idx seg
  | .bfin base seg => encBaseSeg 0x7000004D base seg
  | .amoAddW d base idx seg => encDBaseIdxSeg 0x4F d base idx seg
  | .amoAndW d base idx seg => encDBaseIdxSeg 0x1000004F d base idx seg
  | .amoOrW d base idx seg => encDBaseIdxSeg 0x2000004F d base idx seg
  | .amoXorW d base idx seg => encDBaseIdxSeg 0x3000004F d base idx seg
  | .amoMinW d base idx seg => encDBaseIdxSeg 0x4000004F d base idx seg
  | .amoMaxW d base idx seg => encDBaseIdxSeg 0x5000004F d base idx seg
  | .amoMinuW d base idx seg => encDBaseIdxSeg 0x6000004F d base idx seg
  | .amoMaxuW d base idx seg => encDBaseIdxSeg 0x7000004F d base idx seg
  | .amoSwapW d base idx seg => encDBaseIdxSeg 0x8000004F d base idx seg
  | .amoCasW d base idx seg => encDBaseIdxSeg 0x9000004F d base idx seg
  | .amoFaddW d base idx seg => encDBaseIdxSeg 0xA000004F d base idx seg
  | .amoIncW d base idx seg => encDBaseIdxSeg 0xB000004F d base idx seg
  | .amoAddD d base idx seg => encDBaseIdxSeg 0x51 d base idx seg
  | .amoAndD d base idx seg => encDBaseIdxSeg 0x10000051 d base idx seg
  | .amoOrD d base idx seg => encDBaseIdxSeg 0x20000051 d base idx seg
  | .amoXorD d base idx seg => encDBaseIdxSeg 0x30000051 d base idx seg
  | .amoMinD d base idx seg => encDBaseIdxSeg 0x40000051 d base idx seg
  | .amoMaxD d base idx seg => encDBaseIdxSeg 0x50000051 d base idx seg
  | .amoMinuD d base idx seg => encDBaseIdxSeg 0x60000051 d base idx seg
  | .amoMaxuD d base idx seg => encDBaseIdxSeg 0x70000051 d base idx seg
  | .amoSwapD d base idx seg => encDBaseIdxSeg 0x80000051 d base idx seg
  | .amoCasD d base idx seg => encDBaseIdxSeg 0x90000051 d base idx seg
  | .amoIncD d base idx seg => encDBaseIdxSeg 0xB0000051 d base idx seg
  | .fenceAcq s => encS 0x53 s
  | .fenceRel s => encS 0x80053 s
  | .fenceFull s => encS 0x100053 s
  | .rlx => encCCode 0x18
  | .rep count stride => encCCountStride 0x1A count stride
  | .illegalUnit _ => 0
  | .cAddi d a i => encCDAI 0x2 d a i
  | .cLi d i => encCDI 0x4 d i
  | .cMv d a => encCDA 0x6 d a
  | .cAdd d a => encCDA 0x8 d a
  | .cSub d a => encCDA 0xA d a
  | .cAnd d a => encCDA 0x80A d a
  | .cSlli d s => encCDS 0xC d s
  | .cSrli d s => encCDS 0x800C d s
  | .cBeqz a o => encCAO 0xE a o
  | .cBnez a o => encCAO 0x800E a o
  | .cLdD d a i => encCDAI 0x10 d a i
  | .cStD d a i => encCDAI 0x12 d a i
  | .cVld d a i => encCDAI 0x14 d a i
  | .cVst d a i => encCDAI 0x16 d a i
  | .cJ o => encCO 0x1C o
  | .vadd d a b w => encDABW 0x59 d a b w
  | .vsub d a b w => encDABW 0x8000059 d a b w
  | .vadds d a b w => encDABW 0x10000059 d a b w
  | .vaddsu d a b w => encDABW 0x18000059 d a b w
  | .vsubs d a b w => encDABW 0x20000059 d a b w
  | .vsubsu d a b w => encDABW 0x28000059 d a b w
  | .vmul d a b w => encDABW 0x30000059 d a b w
  | .vmulh d a b w => encDABW 0x38000059 d a b w
  | .vmulhu d a b w => encDABW 0x40000059 d a b w
  | .vmin d a b w => encDABW 0x48000059 d a b w
  | .vminu d a b w => encDABW 0x50000059 d a b w
  | .vmax d a b w => encDABW 0x58000059 d a b w
  | .vmaxu d a b w => encDABW 0x60000059 d a b w
  | .vabsd d a b w => encDABW 0x68000059 d a b w
  | .vavgu d a b w => encDABW 0x70000059 d a b w
  | .vand d a b => encDAB 0x5B d a b
  | .vor d a b => encDAB 0x800005B d a b
  | .vxor d a b => encDAB 0x1000005B d a b
  | .vandn d a b => encDAB 0x1800005B d a b
  | .vbsl d a b => encDAB 0x2000005B d a b
  | .vsll d a b w => encDABW 0x2800005B d a b w
  | .vsrl d a b w => encDABW 0x3000005B d a b w
  | .vsra d a b w => encDABW 0x3800005B d a b w
  | .vslli d a k w => encDAKW 0x4000005B d a k w
  | .vsrli d a k w => encDAKW 0x4800005B d a k w
  | .vsrai d a k w => encDAKW 0x5000005B d a k w
  | .vceq d a b w => encDABW 0x5D d a b w
  | .vcne d a b w => encDABW 0x800005D d a b w
  | .vclt d a b w => encDABW 0x1000005D d a b w
  | .vcltu d a b w => encDABW 0x1800005D d a b w
  | .vcle d a b w => encDABW 0x2000005D d a b w
  | .vcleu d a b w => encDABW 0x2800005D d a b w
  | .vfceq d a b t => encDABT 0x3000005D d a b t
  | .vfcne d a b t => encDABT 0x3800005D d a b t
  | .vfclt d a b t => encDABT 0x4000005D d a b t
  | .vfcle d a b t => encDABT 0x4800005D d a b t
  | .vfcun d a b t => encDABT 0x5000005D d a b t
  | .vshuf d a b w => encDABW 0x5F d a b w
  | .vzipl d a b w => encDABW 0x800005F d a b w
  | .vziph d a b w => encDABW 0x1000005F d a b w
  | .vunzipe d a b w => encDABW 0x1800005F d a b w
  | .vunzipo d a b w => encDABW 0x2000005F d a b w
  | .vrev d a w => encDAW 0x2800005F d a w
  | .vpacks d a b w => encDABW 0x3000005F d a b w
  | .vpacksu d a b w => encDABW 0x3800005F d a b w
  | .vwidenl d a w => encDAW 0x4000005F d a w
  | .vwidenh d a w => encDAW 0x4800005F d a w
  | .vwidenlu d a w => encDAW 0x5000005F d a w
  | .vwidenhu d a w => encDAW 0x5800005F d a w
  | .vfadd d a b t => encDABT 0x61 d a b t
  | .vfsub d a b t => encDABT 0x8000061 d a b t
  | .vfmul d a b t => encDABT 0x10000061 d a b t
  | .vfmin d a b t => encDABT 0x18000061 d a b t
  | .vfmax d a b t => encDABT 0x20000061 d a b t
  | .vfabs d a t => encDAT 0x28000061 d a t
  | .vfneg d a t => encDAT 0x30000061 d a t
  | .vfround d a t => encDAT 0x38000061 d a t
  | .vfma d a b l bc t => encDABLBcT 0x63 d a b l bc t
  | .vfms d a b l bc t => encDABLBcT 0x20000063 d a b l bc t
  | .vcvtF16F32 d a p => encDAP 0x65 d a p
  | .vcvtBf16F32 d a p => encDAP 0x10000065 d a p
  | .vcvtE4m3F32 d a b p => encDABP 0x20000065 d a b p
  | .vcvtE5m2F32 d a b p => encDABP 0x30000065 d a b p
  | .vcvtE2m1F32 d a b p => encDABP 0x40000065 d a b p
  | .vcvtF16F32Sat d a p => encDAP 0x50000065 d a p
  | .vcvtBf16F32Sat d a p => encDAP 0x60000065 d a p
  | .vcvtE4m3F32Sat d a b p => encDABP 0x70000065 d a b p
  | .vcvtE5m2F32Sat d a b p => encDABP 0x80000065 d a b p
  | .vcvtE2m1F32Sat d a b p => encDABP 0x90000065 d a b p
  | .vcvtF32F16 d a p => encDAP 0xA0000065 d a p
  | .vcvtF32Bf16 d a p => encDAP 0xB0000065 d a p
  | .vcvtF32E4m3 d a b p => encDABP 0xC0000065 d a b p
  | .vcvtF32E5m2 d a b p => encDABP 0xD0000065 d a b p
  | .vcvtF32E2m1 d a b p => encDABP 0xE0000065 d a b p
  | .vcvtI32F32 d a => encDA 0xF0000065 d a
  | .vcvtF32I32 d a => encDA 0xF2000065 d a
  | .vrsum d a w => encDAW 0x67 d a w
  | .vrsumu d a w => encDAW 0x8000067 d a w
  | .vrmin d a w => encDAW 0x10000067 d a w
  | .vrminu d a w => encDAW 0x18000067 d a w
  | .vrmax d a w => encDAW 0x20000067 d a w
  | .vrmaxu d a w => encDAW 0x28000067 d a w
  | .vfrsum d a t => encDAT 0x30000067 d a t
  | .vfrmin d a t => encDAT 0x38000067 d a t
  | .vfrmax d a t => encDAT 0x40000067 d a t
  | .vmv d a => encDA 0x69 d a
  | .vbcst d a w => encDAW 0x8000069 d a w
  | .vins d a l w => encDALW 0x10000069 d a l w
  | .vextr d a l w => encDALW 0x18000069 d a l w
  | .vextru d a l w => encDALW 0x20000069 d a l w
  | .vmexp d a w => encDAW 0x28000069 d a w
  | .vfrcp d a => encDA 0x6B d a
  | .vfrsq d a => encDA 0x800006B d a
  | .vfexp2 d a => encDA 0x1000006B d a
  | .vflog2 d a => encDA 0x1800006B d a
  | .vfdiv d a b => encDAB 0x2000006B d a b
  | .vfsqrt d a => encDA 0x2800006B d a
  | .specialFunctionWrite _ => 0
  | .mxCfg a => encA 0x6D a
  | .mxRing a n => encAN 0x1000006D a n
  | .mxZero acc int => encAccInt 0x2000006D acc int
  | .mxMma acc ra rb ka kb ret => encAccRaRbKaKbRet 0x3000006D acc ra rb ka kb ret
  | .mxMma4 ra rb ka kb ret => encRaRbKaKbRet 0x4000006D ra rb ka kb ret
  | .mxScale a b => encAB 0x5000006D a b
  | .mxDrain acc a b clr ret => encAccABClrRet 0x6000006D acc a b clr ret
  | .mxLoad acc a b int => encAccABInt 0x7000006D acc a b int
  | .mxPush n => encN 0x8000006D n
  | .mxPop n => encN 0x9000006D n
  | .matrixOperationStart _ => 0
  | .matrixOperationEnd _ => 0
  | .cpIn d a b ring ret => encDABRingRet 0x6F d a b ring ret
  | .cpOut d a b sys ret => encDABSysRet 0x1000006F d a b sys ret
  | .cpDd d a b ret => encDABRet 0x2000006F d a b ret
  | .cpGather d a b ring ret => encDABRingRet 0x3000006F d a b ring ret
  | .cpPf a b => encAB 0x4000006F a b
  | .copyAcceptance _ => 0
  | .copyUnitRequest _ => 0
  | .copyUnitDone _ _ => 0
  | .smBind d a => encDA2 0x71 d a
  | .smFree d => encD 0x10000071 d
  | .smSkip d a => encDA2 0x20000071 d a
  | .streamRefill _ _ => 0
  | .streamUnitArrival _ _ => 0
  | .tbInit a b => encAB 0x73 a b
  | .tbArrive d a => encDA 0x10000073 d a
  | .tbWait a b => encAB 0x20000073 a b
  | .tbTest d a b => encDAB 0x30000073 d a b
  | .winOpen a b w seg => encABWSeg 0x75 a b w seg
  | .winFlush w => encW 0x10000075 w
  | .winClose w => encW 0x20000075 w
  | .winDrop w => encW 0x30000075 w
  | .windowFetchReply _ _ _ => 0
  | .seqCfg a => encA 0x77 a
  | .seqStart a => encA 0x10000077 a
  | .seqStop => encCode 0x20000077
  | .seqRet => encCode 0x30000077
  | .sequencerEmit _ => 0
  | .spawn d a b => encDAB 0x79 d a b
  | .exit => encCode 0x2000079
  | .yield => encCode 0x4000079
  | .park d a => encDA 0x6000079 d a
  | .parkTimeout _ => 0
  | .wake a => encA 0x8000079 a
  | .wakeArrival _ _ => 0
  | .fuse d a => encDA 0xA000079 d a
  | .split => encCode 0xC000079
  | .send a b => encAB 0xE000079 a b
  | .recv d a => encDA 0x10000079 d a
  | .recvp d a => encDA 0x12000079 d a
  | .mig a => encA 0x14000079 a
  | .messageDelivery _ => 0
  | .routineSpawn _ => 0
  | .overflowMove _ => 0
  | .flowControlRelease _ => 0
  | .barInit a n => encAN2 0x7B a n
  | .barArrive d n => encDN 0x2000007B d n
  | .barWait a n => encAN2 0x4000007B a n
  | .barSync n => encN2 0x6000007B n
  | .wfe => encCode 0x8000007B
  | .sev a => encA 0xA000007B a
  | .eventArrival _ _ => 0
  | .csrr d csr => encDCsr 0x7D d csr
  | .csrw x csr => encXCsr 0x1000007D x csr
  | .csrs x csr => encXCsr 0x2000007D x csr
  | .csrc x csr => encXCsr 0x3000007D x csr
  | .trap k => encK 0x4000007D k
  | .brk => encCode 0x5000007D
  | .eret => encCode 0x6000007D
  | .segw a b c seg => encABCSeg 0x7000007D a b c seg
  | .tlbinv a b => encAB 0x8000007D a b
  | .scrub a b seg => encABSeg 0x9000007D a b seg
  | .twinOn d => encD2 0xA000007D d
  | .twinOff => encCode 0xB000007D
  | .twinCompare _ => 0
  | .translationWalk _ _ => 0
  | .faultServe _ _ => 0
  | .faultReject _ _ => 0
  | .pageFaultWake _ _ _ => 0
  | .setAside _ => 0
  | .setAsideReturn _ => 0
  | .homeLoad _ => 0
  | .homeCoveringStore _ => 0
  | .homeBfin _ => 0
  | .homeBhold _ => 0
  | .homeBarm _ => 0
  | .homeClear _ => 0
  | .waiterWithdrawal _ _ => 0
  | .holdWithdrawal _ _ => 0
  | .poolBlockFreed _ => 0
  | .blockPoisoning _ => 0
  | .gets _ _ => 0
  | .getm _ _ => 0
  | .upg _ _ => 0
  | .wb _ _ => 0
  | .rcl _ _ => 0
  | .inv _ _ => 0
  | .wrw _ => 0
  | .writebackArrival _ => 0
  | .recallReply _ => 0
  | .recallTimeout _ => 0
  | .holderFailure _ => 0
  | .rowActivation _ _ => 0
  | .refreshWindowEnd _ => 0
  | .placementDecision _ => 0
  | .crewRetirement _ => 0
  | .relief _ => 0
  | .preemptionRequest _ => 0
  | .threadStop _ => 0
  | .contextSave _ => 0
  | .killScrubEnd _ => 0
  | .joinNotice _ _ _ _ _ => 0
  | .packetTake _ => 0
  | .proofRunRetirement _ => 0
  | .journalSpaceFreed _ => 0
  | .rowRemap _ => 0
  | .siteInjectorWrite _ _ => 0
  | .strainLimitWrite _ => 0
  | .siteReopen _ _ => 0
  | .flitReceive _ _ _ _ _ => 0
  | .ack _ _ => 0
  | .nak _ _ => 0
  | .ackTimer _ => 0
  | .retrain _ => 0
  | .portDown _ => 0
  | .laneInjectorWrite _ _ _ => 0
  | .routeTableWrite _ _ => 0
  | .notify _ _ _ => 0
  | .qctl _ _ _ => 0
  | .qring _ _ _ => 0
  | .qstop _ _ _ => 0
  | .registerWrite _ _ _ => 0
  | .hostRead _ _ _ => 0
  | .hostWrite _ _ _ _ => 0
  | .hostSectorRequest _ _ _ => 0
  | .functionLevelReset _ => 0
  | .claunch _ _ => 0
  | .cstat _ => 0
  | .cdec _ _ => 0
  | .attestationRequest _ _ => 0
  | .keyLoad _ _ _ => 0
  | .keyDestroy _ => 0
  | .keyClearingDone _ => 0
  | .keyRelease _ => 0
  | .packageReset => 0
  | .checkpoint _ => 0
  | .powerLimitWrite _ => 0
  | .powerStepDown => 0
  | .powerStepUp => 0
  | .memoryReply _ => 0
  | .tick => 0
  | .retrainCompletion _ _ => 0
  | .injectedDelayExpiry _ => 0
  | .checkpointRestore _ => 0
  | .measurementExtension _ _ _ => 0
  | .configurationChange _ _ _ => 0

/-- The halfwords of an instruction, the one at the lowest address first (R59). -/
def encode (i : Instr) : List Nat :=
  match i.size with
  | 0 => []
  | 1 => [i.bits]
  | _ => [i.bits % 2 ^ 16, i.bits / 2 ^ 16]

/-- The major of an instruction, compact majors counted from 0x40 (R69, R83); 0x80 for a step without encoding. -/
def Instr.major (i : Instr) : Nat :=
  match i.size with
  | 0 => 0x80
  | 1 => 0x40 + field i.bits 1 4
  | _ => field i.bits 1 6

/-- A load or store of majors 0x18 to 0x25, or a compact one. -/
def isAccess (major : Nat) : Bool :=
  (0x18 ≤ major && major ≤ 0x25) || (0x48 ≤ major && major ≤ 0x4B)

/-- What `rlx` may precede (R67). -/
def admitsRlx (major : Nat) : Bool := isAccess major || major == 0x27 || major == 0x28

/-- What `rep` may precede without `rlx` (R68). -/
def admitsRep (major : Nat) : Bool :=
  major ≤ 0x0C || isAccess major || (0x2C ≤ major && major ≤ 0x35) || (0x41 ≤ major && major ≤ 0x46)

/-- A register field that names a port or special register: `h24` to `h31`, or `w28` to `w31` (R20). -/
def namesPort (vec : Bool) (f : RegField) : Bool :=
  if vec then decide (60 ≤ f.toNat) else decide (56 ≤ f.toNat)

/-- A relaxed load must not name a port as its destination (R137). -/
def relaxedToPort : Instr → Bool
  | .ldB d _ _ _ | .ldBu d _ _ _ | .ldH d _ _ _ | .ldHu d _ _ _ | .ldW d _ _ _ | .ldWu d _ _ _ | .ldD d _ _ _
  | .ldBIndexed d _ _ _ | .ldBuIndexed d _ _ _ | .ldHIndexed d _ _ _ | .ldHuIndexed d _ _ _
  | .ldWIndexed d _ _ _ | .ldWuIndexed d _ _ _ | .ldDIndexed d _ _ _ => namesPort false d
  | .vld d _ _ _ | .vldIndexed d _ _ _ => namesPort true d
  | _ => false

/-- A unit: its prefixes, its instruction (none: it is ILLEGAL), its length in halfwords (R66). -/
structure Unit16 where
  rep : Option (BitVec 5 × BitVec 6)
  rlx : Bool
  instr : Option Instr
  size : Nat
deriving DecidableEq, Repr

/-- A prefix halfword: compact major 0xC or 0xD. -/
def isPrefix (h : Nat) : Bool := field h 0 5 == 0x18 || field h 0 5 == 0x1A

/-- The unit made of `n` prefix halfwords and the instruction at the start of `w`. -/
def follow (rep : Option (BitVec 5 × BitVec 6)) (rlx : Bool) (legal : Bool) (n w : Nat) : Unit16 :=
  let i := decodeWord w
  let ok := match i with
    | none => none
    | some j =>
      if legal && (if rlx then admitsRlx j.major && !relaxedToPort j
                   else if rep.isSome then admitsRep j.major else true)
      then some j else none
  ⟨rep, rlx, ok, n + halfwords w⟩

/-- A unit that ends at a barred prefix (R66). -/
def barred (n : Nat) : Unit16 := ⟨none, false, none, n⟩

/-- The stride and the count of a `rep` halfword (R66). -/
def repFields (h : Nat) : Option (BitVec 5 × BitVec 6) := some (bitsAt 5 h 11, bitsAt 6 h 5)

/-- The unit that starts with the halfwords of `w`, the first one in its low bits. A halfword of compact
major 0xC is the `rlx` prefix of its unit whatever its reserved bits are, and they make that unit ILLEGAL
(DEDUCED, assumption 6). -/
def unitOf (w : Nat) : Unit16 :=
  let h0 := field w 0 16
  let h1 := field w 16 16
  let h2 := field w 32 16
  if field h0 0 5 = 0x1A then
    if field h1 0 5 = 0x18 then
      if isPrefix h2 then barred 3
      else follow (repFields h0) true (decide (h1 = 0x18)) 2 (w / 2 ^ 32)
    else if isPrefix h1 then barred 2
    else follow (repFields h0) false true 1 (w / 2 ^ 16)
  else if field h0 0 5 = 0x18 then
    if isPrefix h1 then barred 2
    else follow none true (decide (h0 = 0x18)) 1 (w / 2 ^ 16)
  else follow none false true 0 w

end

end Sys2Proof
end

