-- ==== Sys2Proof/Machine/Flags.lean ====
section
/-! DEFINITION. Numbers and flags: the floating-point formats of R149, the one rounding of R152 with the
overflow of R153 and the tininess of R154, the flags of R156, and the arithmetic, conversions and special
functions of R167 to R177 on the bits of one element. -/

namespace Sys2Proof.Machine

/-- `fflags` bits (R35). -/
def flagNV : BitVec 5 := 16
def flagDZ : BitVec 5 := 8
def flagOF : BitVec 5 := 4
def flagUF : BitVec 5 := 2
def flagNX : BitVec 5 := 1

/-- A format: exponent bits, mantissa bits, bias, the largest finite magnitude as a mantissa times two to a
power, the encodings of infinity and of the default NaN where it has them (R149). -/
structure Format where
  ebits : Nat
  mbits : Nat
  bias : Nat
  maxMant : Nat
  maxExp : Int
  inf : Option Nat
  nan : Option Nat
deriving DecidableEq, Repr

def fp32 : Format := ⟨8, 23, 127, 2 ^ 24 - 1, 104, some 0x7F800000, some 0x7FC00000⟩
def fp16 : Format := ⟨5, 10, 15, 2 ^ 11 - 1, 5, some 0x7C00, some 0x7E00⟩
def bf16 : Format := ⟨8, 7, 127, 2 ^ 8 - 1, 120, some 0x7F80, some 0x7FC0⟩
def e5m2 : Format := ⟨5, 2, 15, 7, 13, some 0x7C, some 0x7E⟩
def e4m3 : Format := ⟨4, 3, 7, 14, 5, none, some 0x7F⟩
def e2m1 : Format := ⟨2, 1, 1, 3, 1, none, none⟩

/-- The width of a format in bits. -/
def Format.width (f : Format) : Nat := 1 + f.ebits + f.mbits
/-- The sign bit. -/
def Format.signBit (f : Format) : Nat := 2 ^ (f.ebits + f.mbits)
/-- The exponent of the smallest normal, and of the subnormal grid's spacing. -/
def Format.minExp (f : Format) : Int := 1 - f.bias
def Format.minQuantum (f : Format) : Int := f.minExp - f.mbits

/-- A sign bit put on a magnitude's bits. -/
def Format.sign (f : Format) (neg : Bool) (bits : Nat) : Nat := if neg then f.signBit + bits else bits

/-- The bits of the largest finite magnitude. -/
def Format.largest (f : Format) : Nat :=
  f.maxMant + (f.maxExp - f.minQuantum).toNat * 2 ^ f.mbits

/-- The default NaN's bits; E2M1 has none and uses 0 (R170). -/
def Format.nanBits (f : Format) : Nat := f.nan.getD 0

/-- A number: a NaN, a signed infinity, or sign and magnitude `m * 2^e` exactly. -/
inductive Fp where
  | nan
  | inf (neg : Bool)
  | fin (neg : Bool) (m : Nat) (e : Int)
deriving DecidableEq, Repr

/-- The number that bits encode (R148, R149). -/
def Format.value (f : Format) (bits : Nat) : Fp :=
  let neg := bitAt bits (f.ebits + f.mbits)
  let e := field bits f.mbits f.ebits
  let m := field bits 0 f.mbits
  let mag := field bits 0 (f.ebits + f.mbits)
  if f.inf.isSome && e + 1 == 2 ^ f.ebits then (if m = 0 then .inf neg else .nan)
  else if f.inf.isNone && f.nan == some mag then .nan
  else if e = 0 then .fin neg m f.minQuantum
  else .fin neg (2 ^ f.mbits + m) (f.minQuantum + e - 1)

/-- `m * 2^e` as a whole number of `2^q`, rounded under `rm` (R152), and whether it was inexact. -/
def roundAt (rm : Nat) (neg : Bool) (m : Nat) (e q : Int) : Nat × Bool :=
  if q ≤ e then (m * 2 ^ (e - q).toNat, false)
  else
    let d := 2 ^ (q - e).toNat
    let n := m / d
    let r := m % d
    let up := match rm with
      | 0 => decide (d < 2 * r) || (decide (2 * r = d) && n % 2 == 1)
      | 1 => false
      | 2 => neg && r != 0
      | _ => !neg && r != 0
    (if up then n + 1 else n, r != 0)

/-- What an overflow delivers: the format's infinity (or `top` in a format without one), or the largest
finite magnitude, by mode and sign (R153). -/
def overflowed (f : Format) (rm : Nat) (neg : Bool) (top : Nat) : Nat :=
  let toInf := match rm with
    | 0 => true
    | 1 => false
    | 2 => neg
    | _ => !neg
  if toInf then top else f.sign neg f.largest

/-- The rounded result of the exact value `m * 2^e`, with its flags; `top` are the bits that stand for the
infinity of this sign, and `sat` asks for the largest finite magnitude instead of R153's table. -/
def deliver (f : Format) (rm : Nat) (neg : Bool) (m : Nat) (e : Int) (top : Nat) (sat : Bool) :
    Nat × BitVec 5 :=
  if m = 0 then (f.sign neg 0, 0)
  else
    let msb : Int := m.log2 + e
    let qn := msb - f.mbits
    let q := if qn < f.minQuantum then f.minQuantum else qn
    let (n, inexact) := roundAt rm neg m e q
    let (nu, _) := roundAt rm neg m e qn
    let top2 : Int := if nu = 2 ^ (f.mbits + 1) then msb + 1 else msb
    let tiny := decide (top2 < f.minExp)
    let tooBig := decide (f.maxExp ≤ q) && decide (f.maxMant < n * 2 ^ (q - f.maxExp).toNat)
    if tooBig then
      (if sat then f.sign neg f.largest else overflowed f rm neg top, flagOF ||| flagNX)
    else
      (f.sign neg (n + (q - f.minQuantum).toNat * 2 ^ f.mbits),
        (if tiny && inexact then flagUF else 0) ||| (if inexact then flagNX else 0))

/-- The bits of a signed infinity in a format that has one. -/
def Format.infBits (f : Format) (neg : Bool) : Nat := f.sign neg (f.inf.getD f.nanBits)

/-- A number rounded into a format of the arithmetic (R152 to R155). -/
def roundFp (f : Format) (rm : Nat) (x : Fp) : Nat × BitVec 5 :=
  match x with
  | .nan => (f.nanBits, 0)
  | .inf neg => (f.infBits neg, 0)
  | .fin neg m e => deliver f rm neg m e (f.infBits neg) false

/-- A number with its sign inverted. -/
def Fp.neg : Fp → Fp
  | .nan => .nan
  | .inf n => .inf (!n)
  | .fin n m e => .fin (!n) m e

/-- A signed whole number of `2^e`. -/
def signedMant (neg : Bool) (m : Nat) : Int := if neg then -(m : Int) else m

/-- The exact sum, with the sign of a zero by R152. -/
def addFin (rm : Nat) (n1 : Bool) (m1 : Nat) (e1 : Int) (n2 : Bool) (m2 : Nat) (e2 : Int) : Fp :=
  let e := if e1 < e2 then e1 else e2
  let z := signedMant n1 (m1 * 2 ^ (e1 - e).toNat) + signedMant n2 (m2 * 2 ^ (e2 - e).toNat)
  if z = 0 then .fin (if n1 = n2 then n1 else rm == 2) 0 e
  else .fin (decide (z < 0)) z.natAbs e

/-- The exact sum of two numbers, and NV for opposite infinities (R156). -/
def Fp.add (rm : Nat) (x y : Fp) : Fp × BitVec 5 :=
  match x, y with
  | .nan, _ => (.nan, 0)
  | _, .nan => (.nan, 0)
  | .inf a, .inf b => if a = b then (.inf a, 0) else (.nan, flagNV)
  | .inf a, .fin _ _ _ => (.inf a, 0)
  | .fin _ _ _, .inf b => (.inf b, 0)
  | .fin n1 m1 e1, .fin n2 m2 e2 => (addFin rm n1 m1 e1 n2 m2 e2, 0)

/-- The exact product, and NV for zero times infinity (R156). -/
def Fp.mul (x y : Fp) : Fp × BitVec 5 :=
  match x, y with
  | .nan, _ => (.nan, 0)
  | _, .nan => (.nan, 0)
  | .inf a, .inf b => (.inf (a != b), 0)
  | .inf a, .fin b m _ => if m = 0 then (.nan, flagNV) else (.inf (a != b), 0)
  | .fin a m _, .inf b => if m = 0 then (.nan, flagNV) else (.inf (a != b), 0)
  | .fin a m e, .fin b n g => (.fin (a != b) (m * n) (e + g), 0)

/-- Rounds a result and gathers the flags of forming it. -/
def rounded (f : Format) (rm : Nat) (x : Fp × BitVec 5) : Nat × BitVec 5 :=
  let (bits, fl) := roundFp f rm x.1
  (bits, fl ||| x.2)

/-- `vfadd`, `vfsub`, `vfmul` on one element (R167). -/
def fpAdd (f : Format) (rm a b : Nat) : Nat × BitVec 5 := rounded f rm ((f.value a).add rm (f.value b))
def fpSub (f : Format) (rm a b : Nat) : Nat × BitVec 5 := rounded f rm ((f.value a).add rm (f.value b).neg)
def fpMul (f : Format) (rm a b : Nat) : Nat × BitVec 5 := rounded f rm ((f.value a).mul (f.value b))

/-- `vfma` and `vfms` on one element: one rounding of `d + a * b` or `d - a * b`; a NaN operand gives the
default NaN without NV (R168; with a NaN addend and zero times infinity, DEDUCED, assumption 8). -/
def fpFma (f : Format) (rm : Nat) (sub : Bool) (d a b : Nat) : Nat × BitVec 5 :=
  match f.value d, f.value a, f.value b with
  | .nan, _, _ => (f.nanBits, 0)
  | x, y, z =>
    let (p, fl) := y.mul z
    let (r, fl2) := x.add rm (if sub then p.neg else p)
    rounded f rm (r, fl ||| fl2)

/-- Exact comparison of two numbers that are not NaN. -/
def fpLess (x y : Fp) : Bool :=
  match x, y with
  | .inf a, .inf b => a && !b
  | .inf a, .fin _ _ _ => a
  | .fin _ _ _, .inf b => !b
  | .fin n1 m1 e1, .fin n2 m2 e2 =>
    let e := if e1 < e2 then e1 else e2
    decide (signedMant n1 (m1 * 2 ^ (e1 - e).toNat) < signedMant n2 (m2 * 2 ^ (e2 - e).toNat))
  | _, _ => false

def Fp.isNan : Fp → Bool
  | .nan => true
  | _ => false

/-- Equality of numbers, +0 equal to -0, NaN equal to nothing (R165). -/
def fpEqual (x y : Fp) : Bool := !x.isNan && !y.isNan && !fpLess x y && !fpLess y x

/-- The sign of a zero or other number. -/
def Fp.isNeg : Fp → Bool
  | .nan => false
  | .inf n => n
  | .fin n _ _ => n

/-- `vfmin` (`vfmax` with `max`) on one element, -0 below +0 (R167). -/
def fpMin (f : Format) (max : Bool) (a b : Nat) : Nat :=
  let x := f.value a
  let y := f.value b
  if x.isNan && y.isNan then f.nanBits
  else if x.isNan then b
  else if y.isNan then a
  else
    let aFirst := fpLess x y || (!fpLess y x && x.isNeg)
    if aFirst != max then a else b

/-- `vfround` on one element (R167). -/
def fpRound (f : Format) (rm a : Nat) : Nat × BitVec 5 :=
  match f.value a with
  | .nan => (f.nanBits, 0)
  | .inf _ => (a, 0)
  | .fin neg m e =>
    let (n, inexact) := roundAt rm neg m e 0
    if e ≥ 0 then (a, 0)
    else if inexact then ((deliver f rm neg n 0 (f.infBits neg) false).1, flagNX) else (a, 0)

/-- The format of a type code. -/
def formatOf : FType → Format
  | .f32 => fp32
  | .f16 => fp16
  | .bf16 => Machine.bf16

/-- A number times two to a power. -/
def Fp.scale (x : Fp) (k : Int) : Fp :=
  match x with
  | .fin n m e => .fin n m (e + k)
  | y => y

/-- A narrowing of one FP32 element into a narrow format, with the scale code where the form has one (R170). -/
def narrow (f : Format) (rm : Nat) (sat : Bool) (scale : Option Nat) (a : Nat) : Nat × BitVec 5 :=
  let (y, nv) : Fp × BitVec 5 := match scale with
    | some 255 => (.nan, flagNV)
    | some k => ((fp32.value a).scale (127 - (k : Int)), 0)
    | none => (fp32.value a, 0)
  match y with
  | .nan => if f.nan.isSome then (f.nanBits, nv) else (0, flagNV)
  | .inf neg =>
    if sat then (f.sign neg f.largest, nv)
    else match f.inf, f.nan with
      | some i, _ => (f.sign neg i, nv)
      | none, some n => (n, nv ||| flagNV)
      | none, none => (f.sign neg f.largest, nv ||| flagNV)
  | .fin neg m e =>
    let top := match f.inf, f.nan with
      | some i, _ => f.sign neg i
      | none, some n => n
      | none, none => f.sign neg f.largest
    let (bits, fl) := deliver f rm neg m e top sat
    (bits, fl ||| nv)

/-- A widening of one narrow element to FP32 (R171). -/
def widen (f : Format) (rm : Nat) (scale : Option Nat) (a : Nat) : Nat × BitVec 5 :=
  match scale, f.value a with
  | some 255, _ => (fp32.nanBits, flagNV)
  | _, .nan => (fp32.nanBits, 0)
  | some k, x => roundFp fp32 rm (x.scale ((k : Int) - 127))
  | none, x => roundFp fp32 rm x

/-- `vcvt.i32.f32` on one element (R172): the bits of an INT32. -/
def fpToInt (rm a : Nat) : Nat × BitVec 5 :=
  match fp32.value a with
  | .nan => (0, flagNV)
  | .inf neg => (if neg then 2 ^ 31 else 2 ^ 31 - 1, flagNV)
  | .fin neg m e =>
    let (n, inexact) := roundAt rm neg m e 0
    if neg && decide (2 ^ 31 < n) then (2 ^ 31, flagNV)
    else if !neg && decide (2 ^ 31 ≤ n) then (2 ^ 31 - 1, flagNV)
    else (if neg then (2 ^ 32 - n) % 2 ^ 32 else n, if inexact then flagNX else 0)

/-- `vcvt.f32.i32` on one element (R172). -/
def intToFp (rm a : Nat) : Nat × BitVec 5 :=
  if a < 2 ^ 31 then deliver fp32 rm false a 0 (fp32.infBits false) false
  else deliver fp32 rm true (2 ^ 32 - a) 0 (fp32.infBits true) false

/-- The integer square root, by one bit a step from bit `k - 1` down. -/
def isqrtBits (x r : Nat) : Nat → Nat
  | 0 => r
  | k + 1 =>
    let c := r + 2 ^ k
    isqrtBits x (if c * c ≤ x then c else r) k

def isqrt (x : Nat) : Nat := isqrtBits x 0 (x.log2 / 2 + 1)

/-- A positive value between `n` and `n + 1` units of `2^e` (or exactly `n`), as an exact number that rounds
alike at every coarser place. -/
def stickyFin (neg : Bool) (n : Nat) (e : Int) (exact : Bool) : Fp :=
  if exact then .fin neg n e else .fin neg (2 * n + 1) (e - 1)

/-- A quotient of magnitudes to at least 40 bits. -/
def quotient (neg : Bool) (m : Nat) (e : Int) (d : Nat) (g : Int) : Fp :=
  let k := d.log2 + 40
  stickyFin neg (m * 2 ^ k / d) (e - g - k) (decide (m * 2 ^ k % d = 0))

/-- A square root of `m * 2^e` to at least 40 bits. -/
def rootOf (m : Nat) (e : Int) : Fp :=
  let odd := (e % 2).toNat
  let x := m * 2 ^ (odd + 80)
  let n := isqrt x
  stickyFin false n ((e - odd - 80) / 2) (decide (n * n = x))

/-- One over the square root of `m * 2^e` to at least 40 bits. -/
def inverseRoot (m : Nat) (e : Int) : Fp :=
  let odd := (e % 2).toNat
  let d := m * 2 ^ odd
  let k := d.log2 + 80
  let n := isqrt (2 ^ (2 * k) / d)
  stickyFin false n (-(e - odd) / 2 - k) (decide (n * n * d = 2 ^ (2 * k)))

/-- Two to a fraction given by its binary digits, most significant first: the product of the roots of 2,
in units of `2^-160`. -/
def expDigits (digits : List Bool) (acc root : Nat) : Nat :=
  match digits with
  | [] => acc
  | d :: rest =>
    let r := isqrt (root * 2 ^ 160)
    expDigits rest (if d then acc * r / 2 ^ 160 else acc) r

/-- The `n` binary digits below the point of `f / 2^n`. -/
def fractionDigits (f : Nat) : Nat → List Bool
  | 0 => []
  | n + 1 => bitAt f n :: fractionDigits f n

/-- Two to the power `± m * 2^e` (R176): exact for whole exponents; else 40 bits and a remainder. Exponents
beyond 1,000 in magnitude round as 1,000 does. -/
def powerOfTwo (neg : Bool) (m : Nat) (e : Int) : Fp :=
  if 10 < m.log2 + e then .fin false 1 (if neg then -1000 else 1000)
  else if 0 ≤ e then .fin false 1 (signedMant neg (m * 2 ^ e.toNat))
  else if (m.log2 : Int) + e < -60 then
    (if neg then stickyFin false (2 ^ 40 - 1) (-40) false else stickyFin false (2 ^ 40) (-40) false)
  else
    let d := (-e).toNat
    let z := signedMant neg m
    let i := z / 2 ^ d
    let f := (z % 2 ^ d).toNat
    if f = 0 then .fin false 1 i
    else
      let y := expDigits (fractionDigits f d) (2 ^ 160) (2 * 2 ^ 160)
      stickyFin false (y / 2 ^ 120) (i - 40) false

/-- The first `n` binary digits of log2 of `y / 2^300`, `y` from 1 to 2 in that unit, added to `acc`. -/
def logDigits (y acc : Nat) : Nat → Nat
  | 0 => acc
  | n + 1 =>
    let z := y * y / 2 ^ 300
    if 2 * 2 ^ 300 ≤ z then logDigits (z / 2) (2 * acc + 1) n else logDigits z (2 * acc) n

/-- The base-2 logarithm of `m * 2^e`, `m` not 0 (R176). -/
def logOfTwo (m : Nat) (e : Int) : Fp :=
  let msb := m.log2
  let whole : Int := msb + e
  if m = 2 ^ msb then
    if whole < 0 then .fin true (-whole).toNat 0 else .fin false whole.toNat 0
  else
    let f := logDigits (m * 2 ^ 300 / 2 ^ msb) 0 110
    let z := whole * 2 ^ 110 + f
    if z < 0 then stickyFin true (-z - 1).toNat (-110) false else stickyFin false z.toNat (-110) false

/-- The special functions on one FP32 element (R176, R177): reciprocal, reciprocal root, power of two,
logarithm, root. -/
def specRcp (rm a : Nat) : Nat × BitVec 5 :=
  match fp32.value a with
  | .nan => (fp32.nanBits, 0)
  | .inf n => (fp32.sign n 0, 0)
  | .fin n m e => if m = 0 then (fp32.infBits n, flagDZ) else roundFp fp32 rm (quotient n 1 0 m e)

def specRsq (rm a : Nat) : Nat × BitVec 5 :=
  match fp32.value a with
  | .nan => (fp32.nanBits, 0)
  | .inf n => if n then (fp32.nanBits, flagNV) else (0, 0)
  | .fin n m e =>
    if m = 0 then (fp32.infBits n, flagDZ)
    else if n then (fp32.nanBits, flagNV)
    else roundFp fp32 rm (inverseRoot m e)

def specExp2 (rm a : Nat) : Nat × BitVec 5 :=
  match fp32.value a with
  | .nan => (fp32.nanBits, 0)
  | .inf n => (if n then 0 else fp32.infBits false, 0)
  | .fin n m e => if m = 0 then (0x3F800000, 0) else roundFp fp32 rm (powerOfTwo n m e)

def specLog2 (rm a : Nat) : Nat × BitVec 5 :=
  match fp32.value a with
  | .nan => (fp32.nanBits, 0)
  | .inf n => if n then (fp32.nanBits, flagNV) else (fp32.infBits false, 0)
  | .fin n m e =>
    if m = 0 then (fp32.infBits true, flagDZ)
    else if n then (fp32.nanBits, flagNV)
    else roundFp fp32 rm (logOfTwo m e)

def specSqrt (rm a : Nat) : Nat × BitVec 5 :=
  match fp32.value a with
  | .nan => (fp32.nanBits, 0)
  | .inf n => if n then (fp32.nanBits, flagNV) else (fp32.infBits false, 0)
  | .fin n m e =>
    if m = 0 then (a, 0)
    else if n then (fp32.nanBits, flagNV)
    else roundFp fp32 rm (rootOf m e)

/-- `vfdiv` on one FP32 element (R177). -/
def specDiv (rm a b : Nat) : Nat × BitVec 5 :=
  match fp32.value a, fp32.value b with
  | .nan, _ => (fp32.nanBits, 0)
  | _, .nan => (fp32.nanBits, 0)
  | .inf _, .inf _ => (fp32.nanBits, flagNV)
  | .inf x, .fin y _ _ => (fp32.infBits (x != y), 0)
  | .fin x _ _, .inf y => (fp32.sign (x != y) 0, 0)
  | .fin x m e, .fin y n g =>
    if n = 0 then (if m = 0 then (fp32.nanBits, flagNV) else (fp32.infBits (x != y), flagDZ))
    else if m = 0 then (fp32.sign (x != y) 0, 0)
    else roundFp fp32 rm (quotient (x != y) m e n g)

/-- `amo.fadd` (R134): nearest rounding, no flags, the default NaN for a NaN operand or opposite infinities. -/
def atomicFadd (a b : Nat) : Nat := (fpAdd fp32 0 a b).1

end Sys2Proof.Machine
end

