-- ==== Sys2Proof/Machine/Lanes.lean ====
section
/-! DEFINITION. Vector registers as lanes (R27): reading and joining lanes, and the lane-wise functions of
R163 to R175 as functions of the operands' values. -/

namespace Sys2Proof.Machine

/-- Element `i` of `w` bits of a register's value (R27). -/
def lane (w : Nat) (v : VWord) (i : Nat) : Nat := field v.toNat (w * i) w

/-- The elements of a register's value, element 0 first. -/
def lanes (w : Nat) (v : VWord) : List Nat := (List.range (128 / w)).map (lane w v)

/-- The number whose elements of `w` bits are listed, element 0 first. -/
def joinLanes (w : Nat) : List Nat → Nat
  | [] => 0
  | x :: xs => x % 2 ^ w + 2 ^ w * joinLanes w xs

/-- The register value with the listed elements. -/
def ofLanes (w : Nat) (xs : List Nat) : VWord := BitVec.ofNat 128 (joinLanes w xs)

/-- The signed reading of `w` bits (R151). -/
def signed (w x : Nat) : Int := if x < 2 ^ (w - 1) then x else (x : Int) - 2 ^ w

/-- The `w` low bits of an integer. -/
def wrap (w : Nat) (z : Int) : Nat := (z % 2 ^ w).toNat

/-- Saturation to signed and to unsigned `w` bits (R163), as bits. -/
def satSigned (w : Nat) (z : Int) : Nat :=
  if z < -(2 ^ (w - 1)) then 2 ^ (w - 1) else if 2 ^ (w - 1) ≤ z then 2 ^ (w - 1) - 1 else wrap w z
def satUnsigned (w : Nat) (z : Int) : Nat := if z < 0 then 0 else if 2 ^ w ≤ z then 2 ^ w - 1 else z.toNat

/-- One lane-wise function of two registers. -/
def lanes2 (w : Nat) (f : Nat → Nat → Nat) (a b : VWord) : VWord :=
  ofLanes w (List.zipWith f (lanes w a) (lanes w b))

/-- One lane-wise function of one register. -/
def lanes1 (w : Nat) (f : Nat → Nat) (a : VWord) : VWord := ofLanes w ((lanes w a).map f)

/-- A list of results with their flags: the elements, and the flags of all of them (R156). -/
def gather (w : Nat) (rs : List (Nat × BitVec 5)) : VWord × BitVec 5 :=
  (ofLanes w (rs.map (·.1)), rs.foldl (fun fl r => fl ||| r.2) 0)

/-- A mask of the lanes for which a condition holds (R165). -/
def maskOf : List Bool → Nat
  | [] => 0
  | b :: bs => b.toNat + 2 * maskOf bs

/-- A comparison of two registers lane by lane (R165). -/
def compareLanes (w : Nat) (c : Nat → Nat → Bool) (a b : VWord) : Word :=
  BitVec.ofNat 64 (maskOf (List.zipWith c (lanes w a) (lanes w b)))

/-- VINT on one lane (R163). -/
def laneMulh (w x y : Nat) : Nat := wrap w (signed w x * signed w y / 2 ^ w)
def laneAbsd (w x y : Nat) : Nat := (signed w x - signed w y).natAbs
def laneMin (w x y : Nat) : Nat := if signed w x < signed w y then x else y
def laneMax (w x y : Nat) : Nat := if signed w x < signed w y then y else x

/-- Shifts of one lane (R164). -/
def laneSll (w x c : Nat) : Nat := x * 2 ^ c % 2 ^ w
def laneSrl (x c : Nat) : Nat := x / 2 ^ c
def laneSra (w x c : Nat) : Nat := wrap w (signed w x / 2 ^ c)

/-- Permutations (R166). -/
def shuffle (w : Nat) (a b : VWord) : VWord :=
  ofLanes w ((lanes w b).map fun j => lane w a (j % (128 / w)))

def interleave : List Nat → List Nat → List Nat
  | x :: xs, y :: ys => x :: y :: interleave xs ys
  | _, _ => []

def zipHalf (w : Nat) (high : Bool) (a b : VWord) : VWord :=
  let k := if high then 128 / w / 2 else 0
  ofLanes w (interleave ((lanes w a).drop k) ((lanes w b).drop k))

def everyOther (odd : Bool) (w : Nat) (a : VWord) : List Nat :=
  (List.range (128 / w / 2)).map fun k => lane w a (2 * k + odd.toNat)

def unzipHalf (w : Nat) (odd : Bool) (a b : VWord) : VWord :=
  ofLanes w (everyOther odd w a ++ everyOther odd w b)

def packLanes (w : Nat) (sat : Nat → Int → Nat) (a b : VWord) : VWord :=
  ofLanes (w / 2) ((lanes w a ++ lanes w b).map fun x => sat (w / 2) (signed w x))

def widenLanes (w : Nat) (high : Bool) (sgn : Bool) (a : VWord) : VWord :=
  let n := 128 / w
  ofLanes w ((List.range n).map fun i =>
    let x := lane (w / 2) a (if high then n + i else i)
    if sgn then wrap w (signed (w / 2) x) else x)

/-- The floating-point lanes of two registers under an operation with flags. -/
def fpLanes2 (t : FType) (f : Format → Nat → Nat → Nat × BitVec 5) (a b : VWord) : VWord × BitVec 5 :=
  let g := formatOf t
  gather g.width (List.zipWith (f g) (lanes g.width a) (lanes g.width b))

def fpLanes1 (t : FType) (f : Format → Nat → Nat × BitVec 5) (a : VWord) : VWord × BitVec 5 :=
  let g := formatOf t
  gather g.width ((lanes g.width a).map (f g))

/-- `vfma` and `vfms` on whole registers, with the broadcast of lane `l` of `b` (R168). -/
def fmaLanes (t : FType) (rm : Nat) (sub : Bool) (bc : Bool) (l : Nat) (d a b : VWord) : VWord × BitVec 5 :=
  let g := formatOf t
  let w := g.width
  gather w ((List.range (128 / w)).map fun i =>
    fpFma g rm sub (lane w d i) (lane w a i) (lane w b (if bc then l else i)))

/-- A floating-point comparison of two registers (R165), and NV for a NaN operand of an ordered one. -/
def fpCompare (t : FType) (ordered : Bool) (c : Fp → Fp → Bool) (a b : VWord) : Word × BitVec 5 :=
  let g := formatOf t
  let ps := List.zipWith (fun x y => (g.value x, g.value y)) (lanes g.width a) (lanes g.width b)
  (BitVec.ofNat 64 (maskOf (ps.map fun p => c p.1 p.2)),
    if ordered && ps.any (fun p => p.1.isNan || p.2.isNan) then flagNV else 0)

/-- A register with part `p` of four elements of `k` bits replaced (R169). -/
def putPart (k p : Nat) (d : VWord) (xs : List Nat) : VWord :=
  ofLanes (4 * k) (((lanes (4 * k) d).take p) ++ [joinLanes k xs] ++ (lanes (4 * k) d).drop (p + 1))

/-- A narrowing conversion into part `p` of `d` (R170). -/
def narrowLanes (f : Format) (rm : Nat) (sat : Bool) (scale : Option Nat) (p : Nat) (d a : VWord) :
    VWord × BitVec 5 :=
  let rs := (lanes 32 a).map (narrow f rm sat scale)
  (putPart f.width p d (rs.map (·.1)), rs.foldl (fun fl r => fl ||| r.2) 0)

/-- A widening conversion of part `p` of `a` (R171). -/
def widenPart (f : Format) (rm : Nat) (scale : Option Nat) (p : Nat) (a : VWord) : VWord × BitVec 5 :=
  gather 32 ((List.range 4).map fun j => widen f rm scale (lane f.width a (4 * p + j)))

/-- Reductions to a scalar (R173). -/
def sumLanes (w : Nat) (sgn : Bool) (a : VWord) : Word :=
  BitVec.ofInt 64 ((lanes w a).foldl (fun (z : Int) x => z + if sgn then signed w x else (x : Int)) 0)

def reduceLanes (f : Nat → Nat → Nat) : List Nat → Nat
  | [] => 0
  | [x] => x
  | x :: xs => f x (reduceLanes f xs)

def extremeLane (w : Nat) (sgn : Bool) (f : Nat → Nat → Nat) (a : VWord) : Word :=
  let x := reduceLanes f (lanes w a)
  BitVec.ofInt 64 (if sgn then signed w x else x)

/-- One level of the pairwise tree of R174. -/
def treeLevel (f : Format) (rm : Nat) : List Nat → List Nat × BitVec 5
  | x :: y :: rest =>
    let (z, fl) := fpAdd f rm x y
    let (zs, fl2) := treeLevel f rm rest
    (z :: zs, fl ||| fl2)
  | xs => (xs, 0)

/-- The tree sum of R174, level by level. -/
def treeSum (f : Format) (rm : Nat) : Nat → List Nat → BitVec 5 → Nat × BitVec 5
  | 0, xs, fl => (xs.headD 0, fl)
  | k + 1, xs, fl =>
    let (ys, fl2) := treeLevel f rm xs
    treeSum f rm k ys (fl ||| fl2)

def fpSumLanes (t : FType) (rm : Nat) (a : VWord) : Word × BitVec 5 :=
  let g := formatOf t
  let (x, fl) := treeSum g rm (if g.width = 32 then 2 else 3) (lanes g.width a) 0
  (BitVec.ofNat 64 x, fl)

def fpExtreme (t : FType) (max : Bool) (a : VWord) : Word :=
  BitVec.ofNat 64 (reduceLanes (fpMin (formatOf t) max) (lanes (formatOf t).width a))

/-- Moves (R175). -/
def broadcast (w : Nat) (x : Word) : VWord := ofLanes w (List.replicate (128 / w) (x.toNat % 2 ^ w))

def insertLane (w : Nat) (l : Nat) (d : VWord) (x : Word) : VWord :=
  ofLanes w (((lanes w d).take l) ++ [x.toNat % 2 ^ w] ++ (lanes w d).drop (l + 1))

def expandMask (w : Nat) (x : Word) : VWord :=
  ofLanes w ((List.range (128 / w)).map fun i => if bitAt x.toNat i then 2 ^ w - 1 else 0)

end Sys2Proof.Machine
end

