-- ==== Sys2Proof/Machine/Channel.lean ====
section
/-! DEFINITION. The HBM4 channels (R4, R8, R338, R340): which channel and which stack hold an address, the row that a block
request opens, and row-activation throttling (R419). -/

namespace Sys2Proof.Machine

/-! ### Where an address lies (R2, R4, R338) -/

/-- A span's share of HBM4, 96 GiB. -/
def spanBytes : Nat := hbmEnd / 8

/-- The channel, 0 to 511, of a local address below 768 GiB. -/
def channelOf (a : Nat) : Nat :=
  let o := a % spanBytes
  64 * (a / spanBytes) + (field o 8 6 ^^^ field o 14 6)

/-- The stack, 0 to 15, of a local address below 768 GiB. -/
def stackOf (a : Nat) : Nat :=
  let o := a % spanBytes
  2 * (a / spanBytes) + (field o 13 1 ^^^ field o 19 1)

/-! ### Row activations (R419, R443) -/

/-- A figure of the memory clock in ticks: `n` at P0, fewer at a slower arithmetic clock. -/
def Power.ticks (p : Power) (n : Nat) : Nat :=
  match p with
  | .p0 => n
  | .p1 => n * 4 / 5
  | .p2 => n * 3 / 5
  | .p3 => n * 2 / 5
  | .idle => n

def State.channel (s : State) (c : Nat) : Channel := s.channels.get {} c
def State.putChannel (s : State) (c : Nat) (x : Channel) : State := { s with channels := s.channels.put c x }

/-- The requests that a channel's queue holds; the others wait for room in it (R340). -/
def channelQueue : Nat := 64

/-- The oldest request that has reached the channel for a row goes on (R340). -/
def State.serveRow (s : State) (c row : Nat) : State :=
  let x := s.channel c
  match (x.queue.take channelQueue).find? fun w => w.row == row && decide (w.due ≤ s.now) with
  | none => s
  | some w => (s.putChannel c { x with queue := x.queue.erase w }).emit w.next

/-- When a listed row may be activated again; a row that must wait for it (R419). -/
def Channel.rowDue (c : Channel) (p : Power) (row : Nat) : Nat := c.last.get 0 row + p.ticks 40960
def Channel.throttles (c : Channel) (p : Power) (now row : Nat) : Bool := c.listed.contains row && decide (now < c.rowDue p row)

/-- ROW_ACTIVATION: an activation of a listed row waits for its spacing; a row that reaches 2,048 is listed, or, with the list
full, has its neighbours refreshed. The request that opens the row is served then. -/
def execRowActivation (channel row : Nat) (s : State) : Out :=
  let c := s.channel channel
  if c.throttles s.power s.now row then .next (s.later (c.rowDue s.power row) (.rowActivation channel row))
  else
    let n := c.counts.get 0 row + 1
    let c1 : Channel := { c with counts := c.counts.put row n, last := c.last.put row s.now }
    let c2 : Channel := if n = 2048 && !c.listed.contains row then
        (if c.listed.length < 64 then { c1 with listed := c1.listed ++ [row] }
          else { c1 with counts := c1.counts.put row 0, refreshed := c1.refreshed + 1 })
      else c1
    .next ((s.putChannel channel c2).serveRow channel row)

/-- REFRESH_WINDOW_END: the list and the counts clear. -/
def execRefreshWindowEnd (channel : Nat) (s : State) : Out :=
  .next (s.putChannel channel { (s.channel channel) with counts := [], listed := [] })

/-! ### Block requests (R339, R340) -/

/-- A block has a fill-assembly entry in its span's memory-side cache, whose line is pinned there (R272, R339). -/
def Block.pinned (x : Block) : Bool :=
  match x.entry with
  | some e => e.spill.isEmpty
  | none => false

/-- An access to a block of this device misses the memory-side cache, so that a block request goes to its channel: the cache
shows itself as timing alone (R339), and which accesses miss is free, but that a pinned line is never evicted. -/
def State.missesCache (s : State) (phys : Nat) : Bool :=
  phys / 2 ^ 48 == s.dev.toNat && decide (phys % 2 ^ 48 < hbmEnd) && !(s.blocks.get {} (phys / 256)).pinned &&
    Config.mscMiss s.now (phys / 256)

/-- A block request would wait for the activation of a throttled row (R340, R419). -/
def State.rowHeld (s : State) (phys : Nat) : Bool :=
  s.missesCache phys &&
    (s.channel (channelOf (phys % 2 ^ 48))).throttles s.power s.now (Config.rowOf (phys % 2 ^ 48))

/-- A step that serves an access at its home at a tick: at once, or once its channel has opened the block's row. `t` is the
thread that waits for it. -/
def State.viaChannel (s : State) (phys due : Nat) (t : Option Nat) (i : Instr) : State :=
  if !s.missesCache phys then s.later due i
  else
    let c := channelOf (phys % 2 ^ 48)
    let row := Config.rowOf (phys % 2 ^ 48)
    let x := s.channel c
    (s.putChannel c { x with queue := x.queue ++ [{ row := row, due := due, thread := t, next := i }] }).later due
      (.rowActivation c row)

/-- Threads wait for a throttled row in this tick. -/
def State.rowWaiting (s : State) (ts : List Nat) : State := { s with rowWaits := s.rowWaits ++ ts }

/-- The block request of an access that is made once `rowHeld` lets it. -/
def State.openRow (s : State) (phys : Nat) : State :=
  if s.missesCache phys then s.emit (.rowActivation (channelOf (phys % 2 ^ 48)) (Config.rowOf (phys % 2 ^ 48))) else s

end Sys2Proof.Machine
end

