-- ==== Sys2Proof/Machine/Cache.lean ====
section
/-! DEFINITION. Who holds a block's data away from its home: cluster caches and host caches by sector (R324 to
R327, R337), windows by word (R328 to R332), the directory and its sector entries (R333, R334), versions
(R335), write-backs and recalls (R336). The bytes of every clean or modified sector stand in global memory,
where every reader of them is ordered (R287); the dirty words of windows stand in their decks, the modified sectors of
hosts in their caches. A home serves the requests to a block one after another: what it recalls for one comes home before it
serves the next (R333). -/

namespace Sys2Proof.Machine

/-! ### Requests -/

def State.req (s : State) (r : Nat) : Req := s.reqs.get {} r
def State.setReq (s : State) (r : Nat) (q : Req) : State := { s with reqs := s.reqs.put r q }
def State.modReq (s : State) (r : Nat) (f : Req → Req) : State := s.setReq r (f (s.req r))
def State.dropReq (s : State) (r : Nat) : State := { s with reqs := s.reqs.drop r }

/-- The step that carries a request's reply. -/
def Req.reply (q : Req) (r : Nat) : Instr :=
  match q.kind with
  | .load _ => .loadReply r
  | .stream v _ => .streamUnitArrival q.thread v
  | .store => .memoryReply r
  | .amo _ => .memoryReply r
  | .bwait => .memoryReply r
  | .bhold => .memoryReply r
  | .barm => .memoryReply r
  | .bpoll => .memoryReply r
  | .bgen => .memoryReply r
  | .bclr => .memoryReply r
  | .bclrG => .memoryReply r
  | .bfin => .memoryReply r

/-! ### Sectors -/

/-- A cluster with a cache: a command processor's accesses go to the homes (R324). -/
def caches (cluster : Nat) : Bool := cluster < 512

def State.sector (s : State) (cluster sec : Nat) : SectorState := s.cache.get .invalid (cluster * 2 ^ 50 + sec)

/-- A table of sectors with one state changed; an invalid sector is not listed. -/
def putSector (m : Tab SectorState) (k : Nat) (st : SectorState) : Tab SectorState :=
  if st = .invalid then m.drop k else m.put k st

def State.setSector (s : State) (cluster sec : Nat) (st : SectorState) : State :=
  { s with cache := putSector s.cache (cluster * 2 ^ 50 + sec) st }

def State.setHostSector (s : State) (port sec : Nat) (st : SectorState) : State :=
  { s with hostSectors := putSector s.hostSectors (port * 2 ^ 50 + sec) st }

/-- The holders of a sector in one table: agents and states. -/
def holdersIn (m : Tab SectorState) (sec : Nat) : List (Nat × SectorState) :=
  (m.filter fun (p : Nat × SectorState) => p.1 % 2 ^ 50 == sec && p.2 != .invalid).map fun p => (p.1 / 2 ^ 50, p.2)

/-- The holders of a sector by agent: span n is agent n, host port p is agent 8 + p (R334). -/
def State.agents (s : State) (sec : Nat) : List (Nat × SectorState) :=
  (holdersIn s.cache sec).map (fun p => (spanOfCluster p.1, p.2)) ++
    (holdersIn s.hostSectors sec).map fun p => (8 + p.1, p.2)

/-- Every sector state of a span changed by a function, the requester's own excepted. -/
def State.mapSpan (s : State) (span sec : Nat) (except : Option Nat) (f : SectorState → SectorState) : State :=
  (holdersIn s.cache sec).foldl
    (fun s p => if spanOfCluster p.1 = span ∧ some p.1 ≠ except then s.setSector p.1 sec (f p.2) else s) s

/-- E and M: the states that own a sector. -/
def ownsSector : SectorState → Bool
  | .exclusive => true
  | .modified => true
  | .shared => false
  | .invalid => false

/-! ### Blocks and the directory -/

def State.block (s : State) (b : Nat) : Block := s.blocks.get {} b
def State.putBlock (s : State) (b : Nat) (x : Block) : State := { s with blocks := s.blocks.put b x }
def State.modBlock (s : State) (b : Nat) (f : Block → Block) : State := s.putBlock b (f (s.block b))

/-- The home span of a physical address (R338). -/
def homeSpan (phys : Nat) : Nat := phys % 2 ^ 48 / (96 * 2 ^ 30)

/-- The open windows that map block `b`: window key, block number, block. -/
def State.windowsOn (s : State) (b : Nat) : List (Nat × Nat × WinBlock) :=
  s.windows.flatMap fun (p : Nat × Window) =>
    if p.2.valid then
      (p.2.blocks.filter fun (q : Nat × WinBlock) => q.2.mapped && q.2.phys / 256 == b).map fun q => (p.1, q.1, q.2)
    else []

/-- The windows over an OPEN page that map a block: those that recalls reach (R294, R330). -/
def State.openWindows (s : State) (b : Nat) : List (Nat × Nat × WinBlock) := (s.windowsOn b).filter fun p => !p.2.2.once

/-- One bit per span or host port of a list of agents. -/
def agentBits (xs : List Nat) : Nat := xs.foldl (fun m a => m ||| 2 ^ a) 0

/-- The agents that hold sectors of a block: agent, sector 0 to 3, state. -/
def State.blockAgents (s : State) (b : Nat) : List (Nat × Nat × SectorState) :=
  (List.range 4).flatMap fun i => (s.agents (4 * b + i)).map fun p => (p.1, i, p.2)

/-- A sector's entry of the sector directory (R334): the owner, and the sharers. -/
def ownerOf (xs : List (Nat × Nat × SectorState)) (i : Nat) : BitVec 4 :=
  match xs.find? fun p => p.2.1 == i && ownsSector p.2.2 with
  | some p => BitVec.ofNat 4 p.1
  | none => 15
def sharersOf (xs : List (Nat × Nat × SectorState)) (i : Nat) : BitVec 10 :=
  BitVec.ofNat 10 (agentBits ((xs.filter fun p => p.2.1 == i && p.2.2 == .shared).map (·.1)))

/-- The write-backs of a block that are on their way. -/
def State.lateWrites (s : State) (b : Nat) : List WriteBack :=
  (s.writeBacks.filter fun (p : Nat × WriteBack) => p.2.block == b && !p.2.isRecall).map (·.2)

/-- The version may advance: never 15 times past that of a write-back that has not arrived (R336). -/
def State.mayAdvance (s : State) (b : Nat) : Bool :=
  (s.lateWrites b).all fun w => decide ((((s.block b).version + 1) - w.version).toNat < 15)

/-- The write-backs of a block whose words a recall reply has carried home arrive, and are cancelled (R336). -/
def State.settleLate (s : State) (b : Nat) : State :=
  { s with writeBacks := s.writeBacks.filter fun (p : Nat × WriteBack) => !(p.2.block == b && p.2.carried) }

/-- A block's version advances (R335); where it would leave a late write-back 15 behind, that arrives first (R336). -/
def State.bump (s : State) (b : Nat) : State :=
  (if s.mayAdvance b then s else s.settleLate b).modBlock b fun x => { x with version := x.version + 1 }

/-! ### The order in which a home serves the requests to a block (R333) -/

/-- A request that waits at a block's home stands before those that arrived after it. -/
def State.putOff (s : State) (b : Nat) (i : Instr) : State :=
  { s with homeLine := s.homeLine.put b ((i, false) :: (s.homeLine.get [] b).filter fun p => p.1 != i) }

/-- A request behind others. -/
def State.joinLine (s : State) (b : Nat) (i : Instr) : State :=
  let line := s.homeLine.get [] b
  if line.any fun p => p.1 == i then s else { s with homeLine := s.homeLine.put b (line ++ [(i, false)]) }

/-- The turn of a request: none where others stand before it. -/
def State.takeTurn (s : State) (b : Nat) (i : Instr) : Option State :=
  match s.homeLine.get [] b with
  | [] => some s
  | (h, _) :: rest =>
    if h = i then some { s with homeLine := if rest.isEmpty then s.homeLine.drop b else s.homeLine.put b rest } else none

/-- A request served at the home of a block in its turn. -/
def State.inTurn (s : State) (b : Nat) (i : Instr) (f : State → State) : State :=
  match s.takeTurn b i with
  | some s1 => f s1
  | none => s.joinLine b i

/-- An engine's access finds the home of a block free: it asks again in every tick. -/
def State.homeFree (s : State) (b : Nat) : Bool := (s.homeLine.find b).isNone

/-- One line in a new tick: its first request is tried, one that was tried and has gone its way leaves it. -/
def tryLine : List (Instr × Bool) → List (Instr × Bool)
  | (_, true) :: (h, _) :: rest => (h, true) :: rest
  | (_, true) :: [] => []
  | (h, false) :: rest => (h, true) :: rest
  | [] => []

/-- The first requests of the lines are tried before what arrives in this tick. -/
def State.tryLines (s : State) : State :=
  let lines := (s.homeLine.map fun (p : Nat × List (Instr × Bool)) => (p.1, tryLine p.2)).filter fun p => !p.2.isEmpty
  { s with homeLine := lines, events := lines.filterMap (fun p => p.2.head?.map (·.1)) ++ s.events }

/-- The number of no agent of R334, which stands for the command processors' clusters. -/
def noAgent : Nat := 16

/-- The agent whose window holds words: its span, or none of R334. -/
def windowAgent (key : Nat) : Nat := if key / 8 < 512 then spanOfCluster (key / 8) else noAgent

/-- The directory code of R333 for a block's holders. -/
def State.dirCode (s : State) (b : Nat) : BitVec 2 :=
  let xs := s.blockAgents b
  let held := (s.windowsOn b).filter fun p => p.2.2.valid != 0
  let all := xs.map (·.1) ++ held.map fun p => windowAgent p.1
  if all.isEmpty then 0
  else if !(held.any fun p => p.2.2.dirty != 0) && xs.all (fun p => p.2.2 == .shared) then 1
  else if all.all (fun a => a == all.headD 0) then 2 else 3

/-- The directory code and the holder bits of a block (R43, R333); a window of a command processor has no span's bit. -/
def State.recordHolders (s : State) (b : Nat) : State :=
  let xs := s.blockAgents b
  let held := (s.windowsOn b).filter fun p => p.2.2.valid != 0
  s.modBlock b fun x =>
    { x with dir := s.dirCode b,
             spans := BitVec.ofNat 8 (agentBits ((xs.map (·.1) ++ held.map fun p => windowAgent p.1).filter (· < 8))),
             hosts := BitVec.ofNat 2 (agentBits ((xs.filter fun p => 8 ≤ p.1).map fun p => p.1 - 8)) }

/-- The entries of the sector directory of a span, with the tick of their last use. -/
def State.sectorEntries (s : State) (span : Nat) : List (Nat × Nat) :=
  (s.sectorDir.filter fun (p : Nat × SectorEntry) => homeSpan (p.1 * 256) == span).map fun p => (p.1, p.2.touched)

/-- The least recently used of some entries. -/
def leastRecent (xs : List (Nat × Nat)) : Option Nat :=
  (xs.foldl (fun (best : Option (Nat × Nat)) p =>
    match best with
    | none => some p
    | some q => if p.2 < q.2 then some p else best) none).map (·.1)

/-- What a recall of one sector does to the agent that holds it: an owner writes it back, which returns ownership to the home,
and every holder of the agent becomes I; a host's modified sector comes home with the host's bytes (R327, R335, R337). -/
def State.recallSector (s : State) (agent sector : Nat) : State :=
  let owned := (s.agents sector).any fun p => p.1 == agent && ownsSector p.2
  let s1 := if agent < 8 then s.mapSpan agent sector none fun _ => .invalid
    else if s.hostSectors.get .invalid ((agent - 8) * 2 ^ 50 + sector) = .modified then
      { (s.setHostSector (agent - 8) sector .invalid).memWrite (sector * 64)
          (toBytesLE (Config.hostSector s.hostRecalls).toNat 64) with hostRecalls := s.hostRecalls + 1 }
    else s.setHostSector (agent - 8) sector .invalid
  if owned then s1.bump (sector / 4) else s1

/-- One bit of a mask of words. -/
def maskBit (m : BitVec 64) (i : Nat) : Bool := m.getLsbD i

/-- Bytes written over the words of a mask. -/
def State.putWords (s : State) (phys : Nat) (m : BitVec 64) (data : List Byte) : Nat → State
  | 0 => s
  | n + 1 =>
    let i := 63 - n
    (if maskBit m i then s.memWrite (phys + 4 * i) ((data.drop (4 * i)).take 4) else s).putWords phys m data n

def State.modWinBlock (s : State) (key blk : Nat) (f : WinBlock → WinBlock) : State :=
  let w := s.windows.get {} key
  { s with windows := s.windows.put key { w with blocks := w.blocks.put blk (f (w.blocks.get {} blk)) } }

/-- The bytes of a window's block as they stand in its deck. -/
def State.windowBytes (s : State) (key blk : Nat) : List Byte :=
  readBytes (s.deckByte (key / 8)) ((s.windows.get {} key).dbase + 256 * blk) 256

/-- The crew of a window writes in hold mode (R280). -/
def State.windowHold (s : State) (w : Window) : Option Nat :=
  let c := s.crewOf w.crewId
  if c.hold && c.run == 1 then some w.crewId else none

/-- The dirty words of a window's block that may go home: none of a crew in hold mode, whose write-backs to an OPEN page are refused
(R398). -/
def State.sendable (s : State) (key : Nat) (wb : WinBlock) : BitVec 64 :=
  if (s.windowHold (s.windows.get {} key)).isSome then 0 else wb.dirty

/-- The dirty words of a line go home and are clean in their windows, for a directory entry that is freed: only so does R333
give the line's dir 00 or 01 (R334). -/
def State.cleanLine (s : State) (b : Nat) : State :=
  (s.openWindows b).foldl (fun s p =>
    if p.2.2.dirty = 0 then s
    else (s.putWords (b * 256) (s.sendable p.1 p.2.2) (s.windowBytes p.1 p.2.1) 64).modWinBlock p.1 p.2.1 fun x => { x with dirty := 0 }) s

/-- A block that enters dir 11 takes an entry of its span's 65,536; with none free, that of the least recently used line is
freed: its owned sectors and dirty words go home, and its dir becomes 00 or 01 (R334). -/
def State.enterSector (s : State) (b : Nat) (e : SectorEntry) : State :=
  let span := homeSpan (b * 256)
  let full := decide (65536 ≤ (s.sectorEntries span).length)
  let s1 := if full && (s.sectorDir.find b).isNone then
      match leastRecent (s.sectorEntries span) with
      | some v =>
        let s2 := (s.blockAgents v).foldl (fun s p => if ownsSector p.2.2 then s.recallSector p.1 (4 * v + p.2.1) else s)
          (s.cleanLine v)
        { (s2.recordHolders v) with sectorDir := s2.sectorDir.drop v }
      | none => s
    else s
  { s1 with sectorDir := s1.sectorDir.put b e }

/-- The directory code, the holder bits and the sector entry of a block after a request (R333, R334). -/
def State.redirect (s : State) (b : Nat) : State :=
  let s1 := s.recordHolders b
  if s.dirCode b = 3 then
    let xs := s.blockAgents b
    s1.enterSector b { owner := (List.range 4).map (ownerOf xs), sharers := (List.range 4).map (sharersOf xs),
                       touched := s.now }
  else { s1 with sectorDir := s1.sectorDir.drop b }

/-- The codes of R42. -/
def Presence.code : Presence → Nat
  | .empty => 0
  | .full => 1
  | .deferred => 2
  | .poison => 3

/-- Where in a block's metadata word (R43) each field lies. -/
def Block.word (x : Block) : BitVec 32 :=
  BitVec.ofNat 32 (x.version.toNat * 2 ^ 24 + x.spans.toNat * 2 ^ 16 + x.hosts.toNat * 2 ^ 14 + x.win.toNat * 2 ^ 13 +
    x.peerw.toNat * 2 ^ 12 + x.dir.toNat * 2 ^ 10 + (!x.chain.isEmpty).toNat * 2 ^ 9 + x.held.toNat * 2 ^ 8 +
    x.gen.toNat * 2 ^ 2 + x.pres.code)

/-! ### Notices (R326) -/

/-- A notice injected: one of its injector's in a tick, in order of tick and injector. -/
def State.injectNotice (s : State) (n : SpanNotice) : State :=
  if s.spanNet.any fun m => m.span == n.span && m.cluster == n.cluster && m.kind == n.kind && m.line == n.line &&
      m.sectors == n.sectors then s
  else
    let mine := (s.spanNet.filter fun m => m.span == n.span && m.injector == n.injector).map (·.at_)
    let m : SpanNotice := { n with at_ := mine.foldl (fun a b => max a (b + 1)) s.now }
    let before (x : SpanNotice) : Bool := decide (x.at_ < m.at_ ∨ (x.at_ = m.at_ ∧ x.injector ≤ m.injector))
    { s with spanNet := s.spanNet.filter before ++ m :: s.spanNet.filter fun x => !before x }

/-- A cluster's notice about a sector. -/
def State.ask1 (s : State) (cluster sec : Nat) (kind : NoticeKind) (words : BitVec 64) : State :=
  s.injectNotice { span := spanOfCluster cluster, injector := cluster % 64, cluster := cluster, kind := kind,
                   line := sec / 4, sectors := BitVec.ofNat 4 (2 ^ (sec % 4)), words := words }

/-- Ticks from a notice's injection to its delivery, and from there to the reply of an access that the home serves: together
the figure that the spec calls typical (R118, R326). -/
def noticeTrip : Nat := 6
def grantTrip : Nat := 374

/-- The sector of a notice. -/
def SpanNotice.sector (n : SpanNotice) : Nat :=
  4 * n.line + ((List.range 4).find? fun i => n.sectors.getLsbD i).getD 0

/-- The step that a delivered notice sets off in its span. -/
def SpanNotice.steps (n : SpanNotice) : List Instr :=
  match n.kind with
  | .getS => [.gets n.cluster n.sector]
  | .getM => [.getm n.cluster n.sector]
  | .upg => [.upg n.cluster n.sector]
  | .wb => [.wb n.cluster n.sector]
  | .rcl => [.rcl n.span n.sector]
  | .inv => [.inv n.span n.sector]
  | .wrw _ => []
  | .mask => []

/-- A word-masked write whose notice has been delivered reaches its home later. -/
def State.sendMasked (s : State) (n : SpanNotice) : State :=
  match n.kind with
  | .wrw r => s.viaChannel (s.req r).phys (s.now + grantTrip) (some (s.req r).thread) (.wrw r)
  | _ => s

/-- The notices delivered by now, in order, before what else happens in the tick. -/
def State.deliverNotices (s : State) : State :=
  let due (n : SpanNotice) : Bool := decide (n.at_ + noticeTrip ≤ s.now)
  let ns := s.spanNet.filter due
  (ns.foldl State.sendMasked { s with spanNet := s.spanNet.filter fun n => !due n }).emitFirst (ns.flatMap SpanNotice.steps)

/-- The notice by which a step reaches the caches of a span: a recall or an invalidation that the span port sends, an eviction of
a cluster (R326). What a host port gets is no notice. -/
def noticeOf : Instr → Option SpanNotice
  | .rcl a sec => if a < 8 then
      some { span := a, injector := 64, cluster := 512, kind := .rcl, line := sec / 4, sectors := BitVec.ofNat 4 (2 ^ (sec % 4)) }
    else none
  | .inv a sec => if a < 8 then
      some { span := a, injector := 64, cluster := 512, kind := .inv, line := sec / 4, sectors := BitVec.ofNat 4 (2 ^ (sec % 4)) }
    else none
  | .wb c sec => some { span := spanOfCluster c, injector := c % 64, cluster := c, kind := .wb, line := sec / 4,
                        sectors := BitVec.ofNat 4 (2 ^ (sec % 4)) }
  | _ => none

/-! ### Requests of cluster caches (R327) -/

/-- The agents other than the requester's span that hold a sector, and whether they own it. -/
def State.others (s : State) (span sec : Nat) : List (Nat × SectorState) := (s.agents sec).filter fun p => p.1 != span

/-- The lines that a cluster cache holds in the set of a line (128 sets of 8 ways, R325). -/
def State.setLines (s : State) (cluster line : Nat) : List Nat :=
  ((s.cache.filter fun (p : Nat × SectorState) =>
    p.1 / 2 ^ 50 == cluster && p.1 % 2 ^ 50 / 4 % 128 == line % 128 && p.1 % 2 ^ 50 / 4 != line).map
      fun p => p.1 % 2 ^ 50 / 4).eraseDups

/-- The line evicted from a full set, if it is full: the one listed first (the spec names no order). -/
def State.victimLine (s : State) (cluster line : Nat) : Option Nat :=
  let ls := s.setLines cluster line
  if ls.length < 8 then none else ls.head?

/-- The M sectors that an eviction writes back. -/
def State.dirtySectors (s : State) (cluster line : Nat) : List Nat :=
  ((List.range 4).map fun i => 4 * line + i).filter fun k => s.sector cluster k == .modified

/-- The version that a cluster's cache keeps with a line whose sectors it owns (R335). -/
def State.keepVersion (s : State) (cluster b : Nat) : State :=
  { s with lineVersion := s.lineVersion.put (cluster * 2 ^ 48 + b) (s.block b).version }

/-- An M sector of a cluster written back: its ownership returns to the home (R327, R335). The write-back carries the line's
version; the model applies it whatever grants of other sectors have advanced the block's version since, so that no write is lost
(R345; DESIGN CHOICE, assumption 133). -/
def State.writeBackSector (s : State) (cluster sector : Nat) : State :=
  if s.sector cluster sector = .modified then
    ((s.setSector cluster sector .invalid).bump (sector / 4)).redirect (sector / 4)
  else s

/-- Room for a line in its set: of the line that a full set evicts, M sectors are written back and clean ones dropped (R325). -/
def State.makeRoom (s : State) (cluster line : Nat) : State :=
  match s.victimLine cluster line with
  | none => s
  | some v =>
    let s1 := (s.dirtySectors cluster v).foldl (fun s k => s.writeBackSector cluster k) s
    ((List.range 4).foldl (fun s i => s.setSector cluster (4 * v + i) .invalid) s1).redirect v

/-- What must be written back before a line finds room. -/
def State.evictions (s : State) (cluster line : Nat) : List Instr :=
  match s.victimLine cluster line with
  | none => []
  | some v => (s.dirtySectors cluster v).map fun k => .wb cluster k

/-- The notices that take a sector from other agents: recalls of owners, and invalidations of sharers where `all`. -/
def noticesTo (sec : Nat) (all : Bool) (xs : List (Nat × SectorState)) : List Instr :=
  xs.filterMap fun p => if ownsSector p.2 then some (.rcl p.1 sec) else if all then some (.inv p.1 sec) else none

/-- The accesses of a cluster that wait for a right to a sector are made with it. -/
def State.granted (s : State) (cluster sector : Nat) : State :=
  s.emitFirst ((s.reqs.filter fun (p : Nat × Req) => p.2.live && p.2.status == .awaiting && p.2.cluster == cluster &&
    p.2.phys / 64 == sector).map fun p => p.2.reply p.1)

/-- A request waits for the steps that it needs: the notices of those that reach a span's caches are injected (R326), the others
are made at once, and it is served again once none is left; where the version may not advance it waits. It keeps its place before
the block's later requests (R333). -/
def State.serveAfter (s : State) (b : Nat) (needs : List Instr) (again : Instr) : State :=
  let s1 := s.putOff b again
  if s.mayAdvance b then
    if needs.any fun i => (noticeOf i).isSome then
      ((needs.filterMap noticeOf).foldl State.injectNotice s1).emitFirst (needs.filter fun i => (noticeOf i).isNone)
    else s1.emitFirst (needs ++ [again])
  else s1

/-- A sector given to a cluster for reading, no other span owning it: in the span M and E become S, whose ownership returns to
the home; the requester gets E where nobody else holds the sector or the line in a window, otherwise S (R327, R332, R335). -/
def State.giveRead (s : State) (cluster sector : Nat) : State :=
  let span := spanOfCluster cluster
  let b := sector / 4
  let returned := (s.agents sector).any fun p => ownsSector p.2
  let s1 := (s.makeRoom cluster b).mapSpan span sector (some cluster) fun st =>
    if st = .invalid then .invalid else .shared
  let alone := ((s1.agents sector).isEmpty) && !(s1.block b).win
  let s2 := s1.setSector cluster sector (if alone then .exclusive else .shared)
  ((if alone || returned then s2.bump b else s2).keepVersion cluster b).redirect b

/-- GETS: a load miss. Owners in other spans are recalled first. -/
def execGets (cluster sector : Nat) (s : State) : Out :=
  let span := spanOfCluster cluster
  let b := sector / 4
  if s.sector cluster sector ≠ .invalid then .next (s.granted cluster sector)
  else .next (s.inTurn b (.gets cluster sector) fun s =>
    let needs := noticesTo sector false (s.others span sector) ++ s.evictions cluster b
    if needs ≠ [] || !s.mayAdvance b then s.serveAfter b needs (.gets cluster sector)
    else (s.giveRead cluster sector).granted cluster sector)

/-- The accesses of a cluster that wait for M of a sector of a line that windows hold are word-masked writes (R332). -/
def State.writeMasked (s : State) (cluster sector : Nat) : State :=
  (s.reqs.filter fun (p : Nat × Req) => p.2.live && p.2.status == .awaiting && p.2.cluster == cluster &&
    p.2.phys / 64 == sector && p.2.kind == .store).foldl
      (fun s p => (s.modReq p.1 fun q => { q with status := .issued }).viaChannel p.2.phys (s.now + grantTrip)
        (some p.2.thread) (.wrw p.1)) s

/-- A sector given to a cluster in M, no other span holding it (R327, R335). -/
def State.giveWrite (s : State) (cluster sector : Nat) : State :=
  let b := sector / 4
  let s1 := (s.makeRoom cluster b).mapSpan (spanOfCluster cluster) sector (some cluster) fun _ => .invalid
  (((s1.setSector cluster sector .modified).bump b).keepVersion cluster b).redirect b

/-- The grant of M to a cluster: every other holder loses the sector (R327); a line that windows hold is not granted (R332). -/
def State.own (s : State) (cluster sector : Nat) (again : Instr) : State :=
  let span := spanOfCluster cluster
  let b := sector / 4
  s.inTurn b again fun s =>
    let needs := noticesTo sector true (s.others span sector) ++ s.evictions cluster b
    if (s.block b).win then s.writeMasked cluster sector
    else if ownsSector (s.sector cluster sector) then (s.setSector cluster sector .modified).granted cluster sector
    else if needs ≠ [] || !s.mayAdvance b then s.serveAfter b needs again
    else (s.giveWrite cluster sector).granted cluster sector

/-- GETM: a store miss requests a sector in M. -/
def execGetm (cluster sector : Nat) (s : State) : Out := .next (s.own cluster sector (.getm cluster sector))

/-- UPG: a store to a shared sector; where the sector has been lost meanwhile it is requested anew. -/
def execUpg (cluster sector : Nat) (s : State) : Out := .next (s.own cluster sector (.upg cluster sector))

/-- WB: an evicted M sector is written back and its ownership returns to the home. -/
def execWb (cluster sector : Nat) (s : State) : Out := .next (s.writeBackSector cluster sector)

/-- RCL: the span port, or a back-invalidation snoop of a host port (agents 8 and 9, R337), recalls a sector. -/
def execRcl (span sector : Nat) (s : State) : Out := .next ((s.recallSector span sector).redirect (sector / 4))

/-- INV: the shared copies of an agent become I. -/
def execInv (span sector : Nat) (s : State) : Out :=
  if (s.agents sector).any (fun p => p.1 == span && ownsSector p.2) then .next s
  else .next ((s.recallSector span sector).redirect (sector / 4))

/-- Every agent's copies of a sector leave it, owners' first written back. -/
def State.clearSector (s : State) (sector : Nat) : State :=
  (s.agents sector).foldl (fun s p => s.recallSector p.1 sector) s

/-- The owners of a sector outside a span write it back. -/
def State.recallOwners (s : State) (span sector : Nat) : State :=
  (s.others span sector).foldl (fun s p => if ownsSector p.2 then s.recallSector p.1 sector else s) s

/-- A sector that an engine of a cluster reads: its cache holds it from then on; a command processor's engine reads it at the
home (R324, R327). -/
def State.engineReads (s : State) (cluster sector : Nat) : State :=
  if !caches cluster then (s.recallOwners noAgent sector).redirect (sector / 4)
  else if s.sector cluster sector ≠ .invalid then s
  else (s.recallOwners (spanOfCluster cluster) sector).giveRead cluster sector

/-- A sector that an engine of a cluster writes: its cache holds it in M from then on; of a line that windows hold, and for a
command processor's engine, it is written at the home, where no copy remains (R324, R327, R332). -/
def State.engineWrites (s : State) (cluster sector : Nat) : State :=
  if !caches cluster || (s.block (sector / 4)).win then (s.clearSector sector).redirect (sector / 4)
  else if ownsSector (s.sector cluster sector) then s.setSector cluster sector .modified
  else ((s.others (spanOfCluster cluster) sector).foldl (fun s p => s.recallSector p.1 sector) s).giveWrite cluster sector

/-- The rights that an engine of a cluster asks for with notices before an access to sectors of an OPEN line (R326, R327). -/
def State.engineNeeds (s : State) (cluster : Nat) (secs : List Nat) (write : Bool) : List (Nat × NoticeKind) :=
  if !caches cluster then []
  else secs.filterMap fun k =>
    if write && (s.block (k / 4)).win then some (k, .mask)
    else match s.sector cluster k with
      | .invalid => some (k, if write then .getM else .getS)
      | .shared => if write then some (k, .upg) else none
      | .exclusive => none
      | .modified => none

/-- An engine's notices for the rights it lacks, each injected once for an access; none where all of them have been delivered. -/
def State.engineAsks (s : State) (who cluster : Nat) (needs : List (Nat × NoticeKind)) : Option State :=
  let new := needs.filter fun p => !s.engineAsked.contains (who, p.1)
  if !new.isEmpty then
    some (new.foldl (fun s p => { s.ask1 cluster p.1 p.2 0 with engineAsked := (who, p.1) :: s.engineAsked }) s)
  else if needs.any fun p => s.spanNet.any fun m => m.cluster == cluster && m.sector == p.1 then some s
  else none

/-- The access of an engine is made. -/
def State.engineDone (s : State) (who : Nat) : State :=
  { s with engineAsked := s.engineAsked.filter fun p => p.1 != who }

/-- Every cached copy of a block leaves its holder. -/
def State.clearSectors (s : State) (b : Nat) : State := (List.range 4).foldl (fun s i => s.clearSector (4 * b + i)) s

/-! ### Window words: recalls and write-backs (R294, R332, R335, R336) -/

/-- A window's block after words have left it: U if none remains valid (R329). -/
def WinBlock.without (b : WinBlock) (m : BitVec 64) : WinBlock :=
  let v := b.valid &&& ~~~m
  { b with valid := v, dirty := b.dirty &&& ~~~m, state := if v = 0 ∧ b.state = .v then .u else b.state }

/-- A window's block of which a fetch or a release met POISON: no word is valid (R328, R329). -/
def WinBlock.poisoned (b : WinBlock) : WinBlock := { b with state := .u, valid := 0, dirty := 0 }

/-- The write-backs of a window's block that its home has not acknowledged. -/
def State.inFlight (s : State) (key b : Nat) : List WriteBack :=
  (s.writeBacks.filter fun (p : Nat × WriteBack) => p.2.block == b && p.2.holder == key && !p.2.isRecall).map (·.2)

/-- Words of write-backs in flight laid over a block's bytes. -/
def overlay (m : BitVec 64) (data under : List Byte) : List Byte :=
  List.zipWith (fun (p : Byte × Nat) u => if maskBit m (p.2 / 4) then p.1 else u) (data.zip (List.range 256)) under

/-- Those of them whose words no recall reply has carried home yet. -/
def State.uncarried (s : State) (key b : Nat) : List WriteBack := (s.inFlight key b).filter fun w => !w.carried

/-- The words of a block that a window holds dirty, or has in flight and not sent in a recall reply. -/
def State.unsettled (s : State) (key b : Nat) (wb : WinBlock) : BitVec 64 :=
  (s.uncarried key b).foldl (fun a w => a ||| w.mask) (s.sendable key wb)

/-- The write-backs of a window's block whose words a recall reply carries home now (R336). -/
def State.carry (s : State) (key b : Nat) : State :=
  { s with writeBacks := s.writeBacks.map fun (p : Nat × WriteBack) =>
      if p.2.block = b ∧ p.2.holder = key ∧ p.2.isRecall = false then (p.1, { p.2 with carried := true }) else p }

/-- One window recalled: every dirty word, with the words in flight, is sent home under the next version, and the named
words leave the window (R335, R336). Of the window whose own request it is only the words in flight are sent. -/
def State.recallFrom (s : State) (b key blk : Nat) (wb : WinBlock) (m : BitVec 64) (own : Bool) (ver : BitVec 4) : State :=
  let here := if own then 0 else s.sendable key wb
  let bytes := (s.uncarried key b).foldl (fun a w => overlay (w.mask &&& ~~~wb.dirty) w.data a) (s.windowBytes key blk)
  let rec0 : WriteBack := { block := b, cluster := key / 8, version := ver,
                            mask := (s.uncarried key b).foldl (fun a w => a ||| (w.mask &&& ~~~wb.dirty)) here, data := bytes,
                            isRecall := true, asked := s.now, holder := key }
  let s1 := (s.carry key b).modWinBlock key blk fun x => { x.without (if own then 0 else m) with version := ver }
  if own && s.uncarried key b == [] then s1
  else
    let s2 := s1.askPort (key / 8) (banksOf ((s.windows.get {} key).dbase + 256 * blk) 256) .leaving
    ({ s2 with writeBacks := s2.writeBacks.put s.nextWb rec0, nextWb := s.nextWb + 1 }).later (s.now + 2 ^ 24)
      (.recallTimeout s.nextWb)

/-- The recalls of a block that await their replies. -/
def State.recallsOut (s : State) (b : Nat) : List Nat :=
  (s.writeBacks.filter fun (p : Nat × WriteBack) => p.2.block == b && p.2.isRecall).map (·.1)

/-- Some window holds words of a mask dirty, or has sent them in a write-back that has not arrived. -/
def State.dirtyElsewhere (s : State) (b : Nat) (m : BitVec 64) (except : Option Nat) : Bool :=
  (s.openWindows b).any fun p => some p.1 != except && s.unsettled p.1 b p.2.2 &&& m != 0

/-- The windows that a recall of a block reaches. -/
def State.recalled (s : State) (b : Nat) : List (Nat × Nat × WinBlock) :=
  (s.openWindows b).filter fun p => p.2.2.state != .u || s.unsettled p.1 b p.2.2 != 0

/-- A word of a window's block, among those of a mask, lies in a deck granule that holds an uncorrectable error (R384). -/
def State.deckWordBad (s : State) (key blk : Nat) (m : BitVec 64) : Bool :=
  s.deckErrors.any fun g =>
    let a := (s.windows.get {} key).dbase + 256 * blk
    g / 2 ^ 18 == key / 8 && decide (a / 8 ≤ g % 2 ^ 18 ∧ g % 2 ^ 18 < a / 8 + 32) &&
      m &&& ((3 : BitVec 64) <<< (2 * (g % 2 ^ 18 - a / 8))) != 0

/-- The windows whose dirty words of a block a recall would find in error: those holders fail (R344). -/
def State.failing (s : State) (b : Nat) (except : Option Nat) : List Instr :=
  ((s.recalled b).filter fun p => some p.1 != except && s.deckWordBad p.1 p.2.1 p.2.2.dirty).map fun p =>
    .holderFailure (4096 + p.1)

/-- A recall of words sent to every window that holds words of the block, under the next version; one that fails sends no
reply. -/
def State.sendRecalls (s : State) (b : Nat) (m : BitVec 64) (except : Option Nat) : State :=
  let ver := (s.block b).version + 1
  (s.recalled b).foldl (fun s p =>
    if some p.1 != except && s.deckWordBad p.1 p.2.1 p.2.2.dirty then s
    else s.recallFrom b p.1 p.2.1 p.2.2 m (some p.1 == except) ver) s

/-- A recall meets a window whose fetch of the block is in flight, and is served after the fetch (R329); of two windows that
fetch one block, the recall of the one that began first is served at once, since the other's fetch is behind it at the home
(R333). -/
def State.meetsFetch (s : State) (b : Nat) (except : Option Nat) : Bool :=
  let mine := (s.openWindows b).find? fun p => some p.1 == except && p.2.2.state == .f
  (s.recalled b).any fun p => p.2.2.state == .f && some p.1 != except &&
    (match mine with
      | some q => decide (p.2.2.order < q.2.2.order)
      | none => true)

/-- Words recalled, where a window holds any of them dirty: the recall goes to every window that holds words of the block,
and the request `again` is served once it is answered, before the block's later requests (R333). None where nothing is to be
recalled. A window that requests for itself only takes the new version. -/
def State.recallThen (s : State) (b : Nat) (m : BitVec 64) (except : Option Nat) (again : List Instr) : Option State :=
  if !s.dirtyElsewhere b m except then none
  else
    let s1 := again.foldl (fun s i => s.putOff b i) s
    if !s.mayAdvance b || s.meetsFetch b except then some s1
    else
      let s2 := s1.sendRecalls b m except
      some (s2.emitFirst (s.failing b except ++ (s2.recallsOut b).map Instr.recallReply ++ again))

/-- A recall or an invalidation of window words that every span answers with "none": no window holds a word of the block, and
none has words in flight; win ends (R332). -/
def State.windowsAnswer (s : State) (b : Nat) : State :=
  if (s.block b).win && (s.openWindows b).all (fun p => p.2.2.valid == 0) && (s.lateWrites b).all (·.carried) then
    s.modBlock b fun x => { x with win := false }
  else s

/-- Every window loses its clean copies of words that another agent writes (R294). -/
def State.dropWords (s : State) (b : Nat) (m : BitVec 64) (except : Option Nat) : State :=
  ((s.openWindows b).filter fun p => some p.1 != except).foldl
    (fun s p => s.modWinBlock p.1 p.2.1 fun x => x.without (m &&& ~~~x.dirty)) (s.windowsAnswer b)

/-- The words that `n` bytes at a physical address touch, of those of the block of the first. -/
def wordsOf (phys n : Nat) : BitVec 64 :=
  BitVec.ofNat 64 ((2 ^ ((phys % 4 + n + 3) / 4) - 1) * 2 ^ (phys % 256 / 4))

/-- RECALL_REPLY: the words of the reply, those in flight included, are applied at the home and the version advances
(R335, R336). -/
def State.applyRecall (s : State) (w : Nat) : State :=
  match s.writeBacks.find w with
  | some r =>
    if r.isRecall then
      let s1 := { s with writeBacks := s.writeBacks.drop w }
      let s2 := (s1.putWords (r.block * 256) r.mask r.data 64).modBlock r.block fun x => { x with version := r.version }
      (if r.mask = 0 then s2.windowsAnswer r.block else s2).redirect r.block
    else s
  | none => s

def execRecallReply (w : Nat) (s : State) : Out := .next (s.applyRecall w)

/-- Words recalled and brought home within one step of the home, for an agent that does not wait; a fetch in flight reads the
recalled words again when it is served. -/
def State.recallNow (s : State) (b : Nat) (m : BitVec 64) (except : Option Nat) : State :=
  if s.dirtyElsewhere b m except then
    let s0 := if s.mayAdvance b then s else s.settleLate b
    let s1 := (s0.sendRecalls b m except).emitFirst (s.failing b except)
    (s1.recallsOut b).foldl State.applyRecall s1
  else s

/-! ### Bytes that hosts and windows hold (R294, R299, R337) -/

/-- The sectors of a range of bytes. -/
def sectorsOf (phys n : Nat) : List Nat := (List.range ((phys % 64 + n + 63) / 64)).map fun i => phys / 64 + i

/-- The recalls of a sector from the hosts that own it. -/
def State.hostNotices (s : State) (sector : Nat) : List Instr :=
  noticesTo sector false ((s.agents sector).filter fun p => decide (8 ≤ p.1))

/-- Bytes of one sector whose newest value is not at the home. -/
def State.away (s : State) (phys n : Nat) : Bool :=
  s.dirtyElsewhere (phys / 256) (wordsOf phys n) none || !(s.hostNotices (phys / 64)).isEmpty

/-- Bytes of one sector recalled, and the step `again` after that; none where they are at the home. -/
def State.comeHome (s : State) (phys n : Nat) (again : List Instr) : Option State :=
  match s.recallThen (phys / 256) (wordsOf phys n) none again with
  | some s1 => some s1
  | none =>
    match s.hostNotices (phys / 64) with
    | [] => none
    | needs =>
      let s1 := again.foldl (fun s i => s.putOff (phys / 256) i) s
      some (if s.mayAdvance (phys / 256) then s1.emitFirst (needs ++ again) else s1)

/-- Bytes of a block recalled within one step of the home. -/
def State.bringHome (s : State) (phys n : Nat) : State :=
  ((sectorsOf phys n).foldl (fun s k => s.recallOwners noAgent k) (s.recallNow (phys / 256) (wordsOf phys n) none)).redirect
    (phys / 256)

/-- WRITEBACK_ARRIVAL: applied where its version is the block's, otherwise cancelled: its words have arrived with a
recall reply (R336). -/
def execWritebackArrival (w : Nat) (s : State) : Out :=
  match s.writeBacks.find w with
  | some r =>
    if r.isRecall then .next s
    else
      let s1 := { s with writeBacks := s.writeBacks.drop w }
      if r.version = (s.block r.block).version then
        .next (((s1.dropWords r.block r.mask (some r.holder)).putWords (r.block * 256) r.mask r.data 64).redirect r.block)
      else .next s1
  | none => .next s

/-- Bytes written at their home at package scope, in one step: the words that windows hold dirty and the sectors that caches and
hosts own come home first, and no other copy of what is written remains (R294, R299, R332). -/
def State.coherentWrite (s : State) (phys : Nat) (bs : List Byte) : State :=
  let b := phys / 256
  let m := wordsOf phys bs.length
  let s1 := (s.recallNow b m none).dropWords b m none
  ((((sectorsOf phys bs.length).foldl State.clearSector s1).memWrite phys bs)).redirect b

end Sys2Proof.Machine
end

