-- ==== Sys2Proof/Machine/Ops.lean ====
section
/-! DEFINITION. The named operations every meaning is written over: the error record; register writes and what hangs on them
(the injector, a twin's fingerprint, latches); ending a unit, waiting, taking an exception and returning
from one; ending a thread. -/

namespace Sys2Proof.Machine

/-! ### The error record (R377 to R379) -/

def Cause.code : Cause → Nat
  | .illegal => 0x01
  | .priv => 0x02
  | .align => 0x03
  | .seg => 0x04
  | .page => 0x05
  | .once2 => 0x06
  | .clear => 0x07
  | .poison => 0x08
  | .rep => 0x09
  | .port => 0x0A
  | .async => 0x0B
  | .deadkey => 0x0C
  | .twin => 0x0D
  | .verify => 0x0E
  | .regpoison => 0x0F
  | .brk => 0x10
  | .syscall => 0x11
  | .ring => 0x12

/-- The i-th open site of a row of a cluster, of the sites numbered from `site` (R410). -/
def State.openSite (s : State) (cluster site i : Nat) : Nat → Option Nat
  | 0 => none
  | n + 1 =>
    if (s.sites.get {} (cluster * 20 + site)).closed then s.openSite cluster (site + 1) i n
    else match i with
      | 0 => some site
      | j + 1 => s.openSite cluster (site + 1) j n

/-- The physical site, 0 to 19, that a logical core occupies (R5, R410). -/
def State.siteOf (s : State) (core : Nat) : Option Nat :=
  if core < 8192 then s.openSite (clusterOf core) (logical core / 4 * 5) (logical core % 4) 5 else none

/-- The key of a core's site in the table of sites. -/
def State.siteKey (s : State) (core : Nat) : Option Nat :=
  (s.siteOf core).map (fun i => clusterOf core * 20 + i)

def State.site (s : State) (k : Nat) : Site := s.sites.get {} k
def State.modSite (s : State) (k : Nat) (f : Site → Site) : State :=
  { s with sites := s.sites.put k (f (s.site k)) }

/-- Whom an entry of an error record is about: the core, the slot, and the thread's or crew's coordinates. -/
structure Concerned where
  core : Nat := 0
  slot : Nat := 0
  tid : Nat := 0
  crew : Nat := 0xFFFFFFFF
  stage : Nat := 0
  bay : Nat := 0
deriving DecidableEq, Repr

/-- An entry's 512 bits (R378). -/
def State.errorEntry (s : State) (who : Concerned) (kind : Nat) (cause : Cause) (addr pc aux : Nat) : Nat :=
  cause.code + kind * 2 ^ 8 + who.slot * 2 ^ 51 + (s.siteOf who.core).getD 0 * 2 ^ 55 + who.core % 2 ^ 13 * 2 ^ 60 +
    s.dev.toNat * 2 ^ 73 + who.bay * 2 ^ 81 + who.stage * 2 ^ 84 + who.tid * 2 ^ 88 + who.crew * 2 ^ 224 +
    s.now * 2 ^ 256 + pc * 2 ^ 327 + addr * 2 ^ 384 + aux * 2 ^ 448

/-- Bytes written at a DVA of an address space, where it is mapped, at package scope (R377). -/
def State.putAt (s : State) (asid dva : Nat) (bs : List Byte) : State :=
  match s.walk asid dva with
  | some l => s.coherentWrite (l.phys dva) bs
  | none => s

/-- An entry reported to a launch's error record: written where it still fits, and counted (R377). -/
def State.report (s : State) (launch : Nat) (entry : Nat) : State :=
  let l := s.launchOf launch
  let base := l.errDva.toNat
  match s.walk l.asid base with
  | none => s
  | some leaf =>
    let s := s.bringHome (leaf.phys base) 8
    let count := s.memRead (leaf.phys base) 8
    let cap := (l.errLen - 64) / 64
    let s1 := if count < cap then s.putAt l.asid (base + 64 + 64 * count) (toBytesLE entry 64) else s
    s1.putAt l.asid base (toBytesLE (count + 1) 8)

/-- A thread's coordinates in an entry. -/
def State.concerned (s : State) (t : Nat) : Concerned :=
  let x := s.thread t
  { core := coreOf t, slot := slotOf t, tid := x.tid.toNat, crew := x.crew.toNat, stage := x.stage.toNat,
    bay := x.bay.toNat }

/-- An entry about a thread. -/
def State.reportThread (s : State) (t : Nat) (kind : Nat) (cause : Cause) (addr pc aux : Nat) : State :=
  s.report (s.thread t).launch (s.errorEntry (s.concerned t) kind cause addr pc aux)

/-! ### Twins, fingerprints and the injector -/

/-- The other member of a twin pair: the same slot of the core whose number differs in bit 0 (R244). -/
def partner (t : Nat) : Nat := if coreOf t % 2 = 0 then t + 16 else t - 16

/-- CRC-32C of one more byte, reflected (R411). -/
def crcBits (c : Nat) : Nat → Nat
  | 0 => c
  | n + 1 => crcBits (if c % 2 = 1 then (c / 2) ^^^ 0x82F63B78 else c / 2) n

def crcBytes (c : Nat) : List Byte → Nat
  | [] => c
  | b :: bs => crcBytes (crcBits (c ^^^ b.toNat) 8) bs

/-- Bytes appended to a fingerprint (R411). -/
def Thread.noting (x : Thread) (bs : List Byte) : Thread :=
  if x.twin then { x with pair := { x.pair with print := BitVec.ofNat 32 (crcBytes x.pair.print.toNat bs) } } else x

/-- What a unit of thread `t` appends to fingerprints: a unit that the leader executes alone retires in both members, to
whose streams it adds the same (R245, R411). -/
def State.noteFor (s : State) (t : Nat) (both : Bool) (bs : List Byte) : State :=
  let s1 := if (s.thread t).twin then s.modThread t fun x => x.noting bs else s
  if both then s1.modThread (partner t) fun x => x.noting bs else s1

def State.note (s : State) (t : Nat) (bs : List Byte) : State := s.noteFor t (s.thread t).iss.alone bs

/-- A CSR written, as a fingerprint takes it (R411). -/
def csrBytes (n v : Nat) : List Byte := toBytesLE n 2 ++ toBytesLE v 8

/-- The byte that names a destination in a fingerprint: its class and number, and the bytes of its value (R411). -/
def Dest.classByte : Dest → Nat
  | .own n => n
  | .ownV n => 128 + n
  | .discard f => if f < 32 then f else 64 + f % 32
  | .flags => 0
  | .shared n => 64 + n
  | .sharedV n => 192 + n
  | .port dir => 64 + 24 + dir
  | .portV dir => 192 + 28 + dir
  | .release => 64 + 29

def Dest.vec : Dest → Bool
  | .ownV _ => true
  | .sharedV _ => true
  | .portV _ => true
  | _ => false

/-- The bits of the registers of a class. -/
def Dest.width (d : Dest) : Nat := if d.vec then 128 else 64

/-- A register written, as a fingerprint takes it. -/
def Dest.bytes (d : Dest) (v : Nat) : List Byte := toBytesLE d.classByte 1 ++ toBytesLE v (d.width / 8)

/-- A register write as a site's injector sees it: the value written and the injector after it (R369). -/
def injectWord (inj : Word) (major value width : Nat) : Nat × Word :=
  let w := inj.toNat
  if bitAt w 63 && field w 12 6 == major then
    let count := field w 32 20
    if count = 1 then
      (if field w 18 7 < width then value ^^^ 2 ^ field w 18 7 else value, BitVec.ofNat 64 (field w 0 32))
    else (value, BitVec.ofNat 64 (w - 2 ^ 32))
  else (value, inj)

/-- The value that a register write of a unit of some major delivers, after the injector of its core's site, which counts
the write in the tick in which it is performed (R369). -/
def State.inject (s : State) (core major value width : Nat) : Nat × State :=
  match s.siteKey core with
  | none => (value, s)
  | some k =>
    let inj := (s.site k).injector
    if bitAt inj.toNat 63 then
      let (v, i) := injectWord inj major value width
      (v, s.modSite k fun x => { x with injector := i })
    else (value, s)

/-! ### Writing registers -/

/-- A write of thread `t`'s unit that the core performs at `delay` ticks from now. -/
def State.pend (s : State) (t delay : Nat) (d : Dest) (v : VWord) : State :=
  let x := s.thread t
  s.modCore (coreOf t) fun c =>
    { c with pend := c.pend ++ [{ due := s.now + delay, slot := slotOf t, dest := d, value := v, major := x.iss.major,
                                  noted := x.twin, both := x.iss.alone }] }

/-- Where a scalar value written to a field goes (R20, R96): `s0`, `h28`, `h30` and `h31` discard it, `h24` to `h27` push,
`h29` releases. -/
def destOf (d : RegField) : Dest :=
  let n := d.toNat % 32
  if d.toNat < 32 then (if n = 0 then .discard 0 else .own n)
  else if n = 28 ∨ n = 30 ∨ n = 31 then .discard d.toNat
  else if n = 29 then .release
  else if 24 ≤ n then .port (n - 24)
  else .shared n

/-- Where a vector value written to a field goes (R158): `w28` to `w31` push. -/
def destOfV (d : RegField) : Dest :=
  let n := d.toNat % 32
  if d.toNat < 32 then .ownV n else if 28 ≤ n then .portV (n - 28) else .sharedV n

/-- A destination that concerns no other thread: a write that is performed in this tick needs no order among the core's
threads (R21). -/
def Dest.ownKind : Dest → Bool
  | .own _ => true
  | .ownV _ => true
  | .discard _ => true
  | _ => false

/-- A latch that records a register loses its hold bit (R247). -/
def Latch.clear (l : Latch) (f : BitVec 6) : Latch := if l.reg = f then { l with hold := false } else l

def Thread.clearLatches (x : Thread) (f : BitVec 6) : Thread :=
  { x with latchD := x.latchD.clear f, latchA := x.latchA.clear f, latchB := x.latchB.clear f }

/-- An own register written: an error of it ends (R385); of a vector register the stream binding ends (R211), and latches
that record it lose their hold bits (R247). -/
def Thread.putS (x : Thread) (n : Nat) (v : Word) : Thread :=
  { x with s := x.s.put n v, errors := x.errors.filter fun e => e != n }
def Thread.putV (x : Thread) (n : Nat) (v : VWord) : Thread :=
  ({ x with v := x.v.put n v, bindings := x.bindings.filter (fun b => b.reg != n),
            errors := x.errors.filter fun e => e != n + 64 }).clearLatches (BitVec.ofNat 6 n)

/-- The value of a write of thread `t` in its own register. -/
def State.placeOwn (s : State) (t : Nat) (d : Dest) (v : VWord) : State :=
  match d with
  | .own n => s.modThread t fun x => x.putS n (v.setWidth 64)
  | .ownV n => s.modThread t fun x => x.putV n v
  | _ => s

/-- A value written to a destination of thread `t`: the core performs the write after `delay` ticks; one that concerns no other
thread is performed at once where the delay is 0. -/
def State.placeAt (s : State) (t : Nat) (d : Dest) (v : VWord) (delay : Nat) : State :=
  if delay = 0 ∧ d.ownKind = true then s.placeOwn t d v else s.pend t delay d v

def State.placeS (s : State) (t : Nat) (d : RegField) (v : Word) (delay : Nat) : State :=
  s.placeAt t (destOf d) (v.setWidth 128) delay
def State.placeV (s : State) (t : Nat) (d : RegField) (v : VWord) (delay : Nat) : State := s.placeAt t (destOfV d) v delay

/-- The register write of a unit: the injector counts it and the fingerprints take it when it is performed (R369, R411); a check
point of a twin pair writes both threads' registers (R245). -/
def State.write (s : State) (t : Nat) (d : Dest) (v : VWord) (delay : Nat) : State :=
  if delay = 0 ∧ d.ownKind = true then
    let (u, s1) := s.inject (coreOf t) (s.thread t).iss.major v.toNat d.width
    let s2 := (s1.note t (d.bytes u)).placeOwn t d (BitVec.ofNat 128 u)
    if (s.thread t).iss.alone then s2.placeOwn (partner t) d (BitVec.ofNat 128 u) else s2
  else s.pend t delay d v

def State.writeS (s : State) (t : Nat) (d : RegField) (v : Word) (delay : Nat) : State :=
  s.write t (destOf d) (v.setWidth 128) delay
def State.writeV (s : State) (t : Nat) (d : RegField) (v : VWord) (delay : Nat) : State := s.write t (destOfV d) v delay

/-- Flags ORed into `fflags` (R156), a CSR write of the unit (R411). -/
def State.raise (s : State) (t : Nat) (fl : BitVec 5) : State :=
  s.modThread t fun x => { x with fflags := x.fflags ||| fl }

/-- Flags that a unit raises are written with its register, after `delay` ticks (R156, R160). -/
def State.raiseAt (s : State) (t : Nat) (fl : BitVec 5) (delay : Nat) : State :=
  if fl = 0 then s else s.pend t delay .flags (fl.setWidth 128)

/-! ### Receive ring and sequencer pieces that ending a thread needs -/

/-- The ring entries, with those claimed by a slot released (R24). -/
def releaseEntries (slot now : Nat) (es : Tab RingEntry) : Tab RingEntry :=
  es.map fun p => match p.2.state with
    | .claimed k => if k = slot then (p.1, { freedAt := now + 1 }) else p
    | _ => p

/-- A permit token returned to the sequencer (R221); one that is not held out is ignored. -/
def returnToken (q : Sequencer) (tok : Byte) : Sequencer :=
  if tok ∈ q.out then { q with out := q.out.erase tok } else q

def State.returnPermit (s : State) (core : Nat) (tok : Option Byte) : State :=
  match tok with
  | none => s
  | some k => (s.modCore core fun c => { c with seq := returnToken c.seq k }).emit (.sequencerEmit core)

/-! ### Ending a unit -/

/-- A latch of an own register that has been written: its hold bit is 0 (R247). -/
def Latch.openOwn (l : Latch) : Latch := { l with hold := l.hold && decide (32 ≤ l.reg.toNat) }

/-- The context that a twin pair's rollback copy holds (R412). -/
def Thread.context (x : Thread) : Context :=
  { s := x.s, v := x.v, seg := x.seg, pc := x.pc, fmode := x.fmode, fflags := x.fflags, repc := x.repc,
    evt := x.evt, tcause := x.tcause, taddr := x.taddr, tepc := x.tepc, tvec := x.tvec, tscratch := x.tscratch,
    intrap := x.intrap, cseg := x.cseg }

def Thread.withContext (x : Thread) (c : Context) : Thread :=
  { x with s := c.s, v := c.v, seg := c.seg, pc := c.pc, fmode := c.fmode, fflags := c.fflags, repc := c.repc,
           evt := c.evt, tcause := c.tcause, taddr := c.taddr, tepc := c.tepc, tvec := c.tvec,
           tscratch := c.tscratch, intrap := c.intrap, cseg := c.cseg }

/-- The latches that record own registers, all of which have been written (R247). -/
def Thread.openOwn (x : Thread) : Thread :=
  { x with latchD := x.latchD.openOwn, latchA := x.latchA.openOwn, latchB := x.latchB.openOwn }

/-- A thread that goes on READY at an offset. -/
def Thread.goOn (x : Thread) (pc : BitVec 57) : Thread :=
  { x with state := .ready, wait := .none, pc := pc, lineAt := none, iss := { x.iss with ended := .issued } }

/-- The iteration is over: the unit of a `rep` is between two iterations, or done. -/
def Thread.endIteration (x : Thread) : Thread := { x with iss := { x.iss with rep := false } }

/-- A thread whose unit has completed: at the next iteration of a `rep` unit (R141), with `repc` 0 after the
last one (R143), or at the offset after the unit. -/
def Thread.completed (x : Thread) : Thread :=
  if x.iss.rep then
    if 1 < x.iss.left then { (x.goOn x.pc).endIteration with repAt := some (x.iss.iter + 1, x.iss.left - 1) }
    else { (x.goOn x.iss.npc).endIteration with repAt := none, repc := {} }
  else x.goOn x.iss.npc

/-- After a unit that a twin pair's leader executed alone, the follower holds what the leader holds (R245). -/
def State.mirror (s : State) (t : Nat) : State :=
  let x := s.thread t
  if x.twin && x.iss.alone then
    s.modThread (partner t) fun y =>
      { (y.withContext x.context) with state := x.state, wait := .none, iss := x.iss, repAt := x.repAt }
  else s

/-- Thread `t`'s unit completes. -/
def State.complete (s : State) (t : Nat) : State := (s.modThread t Thread.completed).mirror t

/-- Thread `t`'s unit completes and the thread goes on elsewhere. -/
def State.jump (s : State) (t : Nat) (pc : BitVec 57) : State :=
  (s.modThread t fun x => x.goOn pc).mirror t

/-- Waits that are served in order of issue attempts (R309). -/
def Cond.queued : Cond → Bool
  | .copyEntry => true
  | _ => false

/-- A thread's place in the line of such a wait: that of its first attempt, the lower core first within a tick. -/
def Thread.place (x : Thread) (c : Cond) : Option Nat :=
  match x.lineAt with
  | some p => if p.2 = c then some p.1 else none
  | none => none

/-- How many of some threads stand in a line before thread `t`. -/
def State.ahead (s : State) (t : Nat) (c : Cond) (among : Nat → Bool) : Nat :=
  (s.threads.filter fun (p : Nat × Thread) => p.1 != t && among p.1 && p.2.live && p.2.state != .stopping &&
    (match p.2.place c, (s.thread t).place c with
      | some n, some m => decide (n < m)
      | some _, none => true
      | none, _ => false)).length

/-- A thread that waits for a condition stands in its line, if it has one. -/
def Thread.inLine (x : Thread) (now t : Nat) (c : Cond) : Thread :=
  { x with lineAt := if c.queued then some ((x.place c).getD (now * 2 ^ 18 + t), c) else none }

/-- Thread `t` waits before its unit can issue; nothing has been consumed (R446). -/
def State.hold (s : State) (t : Nat) (st : SlotState) (c : Cond) : State :=
  s.modThread t fun x => { x.inLine s.now t c with state := st, wait := .retry c, iss := { x.iss with ended := .held } }

/-- Thread `t`'s unit has issued and waits. -/
def State.await (s : State) (t : Nat) (st : SlotState) (w : Wait) : State :=
  s.modThread t fun x => { x with state := st, wait := w, lineAt := none, iss := { x.iss with ended := .issued } }

/-! ### Gangs -/

/-- The size of a thread's gang (R33), and its members' slots: the group of 2 or 4 cores that holds its core. -/
def Thread.gangSize (x : Thread) : Nat := match x.gang.toNat with
  | 1 => 2
  | 2 => 4
  | _ => 1

def members (t g : Nat) : List Nat :=
  (List.range g).map fun i => (coreOf t / g * g + i) * 16 + slotOf t

/-- A thread that has been asked to stop: it alone, or its whole crew (R265, R387). -/
def State.wantsStop (s : State) (t : Nat) : Bool :=
  let x := s.thread t
  x.live && x.state != .stopping && (x.stopReq || (x.given.isSome && (s.crewOf x.crewId).status == .stopping))

/-- The threads that stop together (R258). -/
def State.stopGroup (s : State) (t : Nat) : List Nat :=
  let g := (s.thread t).gangSize
  if g = 1 then [t] else members t g

/-- Threads of a gang that stand at one unit, none of which has completed it before another (R258, R265). -/
def State.even (s : State) (ms : List Nat) : Bool :=
  ms.all fun m => (s.thread m).pc == (s.thread (ms.headD 0)).pc && (s.thread m).repAt == (s.thread (ms.headD 0)).repAt

/-- The gang of thread `t` ends; `split` sets `tstat.split` in each member (R229, R259). -/
def State.endGang (s : State) (t : Nat) (split : Bool) : State :=
  if (s.thread t).gangSize = 1 then s
  else (members t (s.thread t).gangSize).foldl
    (fun s m => s.modThread m fun x => { x with gang := 0, leader := false, split := x.split || split }) s

/-! ### Ending a thread -/

/-- The last thread of a launch leaves a core: the queues into it are discarded (R22). -/
def State.leaveCore (s : State) (core : Nat) : State :=
  if (List.range 16).any (fun i => (s.thread (core * 16 + i)).live) then s
  else s.modCore core fun c => { c with portQ := [], portVQ := [] }

/-- A write of an own register or of flags, which ends with its thread. -/
def PendWrite.endsWith (w : PendWrite) (slot : Nat) : Bool := w.slot == slot && (w.dest.ownKind || w.dest == .flags)

/-- Steps 2 and 3 of R224: claimed entries are released, bindings end, the permit token returns, the latches,
the wake token and `evt` are discarded, and the slot becomes free. -/
def State.freeSlot (s : State) (t : Nat) : State :=
  let x := s.thread t
  let c := coreOf t
  let claimed := (s.core c).entries.any (fun p => p.2.state == .claimed (slotOf t))
  let s1 := s.modCore c fun k => { k with entries := releaseEntries (slotOf t) s.now k.entries, pend := k.pend.filter fun w => !w.endsWith (slotOf t) }
  let s2 := s1.returnPermit c x.permit
  let s3 := s2.setThread t { counters := x.counters, park := x.park, given := x.given, iss := x.iss }
  let s4 := s3.leaveCore c
  let s5 := if claimed then s4.later (s.now + 1) (.overflowMove c) else s4
  (s5.emit (.crewRetirement x.crewId)).emit (.routineSpawn c)

/-- Every relaxed fault of the thread that is not taken goes to the record as kind 1 (R139). -/
def State.reportPending (s : State) (t : Nat) (aux : Nat) : List PendingFault → State
  | [] => s
  | p :: ps => (s.reportThread t 1 p.cause p.addr.toNat p.pc.toNat aux).reportPending t aux ps

/-- The fault stands after its unit, which completes before it (R239). -/
def Cause.follows : Cause → Bool
  | .syscall | .brk => true
  | _ => false

/-- A thread that a fault has ended (R34): the record is written and the slot freed. `own` is the PC of the unit concerned (R378),
beside `tepc` (R379): they differ for a software trap, which stands after its unit (R239), and for a relaxed fault, which is taken
at a later unit than the access (R139). The unit at which the thread ended stands in the entries of the relaxed faults not taken. -/
def State.endFaulted (s : State) (t : Nat) (c : Cause) (addr : Word) (own : BitVec 57) : State :=
  let x := s.thread t
  let s1 := s.reportThread t 0 c addr.toNat own.toNat x.pc.toNat
  let s2 := s1.reportPending t (if c.follows then own else x.pc).toNat x.pendingFaults
  s2.freeSlot t

/-! ### Exceptions -/

/-- The progress that a `rep` unit leaves in `repc` where it ends early: in an iteration, or between two (R143). -/
def Thread.progress (x : Thread) : RepC :=
  if x.iss.rep then { act := true, done := BitVec.ofNat 6 x.iss.iter, left := BitVec.ofNat 6 x.iss.left }
  else match x.repAt with
    | some (i, n) => { act := true, done := BitVec.ofNat 6 i, left := BitVec.ofNat 6 n }
    | none => x.repc

/-- A thread that vectors: the trap CSRs, `intrap` and the handler's offset (R34, R375); a `rep` unit that ends
early leaves its progress in `repc` (R143). -/
def Thread.vector (x : Thread) (c : Cause) (addr : Word) : Thread :=
  { x with tcause := BitVec.ofNat 8 c.code, taddr := addr, tepc := x.pc, intrap := true, pc := x.tvec, state := .ready,
           wait := .none, lineAt := none, repAt := none, repc := x.progress,
           iss := { x.iss with ended := .trapped, rep := false } }

/-- Thread `t` takes a fault of the unit at `own`, at its PC (R34, R375): it vectors to `tvec`, or, where `tvec` is 0 or
`intrap` is 1, it ends, once its relaxed accesses have completed (R140), with an entry of kind 0. -/
def State.trapOneOf (s : State) (t : Nat) (c : Cause) (addr : Word) (own : BitVec 57) : State :=
  let x := s.thread t
  if x.tvec = 0 ∨ x.intrap = true then
    if x.rlxn = 0 then
      (s.setThread t { x with iss := { x.iss with ended := .trapped } }).endFaulted t c addr own
    else s.setThread t { x with dying := some (c, addr, own), state := .wmem, wait := .none,
                                iss := { x.iss with ended := .trapped } }
  else s.setThread t (x.vector c addr)

/-- Thread `t` takes a fault of the unit at its PC. -/
def State.trapOne (s : State) (t : Nat) (c : Cause) (addr : Word) : State := s.trapOneOf t c addr (s.thread t).pc

/-- A twin pair stands in WSYNC for the 4 ticks of a comparison, and then attempts its unit again (R260). -/
def State.compareTwins (s : State) (t : Nat) : State :=
  (((s.hold t .wsync .twinCompare).hold (partner t) .wsync .twinCompare).later (s.now + 4) (.twinCompare t))

/-- The fault of one thread, of the unit at `own`: a gang splits at the unit (R259); a twin pair compares first, since every fault
is a check point, and once it has agreed both members take the fault (R245). -/
def State.trapOf (s : State) (t : Nat) (c : Cause) (addr : Word) (own : BitVec 57) : State :=
  let x := s.thread t
  if x.twin then
    if x.pair.units = 0 then (s.trapOneOf t c addr own).trapOneOf (partner t) c addr own else s.compareTwins t
  else (s.endGang t true).trapOneOf t c addr own

/-- The fault of one thread, of the unit at its PC. -/
def State.trap (s : State) (t : Nat) (c : Cause) (addr : Word) : State := s.trapOf t c addr (s.thread t).pc

/-- The return from an exception (R240): `intrap` becomes 0 and the thread continues at `tepc`. -/
def Thread.returned (x : Thread) : Thread := { x.goOn x.tepc with intrap := false }

end Sys2Proof.Machine
end

