-- ==== Sys2Proof/Machine/Record.lean ====
section
/-! DEFINITION. The journal streams of a sampled crew and the entries of a proof run (R399 to R401, R405). -/

namespace Sys2Proof.Machine

/-! ### Journal streams (R399 to R401) -/

/-- The crew whose journal a thread's crew writes or reads: its own, or the original run's. -/
def State.journalCrew (s : State) (crew : Nat) : Nat :=
  let c := s.crewOf crew
  if 2 ≤ c.run then c.original else crew

/-- A thread's stream. -/
def State.streamKey (s : State) (t : Nat) : Nat :=
  let x := s.thread t
  s.journalCrew x.crewId * 2 ^ 24 + x.tid.toNat * 2 ^ 16 + x.stream % 2 ^ 16

/-- The thread's accesses are journaled, its crew's sample being no void one (R400); are served from the journal. -/
def State.recording (s : State) (t : Nat) : Bool :=
  (s.thread t).proofRun == 1 && (s.crewOf (s.thread t).crewId).run == 1
def State.replaying (s : State) (t : Nat) : Bool := decide (2 ≤ (s.thread t).proofRun.toNat)

/-- The bytes of an entry (R399). -/
def JEntry.bytes : JEntry → Nat
  | .loadValue _ n => 8 + n
  | .atomicResult _ => 16
  | .blockResult _ => 16
  | .reference _ _ => 16
  | .message _ _ => 136
  | .windowFetch _ ws => 8 + 4 * ws.length
  | .windowRef _ _ => 16
  | .copyRead bs => 8 + bs.length
  | .copyRefs bs => 16 * bs.length

/-- A span's journal region has room for `n` more bytes: 1,024 MiB unless the command processor has sized it (R399). -/
def State.journalRoom (s : State) (span n : Nat) : Bool :=
  decide (s.journalUsed.get 0 span + n ≤ s.journalSize.get (1024 * 2 ^ 20) span)

/-- An entry appended to a stream: the state and the entry's place. -/
def State.journalAppend (s : State) (key span : Nat) (e : JEntry) : State × Nat :=
  let es := s.journal.get [] key
  ({ s with journal := s.journal.put key (es ++ [e]),
            journalUsed := s.journalUsed.put span (s.journalUsed.get 0 span + e.bytes) }, es.length)

/-- The bytes of the entry at a place of a stream. -/
def State.entryAt (s : State) (key place : Nat) : Nat := (((s.journal.get [] key)[place]?).map JEntry.bytes).getD 0

/-- The entry at a place of a stream replaced by what its access found; a stream that has been freed takes nothing. -/
def State.journalSet (s : State) (key span place : Nat) (e : JEntry) : State :=
  if (s.journal.get [] key).length ≤ place then s
  else { s with journal := s.journal.put key ((s.journal.get [] key).set place e),
                journalUsed := s.journalUsed.put span (s.journalUsed.get 0 span + e.bytes - s.entryAt key place) }

/-- The entry at which a thread of a proof run stands. -/
def State.journalNext (s : State) (t : Nat) : Option JEntry :=
  (s.journal.get [] (s.streamKey t))[(s.thread t).journalAt]?

def State.journalStep (s : State) (t : Nat) : State :=
  s.modThread t fun x => { x with journalAt := x.journalAt + 1 }

end Sys2Proof.Machine
end

