-- ==== Sys2Proof/Machine/Operands.lean ====
section
/-! DEFINITION. Operands: reading registers (ports, the iteration-record port, the ring port, `h30`, `h31`,
stream registers), the checks a unit's fields meet before it issues, writing a destination, segments and the
addresses of memory operands, and the shapes of unit that the meanings share. -/

namespace Sys2Proof.Machine

/-- What the checks before issue answer: go on, wait out of the rotation, trap, or take a pending relaxed
fault. In the last three cases nothing has been consumed (R446). -/
inductive Gate (α : Type) where
  | go (a : α)
  | wait (st : SlotState) (c : Cond)
  | trap (c : Cause) (addr : Word)
  | pending
  /-- the thread consumes an uncorrectable register error (R385): the aux of its entry -/
  | kill (aux : Nat)
  /-- an access of firmware to a local address that is no memory (R436) -/
  | stop (addr : Nat)
deriving DecidableEq

/-- One check after another: the first that does not go on decides. -/
def Gate.next {α β : Type} (g : Gate α) (f : α → Gate β) : Gate β :=
  match g with
  | .go a => f a
  | .wait st c => .wait st c
  | .trap c a => .trap c a
  | .pending => .pending
  | .kill n => .kill n
  | .stop a => .stop a

/-- A register field with its class: vector or scalar. -/
structure Reg where
  vec : Bool
  field : RegField
deriving DecidableEq, Repr

def sreg (f : RegField) : Reg := ⟨false, f⟩
def vreg (f : RegField) : Reg := ⟨true, f⟩
/-- A compact field: k names register 8 + k of the thread's own bank (R62). -/
def creg (c : CReg) : RegField := BitVec.ofNat 6 (8 + c.toNat)

/-- The number that stands for a register in `awaited` and in a pending fault. -/
def Reg.key (r : Reg) : Nat := r.field.toNat + if r.vec then 64 else 0

/-- The direction of the port that a field names: 0 north, 1 east, 2 south, 3 west (R20). -/
def Reg.port (r : Reg) : Option Nat :=
  let n := r.field.toNat
  if r.vec then (if 60 ≤ n then some (n - 60) else none)
  else if 56 ≤ n ∧ n ≤ 59 then some (n - 56) else none

/-- The neighbour of a core in a direction (R22). -/
def neighbour (core dir : Nat) : Option Nat :=
  let c := logical core
  if 8192 ≤ core then none
  else match dir with
    | 0 => if 4 ≤ c then some (core - 4) else none
    | 1 => if c % 4 ≠ 3 then some (core + 1) else none
    | 2 => if c ≤ 11 then some (core + 4) else none
    | _ => if c % 4 ≠ 0 then some (core - 1) else none

/-- A port that can be used: there is a neighbour, and it holds a thread of the same launch (R22). -/
def State.portUsable (s : State) (t dir : Nat) : Bool :=
  match neighbour (coreOf t) dir with
  | none => false
  | some c => (List.range 16).any fun i =>
      let y := s.thread (c * 16 + i)
      y.live && y.launch == (s.thread t).launch

/-- Check 5 of R114: no field names an unusable port; and the register checks of R138 and R139. -/
def State.guardRegs (s : State) (t : Nat) (rs : List Reg) : Gate Unit :=
  let x := s.thread t
  if rs.any (fun r => x.pendingFaults.any fun p => p.key == some r.key) then .pending
  else if rs.any (fun r => match r.port with | some d => !s.portUsable t d | none => false) then .trap .port 0
  else match rs.find? (fun r => x.awaited.contains r.key) with
    | some r => .wait .wmem (.register r.vec r.field)
    | none => .go ()

/-! ### Reading registers -/

/-- A stream unit of global memory that a thread of a core has requested (R311). -/
def Req.refills (q : Req) (core : Nat) : Bool :=
  q.live && coreOf q.thread == core && q.space == .global && (match q.kind with
    | .stream _ _ => true
    | _ => false)

/-- A unit of a copy has a request at the cluster port: it is held there on a miss or a block, or its deck banks have served it. -/
def State.copyAtPort (s : State) (id : Nat) (c : Copy) : Bool :=
  c.stage == .accepted && c.kind != .cpDd && (c.heldOn.isSome || c.requested.any fun u =>
    !c.done.contains u && !s.asks.any fun x => x.asker == .copyUnit id u)

/-- The copy engine of a core has a request outstanding at the cluster port, for a copy or for a stream (R319). -/
def State.copyActive (s : State) (core : Nat) : Bool :=
  (s.copies.any fun (p : Nat × Copy) => p.2.core == core && s.copyAtPort p.1 p.2) ||
    s.reqs.any fun (p : Nat × Req) => p.2.refills core

/-- The bits of `h30` (R25). -/
def State.engineStatus (s : State) (core : Nat) : Nat :=
  let c := s.core core
  let mine := s.copies.filter fun p => p.2.core == core && p.2.stage != .retired
  let busy := s.copyActive core || s.asks.any fun x => x.engine && x.number == copyNumber core && x.cluster == clusterOf core
  min 2 c.mxQueue.length + (if c.mxRun.isSome then 4 else 0) + (if c.mxCan then 8 else 0) + mine.length * 2 ^ 4 +
    (if busy then 2 ^ 10 else 0) + (if c.seq.running then 2 ^ 11 else 0) + (if c.seq.done then 2 ^ 12 else 0) +
    c.seq.out.length * 2 ^ 13

/-- The entries of the receive ring in order of delivery. -/
def insertByOrder (p : Nat × RingEntry) : List (Nat × RingEntry) → List (Nat × RingEntry)
  | [] => [p]
  | q :: qs => if p.2.order < q.2.order then p :: q :: qs else q :: insertByOrder p qs

def byOrder : List (Nat × RingEntry) → List (Nat × RingEntry)
  | [] => []
  | p :: ps => insertByOrder p (byOrder ps)

/-- The routine-table entry of a class (R56), as the mode and limit it has after R57's bad-entry rule. -/
def State.routine (s : State) (core cls : Nat) : Nat × Nat × Nat :=
  let e := s.tcmRead core ((s.core core).rtabBase.toNat * 512 + 8 * cls) 8
  let limit := field e 2 5
  let mode := if limit = 0 ∨ 16 < limit ∨ bitAt e 7 ∨ field e 0 2 = 3 then 0 else field e 0 2
  (mode, limit, field e 8 56 * 2)

/-- An entry that `h29` or `recv` may claim: delivered, of a waiting-only class, or of any class while `rtab.en`
is 0 (R24). -/
def State.claimable (s : State) (core : Nat) (e : RingEntry) : Bool :=
  e.state == .delivered &&
    (!(s.core core).rtabEn || (s.routine core (field e.hdr.toNat 0 6)).1 == 2)

/-- How many entries `h29` may claim. -/
def State.claimables (s : State) (core : Nat) : Nat :=
  ((s.core core).entries.filter fun (p : Nat × RingEntry) => s.claimable core p.2).length

def JEntry.isMessage : JEntry → Bool
  | .message _ _ => true
  | _ => false

/-- How many messages thread `t` may claim: for a thread of a proof run those of the ring and those that come next in its
stream (R405). -/
def State.claimablesOf (s : State) (t : Nat) : Nat :=
  s.claimables (coreOf t) +
    if s.replaying t then
      (((s.journal.get [] (s.streamKey t)).drop (s.thread t).journalAt).takeWhile JEntry.isMessage).length
    else 0

/-- How many entries a port's queue holds. -/
def State.portLength (s : State) (core dir : Nat) (vec : Bool) : Nat :=
  if vec then ((s.core core).portVQ.get [] dir).length else ((s.core core).portQ.get [] dir).length

/-- What a unit that names a port or `h29` waits for: more than it found, since it may need two (R95). -/
def State.pinned (s : State) (t : Nat) : Cond → Cond
  | .portEntry dir vec _ => .portEntry dir vec (s.portLength (coreOf t) dir vec)
  | .ringEntry _ => .ringEntry (s.claimablesOf t)
  | c => c

/-- The oldest claimable ring entry whose class lies in a mask. -/
def State.oldestEntry (s : State) (core mask : Nat) : Option Nat :=
  ((byOrder (s.core core).entries).find? fun p =>
    s.claimable core p.2 && bitAt mask (field p.2.hdr.toNat 0 6)).map (·.1)

/-- The TCM address of ring entry `i` (R55). -/
def entryAddress (i : Nat) : Nat := 0xF000 + 128 * i

/-- A message comes from outside a crew of `n` cores from `first` on: it is a block notice, or its sender's core is none of the
crew's (R399). -/
def State.outsideOf (s : State) (first n hdr : Nat) : Bool :=
  let score := field hdr 16 13
  field hdr 6 2 == 2 || field hdr 32 8 != s.dev.toNat || decide (score < first ∨ first + n ≤ score)

/-- It comes from outside a thread's crew. -/
def State.fromOutside (s : State) (t hdr : Nat) : Bool :=
  s.outsideOf (coreOf t - (s.thread t).tid.toNat / 16) (s.thread t).ncore.toNat hdr

/-- The journal has room for the message that thread `t` would claim from outside its crew (R401). -/
def State.claimRoom (s : State) (t i : Nat) : Bool :=
  !(s.recording t && s.fromOutside t ((s.core (coreOf t)).entries.get {} i).hdr.toNat) || s.journalRoom (spanOf (coreOf t)) 136

/-- The payload of a ring entry as its TCM bytes stand. -/
def State.entryPayload (s : State) (core i : Nat) : List Word :=
  (List.range 15).map fun j => BitVec.ofNat 64 (s.tcmRead core (entryAddress i + 8 + 8 * j) 8)

/-- Thread `t` claims entry `i`; a sampled crew's journal takes a message from outside the crew (R24, R399). -/
def State.claimEntry (s : State) (t i : Nat) : State :=
  let core := coreOf t
  let e := (s.core core).entries.get {} i
  let s1 := s.modCore core fun c => { c with entries := c.entries.put i { e with state := .claimed (slotOf t) } }
  if s.recording t && s.fromOutside t e.hdr.toNat then
    (s1.journalAppend (s.streamKey t) (spanOf core) (.message e.hdr (s.entryPayload core i))).1
  else s1

/-- A message laid out in a ring entry: header, payload, zeros (R54). -/
def messageBytes (hdr : Word) (payload : List Word) : List Byte :=
  ((hdr :: payload).flatMap fun w => toBytesLE w.toNat 8) ++ List.replicate (8 * (15 - payload.length)) 0

/-- The lowest free ring entry. -/
def State.freeEntry (s : State) (core : Nat) : Option Nat :=
  (List.range 32).find? fun i => ((s.core core).entries.get {} i).state == .free

/-- A message written into a ring entry, in a state. -/
def State.putEntry (s : State) (core i : Nat) (hdr : Word) (payload : List Word) (st : EntryState) : State :=
  let s1 := s.tcmWrite core (entryAddress i) (messageBytes hdr payload)
  s1.modCore core fun c =>
    { c with delivered := c.delivered + 1,
             entries := c.entries.put i { state := st, order := c.delivered, hdr := hdr } }

/-- The claim of the oldest entry whose class lies in a mask, once the journal has room for it (R401); a proof run takes the messages
that its original claimed from outside the crew from the journal, and where its stream names none next, it claims or awaits a
message of its own crew, which no stream names (R232, R405; DESIGN CHOICE, assumption 144). -/
def State.claim (s : State) (t mask : Nat) : Option (Nat × State) :=
  let core := coreOf t
  let fromRing := ((s.oldestEntry core mask).filter (s.claimRoom t)).map fun i => (i, s.claimEntry t i)
  if s.replaying t then
    match s.journalNext t, s.freeEntry core with
    | some (.message hdr payload), some i =>
      if bitAt mask (field hdr.toNat 0 6) then some (i, (s.putEntry core i hdr payload (.claimed (slotOf t))).journalStep t)
      else fromRing
    | _, _ => fromRing
  else fromRing

/-- A read of the iteration-record port (R23); a token in the permit latch is returned first (R318). -/
def State.readRecord (s : State) (t : Nat) : Gate (Word × State) :=
  let x := s.thread t
  let c := s.core (coreOf t)
  match x.half with
  | some h => .go (h, s.setThread t { x with half := none })
  | none =>
    match c.seq.queue with
    | (r, tok) :: rest =>
      .go (r.setWidth 64, (((s.returnPermit (coreOf t) x.permit).modCore (coreOf t) fun k =>
        { k with seq := { k.seq with queue := rest } }).modThread t fun y =>
          { y with half := some (BitVec.ofNat 64 (r.toNat / 2 ^ 64)), permit := some tok }).emit
          (.sequencerEmit (coreOf t)))
    | [] => if c.seq.running then .wait .wsync .iterRecord else .go (BitVec.allOnes 64, s)

/-- A register or a latch that holds an uncorrectable error, or a shared register marked poisoned, kills the thread that reads it
(R385). -/
def State.sound (s : State) (t : Nat) (r : Reg) : Gate Unit :=
  let x := s.thread t
  let latched (l : Latch) : Bool := r.vec && l.bad && l.hold && l.reg == r.field
  if latched x.latchD || latched x.latchA || latched x.latchB then .kill r.field.toNat
  else if r.field.toNat < 32 then (if x.errors.contains r.key then .kill r.field.toNat else .go ())
  else if (s.core (coreOf t)).poisoned.contains r.key then .kill (128 + r.field.toNat) else .go ()

/-- The value of a scalar source field, with what reading it consumes (R95). -/
def State.readS (s : State) (t : Nat) (f : RegField) : Gate (Word × State) :=
  (s.sound t (sreg f)).next fun _ =>
  let n := f.toNat % 32
  let core := coreOf t
  let c := s.core core
  if f.toNat < 32 then .go (if n = 0 then 0 else (s.thread t).s.get 0 n, s)
  else if n < 24 then .go (c.h.get 0 n, s)
  else if n < 28 then
    match c.portQ.get [] (n - 24) with
    | v :: rest => .go (v, s.setCore core { c with portQ := c.portQ.put (n - 24) rest })
    | [] => .wait .wsync (.portEntry (n - 24) false)
  else if n = 28 then s.readRecord t
  else if n = 29 then
    match s.claim t (2 ^ 64 - 1) with
    | some (i, s1) => .go (BitVec.ofNat 64 (entryAddress i), s1)
    | none => .wait .wsync .ringEntry
  else if n = 30 then .go (BitVec.ofNat 64 (s.engineStatus core), s)
  else .go (s.tick, s)

/-- The next unit of a bound register, popped: the register holds it from then on, and the binding ends after
the last unit (R211). A twin pair's binding stands in its leader, whose follower takes the unit too (R244). -/
def State.popStream (s : State) (t : Nat) (b : Binding) : Gate (VWord × State) :=
  match b.fetched with
  | (k, v) :: rest =>
    if k = b.next then
      let total := (b.cnt.foldl (· * ·) 1)
      let f : BitVec 6 := BitVec.ofNat 6 b.reg
      let s0 := if (s.thread t).twin then
          s.modThread (partner t) fun x => ({ x with v := x.v.put b.reg v } : Thread).clearLatches f
        else s
      let s1 := s0.modThread t fun x =>
        { (x.clearLatches f) with
                 v := x.v.put b.reg v,
                 bindings := if b.next + 1 < total
                   then x.bindings.map fun c => if c.reg = b.reg then { c with next := c.next + 1, fetched := rest } else c
                   else x.bindings.filter fun c => c.reg != b.reg }
      .go (v, s1.emit (.streamRefill t b.reg))
    else .wait .wmem (.streamUnit b.reg)
  | [] => .wait .wmem (.streamUnit b.reg)

/-- The value of a vector source field, with what reading it consumes (R158, R211). -/
def State.readV (s : State) (t : Nat) (f : RegField) : Gate (VWord × State) :=
  (s.sound t (vreg f)).next fun _ =>
  let n := f.toNat % 32
  let c := s.core (coreOf t)
  if f.toNat < 32 then
    match (s.thread t).bindings.find? (fun b => b.reg == n) with
    | none => .go ((s.thread t).v.get 0 n, s)
    | some b => s.popStream t b
  else if n < 28 then .go (c.w.get 0 n, s)
  else
    match c.portVQ.get [] (n - 28) with
    | v :: rest => .go (v, s.setCore (coreOf t) { c with portVQ := c.portVQ.put (n - 28) rest })
    | [] => .wait .wsync (.portEntry (n - 28) true)

/-- The old value of a scalar destination that the unit also reads: 0 for `s0` and for `h24` to `h31` (R96). -/
def State.oldS (s : State) (t : Nat) (f : RegField) : Word :=
  let n := f.toNat % 32
  if f.toNat < 32 then (if n = 0 then 0 else (s.thread t).s.get 0 n)
  else if n < 24 then (s.core (coreOf t)).h.get 0 n else 0

/-- The old value of a vector destination that the unit also reads: 0 for a port, a pop of a stream register
(R158, R211). -/
def State.oldV (s : State) (t : Nat) (f : RegField) : Gate (VWord × State) :=
  if 60 ≤ f.toNat then .go (0, s) else s.readV t f

/-- A vector source that an earlier field of the same unit may have read already: an own register is read, and
a stream popped, once (R159, R211). -/
def State.readVAgain (s : State) (t : Nat) (f : RegField) (earlier : List (RegField × VWord)) :
    Gate (VWord × State) :=
  match earlier.find? (fun p => p.1 == f && decide (f.toNat < 60)) with
  | some p => .go (p.2, s)
  | none => s.readV t f

/-! ### Destinations -/

/-- Pushes of a core toward a direction that have issued and are not yet performed. -/
def State.pushesPending (s : State) (core : Nat) (d : Dest) : Nat :=
  ((s.core core).pend.filter fun p => p.dest == d).length

/-- Pushes that divisions and special functions of a core's threads will make at their own ticks, whatever other threads push
meanwhile (R98, R176). -/
def State.pushesComing (s : State) (core : Nat) (d : Dest) : Nat :=
  ((List.range 16).filter fun i => match (s.thread (core * 16 + i)).wait with
    | .division f _ _ => destOf f == d
    | .special f _ _ _ => destOfV f == d
    | _ => false).length

def opposite (dir : Nat) : Nat := (dir + 2) % 4

/-- Room for one more push in the queue toward a direction, counting the pushes on their way (R22). -/
def State.roomS (s : State) (core dir : Nat) : Bool :=
  match neighbour core dir with
  | none => true
  | some c => decide (((s.core c).portQ.get [] (opposite dir)).length + s.pushesPending core (.port dir) +
      s.pushesComing core (.port dir) < 4)

def State.roomV (s : State) (core dir : Nat) : Bool :=
  match neighbour core dir with
  | none => true
  | some c => decide (((s.core c).portVQ.get [] (opposite dir)).length + s.pushesPending core (.portV dir) +
      s.pushesComing core (.portV dir) < 4)

/-- A port that a register names has room for a push, or it names none (R22). -/
def State.portRoom (s : State) (t : Nat) (r : Reg) : Bool :=
  match r.port with
  | none => true
  | some dir => if r.vec then s.roomV (coreOf t) dir else s.roomS (coreOf t) dir

/-- A value that thread `t` may release through `h29`: the TCM address of an entry it has claimed (R24), and not
already being released. -/
def State.mayRelease (s : State) (t : Nat) (v : Word) : Bool :=
  let c := s.core (coreOf t)
  c.entries.any (fun p => entryAddress p.1 == v.toNat && p.2.state == .claimed (slotOf t)) &&
    !(c.pend.any fun p => p.dest == .release && p.slot == slotOf t && p.value == v.setWidth 128)

/-- The checks a scalar destination meets before issue: room in a port's queue, the ring claim of `h29`. -/
def State.destS (s : State) (t : Nat) (d : RegField) (v : Word) : Gate Unit :=
  match (sreg d).port with
  | some dir => if s.roomS (coreOf t) dir then .go () else .wait .wsync (.portRoom dir false)
  | none => if d.toNat = 61 ∧ s.mayRelease t v = false then .trap .ring 0 else .go ()

def State.destV (s : State) (t : Nat) (d : RegField) : Gate Unit :=
  match (vreg d).port with
  | some dir => if s.roomV (coreOf t) dir then .go () else .wait .wsync (.portRoom dir true)
  | none => .go ()

/-- The scalar register write of a unit, `delay` ticks after its issue (R98). -/
def State.putS (s : State) (t : Nat) (d : RegField) (v : Word) (delay : Nat) : Gate State :=
  (s.destS t d v).next fun _ => .go (s.writeS t d v delay)

def State.putV (s : State) (t : Nat) (d : RegField) (v : VWord) (delay : Nat) : Gate State :=
  (s.destV t d).next fun _ => .go (s.writeV t d v delay)

/-! ### Units -/

/-- The oldest of a list of pending relaxed faults. -/
def oldestFault : List PendingFault → Option PendingFault
  | [] => none
  | p :: ps => match oldestFault ps with
    | none => some p
    | some q => if q.order < p.order then some q else some p

/-- A pending relaxed fault is taken at the unit, which does not execute; the others go to the record, as kind 1 (R139). -/
def State.takePending (s : State) (t : Nat) : State :=
  let x := s.thread t
  match oldestFault x.pendingFaults with
  | none => s
  | some p =>
    let s2 := s.reportPending t x.pc.toNat (x.pendingFaults.filter fun q => q.order != p.order)
    (s2.modThread t fun y => { y with pendingFaults := [] }).trapOf t p.cause p.addr p.pc

/-- A poisoned granule that a unit's own gate meets is a granule in error of its span (R380). -/
def State.foundBy (s : State) (c : Cause) (t : Nat) : State := if c = .poison then s.countFound (spanOf (coreOf t)) else s

/-- What becomes of thread `t` after the checks: the state after the unit's effect, a wait, a trap. -/
def State.after (s : State) (t : Nat) (g : Gate State) : State :=
  match g with
  | .go s1 => s1
  | .wait st c => s.hold t st (s.pinned t c)
  | .trap c a => (s.foundBy c t).trap t c a
  | .pending => s.takePending t
  | .kill n => s.modThread t fun x => { x with iss := { x.iss with ended := .poisoned n } }
  | .stop _ => s

/-- The outcome of a unit's checks and effect. An access of firmware to a local address that names nothing ends the model's run
(R436). -/
def State.finish (s : State) (t : Nat) (g : Gate State) : Out :=
  match g with
  | .stop a => .fault (.addressNamesNothing a)
  | g => .next (s.after t g)

/-- A unit of the current thread: guarded fields, then its checks and effect. -/
def State.unit (s : State) (rs : List Reg) (g : Gate State) : Out :=
  s.finish s.cur ((s.guardRegs s.cur rs).next fun _ => g)

/-- Two scalar sources, `a` before `b` (R95). -/
def State.read2 (s : State) (a b : RegField) : Gate (Word × Word × State) :=
  (s.readS s.cur a).next fun (x, s1) => (s1.readS s.cur b).next fun (y, s2) => .go (x, y, s2)

/-- A unit that writes a scalar register from one scalar source. -/
def State.unitS1 (s : State) (d a : RegField) (delay : Nat) (f : Word → Word) : Out :=
  s.unit [sreg a, sreg d] <| (s.readS s.cur a).next fun (x, s1) =>
    (s1.putS s.cur d (f x) delay).next fun s2 => .go (s2.complete s.cur)

/-- A unit that writes a scalar register from two scalar sources. -/
def State.unitS2 (s : State) (d a b : RegField) (delay : Nat) (f : Word → Word → Word) : Out :=
  s.unit [sreg a, sreg b, sreg d] <| (s.read2 a b).next fun (x, y, s1) =>
    (s1.putS s.cur d (f x y) delay).next fun s2 => .go (s2.complete s.cur)

/-! ### Segments and memory operands -/

/-- The right an access needs (R39). -/
inductive Right where
  | x | w | rd
deriving DecidableEq, Repr

def Seg.grants (g : Seg) (r : Right) : Bool :=
  match r with
  | .x => g.x
  | .w => g.w
  | .rd => g.rd

/-- The check of R40 for `n` bytes at `off` through a segment. -/
def Seg.admits (g : Seg) (r : Right) (off n : Nat) : Bool :=
  let addr := g.base.toNat + off
  g.grants r && decide (off + n ≤ g.length.toNat) &&
    (match g.space with
      | .tcm => decide (addr + n ≤ 2 ^ 16)
      | .deck => decide (addr + n ≤ 2 ^ 21)
      | .global => decide (addr + n ≤ 2 ^ 57)
      | .peer => decide (addr + n ≤ 2 ^ 57))

/-- The segment register that thread `t` names by number. -/
def State.segment (s : State) (t : Nat) (k : SegField) : Seg := (s.thread t).seg.get {} k.toNat

/-- Checks 6 and 7 of R114: rights, bounds and space, then alignment of base plus offset. -/
def Seg.check (g : Seg) (rights : List Right) (off : Word) (n : Nat) : Gate Nat :=
  if !rights.all (fun r => g.admits r off.toNat n) then .trap .seg off
  else if (g.base.toNat + off.toNat) % n ≠ 0 then .trap .align off
  else .go (g.base.toNat + off.toNat)

/-- The size and iteration step that `rep` adds to an offset (R68). -/
def State.stepOffset (s : State) (t n : Nat) : Word :=
  let x := s.thread t
  if x.iss.rep then BitVec.ofNat 64 (x.iss.iter * n) else 0

/-! ### Vector operand reads and latches (R247, R248) -/

/-- The vector-class fields that a unit reads, by the latch that serves each: d, a, b. -/
structure VReads where
  d : Option RegField := none
  a : Option RegField := none
  b : Option RegField := none
deriving DecidableEq, Repr

/-- A field that needs a read: not latched, no port, no stream register of the thread's own (R247). The binding of a twin pair
stands in its leader, so that the follower's field needs a read (DESIGN CHOICE, assumption 108). -/
def State.needsRead (s : State) (t : Nat) (l : Latch) (f : Option RegField) : Option RegField :=
  match f with
  | none => none
  | some r =>
    if (l.hold && l.reg == r) || decide (60 ≤ r.toNat) ||
        (decide (r.toNat < 32) && (s.thread t).bindings.any (fun b => b.reg == r.toNat)) then none
    else some r

/-- The bank that delivers a register: 0 to 5 of the thread's own file, 6 for the shared file (R27). -/
def bankOf (f : RegField) : Nat := if f.toNat < 32 then f.toNat % 6 else 6

/-- The registers read in one attempt, in field order d, a, b: one for each bank, each register once (R248). -/
def served : List RegField → List RegField → List RegField
  | [], got => got
  | f :: fs, got =>
    if got.contains f || got.any (fun g => bankOf g == bankOf f) then served fs got else served fs (got ++ [f])

/-- The value of a vector register that a read puts in a latch. -/
def State.latchValue (s : State) (t : Nat) (f : RegField) : VWord :=
  if f.toNat < 32 then (s.thread t).v.get 0 f.toNat else (s.core (coreOf t)).w.get 0 (f.toNat - 32)

/-- A latch whose field has been read. -/
def State.fillLatch (s : State) (t : Nat) (l : Latch) (f : Option RegField) (got : List RegField) : Latch :=
  match f with
  | some r => if got.contains r then { reg := r, hold := true, value := s.latchValue t r } else l
  | none => l

/-- The reads of an attempt: the state with the latches filled, and whether every needed field was served. -/
def State.attemptReads (s : State) (t : Nat) (v : VReads) : State × Bool :=
  let x := s.thread t
  let nd := s.needsRead t x.latchD v.d
  let na := s.needsRead t x.latchA v.a
  let nb := s.needsRead t x.latchB v.b
  let need := [nd, na, nb].filterMap id
  let got := served need []
  (s.setThread t { x with latchD := s.fillLatch t x.latchD nd got, latchA := s.fillLatch t x.latchA na got,
                          latchB := s.fillLatch t x.latchB nb got },
    need.all fun f => got.contains f)

end Sys2Proof.Machine
end

