-- ==== Sys2Proof/Machine/Causeway.lean ====
section
/-! DEFINITION. The causeway (R414 to R418, R441): routes, ports, the bytes of a flit, the transmitter with its replay
buffer and lane injectors, the receiver. -/

namespace Sys2Proof.Machine

/-! ### Routes (R416, R441) -/

def State.port (s : State) (p : Nat) : Port := s.ports.get {} p
def State.modPort (s : State) (p : Nat) (f : Port → Port) : State := { s with ports := s.ports.put p (f (s.port p)) }

/-- The up ports of a device's route mask. -/
def State.portsTo (s : State) (dev : Nat) : List Nat :=
  (List.range 12).filter fun p => (s.routes.get 0 dev).getLsbD p && (s.port p).up

/-- A device is in the domain: it has not left it, and an up port reaches it. -/
def State.reaches (s : State) (dev : Nat) : Bool := !s.gone.contains dev && !(s.portsTo dev).isEmpty

/-- The port over which flits for a device that stood at a port that went down still have to leave, before any later one (R416). -/
def State.movedTo (s : State) (dev : Nat) : Option Nat :=
  (s.portsTo dev).find? fun p => (s.port p).backlog.any fun f => f.moved && f.dst == dev

/-- The port that carries what is hashed to `h` for a device: one of the mask's ports, another up port where that one is
down, that which has flits of a port gone down to send first. -/
def State.routePort (s : State) (dev h : Nat) : Option Nat :=
  let mask := (List.range 12).filter fun p => (s.routes.get 0 dev).getLsbD p
  match s.movedTo dev with
  | some p => some p
  | none =>
    match mask[Config.routeHash h % mask.length]? with
    | none => none
    | some p => if (s.port p).up then some p else (s.portsTo dev).head?

/-! ### The bytes of a flit (R414) -/

/-- CRC-32C, bit by bit from the lowest: the polynomial 0x1EDC6F41 (PRESUMED, assumption 126). -/
def crcBit (c : BitVec 32) : BitVec 32 := if c.getLsbD 0 then (c >>> 1) ^^^ 0x82F63B78 else c >>> 1
def crcByte (c : BitVec 32) (b : Byte) : BitVec 32 := (List.range 8).foldl (fun c _ => crcBit c) (c ^^^ b.setWidth 32)
def crc32c (bs : List Byte) : BitVec 32 := ~~~bs.foldl crcByte (BitVec.allOnes 32)

/-- The payload, the sequence number with the type, the CRC. -/
def Flit.framed (f : Flit) : List Byte :=
  let body := (f.payload ++ List.replicate 58 0).take 58 ++ toBytesLE (f.seq % 4096 + 4096 * f.typ) 2
  body ++ toBytesLE (crc32c body).toNat 4

/-- One bit of some bytes inverted. -/
def flipBit (bs : List Byte) (n : Nat) : List Byte := bs.set (n / 8) (bs.getD (n / 8) 0 ^^^ ((1 : Byte) <<< (n % 8)))

/-- The 64 bytes on the wire. -/
def Flit.bytes (f : Flit) : List Byte := f.flipped.foldl flipBit f.framed

/-- What a port receives as 64 bytes. -/
def flitIn (port : Nat) (bs : List Byte) : Instr :=
  let w := ofBytesLE ((bs.drop 58).take 2)
  .flitReceive port (w % 4096) (w / 4096) (ofBytesLE (bs.drop 60) == (crc32c (bs.take 60)).toNat) (bs.take 58)

/-! ### The transmitter (R415, R417, R418) -/

/-- What an injector that fires does: its mode, its delay, its bit of the lane share. -/
structure Injection where
  mode : Nat
  delay : Nat
  bit : Nat
deriving DecidableEq, Repr

/-- One lane's injector at a flit: the word after it, and what it does to the flit when it fires. -/
def injectLane (w : Word) : Word × Option Injection :=
  let x := w.toNat
  if !bitAt x 63 then (w, none)
  else if field x 32 20 = 1 then
    (BitVec.ofNat 64 (x - 2 ^ 63 - 2 ^ 32), some { mode := field x 61 2, delay := field x 16 16, bit := field x 0 6 })
  else (BitVec.ofNat 64 (x - 2 ^ 32), none)

/-- Every lane's injector at a flit: the words, and what fired, its bit counted within the flit, of which lane `L` has the bytes
from 8 · L on (R414). -/
def injectFlit (m : Tab Word) : Tab Word × List Injection :=
  m.foldr (fun (p : Nat × Word) (acc : Tab Word × List Injection) =>
    let (w, f) := injectLane p.2
    ((p.1, w) :: acc.1, (f.map fun i => { i with bit := 64 * p.1 + i.bit }).toList ++ acc.2)) ([], [])

/-- The tick at which a port's last held flit leaves. -/
def Port.heldUntil (x : Port) : Nat := (x.delayed.getLast?.map (·.1)).getD 0

/-- A flit transmitted by a port that carries flits: through the injectors, onto the wire, or behind a delay, its own or that of
the flits before it. -/
def State.transmit (s : State) (p : Nat) (f : Flit) : State :=
  let x := s.port p
  let (inj, fired) := injectFlit x.injectors
  let dropped := fired.any fun q => q.mode == 1
  let g : Flit := { f with flipped := f.flipped ++ (fired.filter fun q => q.mode == 0).map (·.bit) }
  let delay := (fired.filter fun q => q.mode == 2).foldl (fun n q => max n q.delay) 0
  let x1 : Port := { x with injectors := inj, sent := x.sent + 1 }
  if dropped then s.modPort p fun _ => x1
  else if delay = 0 ∧ x.delayed = [] then s.modPort p fun _ => { x1 with wire := x1.wire ++ [g] }
  else
    let leaves := max x.heldUntil (s.now + delay)
    (s.modPort p fun _ => { x1 with delayed := x1.delayed ++ [(leaves, g)] }).later leaves (.injectedDelayExpiry p)

/-- A port carries flits. -/
def Port.open_ (x : Port) : Bool := x.up && !x.training

/-- Data flits leave the backlog while the replay buffer holds fewer than 512. -/
def State.pushData (s : State) (p : Nat) : Nat → State
  | 0 => s
  | n + 1 =>
    let x := s.port p
    match x.backlog with
    | [] => s
    | f :: fs =>
      if !x.open_ || decide (512 ≤ x.replay.length) then s
      else
        let g : Flit := { f with seq := x.txSeq }
        ((s.modPort p fun y => { y with backlog := fs, txSeq := (y.txSeq + 1) % 4096, replay := y.replay ++ [g] }).transmit p
          g).pushData p n

/-- A data flit for a device over a port. -/
def State.sendData (s : State) (p : Nat) (f : Flit) : State :=
  (s.modPort p fun x => { x with backlog := x.backlog ++ [f] }).pushData p 512

/-- What a request or message for another device sends: a data flit over the port that its hash picks. -/
def State.sendOver (s : State) (dev h : Nat) (note : Option Message) : State :=
  match s.routePort dev h with
  | none => s
  | some p => s.sendData p { typ := 0, payload := Config.flitPayload (s.port p).sent dev, dst := dev, note := note }
def State.overCauseway (s : State) (dev h : Nat) : State := s.sendOver dev h none

/-- The core and device that a message's header names as its sender. -/
def Message.sender (m : Message) : Nat := m.hdr.toNat / 2 ^ 16 % 2 ^ 24

/-- A number of 12 bits in the first payload bytes of an ack or nak (R414). -/
def named (n : Nat) : List Byte := toBytesLE n 2

/-- An ack or a nak. -/
def State.sendControl (s : State) (p typ n : Nat) : State :=
  if (s.port p).open_ then s.transmit p { typ := typ, payload := named n } else s

/-! ### The receiver (R415) -/

/-- A discarded flit: one nak for each gap. -/
def State.discardFlit (s : State) (p : Nat) : State :=
  let x := s.port p
  if x.gap then s
  else (s.modPort p fun y => { y with gap := true, naks := y.naks + 1 }).sendControl p 3 x.rxSeq

/-- The cumulative acknowledgement of what has been accepted. -/
def State.acknowledge (s : State) (p : Nat) : State :=
  let x := s.port p
  if x.unacked = 0 || !x.open_ then s
  else (s.modPort p fun y => { y with unacked := 0 }).sendControl p 2 ((x.rxSeq + 4095) % 4096)

/-- ACK_TIMER: 256 ticks after an accepted flit, an acknowledgement at the latest. -/
def execAckTimer (port : Nat) (s : State) : Out := .next (s.acknowledge port)

/-! ### Acknowledgements and replays (R415) -/

/-- What follows flit `n` in the replay buffer, if it is there. -/
def afterFlit (n : Nat) : List Flit → Option (List Flit)
  | [] => none
  | f :: fs => if f.seq = n then some fs else afterFlit n fs

/-- The replay buffer from flit `n` on. -/
def fromFlit (n : Nat) : List Flit → List Flit
  | [] => []
  | f :: fs => if f.seq = n then f :: fs else fromFlit n fs

/-- No flit for a device stands unacknowledged. -/
def State.quiet (s : State) (dev : Nat) : Bool :=
  s.ports.all fun (p : Nat × Port) => (p.2.replay ++ p.2.backlog).all fun f => f.dst != dev

/-- Route masks whose turn has come take effect (R441). -/
def State.settleRoutes (s : State) : State :=
  let (ready, rest) := s.pendingRoutes.partition fun (q : Nat × BitVec 12) => s.quiet q.1
  { s with routes := ready.foldl (fun (m : Tab (BitVec 12)) (q : Nat × BitVec 12) => m.put q.1 q.2) s.routes, pendingRoutes := rest }

/-- The messages of acknowledged flits leave the network's buffers. -/
def State.arrived (s : State) (fs : List Flit) : State :=
  { s with flight := (fs.filterMap Flit.note).foldl List.erase s.flight }

/-- Flits sent again, each counted. -/
def State.replayFlits (s : State) (p : Nat) (fs : List Flit) : State :=
  fs.foldl (fun s f => (s.transmit p f).modPort p fun y =>
    { y with replays := y.replays + 1,
             replay := y.replay.map fun g => if g.seq = f.seq then { g with again := g.again + 1 } else g }) s

/-- NAK: every unacknowledged flit from the named one on is sent again; after 8 replays of one flit the port retrains. -/
def execNak (port seq : Nat) (s : State) : Out :=
  let x := s.port port
  let fs := fromFlit seq x.replay
  if !x.open_ || fs.isEmpty then .next s
  else
    let s1 := s.replayFlits port fs
    .next (if (s1.port port).replay.any fun f => decide (8 ≤ f.again) then s1.emit (.retrain port) else s1)

/-- RETRAIN: the port carries no flits until the retrain ends, after at most 2^18 ticks. -/
def execRetrain (port : Nat) (s : State) : Out :=
  let x := s.port port
  if !x.open_ then .next s
  else .next ((s.modPort port fun y => { y with training := true, retrains := y.retrains + 1
                                                replay := y.replay.map fun f => { f with again := 0 } }).later
    (s.now + 2 ^ 18) (.retrainCompletion port (Config.trainOk port (x.retrains + 1))))

/-- RETRAIN_COMPLETION: the port carries flits again, sends what is unacknowledged and acknowledges what it has accepted, or the
retrain has failed: the fourth failure in a row brings the port down. -/
def execRetrainCompletion (port : Nat) (ok : Bool) (s : State) : Out :=
  let x := s.port port
  if !x.training || !x.up then .next s
  else if ok then
    .next ((((s.modPort port fun y => { y with training := false, failedTrains := 0 }).replayFlits port x.replay).pushData port
      512).acknowledge port)
  else if 4 ≤ x.failedTrains + 1 then
    .next ((s.modPort port fun y => { y with training := false, failedTrains := y.failedTrains + 1 }).emit (.portDown port))
  else
    .next ((s.modPort port fun y => { y with training := false, failedTrains := y.failedTrains + 1 }).emit (.retrain port))

/-! ### Injectors written by firmware (R417) -/

/-- LANE_INJECTOR_WRITE: ignored with a reserved bit set, mode 11, an armed count of 0, or a delay of 0 in mode 10. -/
def execLaneInjectorWrite (port lane : Nat) (w : Word) (s : State) : Out :=
  let x := w.toNat
  if field x 52 9 ≠ 0 ∨ field x 6 10 ≠ 0 ∨ field x 61 2 = 3 ∨ (bitAt x 63 = true ∧ field x 32 20 = 0) ∨
      (field x 61 2 = 2 ∧ field x 16 16 = 0) then .next s
  else .next (s.modPort port fun y => { y with injectors := y.injectors.put lane w })

/-- INJECTED_DELAY_EXPIRY: the held flit and the later ones that no delay of their own holds leave. -/
def execInjectedDelayExpiry (port : Nat) (s : State) : Out :=
  let due (d : Nat × Flit) : Bool := decide (d.1 ≤ s.now)
  .next (s.modPort port fun y =>
    { y with wire := y.wire ++ (y.delayed.takeWhile due).map (·.2), delayed := y.delayed.dropWhile due })

end Sys2Proof.Machine
end

