-- ==== Sys2Proof/Machine/Journal.lean ====
section
/-! DEFINITION. What proof runs rest on: SipHash-2-4 (R396, R402), the digest of a run (R402) and the end
of a run whose journal does not serve it (R405). -/

namespace Sys2Proof.Machine

/-! ### SipHash-2-4 -/

structure Sip where
  a : Word
  b : Word
  c : Word
  d : Word
deriving DecidableEq, Repr

def Sip.round (v : Sip) : Sip :=
  let a := v.a + v.b
  let b := v.b.rotateLeft 13 ^^^ a
  let a := a.rotateLeft 32
  let c := v.c + v.d
  let d := v.d.rotateLeft 16 ^^^ c
  let a := a + d
  let d := d.rotateLeft 21 ^^^ a
  let c := c + b
  let b := b.rotateLeft 17 ^^^ c
  ⟨a, b, c.rotateLeft 32, d⟩

/-- One 64-bit word of the message. -/
def Sip.absorb (v : Sip) (m : Word) : Sip :=
  let w := ({ v with d := v.d ^^^ m } : Sip).round.round
  { w with a := w.a ^^^ m }

/-- SipHash-2-4 of the 16 bytes whose doublewords are `lo` and `hi`. -/
def sipHash (key : BitVec 128) (lo hi : Word) : Word :=
  let k0 : Word := key.setWidth 64
  let k1 : Word := (key >>> 64).setWidth 64
  let v : Sip := ⟨k0 ^^^ 0x736f6d6570736575, k1 ^^^ 0x646f72616e646f6d, k0 ^^^ 0x6c7967656e657261,
    k1 ^^^ 0x7465646279746573⟩
  let w := ((v.absorb lo).absorb hi).absorb (BitVec.ofNat 64 (16 * 2 ^ 56))
  let z := ({ w with c := w.c ^^^ 0xff } : Sip).round.round.round.round
  z.a ^^^ z.b ^^^ z.c ^^^ z.d

/-! ### The digest (R402) -/

/-- A write tuple enters the digest of a crew's run. -/
def State.digestTuple (s : State) (crew : Nat) (lo hi : Word) : State :=
  if (s.crewOf crew).run = 0 then s
  else s.modCrew crew fun c =>
    { c with digest := { c.digest with lo := c.digest.lo + sipHash s.k1 lo hi,
                                       hi := c.digest.hi + sipHash s.k2 lo hi } }

/-- The width code of a piece of 1, 2 or 4 bytes. -/
def pieceCode (w : Nat) : Nat := if w = 1 then 0 else if w = 2 then 1 else 2

/-- The pieces of a write of `n` pieces of `w` bytes at `dva`. -/
def State.digestPieces (s : State) (crew dva w v : Nat) : Nat → State
  | 0 => s
  | n + 1 =>
    (s.digestTuple crew (BitVec.ofNat 64 (pieceCode w * 2 ^ 57 + dva % 2 ^ 57)) (BitVec.ofNat 64 (v % 2 ^ (8 * w)))).digestPieces
      crew (dva + w) w (v / 2 ^ (8 * w)) n

/-- A write of `n` bytes at `dva` in the digest. -/
def State.digestWrite (s : State) (crew dva n v : Nat) : State :=
  if n < 4 then s.digestPieces crew dva n v 1 else s.digestPieces crew dva 4 v (n / 4)

/-- The payload of a message in the digest: doubleword `j` and those after it. -/
def State.digestPayload (s : State) (crew dev core cls tag j : Nat) : List Word → State
  | [] => s
  | w :: ws =>
    (s.digestTuple crew (BitVec.ofNat 64 (2 ^ 63 + j * 2 ^ 59 + dev * 2 ^ 51 + core * 2 ^ 38 + cls * 2 ^ 32 + tag * 2 ^ 8))
      w).digestPayload crew dev core cls tag (j + 1) ws

/-- A run without a digest: the threads of its crew, but for one, stop at their next boundaries (R405). -/
def State.runLost (s : State) (crew : Nat) (except : Option Nat) : State :=
  let s1 := s.modCrew crew fun c => { c with digest := { c.digest with none := true } }
  { s1 with threads := s1.threads.map fun (p : Nat × Thread) =>
    if p.2.crewId = crew ∧ p.2.live = true ∧ some p.1 ≠ except then (p.1, { p.2 with stopReq := true }) else p }

/-- A thread of a proof run that finds no entry, or one of another kind, ends at its unit; its crew's other threads
stop at their next boundaries and the run has no digest (R405). -/
def State.journalLost (s : State) (t : Nat) : State := (s.runLost (s.thread t).crewId (some t)).freeSlot t

end Sys2Proof.Machine
end

