-- ==== Sys2Proof/Machine/Access.lean ====
section
/-! DEFINITION. The life of an access (R114 to R123, R126, R135 to R139): its request, the translation at the cluster
port (R341 to R343), what a window does with it (R320, R329), its performance on TCM, deck and OPEN pages, its
refusal (R376), and what its reply does to its thread. The events of the homes of ONCE blocks are in Home. -/

namespace Sys2Proof.Machine

/-! ### Requests -/

/-- A request answered with a value; its reply is on its way. -/
def State.answer (s : State) (r : Nat) (v : VWord) : State :=
  (s.modReq r fun q => { q with status := .replied, result := v }).emit ((s.req r).reply r)

/-- An error response to a thread: an entry of kind 7, and the cause in the reply (R376); another device's thread is told there
(R266). -/
def State.refuse (s : State) (r : Nat) (c : Cause) (addr : Nat) : State :=
  let q := s.req r
  let s1 := if q.from_.isSome then s else s.reportThread q.thread 7 c addr q.pc.toNat 0
  (s1.modReq r fun q => { q with status := .refused c (BitVec.ofNat 64 addr) }).emit (q.reply r)

/-- The name under which a relaxed access awaits its register. -/
def Req.key (q : Req) : Option Nat :=
  match q.dest with
  | none => none
  | some d => if q.vec then some (d.toNat + 64) else if d = 0 then none else some d.toNat

/-- The value that a load writes: sign- or zero-extended (R116). -/
def loadValue (signExt : Bool) (n : Nat) (v : Nat) : Word :=
  if signExt then BitVec.ofInt 64 (signed (8 * n) v) else BitVec.ofNat 64 v

/-- The value that an access writes to its scalar destination (R116, R127, R134). -/
def Req.scalar (q : Req) : Word :=
  match q.kind with
  | .load sg => loadValue sg q.n q.result.toNat
  | .amo _ => if q.n = 4 then (q.result.setWidth 32).signExtend 64 else q.result.setWidth 64
  | _ => q.result.setWidth 64

/-- The entry that an answered access leaves in a journal: of a read of a ONCE block its block and generation (R399). -/
def Req.entry (q : Req) : JEntry :=
  let read : JEntry := match q.ref with
    | some (b, g) => .reference b g
    | none => .loadValue q.result q.n
  match q.kind with
  | .load _ => read
  | .stream _ _ => read
  | .amo _ => .atomicResult (q.result.setWidth 64)
  | _ => .blockResult (q.result.setWidth 64)

/-- An access that a journal records (R399). -/
def ReqKind.journaled : ReqKind → Bool
  | .load _ => true
  | .stream _ _ => true
  | .amo _ => true
  | .bhold => true
  | .bpoll => true
  | .bgen => true
  | .bfin => true
  | .store => false
  | .bwait => false
  | .barm => false
  | .bclr => false
  | .bclrG => false

/-- What an atomic writes, if it writes (R134). -/
def amoNew (op : AmoOp) (n : Nat) (old x e : Nat) : Option Nat :=
  let w := 8 * n
  let x := x % 2 ^ w
  match op with
  | .add => some ((old + x) % 2 ^ w)
  | .and => some (old &&& x)
  | .or => some (old ||| x)
  | .xor => some (old ^^^ x)
  | .min => some (if signed w x < signed w old then x else old)
  | .max => some (if signed w old < signed w x then x else old)
  | .minu => some (if x < old then x else old)
  | .maxu => some (if old < x then x else old)
  | .swap => some x
  | .cas => if old = e % 2 ^ w then some x else none
  | .fadd => some (atomicFadd old x)
  | .inc => some (if x ≤ old then 0 else (old + 1) % 2 ^ w)

/-- The words that a mask names are zeroed: the pieces that enter a digest (R402). -/
def State.digestZeros (s : State) (crew dva : Nat) (m : Nat) : Nat → State
  | 0 => s
  | n + 1 => (if bitAt m (63 - n) then s.digestWrite crew (dva + 4 * (63 - n)) 4 0 else s).digestZeros crew dva m n

/-- What an answered access enters into its run's digest (R402). -/
def State.digestReq (s : State) (q : Req) : State :=
  if q.space = .tcm ∨ q.space = .deck then s
  else match q.kind with
    | .store => s.digestWrite q.crewId q.dva.toNat q.n q.data.toNat
    | .amo op =>
      match amoNew op q.n q.result.toNat q.data.toNat q.expect.toNat with
      | some v => s.digestWrite q.crewId q.dva.toNat q.n v
      | none => s
    | .bfin => s.digestZeros q.crewId q.dva.toNat q.result.toNat 64
    | _ => s

/-- A register write made for the unit of a request, whatever unit its thread executes now. -/
def State.writeFor (s : State) (t : Nat) (q : Req) (d : RegField) : State :=
  let m := (s.thread t).iss.major
  let s1 := s.modThread t fun x => { x with iss := { x.iss with major := q.major } }
  let s2 := if q.vec then s1.writeV t d q.result 0 else s1.writeS t d q.scalar 0
  s2.modThread t fun x => { x with iss := { x.iss with major := m } }

/-- A relaxed access that has returned: one fewer outstanding, its register no longer awaited. -/
def Thread.returnedRelaxed (x : Thread) (q : Req) : Thread :=
  { x with rlxn := x.rlxn - 1,
           awaited := match q.key with
             | some k => x.awaited.erase k
             | none => x.awaited }

/-- A fault of a relaxed access becomes pending (R139). -/
def Thread.withPending (x : Thread) (q : Req) (r : Nat) (c : Cause) (addr : Word) : Thread :=
  { x with pendingFaults := x.pendingFaults ++ [{ key := q.key, order := r, pc := q.pc, cause := c, addr := addr }] }

/-- The latest byte that a twin pair holds back for an address of a space; `place` gives where an address of the segment's
space lies. -/
def heldByte (place : Nat → Nat) (segs : Tab Seg) (sp : Space) (a : Nat) (hs : List HeldStore) (b : Option Byte) :
    Option Byte :=
  hs.foldl (fun b h =>
    let g := segs.get {} h.seg.toNat
    let start := place (g.base.toNat + h.off.toNat)
    if g.space = sp ∧ start ≤ a ∧ a < start + h.data.length then h.data[a - start]? else b) b

/-- Where a thread's address of a space lies, so that two names of the same bytes meet: the physical address of a mapped DVA,
otherwise the address itself (R244, R289). -/
def State.byteHome (s : State) (launch : Nat) (sp : Space) (a : Nat) : Nat :=
  if sp = .tcm ∨ sp = .deck then a
  else match s.walk (s.launchOf launch).asid a with
    | some l => l.phys a
    | none => a

/-- The bytes that a twin pair holds back of `n` bytes at an address of a space, as they stand when a load is made (R244). -/
def State.heldBytes (s : State) (t : Nat) (sp : Space) (addr n : Nat) : List (Option Byte) :=
  let x := s.thread t
  let a := s.byteHome x.launch sp addr
  (List.range n).map fun i => heldByte (s.byteHome x.launch sp) x.seg sp (a + i) x.pair.held none

/-- What a load of a twin pair reads: held bytes from the stores that were held when it was made (R244, R289). -/
def Req.withHeld (q : Req) (v : VWord) : VWord :=
  if q.twin then
    BitVec.ofNat 128 (ofBytesLE (((List.range q.n).zip (toBytesLE v.toNat q.n)).map fun (p : Nat × Byte) =>
      (q.overlay.getD p.1 none).getD p.2))
  else v

/-- The answer of an access written for its thread, unless the thread has been killed (R386); a twin pair's follower receives what
its leader's load returned (R244). -/
def State.deliverTo (s : State) (q : Req) : State :=
  if (s.thread q.thread).state = .killed then s
  else match q.dest with
  | none => s
  | some d =>
    let q := { q with result := q.withHeld q.result }
    let s1 := s.writeFor q.thread q d
    if q.twin then s1.writeFor (partner q.thread) q d else s1

/-- An access's thread, and a twin follower that waits with it, go on; a held store that a comparison performs is
followed by the next one (R412). -/
def State.finishFor (s : State) (q : Req) : State :=
  let x := s.thread q.thread
  if x.wait = .retry .twinCompare then s.emit (.twinCompare q.thread)
  else
  let s1 := s.complete q.thread
  if q.twin then s1.complete (partner q.thread) else s1

/-- A port that an answered access pushes to has room, or it names none. -/
def State.replyRoom (s : State) (q : Req) : Bool :=
  match q.dest with
  | none => true
  | some d => s.portRoom q.thread ⟨q.vec, d⟩

/-- A load into `h29` releases only an entry the thread has claimed (R24). -/
def State.replyRing (s : State) (q : Req) : Bool :=
  match q.dest with
  | none => true
  | some d => q.vec || d.toNat != 61 || s.mayRelease q.thread q.scalar

/-- The reply to another device's access travels there in a data flit (R267, R279). -/
def State.settlePeer (s : State) (r : Nat) (dev : Nat) : State :=
  let q := s.req r
  match q.status with
  | .refused _ _ => (s.dropReq r).overCauseway dev (q.phys % 2 ^ 48 / 256)
  | .replied => (s.dropReq r).overCauseway dev (q.phys % 2 ^ 48 / 256)
  | _ => s

/-- What the reply of an answered or refused access does (R117, R118, R137 to R139). The value that a relaxed atomic gives `h29`
releases the entry that it names, or, where the thread has claimed none there, is dropped without RING (DESIGN CHOICE, assumption
104). -/
def State.settle (s : State) (r : Nat) : State :=
  let q := s.req r
  match q.from_ with
  | some p => s.settlePeer r p.dev.toNat
  | none =>
  match q.status with
  | .refused c a =>
    let s1 := s.dropReq r
    if q.relaxed then s1.modThread q.thread fun x => (x.returnedRelaxed q).withPending q r c a
    else s1.trap q.thread c a
  | .replied =>
    if !s.replyRoom q then s.modReq r fun q => { q with arrived := true }
    else
      let s0 := match q.jslot with
        | some p => s.journalSet (s.streamKey q.thread) (spanOfCluster q.cluster) p q.entry
        | none => s
      let s1 := (s0.digestReq q).dropReq r
      if q.relaxed then (s1.deliverTo q).modThread q.thread fun x => x.returnedRelaxed q
      else if !s.replyRing q then s1.trap q.thread .ring 0
      else (s1.deliverTo q).finishFor q
  | _ => s

/-! ### Translation (R341 to R343, R381) -/

/-- The page size in bits of a TLB entry's level (R341). -/
def levelBits (level : Nat) : Nat := if level = 2 then 28 else if level = 3 then 21 else 16
def bitsLevel (bits : Nat) : Nat := if bits = 28 then 2 else if bits = 21 then 3 else 4

def TlbEntry.covers (e : TlbEntry) (asid dva : Nat) : Bool :=
  e.asid == asid && e.tag == dva / 2 ^ levelBits e.level

/-- A leaf as the word it was read from. -/
def Leaf.word (l : Leaf) : Nat :=
  l.dev * 2 ^ 56 + l.addr + l.key * 2 ^ 6 + l.nospec.toNat * 2 ^ 5 + l.once.toNat * 2 ^ 4 + l.w.toNat * 2 ^ 3 +
    l.rd.toNat * 2 ^ 2 + 3

def TlbEntry.toLeaf (e : TlbEntry) : Leaf := leafOf e.leaf.toNat (levelBits e.level)

def entryOf (asid dva : Nat) (l : Leaf) : TlbEntry :=
  { asid := asid, level := bitsLevel l.bits, tag := dva / 2 ^ l.bits, leaf := BitVec.ofNat 64 l.word }

/-- A translation entered in the L1 TLB of a cluster port, which holds 128 entries, and in a span's last-level TLB, which
holds 4,096 (R8). -/
def State.fillTlb (s : State) (cluster asid dva : Nat) (l : Leaf) : State :=
  let e := entryOf asid dva l
  let span := spanOfCluster cluster
  { s with l1 := s.l1.put cluster ((e :: (s.l1.get [] cluster).erase e).take 128),
           lltlb := s.lltlb.put span ((e :: (s.lltlb.get [] span).erase e).take 4096) }

/-- The lookup of both TLBs (R342). -/
def State.tlbFind (s : State) (cluster asid dva : Nat) : Option Leaf :=
  match (s.l1.get [] cluster).find? (·.covers asid dva) with
  | some e => some e.toLeaf
  | none => ((s.lltlb.get [] (spanOfCluster cluster)).find? (·.covers asid dva)).map TlbEntry.toLeaf

/-- The address space of a thread's launch. -/
def State.asidOf (s : State) (launch : Nat) : Nat := (s.launchOf launch).asid

/-- A free entry of a span's miss buffer. -/
def State.freeMiss (s : State) (span : Nat) (i : Nat) : Nat → Option Nat
  | 0 => none
  | n + 1 => if (s.misses.find (span * 4096 + i)).isNone then some i else s.freeMiss span (i + 1) n

/-- The cluster and the launch of what joins a miss-buffer entry. -/
def State.joinedCluster (s : State) : Joined → Nat
  | .req r => (s.req r).cluster
  | .copy c _ => clusterOf (s.copies.get {} c).core
  | .fetch t _ => clusterOf (coreOf t)
  | .winFetch cluster _ _ => cluster
  | .drain core _ => clusterOf core

def State.joinedLaunch (s : State) : Joined → Nat
  | .req r => (s.req r).launch
  | .copy c _ => (s.copies.get {} c).launch
  | .fetch t _ => (s.thread t).launch
  | .winFetch cluster win _ => (s.windows.get {} (8 * cluster + win)).launch
  | .drain core _ => match (s.core core).mxRun with
    | some p => (s.thread p.1.thread).launch
    | none => 0

/-- The thread that waits with what joins a miss-buffer entry. -/
def State.joinedThread (s : State) : Joined → Option Nat
  | .req r => some (s.req r).thread
  | .copy _ _ => none
  | .fetch t _ => some t
  | .winFetch cluster win _ => (s.windows.get {} (8 * cluster + win)).flushes.head?.bind (·.thread)
  | .drain core _ => (s.core core).mxRun.map (·.1.thread)

/-- The misses that a cluster's port has outstanding: its accesses that await a walk (R343). Those that await an answer are no
longer counted (DEDUCED, assumption 134). -/
def State.outstanding (s : State) (cluster : Nat) : Nat :=
  ((s.misses.filter fun (p : Nat × Miss) => !p.2.answering).flatMap fun (p : Nat × Miss) =>
    p.2.joined.filter fun j => s.joinedCluster j == cluster).length

/-- A miss of a cluster finds room at its port and in its span's buffer. -/
def State.missRoom (s : State) (cluster : Nat) : Bool :=
  decide (s.outstanding cluster < 32) && (s.freeMiss (spanOfCluster cluster) 0 4096).isSome

/-- The joined access of a thread's instruction fetch, or of its engine unit: under the park number that the thread has once it
is parked (R381). -/
def State.fetchJoin (s : State) (t : Nat) : Joined :=
  .fetch t (if (s.thread t).state = .pfault then (s.thread t).park else (s.thread t).park + 1)

/-- One access joins an entry under one name, whatever its address. -/
def Joined.same : Joined → Joined → Bool
  | .copy c _, .copy d _ => c == d
  | .drain c _, .drain d _ => c == d
  | a, b => a == b

/-- An access taken out of the miss-buffer entry that it joined. -/
def State.leaveMiss (s : State) (j : Joined) : State :=
  { s with misses := s.misses.map fun (p : Nat × Miss) => (p.1, { p.2 with joined := p.2.joined.filter fun x => !x.same j }) }

/-- A thread enters PFAULT: its park number advances (R381), and a `rep` unit leaves its progress in `repc` (R143). -/
def State.enterFault (s : State) (t : Nat) : State :=
  s.modThread t fun x => { x with state := .pfault, park := x.park + 1, faultSince := s.now, repc := x.progress }

/-- What joins a miss entry that awaits an answer parks (R120, R138, R199). -/
def State.parkJoined (s : State) : Joined → State
  | .req r =>
    let q := s.req r
    let s1 := s.modReq r fun q => { q with status := .missed, park := (s.thread q.thread).park + 1 }
    if q.relaxed then s1 else s1.enterFault q.thread
  | .fetch t _ => s.enterFault t
  | .copy c _ =>
    match s.copies.find c with
    | some x => { s with copies := s.copies.put c { x with heldOn := some (2 ^ 62) } }
    | none => s
  | .winFetch _ _ _ => s
  | .drain _ _ => s

/-- The kmask bit of a kind of access (R381): 0 read, 1 write, 2 fetch, 3 engine. -/
def kindBit (k : Nat) : BitVec 4 := 1 <<< k

/-- An access joins the miss buffer (R343): an entry for its pair of address space and page, or a new one whose
walk begins; none where the buffer, or the cluster port's 32 misses, leave no room. -/
def State.joinMiss (s : State) (cluster asid dva k : Nat) (j : Joined) : Option State :=
  let span := spanOfCluster cluster
  let full := decide (32 ≤ s.outstanding cluster)
  match s.misses.find? fun (p : Nat × Miss) => p.1 / 4096 == span && p.2.asid == asid && p.2.page == dva / 2 ^ 16 with
  | some p =>
    if p.2.joined.any fun x => x.same j then some s
    else if full && !p.2.answering then none
    else
      let m : Miss := { p.2 with joined := p.2.joined ++ [j], kmask := p.2.kmask ||| kindBit k }
      let s1 := { s with misses := s.misses.put p.1 m }
      some (if p.2.answering then s1.parkJoined j else s1)
  | none =>
    if full then none
    else match s.freeMiss span 0 4096 with
      | none => none
      | some i =>
        let m : Miss := { asid := asid, page := dva / 2 ^ 16, dva := BitVec.ofNat 57 dva, launch := s.joinedLaunch j,
                          joined := [j], kmask := kindBit k, tick := s.now }
        some (({ s with misses := s.misses.put (span * 4096 + i) m }).emit (.translationWalk span i))

/-- The key ID of the page of a DVA is live: ID 0, and what R438 leaves LIVE; another device's page has the ID that its home
gives it, and the requester's leaf names only the page (R266). -/
def State.keyLive (s : State) (l : Leaf) (dva : Nat) : Bool :=
  if l.dev = s.dev.toNat then l.key == 0 || (s.keys.get {} l.key).state == .live
  else Config.peerKeyLive (l.phys dva / 2 ^ 16) s.now

/-- The presence code of R42 that a peer's home gives (R266). -/
def peerPresence (b now : Nat) : Presence :=
  match Config.peerPresence b now % 4 with
  | 0 => .empty
  | 1 => .full
  | 2 => .deferred
  | _ => .poison

/-- Bytes of a peer's memory as its home returns them. -/
def peerBytes (phys n now : Nat) : List Byte := (List.range n).map fun i => Config.peerByte (phys + i) now

/-- How a peer's home answers what an engine writes there: performed, or refused; ONCE2 only on a ONCE page (R124, R126). -/
def peerRefuses (phys now : Nat) (once : Bool) : Option Cause :=
  match Config.peerAnswer phys now % 4 with
  | 2 => if once then some .once2 else none
  | 3 => some .poison
  | _ => none

/-- The discipline of the page of a DVA at its home (R266). -/
def State.homeOnce (s : State) (l : Leaf) (dva : Nat) : Bool :=
  if l.dev = s.dev.toNat then l.once else Config.peerOnce (l.phys dva / 2 ^ 16)

/-- The rights that a leaf must grant a kind of access (R342). -/
def Leaf.allows (l : Leaf) : ReqKind → Bool
  | .load _ => l.rd
  | .stream _ _ => l.rd
  | .store => l.w
  | .amo _ => l.rd && l.w
  | .bwait => l.rd
  | .barm => l.rd
  | .bpoll => l.rd
  | .bgen => l.rd
  | .bhold => l.w
  | .bclr => l.w
  | .bclrG => l.w
  | .bfin => l.w

/-- Kinds of access that write (R398). -/
def ReqKind.writes : ReqKind → Bool
  | .store => true
  | .amo _ => true
  | _ => false

/-- The relaxed accesses of a thread, before request `r`, that have not returned: a release covers them all (R290). -/
def State.relaxedEarlier (s : State) (t r : Nat) : List Nat :=
  (s.reqs.filter fun (p : Nat × Req) =>
    decide (p.1 < r) && p.2.live && p.2.relaxed && p.2.thread == t).map (·.1)

/-- A unit that is a release issues once the thread's earlier relaxed accesses are performed (R290, R291). -/
def State.releaseGate (s : State) : Gate Unit :=
  match s.relaxedEarlier s.cur s.nextReq with
  | [] => .go ()
  | rs => .wait .wmem (.stores rs)

/-! ### TCM and deck -/

/-- A copy in flight covers a deck range (R119, R205). -/
def State.deckBusy (s : State) (cluster a n : Nat) : Bool :=
  s.copies.any fun (p : Nat × Copy) =>
    p.2.stage != .retired && clusterOf p.2.core == cluster &&
      (match p.2.bytes with
        | some b => decide (p.2.doff < a + n ∧ a < p.2.doff + b)
        | none => false)

/-- The open window that holds a deck address: its key and block (R50). -/
def State.windowAt (s : State) (cluster a : Nat) : Option (Nat × Nat) :=
  (s.windows.find? fun (p : Nat × Window) =>
    p.1 / 8 == cluster && p.2.valid && decide (p.2.dbase ≤ a ∧ a < p.2.dbase + 256 * p.2.nblk)).map
      fun p => (p.1, (a - p.2.dbase) / 256)

/-- Granules of 8 bytes that an access touches; those that it covers whole. -/
def granules (a n : Nat) : List Nat := (List.range ((a % 8 + n + 7) / 8)).map fun i => a / 8 + i
def coversGranule (a n g : Nat) : Bool := decide (a ≤ 8 * g ∧ 8 * g + 8 ≤ a + n)

/-! #### Transaction barriers (R46) -/

/-- A transaction barrier; `zero` holds the bits that software must write as 0, which the device leaves as they are stored. -/
structure Barrier where
  phase : Nat := 0
  parr : Nat := 0
  init : Nat := 0
  psect : Nat := 0
  poison : Bool := false
  zero : Nat := 0
  fcause : Nat := 0
  faddr : Nat := 0
deriving DecidableEq, Repr

def barrierOf (x : Nat) : Barrier :=
  { phase := field x 0 4, parr := field x 4 12, init := field x 16 12, psect := field x 28 24, poison := bitAt x 52,
    zero := field x 53 3, fcause := field x 56 8, faddr := field x 64 64 }

def Barrier.bits (b : Barrier) : Nat :=
  b.phase + b.parr * 2 ^ 4 + b.init * 2 ^ 16 + b.psect * 2 ^ 28 + b.poison.toNat * 2 ^ 52 + b.zero * 2 ^ 53 +
    b.fcause * 2 ^ 56 + b.faddr * 2 ^ 64

def State.barrier (s : State) (cluster a : Nat) : Barrier := barrierOf (s.deckRead cluster a 16)

/-- A slot linked to a barrier that stands in another phase is ready, and keeps whether that phase ended with poison (R193,
R313). -/
def RingSlot.latch (x : RingSlot) (b : Barrier) : RingSlot :=
  if x.phase ≠ b.phase then { x with state := .ready, poison := b.poison } else x

/-- A slot linked to a barrier that some bytes of the deck touch. -/
def RingSlot.linkedIn (x : RingSlot) (a n : Nat) : Bool := x.state == .linked && decide (x.bar < a + n ∧ a < x.bar + 16)

/-- The slots of a cluster's rings whose barriers have been written, by a unit, an engine or an ordinary store (R46, R313). -/
def State.latchStored (s : State) (cluster a n : Nat) : State :=
  { s with cores := s.cores.map fun (p : Nat × Core) =>
      if clusterOf p.1 = cluster then (p.1, { p.2 with rings := p.2.rings.map fun (q : Nat × Ring) =>
        (q.1, { q.2 with slots := q.2.slots.map fun (w : Nat × RingSlot) =>
          (w.1, if w.2.linkedIn a n then w.2.latch (s.barrier cluster w.2.bar) else w.2) }) })
      else p }

/-- Bytes stored in TCM or deck; a store of all 8 bytes of a granule ends its error (R384). -/
def State.tcmStore (s : State) (core a : Nat) (bs : List Byte) : State :=
  let s1 := s.tcmWrite core a bs
  if bs.length < 8 ∨ (s.core core).tcmErrors = [] then s1
  else s1.modCore core fun c => { c with tcmErrors := c.tcmErrors.filter fun g => !coversGranule a bs.length g }

def State.deckStore (s : State) (cluster a : Nat) (bs : List Byte) : State :=
  let s1 := (s.deckWrite cluster a bs).latchStored cluster a bs.length
  if bs.length < 8 ∨ s.deckErrors = [] then s1
  else { s1 with deckErrors := s1.deckErrors.filter fun g =>
    !(g / 2 ^ 18 == cluster && coversGranule a bs.length (g % 2 ^ 18)) }

/-- A granule that an access must read holds an uncorrectable error (R384): every load and atomic, and a store of
fewer than 8 bytes. -/
def State.badGranule (s : State) (t : Nat) (sp : Space) (a n : Nat) (reads : Bool) : Bool :=
  (reads || decide (n < 8)) &&
    (match sp with
      | .tcm => (granules a n).any fun g => (s.core (coreOf t)).tcmErrors.contains g
      | .deck => (granules a n).any fun g => s.deckErrors.contains (clusterOf (coreOf t) * 2 ^ 18 + g)
      | .global => false
      | .peer => false)

/-- Bytes of TCM or deck by space. -/
def State.localRead (s : State) (t : Nat) (sp : Space) (a n : Nat) : Nat :=
  if sp = .tcm then s.tcmRead (coreOf t) a n else s.deckRead (clusterOf (coreOf t)) a n

def State.localWrite (s : State) (t : Nat) (sp : Space) (a : Nat) (bs : List Byte) : State :=
  if sp = .tcm then s.tcmStore (coreOf t) a bs else s.deckStore (clusterOf (coreOf t)) a bs

/-- An access performed on TCM or deck bytes: the state and the value read. -/
def State.localDo (s : State) (q : Req) : State × Nat :=
  let a := q.phys
  match q.kind with
  | .store => (s.localWrite q.thread q.space a (toBytesLE q.data.toNat q.n), 0)
  | .amo op =>
    let old := s.localRead q.thread q.space a q.n
    match amoNew op q.n old q.data.toNat q.expect.toNat with
    | some v => (s.localWrite q.thread q.space a (toBytesLE v q.n), old)
    | none => (s, old)
  | _ => (s, s.localRead q.thread q.space a q.n)

/-- What a deck access meets at a window (R320, R329). -/
inductive AtWindow where
  | perform
  | fetch
  | wait
  | park
  | trap (c : Cause)
deriving DecidableEq, Repr

/-- The rule of R329 for an access of `n` bytes to words `m` of a block: whether it reads, whether it writes. A store on an
OPEN page to words that are valid is performed at once even while a fetch of the block's other words is in flight (DESIGN CHOICE,
assumption 135). -/
def WinBlock.meets (b : WinBlock) (n : Nat) (m : BitVec 64) (reads writes : Bool) : AtWindow :=
  if b.once && writes then
    if n < 4 then .trap .align
    else if b.valid &&& m ≠ 0 then .trap .once2
    else if reads then (match b.state with
      | .u => .fetch
      | .f => .wait
      | .w => .park
      | .v => .fetch)
    else .perform
  else if m &&& ~~~b.valid = 0 then .perform
  else match b.state with
    | .u => .fetch
    | .f => .wait
    | .w => .park
    | .v => .fetch

/-- Words written through a window become valid and dirty (R320, R329). -/
def WinBlock.written (b : WinBlock) (m : BitVec 64) : WinBlock :=
  { b with valid := b.valid ||| m, dirty := b.dirty ||| m, state := if b.state = .u then .v else b.state }

/-- Words written through a window leave every other holder: those that another window holds dirty go home first, the clean
copies and the cached sectors are invalidated, and windows hold the line (R294, R331, R332). The clean copies go already at the
store, where the spec has them gone before the write-back, which is the global write's point (DESIGN CHOICE, assumption 124). -/
def State.claimWords (s : State) (key b : Nat) (m : BitVec 64) : State :=
  let s1 := (s.recallNow b m (some key)).dropWords b m (some key)
  let s2 := (List.range 4).foldl (fun s i =>
    if m &&& BitVec.ofNat 64 (0xFFFF * 2 ^ (16 * i)) ≠ 0 then s.clearSector (4 * b + i) else s) s1
  (s2.modBlock b fun x => { x with win := true }).redirect b

/-- A claim that would advance the block's version too far waits (R336), and one whose recall meets another window's fetch
(R329). -/
def State.claimWaits (s : State) (key b : Nat) (m : BitVec 64) : Bool :=
  s.dirtyElsewhere b m (some key) &&
    (!s.mayAdvance b || (s.recalled b).any fun p => p.2.2.state == .f && p.1 != key)

def ReqKind.reads : ReqKind → Bool
  | .store => false
  | _ => true

/-- The access writes where it finds `old`: a `cas` that fails stores nothing, and is a read (R134, R292). -/
def Req.stores (q : Req) (old : Nat) : Bool :=
  match q.kind with
  | .store => true
  | .amo op => (amoNew op q.n old q.data.toNat q.expect.toNat).isSome
  | _ => false

/-- A deck or TCM request performed, with the masks of a window that holds its words. -/
def State.localFinish (s : State) (r : Nat) (win : Option (Nat × Nat)) : State :=
  let q := s.req r
  let (s1, v) := s.localDo q
  let s2 := match win with
    | none => s1
    | some (key, blk) =>
      if q.stores v then
        let b := (s1.windows.get {} key).blocks.get {} blk
        let m := wordsOf q.phys q.n
        let s3 := s1.modWinBlock key blk fun x =>
          { x.written m with after := if x.once then x.after ++ s1.relaxedEarlier q.thread r else x.after }
        let s4 := if b.once then s3 else s3.claimWords key (b.phys / 256) m
        match q.kind with
        | .store => s4.digestWrite q.crewId ((s1.windows.get {} key).gbase.toNat + 256 * blk + q.phys % 256) q.n q.data.toNat
        | _ => s4.digestWrite q.crewId ((s1.windows.get {} key).gbase.toNat + 256 * blk + q.phys % 256) q.n
            (s1.deckRead q.cluster q.phys q.n)
      else s1
  (s2.modReq r fun q => { q with status := .replied, result := BitVec.ofNat 128 v })

/-- A deck request asks for the banks of its bytes: as its thread's, or, a stream unit, as the copy engine's (R311, R316). -/
def State.askAccess (s : State) (r : Nat) : State :=
  let q := s.req r
  let engine := match q.kind with
    | .stream _ _ => true
    | _ => false
  let core := coreOf q.thread
  (s.ask { cluster := q.cluster, engine := engine, number := if engine then copyNumber core else requester q.thread,
           since := s.now + deckTrip, banks := banksOf q.phys q.n, asker := .access r }).modReq r
    fun q => { q with status := .banked }

/-- A deck request that nothing holds up: performed if its banks have served it, otherwise it asks for them. -/
def State.atBanks (s : State) (r : Nat) (win : Option (Nat × Nat)) (served : Bool) : State :=
  if served then s.localFinish r win else s.askAccess r

/-- A fetch of a window's block begins: its words reach the deck through the cluster memory port (R316, R320). -/
def State.askFetch (s : State) (key blk : Nat) : State :=
  s.ask { cluster := key / 8, engine := true, number := portNumber, since := s.now + 380,
           banks := banksOf ((s.windows.get {} key).dbase + 256 * blk) 256, asker := .fetch key blk }

/-- A window's block enters F. -/
def State.beginFetch (s : State) (key blk : Nat) : State :=
  (s.modWinBlock key blk fun x => { x with state := .f, order := s.now * 2 ^ 16 + key }).askFetch key blk

/-- A window's block translated for a fetch: found in a TLB, or not (R320); a block that holds words keeps its home. A proof run
makes no translation (R370); the discipline that its stores need stands in the page tables, without a fault (DESIGN CHOICE,
assumption 143). -/
def State.translateWindow (s : State) (key blk : Nat) : Option (Except Cause State) :=
  let w := s.windows.get {} key
  let b := w.blocks.get {} blk
  let dva := w.gbase.toNat + 256 * blk
  if 2 ≤ (s.crewOf w.crewId).run then
    some (.ok (s.modWinBlock key blk fun x =>
      { x with mapped := true, phys := 2 ^ 60 + (w.crewId * 8 + key % 8) * 2 ^ 57 + dva,
               once := ((s.walk w.asid dva).map fun l => l.once).getD false }))
  else match s.tlbFind (key / 8) w.asid dva with
    | none => none
    | some l =>
      if !l.rd || l.dev ≠ s.dev.toNat then some (.error .page)
      else if !s.keyLive l dva then some (.error .deadkey)
      else if b.valid ≠ 0 then some (.ok s)
      else some (.ok (s.modWinBlock key blk fun x => { x with mapped := true, phys := l.phys dva, once := l.once }))

/-- A window's block translated for a touch, once. -/
def State.mapWindow (s : State) (key blk : Nat) : Option (Except Cause State) :=
  if ((s.windows.get {} key).blocks.get {} blk).mapped then some (.ok s) else s.translateWindow key blk

/-- An access through a window waits for the translation of its block. -/
def State.missWindow (s : State) (r asid dva : Nat) : State :=
  let q := s.req r
  match s.joinMiss q.cluster asid dva (if q.kind.writes then 1 else 0) (.req r) with
  | some s1 => s1.modReq r fun q => { q with status := .missed, dva := BitVec.ofNat 57 dva }
  | none => s.modReq r fun q => { q with status := .blocked }

/-- A fetch begins: the block is translated again, and a write-back of the window to that block arrives first (R320, R336). -/
def State.startFetch (s : State) (r key blk : Nat) : State :=
  let w := s.windows.get {} key
  let dva := w.gbase.toNat + 256 * blk
  match s.translateWindow key blk with
  | none => s.missWindow r w.asid dva
  | some (.error c) => s.refuse r c dva
  | some (.ok s1) =>
    let b := (s1.windows.get {} key).blocks.get {} blk
    let s2 := s1.modReq r fun q => { q with status := .blocked }
    if s1.inFlight key (b.phys / 256) ≠ [] then s2
    else s2.beginFetch key blk

/-- A deck access through a window. A relaxed store that meets ALIGN or ONCE2 at a block not translated when it issued is a
pending relaxed fault (DESIGN CHOICE, assumption 102). A proof run takes the page discipline from the block's translation and its
words from the journal when the fetch replies (R370). -/
def State.windowAccess (s : State) (r key blk : Nat) (served : Bool) : State :=
  let q := s.req r
  let w := s.windows.get {} key
  let dva := w.gbase.toNat + 256 * blk
  match s.mapWindow key blk with
  | none => s.missWindow r w.asid dva
  | some (.error c) => s.refuse r c dva
  | some (.ok s1) =>
    let b := (s1.windows.get {} key).blocks.get {} blk
    match b.meets q.n (wordsOf q.phys q.n) q.kind.reads q.kind.writes with
    | .perform =>
      if q.kind.writes && !b.once && s1.claimWaits key (b.phys / 256) (wordsOf q.phys q.n) then
        s1.modReq r fun q => { q with status := .blocked }
      else s1.atBanks r (some (key, blk)) served
    | .fetch => s1.startFetch r key blk
    | .wait => s1.modReq r fun q => { q with status := .blocked }
    | .park =>
      let s2 := s1.modReq r fun q => { q with status := .parked }
      if q.relaxed then s2 else s2.modThread q.thread fun x => { x with state := .pblk }
    | .trap c => if q.relaxed then s1.refuse r c q.off.toNat else s1.modReq r fun q => { q with status := .refused c q.off }

/-- Ticks from the issue of a TCM access to its reply (R118). -/
def tcmTrip : Nat := 4

/-- A TCM or deck request tried: performed in the tick of its reply, once its trip is over and its banks have served it;
refused, or left waiting (R118, R119, R263). -/
def State.performLocal (s : State) (r : Nat) (served : Bool) : State :=
  let q := s.req r
  if q.space = .deck then
    if s.deckBusy q.cluster q.phys q.n then s.modReq r fun q => { q with status := .blocked }
    else match s.windowAt q.cluster q.phys with
      | none => s.atBanks r none served
      | some (key, blk) => s.windowAccess r key blk served
  else if served then s.localFinish r none
  else (s.later (s.now + tcmTrip) (q.reply r)).modReq r fun q => { q with status := .banked }

/-- No bank keeps a request waiting. -/
def State.bankFree (s : State) (r : Nat) : Bool := s.asks.all fun x => x.asker != .access r

/-! ### Global memory -/

/-- A request to a ONCE page, or a block instruction: the step at its home (R123 to R132). -/
def Req.homeStep (q : Req) (r : Nat) : Instr :=
  match q.kind with
  | .load _ => .homeLoad r
  | .stream _ _ => .homeLoad r
  | .bwait => .homeLoad r
  | .bpoll => .homeLoad r
  | .bgen => .homeLoad r
  | .store => .homeCoveringStore r
  | .amo _ => .homeCoveringStore r
  | .bhold => .homeBhold r
  | .barm => .homeBarm r
  | .bclr => .homeClear r
  | .bclrG => .homeClear r
  | .bfin => .homeBfin r

/-- Check 10 of R114: the page discipline against the kind of access (R125, R127, R136, R398). -/
def Req.discipline (q : Req) (once : Bool) : Option Cause :=
  match q.kind with
  | .store => if once && decide (q.n < 4) then some .align else if !once && q.hold then some .page else none
  | .amo _ => if once then some .once2 else if q.hold then some .page else none
  | .bhold => if once then none else some .clear
  | .bclr => if once then none else some .clear
  | .bclrG => if once then none else some .clear
  | .bfin => if once then none else some .clear
  | _ => none

/-- Ticks from the issue of a global access to its point (R118): the figures that the spec calls typical, for a hit in the cluster
cache and HBM4. -/
def Req.trip (_q : Req) (hit : Bool) : Nat := if hit then 24 else 380

/-- A request that another device serves travels there in a data flit (R266, R414). -/
def State.toPeer (s : State) (phys : Nat) : State := s.overCauseway (phys / 2 ^ 48) (phys % 2 ^ 48 / 256)

/-- A step of an access that has left its cluster port; one for another device waits for the flit with its answer (R266, R267). -/
def State.depart (s : State) (q : Req) (hit : Bool) (i : Instr) : State :=
  if q.space = .peer then s.toPeer q.phys
  else if hit then s.later (s.now + q.trip hit) i
  else s.viaChannel q.phys (s.now + q.trip hit) (some q.thread) i

/-- An OPEN access performed at its point (R122, R126, R134, R137): the reply carries what it read. Of a POISON block only the
words that whole stores of at least 4 bytes write count as rewritten (DESIGN CHOICE, assumption 103). -/
def State.performOpen (s : State) (r : Nat) : State :=
  let q := s.req r
  let b := q.phys / 256
  let x := s.block b
  let m := wordsOf q.phys q.n
  let poisoned := x.pres == .poison
  let answered (s : State) (v : Nat) : State := s.modReq r fun q => { q with status := .replied, result := BitVec.ofNat 128 v }
  match q.kind with
  | .store =>
    if poisoned && !q.priv then s.refuse r .poison q.dva.toNat
    else
      let s1 := s.memWrite q.phys (toBytesLE q.data.toNat q.n)
      let s2 := if poisoned && decide (4 ≤ q.n) then
          (let cured := x.cured ||| m
           if cured = BitVec.allOnes 64 then s1.putBlock b { x with pres := .empty, cured := 0 }
           else s1.putBlock b { x with cured := cured })
        else s1
      answered s2 0
  | .amo op =>
    if poisoned then s.refuse r .poison q.dva.toNat
    else
      let old := s.memRead q.phys q.n
      let s1 := match amoNew op q.n old q.data.toNat q.expect.toNat with
        | some v => s.memWrite q.phys (toBytesLE v q.n)
        | none => s
      answered s1 old
  | _ =>
    if poisoned then s.refuse r .poison q.dva.toNat
    else match s.recallThen b m none [q.reply r] with
      | some s1 => s1
      | none => answered (s.windowsAnswer b) (s.memRead q.phys q.n)

/-- An access performed at its point; its reply comes after the ticks of a hit, or of a grant from the home. -/
def State.performThen (s : State) (r : Nat) (hit : Bool) : State :=
  let s1 := s.performOpen r
  let q := s1.req r
  if q.status ≠ .replied then s1
  else if hit then s1.later (s.now + q.trip true) (q.reply r)
  else s1.viaChannel q.phys (s.now + grantTrip) (some q.thread) (q.reply r)

/-- The cluster's cache holds the sector of an access with the right that it needs (R325). -/
def State.hasRight (s : State) (q : Req) : Bool :=
  let st := s.sector q.cluster (q.phys / 64)
  if q.kind.reads then st != .invalid else ownsSector st

/-- The requests that an OPEN access makes of the caches of its package (R325, R327, R332): a hit is performed at the cache, a
miss asks for the sector and waits, an atomic and a store to a line that windows hold go to the home as word-masked writes. A
command processor's accesses go to the home. -/
def State.openRequest (s : State) (r : Nat) (q : Req) : State :=
  let sec := q.phys / 64
  let m := wordsOf q.phys q.n
  let await (s : State) : State := s.modReq r fun q => { q with status := .awaiting }
  let masked := (s.ask1 q.cluster sec (.wrw r) m).modReq r fun q => { q with status := .issued }
  if !caches q.cluster then s.depart q false (q.reply r)
  else match q.kind with
    | .store =>
      if (s.block (q.phys / 256)).win then masked
      else match s.sector q.cluster sec with
        | .invalid => await (s.ask1 q.cluster sec .getM m)
        | .shared => await (s.ask1 q.cluster sec .upg m)
        | .exclusive => (s.setSector q.cluster sec .modified).performThen r true
        | .modified => s.performThen r true
    | .amo _ => masked
    | _ => if s.sector q.cluster sec = .invalid then await (s.ask1 q.cluster sec .getS m) else s.performThen r true

/-- An access whose cluster has been granted a sector is made with it; one that has lost it again asks anew. -/
def State.makeGranted (s : State) (r : Nat) : State :=
  let q := s.req r
  if s.hasRight q then s.performThen r false else s.openRequest r q

/-- A word-masked write at the home (R332): the written words that windows hold dirty and the written sectors that caches
hold are recalled, the clean copies in windows are invalidated, and the write is performed. -/
def State.serveMasked (s : State) (r : Nat) (again : Instr) : State :=
  let q := s.req r
  let b := q.phys / 256
  let m := wordsOf q.phys q.n
  s.inTurn b again fun s =>
  match s.recallThen b m none [again] with
  | some s1 => s1
  | none =>
    match noticesTo (q.phys / 64) true (s.agents (q.phys / 64)) with
    | [] => (((s.dropWords b m none).performOpen r).redirect b).settle r
    | needs => s.serveAfter b needs again

/-- An OPEN access of another device at its home, where that device is a system agent (R266, R298): windows keep their dirty
words, and caches and clean copies of windows give up what it writes. -/
def State.servePeer (s : State) (r : Nat) (again : Instr) : State :=
  let q := s.req r
  let b := q.phys / 256
  s.inTurn b again fun s =>
  match noticesTo (q.phys / 64) (!q.kind.reads || q.kind.writes) (s.agents (q.phys / 64)) with
  | [] =>
    let s1 := if q.kind.writes then s.dropWords b (wordsOf q.phys q.n) none else s
    let bad := (s1.block b).pres == .poison && !(q.kind == .store && q.priv)
    if bad then s1.refuse r .poison q.dva.toNat
    else match q.kind with
      | .load _ => s1.answer r (BitVec.ofNat 128 (s1.memRead q.phys q.n))
      | _ => ((s1.performOpen r).redirect b).settle r
  | needs => s.serveAfter b needs again

/-- A load made at the home by an agent that has no cache: the owners of the sector are recalled first. -/
def State.serveRead (s : State) (r : Nat) (again : Instr) : State :=
  let q := s.req r
  s.inTurn (q.phys / 256) again fun s =>
  match noticesTo (q.phys / 64) false (s.agents (q.phys / 64)) with
  | [] => (s.performOpen r).settle r
  | needs => s.serveAfter (q.phys / 256) needs again

/-- A block that the journal of a crew names (R400). -/
def State.named (s : State) (crew b : Nat) : State :=
  s.modBlock b fun x => if x.refs.contains (crew, x.gen) then x else { x with refs := x.refs ++ [(crew, x.gen)] }

/-- An access of a sampled crew has read a ONCE block: its entry is a reference to block and generation (R399, R400). -/
def State.refer (s : State) (r : Nat) : State :=
  let q := s.req r
  if s.recording q.thread && q.from_.isNone then
    (s.modReq r fun q => { q with ref := some (q.phys / 256, (s.block (q.phys / 256)).gen) }).named (s.journalCrew q.crewId)
      (q.phys / 256)
  else s

/-- The bytes of a block that a journal names: at its home while it is FULL at that generation, else of its copy (R400). -/
def State.referenced (s : State) (b : Nat) (g : BitVec 6) : List Byte :=
  if (s.block b).pres = .full ∧ (s.block b).gen = g then s.mem.readList (b * 256) 256
  else (s.journalCopy.get ([], []) (b * 64 + g.toNat)).2

/-- `n` bytes at an offset of such a block, as a load returns them. -/
def State.referencedWord (s : State) (b : Nat) (g : BitVec 6) (off n : Nat) : VWord :=
  BitVec.ofNat 128 (ofBytesLE (((s.referenced b g).drop off).take n))

/-- A load that hits a shared sector of a ONCE block takes its value there and then: a clear that follows recalls the copy, and
has no effect on it (R131, R325). -/
def State.hitOnce (s : State) (r : Nat) : State :=
  let q := s.req r
  let s1 := (s.refer r).modReq r fun q => { q with status := .replied, result := BitVec.ofNat 128 (s.memRead q.phys q.n) }
  s1.later (s.now + q.trip true) (q.reply r)

/-- A translated request: rights and device (R342), key (R121), discipline, then its block (R114 checks 8 to 11); what a peer is to
serve meets checks 9 to 11 there (R266). -/
def State.resolve (s : State) (r : Nat) (l : Leaf) : State :=
  let q := s.req r
  let dva := q.dva.toNat
  if q.space = .deck then s.performLocal r false
  else if !l.allows q.kind then s.refuse r .page dva
  else if (decide (l.dev = s.dev.toNat)) == (q.space == .peer) then s.refuse r .page dva
  else if q.space == .peer && !s.reaches l.dev then s.refuse r .poison dva
  else if q.space = .peer then
    let q1 := { q with phys := l.phys dva, status := .issued }
    (s.setReq r q1).depart q1 false (q1.reply r)
  else if !s.keyLive l dva then s.refuse r .deadkey dva
  else match q.discipline l.once with
    | some c => s.refuse r c dva
    | none =>
      let q1 := { q with phys := l.phys dva, once := l.once, status := .issued }
      let s1 := s.setReq r q1
      let block := match q.kind with
        | .bwait | .bpoll | .bgen | .barm => true
        | _ => false
      if q1.once then
        match q.kind with
        | .load _ =>
          if s1.sector q.cluster (q1.phys / 64) = .shared then s1.hitOnce r else s1.depart q1 false (q1.homeStep r)
        | _ => s1.depart q1 false (q1.homeStep r)
      else if block then s1.depart q1 false (q1.homeStep r)
      else s1.openRequest r q1

/-! ### The management space of firmware (R369, R380, R381, R409, R417, R436) -/

/-- Doubleword `i` of a health record (R380). -/
def Health.doubleword (h : Health) (i : Nat) : Nat :=
  match i with
  | 0 => h.pnext + h.corr * 2 ^ 32
  | 1 => h.uncorr + h.pwait * 2 ^ 32
  | k + 2 => (h.plog.getD k 0).toNat

/-- What an aligned doubleword of the management space reads as: which register lies where is free, and so is what the spec does
not describe (DESIGN CHOICE, assumption 94). -/
def State.managedWord (s : State) (a : Nat) : Nat :=
  let i := Config.managedIndex a
  match Config.managedKind a with
  | 1 => (s.sites.get {} i).injector.toNat
  | 2 => ((s.ports.get {} (i / 8)).injectors.get 0 (i % 8)).toNat
  | 3 => s.strainLimit
  | 4 => (s.health.get {} (i / 66)).doubleword (i % 66)
  | 6 => Config.poolBase i
  | _ => (Config.managementWord s.now a).toNat

/-- An answer word written to a span (R381): a verdict and an entry, every other bit 0; any other word is ignored. -/
def State.answerWord (s : State) (span w : Nat) : State :=
  if field w 12 50 ≠ 0 then s
  else match field w 62 2 with
    | 1 => s.emit (.faultServe span (field w 0 12))
    | 2 => s.emit (.faultReject span (field w 0 12))
    | _ => s

/-- A doubleword stored in the management space: it reaches the register that lies there, where that is written. -/
def State.managedStore (s : State) (a : Nat) (w : Word) : State :=
  let i := Config.managedIndex a
  match Config.managedKind a with
  | 1 => s.emit (.siteInjectorWrite i w)
  | 2 => s.emit (.laneInjectorWrite (i / 8) (i % 8) w)
  | 3 => s.emit (.strainLimitWrite w.toNat)
  | 5 => s.answerWord i w.toNat
  | _ => s

/-- Bytes read from the management space. -/
def State.managedRead (s : State) (a n : Nat) : Nat :=
  (s.managedWord (a / 8 * 8) + 2 ^ 64 * s.managedWord (a / 8 * 8 + 8)) / 2 ^ (8 * (a % 8)) % 2 ^ (8 * n)

/-- An access of firmware to the management space: its registers are written whole, a doubleword at a time; a narrower or a wider
store has no effect on them (DESIGN CHOICE, assumption 94). -/
def State.manage (s : State) (r : Nat) : State :=
  let q := s.req r
  let a := q.phys % 2 ^ 48
  let done (s : State) (v : Nat) : State := s.modReq r fun q => { q with status := .replied, result := BitVec.ofNat 128 v }
  let store (v : Nat) : State := if q.n = 8 then s.managedStore a (BitVec.ofNat 64 v) else s
  match q.kind with
  | .store => done (store q.data.toNat) 0
  | .amo op =>
    let old := s.managedRead a q.n
    match amoNew op q.n old q.data.toNat q.expect.toNat with
    | some v => done (store v) old
    | none => done s old
  | _ => done s (s.managedRead a q.n)

/-- An address of the management space. -/
def managed (phys : Nat) : Bool := decide (hbmEnd ≤ phys % 2 ^ 48 ∧ phys % 2 ^ 48 < managementEnd)

/-- The local address that a command-processor thread's DVA names under the fixed map (R436). -/
def fixedMapped (t dva : Nat) : Bool := isFirmware t && bitAt dva 56

/-- Check 8 of R114: the TLBs, the fixed map of command processors, or the miss buffer. -/
def State.translate (s : State) (r : Nat) : State :=
  let q := s.req r
  let dva := q.dva.toNat
  if fixedMapped q.thread dva then
    if field dva 48 8 = 0 then s.resolve r (s.fixedLeaf dva) else s.refuse r .page dva
  else
    let asid := s.asidOf q.launch
    match s.tlbFind q.cluster asid dva with
    | some l => s.resolve r l
    | none =>
      match s.joinMiss q.cluster asid dva (if q.kind.writes then 1 else 0) (.req r) with
      | some s1 => s1.modReq r fun q => { q with status := .missed }
      | none => s.modReq r fun q => { q with status := .blocked }

/-- A place kept in the journal for an access of a sampled crew (R399, R401); none where the region is full. -/
def State.reserve (s : State) (r : Nat) : Option State :=
  let q := s.req r
  if !s.recording q.thread || !q.kind.journaled || q.jslot.isSome then some s
  else
    let span := spanOfCluster q.cluster
    if s.journalRoom span q.entry.bytes then
      let (s1, p) := s.journalAppend (s.streamKey q.thread) span q.entry
      some (s1.modReq r fun q => { q with jslot := some p })
    else none

/-- A request to global memory begins: its place in the journal, then translation. -/
def State.start (s : State) (r : Nat) : State :=
  match s.reserve r with
  | some s1 => s1.translate r
  | none =>
    let span := spanOfCluster (s.req r).cluster
    { s with journalWait := s.journalWait.put span (s.journalWait.get [] span ++ [r]) }

/-- An access of a proof run: its value comes from the journal, or from the block that the journal names, and nothing else is
reached (R296, R400, R405). -/
def State.replay (s : State) (r : Nat) : State :=
  let q := s.req r
  if !q.kind.journaled then s.answer r 0
  else match s.journalNext q.thread, q.kind with
    | some (.loadValue v _), .load _ => (s.journalStep q.thread).answer r v
    | some (.loadValue v _), .stream _ _ => (s.journalStep q.thread).answer r v
    | some (.reference b g), .load _ =>
      (s.journalStep q.thread).answer r (s.referencedWord b g (q.dva.toNat % 256) q.n)
    | some (.reference b g), .stream _ _ =>
      (s.journalStep q.thread).answer r (s.referencedWord b g (q.dva.toNat % 256) q.n)
    | some (.atomicResult v), .amo _ => (s.journalStep q.thread).answer r (v.setWidth 128)
    | some (.blockResult v), .bhold => (s.journalStep q.thread).answer r (v.setWidth 128)
    | some (.blockResult v), .bpoll => (s.journalStep q.thread).answer r (v.setWidth 128)
    | some (.blockResult v), .bgen => (s.journalStep q.thread).answer r (v.setWidth 128)
    | some (.blockResult v), .bfin => (s.journalStep q.thread).answer r (v.setWidth 128)
    | _, _ => (s.dropReq r).journalLost q.thread

/-- Where the bytes of a request lie. -/
def State.placeOf (s : State) (q : Req) : Nat :=
  if q.space = .tcm ∨ q.space = .deck then q.phys else s.byteHome q.launch q.space q.dva.toNat

/-- An earlier relaxed access of the thread to some of the same bytes is outstanding (R137, R289). -/
def State.overlapped (s : State) (r : Nat) : Bool :=
  let q := s.req r
  let a := s.placeOf q
  s.reqs.any fun (p : Nat × Req) =>
    decide (p.1 < r) && p.2.live && p.2.relaxed && p.2.thread == q.thread && p.2.space == q.space &&
      decide (s.placeOf p.2 < a + q.n ∧ a < s.placeOf p.2 + p.2.n)

/-- A request tried from check 8 on. -/
def State.attemptReq (s : State) (r : Nat) : State :=
  let q := s.req r
  if s.overlapped r then s.modReq r fun q => { q with status := .blocked }
  else if q.space = .tcm ∨ q.space = .deck then s.performLocal r false
  else if s.replaying q.thread then s.replay r
  else s.start r

/-! ### The control page of a command processor (R425) -/

def State.modCp (s : State) (p : Nat) (f : CmdProc → CmdProc) : State := { s with cps := s.cps.put p (f (s.cps.get {} p)) }
def State.queue (s : State) (q : Nat) : Queue := s.queues.get {} q
def State.modQueue (s : State) (q : Nat) (f : Queue → Queue) : State := { s with queues := s.queues.put q (f (s.queue q)) }

/-- The processor and the offset in its control page that an access of one of its threads reaches. -/
def State.onControl (s : State) (q : Req) : Option (Nat × Nat) :=
  let p := coreOf q.thread - 8192
  match isFirmware q.thread, (s.cps.get {} p).page with
  | true, some a =>
    let lo := s.local a
    if lo ≤ q.phys ∧ q.phys < lo + 0x1800 then some (p, q.phys - lo) else none
  | _, _ => none

/-- A doubleword of the page: `desc` is the ring's base as an offset of the reading thread's `m2`, with lg; `rdx` is r. -/
def State.controlWord (s : State) (t p off : Nat) : Nat :=
  if off = 8 then
    let v := (s.cps.get {} p).results.get (0, 0) (slotOf t)
    v.2 % 2 ^ 32 * 2 ^ 32 + v.1 % 256
  else if 0x800 ≤ off then
    let q := s.queue (16 * ((off - 0x800) / 16) + p)
    if off % 16 = 0 then (q.ring - ((s.thread t).seg.get {} 2).base).toNat / 256 * 256 + q.lg else q.rdx
  else 0

/-- Bytes read from the page. -/
def State.controlRead (s : State) (t p off n : Nat) : Nat :=
  (s.controlWord t p (off / 8 * 8) + 2 ^ 64 * s.controlWord t p (off / 8 * 8 + 8)) / 2 ^ (8 * (off % 8)) % 2 ^ (8 * n)

/-- An access to the page: `claunch`, `cstat` and `cdec` answer through their own steps; a store elsewhere than to `rdx` is
ignored. -/
def State.control (s : State) (r p off : Nat) : State :=
  let q := s.req r
  let w : Word := q.data.setWidth 64
  let done (s : State) (v : Nat) : State := s.modReq r fun q => { q with status := .replied, result := BitVec.ofNat 128 v }
  match q.kind with
  | .store =>
    if off = 0 ∧ q.n = 8 then (s.modCp p fun c => { c with launchReqs := c.launchReqs ++ [(r, w)] }).emit (.claunch p w)
    else if off = 16 ∧ q.n = 8 then (s.modCp p fun c => { c with decReqs := c.decReqs ++ [(r, w)] }).emit (.cdec p w)
    else if 0x800 ≤ off ∧ off % 16 = 8 ∧ q.n = 4 then
      done (s.modQueue (16 * ((off - 0x800) / 16) + p) fun x => { x with rdx := w.toNat % 2 ^ 32 }) 0
    else done s 0
  | _ =>
    if off = 8 ∧ q.n = 8 then (s.modCp p fun c => { c with statReqs := c.statReqs ++ [r] }).emit (.cstat p)
    else done s (s.controlRead q.thread p off q.n)

/-- The reply step of an access: what still waits is tried again, an OPEN access is performed, an answer or a refusal
is delivered. -/
def State.perform (s : State) (r : Nat) : State :=
  let q := s.req r
  if !q.live then s
  else match q.status with
    | .issued =>
      if q.from_.isSome then s.servePeer r (q.reply r)
      else if q.space = .peer then s
      else if q.once then s.emit (q.homeStep r)
      else match s.onControl q with
        | some (p, off) => (s.control r p off).settle r
        | none =>
          if managed q.phys then (s.manage r).settle r
          else if q.kind.reads && !q.kind.writes then s.serveRead r (q.reply r) else s.serveMasked r (q.reply r)
    | .awaiting => s.makeGranted r
    | .blocked => (s.attemptReq r).settle r
    | .banked => if s.bankFree r then (s.performLocal r true).settle r else s
    | .missed => s
    | .parked => s
    | .replied => s.settle r
    | .refused _ _ => s.settle r

/-- LOAD_REPLY (R117). -/
def execLoadReply (r : Nat) (s : State) : Out :=
  match (s.req r).kind with
  | .load _ => .next (s.perform r)
  | _ => .next s

/-- MEMORY_REPLY (R118). -/
def execMemoryReply (r : Nat) (s : State) : Out :=
  match (s.req r).kind with
  | .load _ => .next s
  | .stream _ _ => .next s
  | _ => .next (s.perform r)

/-- WRW: a word-masked write reaches the home. -/
def execWrw (r : Nat) (s : State) : Out :=
  let q := s.req r
  if !q.live || q.status != .issued then .next s else .next (s.serveMasked r (.wrw r))

end Sys2Proof.Machine
end

