-- ==== Sys2Proof/Machine/MemoryInstr.lean ====
section
/-! DEFINITION. Loads and stores in their immediate, indexed and compact forms (R65, R83, R114 to R119), relaxed
or not (R137), and what a twin pair makes of them (R244). -/

namespace Sys2Proof.Machine

/-- A unit that makes one access: its operands, the size, the kind, and the data register's class. -/
structure Access where
  seg : SegField
  base : RegField
  idx : Option RegField := none
  imm : Int := 0
  n : Nat
  kind : ReqKind
  vec : Bool := false
  data : RegField := 0
  /-- the unit writes its data register -/
  writes : Bool := false
deriving DecidableEq, Repr

/-- The offset (R65, R68): base, then index; each pops the port it names. -/
def State.offset (s : State) (a : Access) : Gate (Word × State) :=
  (s.readS s.cur a.base).next fun (b, s1) =>
    match a.idx with
    | none => .go (b + BitVec.ofInt 64 (a.imm * a.n) + s.stepOffset s.cur a.n, s1)
    | some i => (s1.readS s.cur i).next fun (x, s2) =>
        .go (b + x * BitVec.ofNat 64 a.n + s.stepOffset s.cur a.n, s2)

/-- Checks 6 and 7 of R114, and the local addresses that firmware reaches: beyond the management space they name nothing
(R436). -/
def State.locate (s : State) (g : Seg) (rights : List Right) (off : Word) (n : Nat) : Gate Nat :=
  (g.check rights off n).next fun a =>
    if (g.space == .global || g.space == .peer) && fixedMapped s.cur a && field a 48 8 == 0 &&
        decide (managementEnd ≤ field a 0 48)
    then .stop (field a 0 48) else .go a

/-- What a deck access meets at an open window whose block is translated: a read-only window refuses stores, and a
ONCE page's words are written once and whole (R119, R125, R214). -/
def State.windowCheck (s : State) (a n : Nat) (kind : ReqKind) (off : Word) : Gate Unit :=
  match s.windowAt (clusterOf (coreOf s.cur)) a with
  | none => .go ()
  | some (key, blk) =>
    if kind.writes && !(s.windows.get {} key).writable then .trap .seg off
    else
      let b := (s.windows.get {} key).blocks.get {} blk
      if !b.mapped then .go ()
      else match b.meets n (wordsOf a n) kind.reads kind.writes with
        | .trap c => .trap c off
        | _ => .go ()

/-- What TCM and deck refuse at the unit: a granule in error (R384), a window's rules. -/
def State.localCheck (s : State) (sp : Space) (a n : Nat) (kind : ReqKind) (off : Word) : Gate Unit :=
  if s.badGranule s.cur sp a n kind.reads then .trap .poison off
  else if sp = .deck then s.windowCheck a n kind off
  else .go ()

/-- The current thread is the follower of a twin pair that executes in lockstep; its leader. -/
def State.follows (s : State) : Bool := s.me.twin && !s.me.iss.alone && !s.me.leader
def State.leads (s : State) : Bool := s.me.twin && !s.me.iss.alone && s.me.leader

/-- The request of a unit's access. -/
def State.requestOf (s : State) (a : Access) (sp : Space) (off : Word) (addr : Nat) (data : VWord) (expect : Word) : Req :=
  let x := s.me
  { live := true, thread := s.cur, cluster := clusterOf (coreOf s.cur), launch := x.launch, crewId := x.crewId,
    kind := a.kind, seg := a.seg, space := sp, off := off, dva := BitVec.ofNat 57 addr, phys := addr, n := a.n,
    vec := a.vec, dest := if a.writes then some a.data else none, data := data, expect := expect,
    major := x.iss.major, relaxed := x.iss.rlx && !x.twin, pc := x.pc, hold := x.proofHold, priv := x.priv,
    park := x.park, twin := x.twin && !x.iss.alone,
    overlay := if x.twin && !x.iss.alone then s.heldBytes s.cur sp addr a.n else [] }

/-- The access leaves the core: relaxed, its thread goes on; otherwise it waits for the reply (R118, R137). -/
def State.sendAccess (s : State) (q : Req) : State :=
  let r := s.nextReq
  let s1 := { s with reqs := s.reqs.put r q, nextReq := r + 1 }
  let s2 := if q.relaxed then
      (s1.modThread s.cur fun x =>
        { x with rlxn := x.rlxn + 1,
                 awaited := match q.key with
                   | some k => x.awaited ++ [k]
                   | none => x.awaited }).complete s.cur
    else s1.await s.cur .wmem (.reply r)
  (s2.attemptReq r).settle r

/-- A relaxed access finds room among the eight of its thread (R137). -/
def State.relaxedRoom (s : State) : Gate Unit :=
  if s.me.iss.rlx && !s.me.twin && decide (8 ≤ s.me.rlxn) then .wait .wmem .relaxedSlot else .go ()

/-- The room that a port destination needs before the unit can issue (R22). -/
def State.roomFor (s : State) (vec : Bool) (d : RegField) : Gate Unit :=
  match (Reg.mk vec d).port with
  | some dir => if s.portRoom s.cur ⟨vec, d⟩ then .go () else .wait .wsync (.portRoom dir vec)
  | none => .go ()

/-- The end of a load's unit at its address: in lockstep the follower waits for the leader's reply, which writes both
(R244). -/
def State.loadAt (s : State) (a : Access) (sp : Space) (off : Word) (addr : Nat) : Gate State :=
  (s.roomFor a.vec a.data).next fun _ =>
    let q := s.requestOf a sp off addr 0 0
    if s.follows then
      match (s.thread (partner s.cur)).wait with
      | .reply r => .go (s.await s.cur .wmem (.reply r))
      | _ => .go (s.complete s.cur)
    else .go (s.sendAccess q)

/-- The end of a store's unit: in lockstep the leader's store is held back and the follower's is suppressed, and both
enter the fingerprints (R244, R411). -/
def State.storeAt (s : State) (a : Access) (sp : Space) (off : Word) (addr : Nat) (v : VWord) : State :=
  let bytes := toBytesLE v.toNat a.n
  if s.me.twin && !s.me.iss.alone then
    let s1 := s.note s.cur ([BitVec.ofNat 8 a.seg.toNat] ++ toBytesLE off.toNat 8 ++ [BitVec.ofNat 8 a.n] ++ bytes)
    (if s.me.leader then
      s1.modThread s.cur fun x =>
        { x with pair := { x.pair with held := x.pair.held ++ [{ seg := a.seg, off := off, data := bytes }] } }
    else s1).complete s.cur
  else s.sendAccess (s.requestOf a sp off addr v 0)

/-- A load's unit. -/
def State.unitLoad (s : State) (a : Access) : Out :=
  s.unit ([sreg a.base, ⟨a.vec, a.data⟩] ++ a.idx.toList.map sreg) <|
    (s.offset a).next fun (off, s1) =>
      let g := s.segment s.cur a.seg
      (s1.locate g [.rd] off a.n).next fun addr =>
        (s1.localCheck g.space addr a.n a.kind off).next fun _ =>
          s1.relaxedRoom.next fun _ => s1.loadAt a g.space off addr

/-- A store's unit: its data register is read at issue, after base and index (R117). -/
def State.unitStore (s : State) (a : Access) : Out :=
  s.unit ([sreg a.base, ⟨a.vec, a.data⟩] ++ a.idx.toList.map sreg) <|
    (s.offset a).next fun (off, s1) =>
      let g := s.segment s.cur a.seg
      (s1.locate g [.w] off a.n).next fun addr =>
        (s1.localCheck g.space addr a.n a.kind off).next fun _ =>
          s1.relaxedRoom.next fun _ =>
            (if a.vec then s1.readV s.cur a.data
             else (s1.readS s.cur a.data).next fun (x, s2) => .go (x.setWidth 128, s2)).next fun (v, s2) =>
              .go (s2.storeAt a g.space off addr v)

/-- A load of `n` bytes into a scalar register; of 16 bytes into a vector register. -/
def loadOf (signExt : Bool) (n : Nat) (d base : RegField) (seg : SegField) (imm : Int) (idx : Option RegField) : Access :=
  { seg := seg, base := base, idx := idx, imm := imm, n := n, kind := .load signExt, data := d, writes := true }
def loadVOf (d base : RegField) (seg : SegField) (imm : Int) (idx : Option RegField) : Access :=
  { seg := seg, base := base, idx := idx, imm := imm, n := 16, kind := .load false, vec := true, data := d, writes := true }
def storeOf (n : Nat) (d base : RegField) (seg : SegField) (imm : Int) (idx : Option RegField) : Access :=
  { seg := seg, base := base, idx := idx, imm := imm, n := n, kind := .store, data := d }
def storeVOf (d base : RegField) (seg : SegField) (imm : Int) (idx : Option RegField) : Access :=
  { seg := seg, base := base, idx := idx, imm := imm, n := 16, kind := .store, vec := true, data := d }

/-! ### The immediate forms, majors 0x18 to 0x24 -/

def execLdB (d base : RegField) (seg : SegField) (imm : BitVec 10) (s : State) : Out :=
  s.unitLoad (loadOf true 1 d base seg imm.toInt none)
def execLdBu (d base : RegField) (seg : SegField) (imm : BitVec 10) (s : State) : Out :=
  s.unitLoad (loadOf false 1 d base seg imm.toInt none)
def execLdH (d base : RegField) (seg : SegField) (imm : BitVec 10) (s : State) : Out :=
  s.unitLoad (loadOf true 2 d base seg imm.toInt none)
def execLdHu (d base : RegField) (seg : SegField) (imm : BitVec 10) (s : State) : Out :=
  s.unitLoad (loadOf false 2 d base seg imm.toInt none)
def execLdW (d base : RegField) (seg : SegField) (imm : BitVec 10) (s : State) : Out :=
  s.unitLoad (loadOf true 4 d base seg imm.toInt none)
def execLdWu (d base : RegField) (seg : SegField) (imm : BitVec 10) (s : State) : Out :=
  s.unitLoad (loadOf false 4 d base seg imm.toInt none)
def execLdD (d base : RegField) (seg : SegField) (imm : BitVec 10) (s : State) : Out :=
  s.unitLoad (loadOf false 8 d base seg imm.toInt none)
def execStB (d base : RegField) (seg : SegField) (imm : BitVec 10) (s : State) : Out :=
  s.unitStore (storeOf 1 d base seg imm.toInt none)
def execStH (d base : RegField) (seg : SegField) (imm : BitVec 10) (s : State) : Out :=
  s.unitStore (storeOf 2 d base seg imm.toInt none)
def execStW (d base : RegField) (seg : SegField) (imm : BitVec 10) (s : State) : Out :=
  s.unitStore (storeOf 4 d base seg imm.toInt none)
def execStD (d base : RegField) (seg : SegField) (imm : BitVec 10) (s : State) : Out :=
  s.unitStore (storeOf 8 d base seg imm.toInt none)
def execVld (d base : RegField) (seg : SegField) (imm : BitVec 10) (s : State) : Out :=
  s.unitLoad (loadVOf d base seg imm.toInt none)
def execVst (d base : RegField) (seg : SegField) (imm : BitVec 10) (s : State) : Out :=
  s.unitStore (storeVOf d base seg imm.toInt none)

/-! ### The indexed forms, major 0x25 -/

def execLdBIndexed (d base idx : RegField) (seg : SegField) (s : State) : Out :=
  s.unitLoad (loadOf true 1 d base seg 0 (some idx))
def execLdBuIndexed (d base idx : RegField) (seg : SegField) (s : State) : Out :=
  s.unitLoad (loadOf false 1 d base seg 0 (some idx))
def execLdHIndexed (d base idx : RegField) (seg : SegField) (s : State) : Out :=
  s.unitLoad (loadOf true 2 d base seg 0 (some idx))
def execLdHuIndexed (d base idx : RegField) (seg : SegField) (s : State) : Out :=
  s.unitLoad (loadOf false 2 d base seg 0 (some idx))
def execLdWIndexed (d base idx : RegField) (seg : SegField) (s : State) : Out :=
  s.unitLoad (loadOf true 4 d base seg 0 (some idx))
def execLdWuIndexed (d base idx : RegField) (seg : SegField) (s : State) : Out :=
  s.unitLoad (loadOf false 4 d base seg 0 (some idx))
def execLdDIndexed (d base idx : RegField) (seg : SegField) (s : State) : Out :=
  s.unitLoad (loadOf false 8 d base seg 0 (some idx))
def execStBIndexed (d base idx : RegField) (seg : SegField) (s : State) : Out :=
  s.unitStore (storeOf 1 d base seg 0 (some idx))
def execStHIndexed (d base idx : RegField) (seg : SegField) (s : State) : Out :=
  s.unitStore (storeOf 2 d base seg 0 (some idx))
def execStWIndexed (d base idx : RegField) (seg : SegField) (s : State) : Out :=
  s.unitStore (storeOf 4 d base seg 0 (some idx))
def execStDIndexed (d base idx : RegField) (seg : SegField) (s : State) : Out :=
  s.unitStore (storeOf 8 d base seg 0 (some idx))
def execVldIndexed (d base idx : RegField) (seg : SegField) (s : State) : Out :=
  s.unitLoad (loadVOf d base seg 0 (some idx))
def execVstIndexed (d base idx : RegField) (seg : SegField) (s : State) : Out :=
  s.unitStore (storeVOf d base seg 0 (some idx))

/-! ### The compact forms, through `m1` (R83) -/

def execCLdD (d a : CReg) (i : BitVec 5) (s : State) : Out :=
  s.unitLoad (loadOf false 8 (creg d) (creg a) 1 i.toNat none)
def execCStD (d a : CReg) (i : BitVec 5) (s : State) : Out :=
  s.unitStore (storeOf 8 (creg d) (creg a) 1 i.toNat none)
def execCVld (d a : CReg) (i : BitVec 5) (s : State) : Out :=
  s.unitLoad (loadVOf (creg d) (creg a) 1 i.toNat none)
def execCVst (d a : CReg) (i : BitVec 5) (s : State) : Out :=
  s.unitStore (storeVOf (creg d) (creg a) 1 i.toNat none)

end Sys2Proof.Machine
end

