-- ==== Sys2Proof/Machine/Atomic.lean ====
section
/-! DEFINITION. Atomics (R134 to R136). -/

namespace Sys2Proof.Machine

/-- The end of an atomic's unit at its address: it is performed where its bytes are (R135). -/
def State.amoAt (s : State) (a : Access) (sp : Space) (off : Word) (addr : Nat) (x : VWord) (e : Word) : Gate State :=
  (s.roomFor false a.data).next fun _ => .go (s.sendAccess (s.requestOf a sp off addr x e))

/-- The value that `d` holds at issue, read as a source field is (R22, R134). -/
def State.expected (s : State) (op : AmoOp) (d : RegField) : Gate (Word × State) :=
  if op = .cas then s.readS s.cur d else .go (0, s)

/-- An atomic's unit: both rights, the operand from the index register, and for `cas` the value that `d` holds at
issue (R134). -/
def State.unitAmo (s : State) (op : AmoOp) (n : Nat) (d base idx : RegField) (seg : SegField) : Out :=
  let a : Access := { seg := seg, base := base, n := n, kind := .amo op, data := d, writes := true }
  s.unit [sreg base, sreg idx, sreg d] <|
    (s.offset a).next fun (off, s1) =>
      let g := s.segment s.cur seg
      (s1.locate g [.rd, .w] off n).next fun addr =>
        (s1.localCheck g.space addr n a.kind off).next fun _ =>
          s1.relaxedRoom.next fun _ =>
            (s1.readS s.cur idx).next fun (x, s2) =>
              (s2.expected op d).next fun (e, s3) => s3.amoAt a g.space off addr (x.setWidth 128) e

def execAmoAddW (d base idx : RegField) (seg : SegField) (s : State) : Out := s.unitAmo .add 4 d base idx seg
def execAmoAndW (d base idx : RegField) (seg : SegField) (s : State) : Out := s.unitAmo .and 4 d base idx seg
def execAmoOrW (d base idx : RegField) (seg : SegField) (s : State) : Out := s.unitAmo .or 4 d base idx seg
def execAmoXorW (d base idx : RegField) (seg : SegField) (s : State) : Out := s.unitAmo .xor 4 d base idx seg
def execAmoMinW (d base idx : RegField) (seg : SegField) (s : State) : Out := s.unitAmo .min 4 d base idx seg
def execAmoMaxW (d base idx : RegField) (seg : SegField) (s : State) : Out := s.unitAmo .max 4 d base idx seg
def execAmoMinuW (d base idx : RegField) (seg : SegField) (s : State) : Out := s.unitAmo .minu 4 d base idx seg
def execAmoMaxuW (d base idx : RegField) (seg : SegField) (s : State) : Out := s.unitAmo .maxu 4 d base idx seg
def execAmoSwapW (d base idx : RegField) (seg : SegField) (s : State) : Out := s.unitAmo .swap 4 d base idx seg
def execAmoCasW (d base idx : RegField) (seg : SegField) (s : State) : Out := s.unitAmo .cas 4 d base idx seg
def execAmoFaddW (d base idx : RegField) (seg : SegField) (s : State) : Out := s.unitAmo .fadd 4 d base idx seg
def execAmoIncW (d base idx : RegField) (seg : SegField) (s : State) : Out := s.unitAmo .inc 4 d base idx seg

def execAmoAddD (d base idx : RegField) (seg : SegField) (s : State) : Out := s.unitAmo .add 8 d base idx seg
def execAmoAndD (d base idx : RegField) (seg : SegField) (s : State) : Out := s.unitAmo .and 8 d base idx seg
def execAmoOrD (d base idx : RegField) (seg : SegField) (s : State) : Out := s.unitAmo .or 8 d base idx seg
def execAmoXorD (d base idx : RegField) (seg : SegField) (s : State) : Out := s.unitAmo .xor 8 d base idx seg
def execAmoMinD (d base idx : RegField) (seg : SegField) (s : State) : Out := s.unitAmo .min 8 d base idx seg
def execAmoMaxD (d base idx : RegField) (seg : SegField) (s : State) : Out := s.unitAmo .max 8 d base idx seg
def execAmoMinuD (d base idx : RegField) (seg : SegField) (s : State) : Out := s.unitAmo .minu 8 d base idx seg
def execAmoMaxuD (d base idx : RegField) (seg : SegField) (s : State) : Out := s.unitAmo .maxu 8 d base idx seg
def execAmoSwapD (d base idx : RegField) (seg : SegField) (s : State) : Out := s.unitAmo .swap 8 d base idx seg
def execAmoCasD (d base idx : RegField) (seg : SegField) (s : State) : Out := s.unitAmo .cas 8 d base idx seg
def execAmoIncD (d base idx : RegField) (seg : SegField) (s : State) : Out := s.unitAmo .inc 8 d base idx seg

end Sys2Proof.Machine
end

