-- ==== Sys2Proof/Machine/Block.lean ====
section
/-! DEFINITION. The block instructions as their units issue them (R76, R127 to R132); what happens at the home
stands in Home. -/

namespace Sys2Proof.Machine

/-- A scalar register that a unit may name as a source, as a destination. -/
def State.readIf (s : State) (f : Option RegField) : Gate (Word × State) :=
  match f with
  | none => .go (0, s)
  | some i => s.readS s.cur i

def State.roomIf (s : State) (f : Option RegField) : Gate Unit :=
  match f with
  | none => .go ()
  | some i => s.roomFor false i

/-- A block instruction: offset s(base), a global or peer segment, an address that is a multiple of 256 (R127); its
index register, where it has one, is read at issue. -/
def State.unitBlock (s : State) (kind : ReqKind) (right : Right) (base : RegField) (seg : SegField)
    (idx d : Option RegField) : Out :=
  s.unit ([sreg base] ++ idx.toList.map sreg ++ d.toList.map sreg) <|
    (s.readS s.cur base).next fun (off, s1) =>
      let g := s.segment s.cur seg
      if g.space = .tcm ∨ g.space = .deck then .trap .seg off
      else (s1.locate g [right] off 256).next fun addr =>
        (s1.readIf idx).next fun (x, s2) =>
            (s2.roomIf d).next fun _ =>
                let a : Access := { seg := seg, base := base, n := 256, kind := kind, data := d.getD 0,
                                    writes := d.isSome }
                .go (s2.sendAccess (s2.requestOf a g.space off addr (x.setWidth 128) 0))

def execBwait (base : RegField) (seg : SegField) (s : State) : Out := s.unitBlock .bwait .rd base seg none none
def execBhold (d base : RegField) (seg : SegField) (s : State) : Out := s.unitBlock .bhold .w base seg none (some d)
def execBarm (base idx : RegField) (seg : SegField) (s : State) : Out := s.unitBlock .barm .rd base seg (some idx) none
def execBpoll (d base : RegField) (seg : SegField) (s : State) : Out := s.unitBlock .bpoll .rd base seg none (some d)
def execBgen (d base : RegField) (seg : SegField) (s : State) : Out := s.unitBlock .bgen .rd base seg none (some d)
def execBclr (base : RegField) (seg : SegField) (s : State) : Out := s.unitBlock .bclr .w base seg none none
def execBclrG (base idx : RegField) (seg : SegField) (s : State) : Out := s.unitBlock .bclrG .w base seg (some idx) none
def execBfin (base : RegField) (seg : SegField) (s : State) : Out := s.unitBlock .bfin .w base seg none none

end Sys2Proof.Machine
end

