-- ==== Sys2Proof/Machine/Scalar.lean ====
section
/-! DEFINITION. The scalar instructions of majors 0x00 to 0x0C and their compact forms: what each writes to its
destination (R100 to R106), the multiplications and divisions with their times (R98, R101, R102), and the
write of a division. -/

namespace Sys2Proof.Machine

/-- 1 or 0. -/
def boolWord (b : Bool) : Word := if b then 1 else 0
/-- Bits [31:0] of a value (R99). -/
def low (x : Word) : BitVec 32 := x.setWidth 32
/-- `sext32` (R99). -/
def sext32 (x : BitVec 32) : Word := x.signExtend 64
/-- Bits [127:64] of an exact product (R101). -/
def highProduct (x y : Int) : Word := BitVec.ofInt 64 (x * y / 2 ^ 64)
/-- `mask(n)` (R103). -/
def maskWord (n : Nat) : Word := if 64 ≤ n then BitVec.allOnes 64 else BitVec.ofNat 64 (2 ^ n - 1)

/-- The number of 1 bits among the `n` low bits of `x` (R103). -/
def popCount (x : Nat) : Nat → Nat
  | 0 => 0
  | n + 1 => x % 2 + popCount (x / 2) n

/-- The number of 0 bits above the highest 1 bit of 64, and below the lowest (R103). -/
def leadingZeros (x : Nat) : Nat := if x = 0 then 64 else 63 - x.log2
def trailingZeros (x : Nat) : Nat → Nat
  | 0 => 0
  | n + 1 => if x % 2 = 1 then 0 else 1 + trailingZeros (x / 2) n

/-- The `n` low bits of `x` in reverse order, and its bytes in reverse order (R103). -/
def reverseBits (x : Nat) : Nat → Nat
  | 0 => 0
  | n + 1 => x % 2 * 2 ^ n + reverseBits (x / 2) n
def swapBytes (x : Word) : Word := BitVec.ofNat 64 (ofBytesLE (toBytesLE x.toNat 8).reverse)

/-- The descriptor's position and length (R104). -/
def fieldPos (y : Word) : Nat := field y.toNat 0 6
def fieldLen (y : Word) : Nat := field y.toNat 6 6 + 1

/-- `bext` and `bins` (R103, R104). -/
def extractField (x y : Word) : Word := (x >>> fieldPos y) &&& maskWord (fieldLen y)
def insertField (d x y : Word) : Word :=
  (d &&& ~~~(maskWord (fieldLen y) <<< fieldPos y)) ||| ((x &&& maskWord (fieldLen y)) <<< fieldPos y)

/-- The signed divisions of `w` bits, rounding toward zero, with the results of R102 for a zero divisor and
for overflow. -/
def divSigned (w : Nat) (x y : BitVec w) : BitVec w :=
  if y = 0 then BitVec.allOnes w else BitVec.ofInt w (x.toInt.tdiv y.toInt)
def remSigned (w : Nat) (x y : BitVec w) : BitVec w :=
  if y = 0 then x else BitVec.ofInt w (x.toInt.tmod y.toInt)
def divUnsigned (x y : Word) : Word := if y = 0 then BitVec.allOnes 64 else x / y
def remUnsigned (x y : Word) : Word := if y = 0 then x else x % y

/-- A division: the thread leaves the rotation, and the write falls at issue plus `delay` (R98). -/
def State.unitDivision (s : State) (d a b : RegField) (delay : Nat) (f : Word → Word → Word) : Out :=
  s.unit [sreg a, sreg b, sreg d] <| (s.read2 a b).next fun (x, y, s1) =>
    (s1.destS s.cur d (f x y)).next fun _ =>
      .go ((s1.await s.cur .wsfu (.division d (f x y) (s.now + delay))).later (s.now + delay) (.divisionWrite s.cur))

/-! ### Major 0x00 (R100) -/

def execAdd (d a b : RegField) (s : State) : Out := s.unitS2 d a b 2 fun x y => x + y
def execSub (d a b : RegField) (s : State) : Out := s.unitS2 d a b 2 fun x y => x - y
def execAnd (d a b : RegField) (s : State) : Out := s.unitS2 d a b 2 fun x y => x &&& y
def execOr (d a b : RegField) (s : State) : Out := s.unitS2 d a b 2 fun x y => x ||| y
def execXor (d a b : RegField) (s : State) : Out := s.unitS2 d a b 2 fun x y => x ^^^ y
def execAndn (d a b : RegField) (s : State) : Out := s.unitS2 d a b 2 fun x y => x &&& ~~~y
def execOrn (d a b : RegField) (s : State) : Out := s.unitS2 d a b 2 fun x y => x ||| ~~~y
def execSll (d a b : RegField) (s : State) : Out := s.unitS2 d a b 2 fun x y => x <<< (y.toNat % 64)
def execSrl (d a b : RegField) (s : State) : Out := s.unitS2 d a b 2 fun x y => x >>> (y.toNat % 64)
def execSra (d a b : RegField) (s : State) : Out := s.unitS2 d a b 2 fun x y => x.sshiftRight (y.toNat % 64)
def execRol (d a b : RegField) (s : State) : Out := s.unitS2 d a b 2 fun x y => x.rotateLeft (y.toNat % 64)
def execRor (d a b : RegField) (s : State) : Out := s.unitS2 d a b 2 fun x y => x.rotateRight (y.toNat % 64)
def execSlt (d a b : RegField) (s : State) : Out := s.unitS2 d a b 2 fun x y => boolWord (x.slt y)
def execSltu (d a b : RegField) (s : State) : Out := s.unitS2 d a b 2 fun x y => boolWord (x.ult y)
def execMin (d a b : RegField) (s : State) : Out := s.unitS2 d a b 2 fun x y => if y.slt x then y else x
def execMax (d a b : RegField) (s : State) : Out := s.unitS2 d a b 2 fun x y => if x.slt y then y else x
def execMinu (d a b : RegField) (s : State) : Out := s.unitS2 d a b 2 fun x y => if y.ult x then y else x
def execMaxu (d a b : RegField) (s : State) : Out := s.unitS2 d a b 2 fun x y => if x.ult y then y else x
def execAddw (d a b : RegField) (s : State) : Out := s.unitS2 d a b 2 fun x y => sext32 (low x + low y)
def execSubw (d a b : RegField) (s : State) : Out := s.unitS2 d a b 2 fun x y => sext32 (low x - low y)
def execSllw (d a b : RegField) (s : State) : Out := s.unitS2 d a b 2 fun x y => sext32 (low x <<< (y.toNat % 32))
def execSrlw (d a b : RegField) (s : State) : Out := s.unitS2 d a b 2 fun x y => sext32 (low x >>> (y.toNat % 32))
def execSraw (d a b : RegField) (s : State) : Out := s.unitS2 d a b 2 fun x y => sext32 ((low x).sshiftRight (y.toNat % 32))

/-- `cmov`: A where B is not 0; otherwise no register is written and nothing is pushed (R100, R446). The old `d` is read (R96),
so that one in error ends the thread (R385). -/
def execCmov (d a b : RegField) (s : State) : Out :=
  s.unit [sreg a, sreg b, sreg d] <| (s.read2 a b).next fun (x, y, s1) => (s.sound s.cur (sreg d)).next fun _ =>
    if y = 0 then .go (s1.complete s.cur)
    else (s1.putS s.cur d x 2).next fun s2 => .go (s2.complete s.cur)

/-! ### Major 0x01 (R101, R102) -/
def execMul (d a b : RegField) (s : State) : Out := s.unitS2 d a b 6 fun x y => x * y
def execMulh (d a b : RegField) (s : State) : Out := s.unitS2 d a b 6 fun x y => highProduct x.toInt y.toInt
def execMulhu (d a b : RegField) (s : State) : Out := s.unitS2 d a b 6 fun x y => highProduct x.toNat y.toNat
def execMulhsu (d a b : RegField) (s : State) : Out := s.unitS2 d a b 6 fun x y => highProduct x.toInt y.toNat
def execMulw (d a b : RegField) (s : State) : Out := s.unitS2 d a b 6 fun x y => sext32 (low x * low y)
def execDiv (d a b : RegField) (s : State) : Out := s.unitDivision d a b 48 fun x y => divSigned 64 x y
def execDivu (d a b : RegField) (s : State) : Out := s.unitDivision d a b 48 fun x y => divUnsigned x y
def execRem (d a b : RegField) (s : State) : Out := s.unitDivision d a b 48 fun x y => remSigned 64 x y
def execRemu (d a b : RegField) (s : State) : Out := s.unitDivision d a b 48 fun x y => remUnsigned x y
def execDivw (d a b : RegField) (s : State) : Out := s.unitDivision d a b 24 fun x y => sext32 (divSigned 32 (low x) (low y))
def execRemw (d a b : RegField) (s : State) : Out := s.unitDivision d a b 24 fun x y => sext32 (remSigned 32 (low x) (low y))

/-- DIVISION_WRITE: in its tick the division's register write is performed and the thread is ready again (R98); room for a push
has been kept since the issue. -/
def execDivisionWrite (t : Nat) (s : State) : Out :=
  match (s.thread t).wait with
  | .division d v due =>
    if s.now < due then .next s
    else .next ((s.writeS t d v 0).complete t)
  | _ => .next s

/-! ### Major 0x02 (R103, R104) -/
def execPopc (d a : RegField) (s : State) : Out := s.unitS1 d a 2 fun x => BitVec.ofNat 64 (popCount x.toNat 64)
def execClz (d a : RegField) (s : State) : Out := s.unitS1 d a 2 fun x => BitVec.ofNat 64 (leadingZeros x.toNat)
def execCtz (d a : RegField) (s : State) : Out := s.unitS1 d a 2 fun x => BitVec.ofNat 64 (trailingZeros x.toNat 64)
def execBrev (d a : RegField) (s : State) : Out := s.unitS1 d a 2 fun x => BitVec.ofNat 64 (reverseBits x.toNat 64)
def execBswap (d a : RegField) (s : State) : Out := s.unitS1 d a 2 fun x => swapBytes x
def execSextB (d a : RegField) (s : State) : Out := s.unitS1 d a 2 fun x => (x.setWidth 8).signExtend 64
def execSextH (d a : RegField) (s : State) : Out := s.unitS1 d a 2 fun x => (x.setWidth 16).signExtend 64
def execSextW (d a : RegField) (s : State) : Out := s.unitS1 d a 2 fun x => sext32 (low x)
def execZextB (d a : RegField) (s : State) : Out := s.unitS1 d a 2 fun x => (x.setWidth 8).setWidth 64
def execZextH (d a : RegField) (s : State) : Out := s.unitS1 d a 2 fun x => (x.setWidth 16).setWidth 64
def execZextW (d a : RegField) (s : State) : Out := s.unitS1 d a 2 fun x => (low x).setWidth 64
def execLsb (d a : RegField) (s : State) : Out := s.unitS1 d a 2 fun x => x &&& (-x)
def execMsk (d a : RegField) (s : State) : Out := s.unitS1 d a 2 fun x => maskWord x.toNat
def execBext (d a b : RegField) (s : State) : Out := s.unitS2 d a b 2 fun x y => extractField x y

/-- `bins` also reads the old value of d, which is 0 for a port and never pops one (R96). -/
def execBins (d a b : RegField) (s : State) : Out :=
  s.unit [sreg a, sreg b, sreg d] <| (s.read2 a b).next fun (x, y, s1) => (s.sound s.cur (sreg d)).next fun _ =>
    (s1.putS s.cur d (insertField (s.oldS s.cur d) x y) 2).next fun s2 => .go (s2.complete s.cur)

/-! ### Immediate forms (R105, R106) -/

/-- The immediate of 13 bits, sign-extended (R64). -/
def imm13 (i : BitVec 13) : Word := i.signExtend 64
def execAddi (d a : RegField) (i : BitVec 13) (s : State) : Out := s.unitS1 d a 2 fun x => x + imm13 i
def execAndi (d a : RegField) (i : BitVec 13) (s : State) : Out := s.unitS1 d a 2 fun x => x &&& imm13 i
def execOri (d a : RegField) (i : BitVec 13) (s : State) : Out := s.unitS1 d a 2 fun x => x ||| imm13 i
def execXori (d a : RegField) (i : BitVec 13) (s : State) : Out := s.unitS1 d a 2 fun x => x ^^^ imm13 i
def execSlti (d a : RegField) (i : BitVec 13) (s : State) : Out := s.unitS1 d a 2 fun x => boolWord (x.slt (imm13 i))
def execSltiu (d a : RegField) (i : BitVec 13) (s : State) : Out := s.unitS1 d a 2 fun x => boolWord (x.ult (imm13 i))
def execAddiw (d a : RegField) (i : BitVec 13) (s : State) : Out := s.unitS1 d a 2 fun x => sext32 (low x + low (imm13 i))
def execSlli (d a : RegField) (n : BitVec 6) (s : State) : Out := s.unitS1 d a 2 fun x => x <<< n.toNat
def execSrli (d a : RegField) (n : BitVec 6) (s : State) : Out := s.unitS1 d a 2 fun x => x >>> n.toNat
def execSrai (d a : RegField) (n : BitVec 6) (s : State) : Out := s.unitS1 d a 2 fun x => x.sshiftRight n.toNat
def execSlliw (d a : RegField) (n : BitVec 5) (s : State) : Out := s.unitS1 d a 2 fun x => sext32 (low x <<< n.toNat)
def execSrliw (d a : RegField) (n : BitVec 5) (s : State) : Out := s.unitS1 d a 2 fun x => sext32 (low x >>> n.toNat)
def execSraiw (d a : RegField) (n : BitVec 5) (s : State) : Out := s.unitS1 d a 2 fun x => sext32 ((low x).sshiftRight n.toNat)

/-- A unit that writes a scalar register and reads none. -/
def State.unitS0 (s : State) (d : RegField) (v : Word) : Out :=
  s.unit [sreg d] <| (s.putS s.cur d v 2).next fun s1 => .go (s1.complete s.cur)

/-- The immediate of 19 bits, sign-extended, times 2^13 (R106). -/
def upper19 (i : BitVec 19) : Word := i.signExtend 64 <<< 13
def execLui (d : RegField) (i : BitVec 19) (s : State) : Out := s.unitS0 d (upper19 i)

/-- `lpc` adds the offset of its own first halfword, whatever prefix stands before it (R106). -/
def execLpc (d : RegField) (i : BitVec 19) (s : State) : Out :=
  s.unitS0 d (s.me.iss.ipc.setWidth 64 + upper19 i)

/-! ### Compact forms (R83, R112) -/
def execCAddi (d a : CReg) (i : BitVec 5) (s : State) : Out :=
  s.unitS1 (creg d) (creg a) 2 fun x => x + i.signExtend 64
def execCLi (d : CReg) (i : BitVec 8) (s : State) : Out := s.unitS0 (creg d) (i.signExtend 64)
def execCMv (d a : CReg) (s : State) : Out := s.unitS1 (creg d) (creg a) 2 fun x => x
def execCAdd (d a : CReg) (s : State) : Out := s.unitS2 (creg d) (creg d) (creg a) 2 fun x y => x + y
def execCSub (d a : CReg) (s : State) : Out := s.unitS2 (creg d) (creg d) (creg a) 2 fun x y => x - y
def execCAnd (d a : CReg) (s : State) : Out := s.unitS2 (creg d) (creg d) (creg a) 2 fun x y => x &&& y
def execCSlli (d : CReg) (n : BitVec 6) (s : State) : Out := s.unitS1 (creg d) (creg d) 2 fun x => x <<< n.toNat
def execCSrli (d : CReg) (n : BitVec 6) (s : State) : Out := s.unitS1 (creg d) (creg d) 2 fun x => x >>> n.toNat

end Sys2Proof.Machine
end

