-- ==== Sys2Proof/Machine/Control.lean ====
section
/-! DEFINITION. Jumps, branches and mask tests (R107 to R111), their compact forms, the unit that is not an
instruction (R84), and the prefixes (R67, R68, R137, R141 to R144). -/

namespace Sys2Proof.Machine

/-- A halfword offset added to a code offset, modulo 2^57 (R64, R107). -/
def relative (p : BitVec 57) (n : Int) : BitVec 57 := p + BitVec.ofInt 57 (2 * n)

/-- P + 4, the link of a jump at P (R107). -/
def linkOf (p : BitVec 57) : Word := p.setWidth 64 + 4

/-- `jal`: the link is written and the thread continues at the target (R107). -/
def execJal (d : RegField) (i : BitVec 19) (s : State) : Out :=
  let p := s.me.iss.ipc
  s.unit [sreg d] <| (s.putS s.cur d (linkOf p) 2).next fun s1 => .go (s1.jump s.cur (relative p i.toInt))

/-- `jalr`: the target is read before the link is written; bits 63 to 57 of it must be 0, and bit 0 is
ignored (R108). DESIGN CHOICE (assumption 101): of several outcomes of one unit, the port check is made first (R85), then
the target's (SEG), then the link's place (an `h29` release that names no claimed entry, or the wait of a full queue). -/
def execJalr (d a : RegField) (i : BitVec 13) (s : State) : Out :=
  s.unit [sreg a, sreg d] <| (s.readS s.cur a).next fun (x, s1) =>
    let target := x + imm13 i
    if 2 ^ 57 ≤ target.toNat then .trap .seg target
    else (s1.putS s.cur d (linkOf s.me.iss.ipc) 2).next fun s2 =>
      .go (s2.jump s.cur (BitVec.ofNat 57 (target.toNat / 2 * 2)))

/-- The end of a branch: the target where it is taken, otherwise the offset after the unit (R109). -/
def State.branch (s : State) (taken : Bool) (off : Int) : State :=
  if taken then s.jump s.cur (relative s.me.iss.ipc off) else s.complete s.cur

/-- A branch on two registers, both of which are read whether or not it is taken (R109). -/
def State.unitBranch (s : State) (a b : RegField) (off : Int) (c : Word → Word → Bool) : Out :=
  s.unit [sreg a, sreg b] <| (s.read2 a b).next fun (x, y, s1) => .go (s1.branch (c x y) off)

/-- A branch on one register. -/
def State.unitBranch1 (s : State) (a : RegField) (off : Int) (c : Word → Bool) : Out :=
  s.unit [sreg a] <| (s.readS s.cur a).next fun (x, s1) => .go (s1.branch (c x) off)

def execBeq (a b : RegField) (i : BitVec 13) (s : State) : Out := s.unitBranch a b i.toInt fun x y => x == y
def execBne (a b : RegField) (i : BitVec 13) (s : State) : Out := s.unitBranch a b i.toInt fun x y => x != y
def execBlt (a b : RegField) (i : BitVec 13) (s : State) : Out := s.unitBranch a b i.toInt fun x y => x.slt y
def execBge (a b : RegField) (i : BitVec 13) (s : State) : Out := s.unitBranch a b i.toInt fun x y => !x.slt y
def execBltu (a b : RegField) (i : BitVec 13) (s : State) : Out := s.unitBranch a b i.toInt fun x y => x.ult y
def execBgeu (a b : RegField) (i : BitVec 13) (s : State) : Out := s.unitBranch a b i.toInt fun x y => !x.ult y

/-! ### Mask tests (R110) -/

def execBany (a b : RegField) (i : BitVec 10) (s : State) : Out := s.unitBranch a b i.toInt fun x y => x &&& y != 0
def execBall (a b : RegField) (i : BitVec 10) (s : State) : Out := s.unitBranch a b i.toInt fun x y => x &&& y == y
def execBnone (a b : RegField) (i : BitVec 10) (s : State) : Out := s.unitBranch a b i.toInt fun x y => x &&& y == 0
def execBbs (a : RegField) (n : BitVec 6) (i : BitVec 10) (s : State) : Out :=
  s.unitBranch1 a i.toInt fun x => bitAt x.toNat n.toNat
def execBbc (a : RegField) (n : BitVec 6) (i : BitVec 10) (s : State) : Out :=
  s.unitBranch1 a i.toInt fun x => !bitAt x.toNat n.toNat

/-! ### Compact forms (R83, R112) -/

def execCBeqz (a : CReg) (o : BitVec 7) (s : State) : Out := s.unitBranch1 (creg a) o.toInt fun x => x == 0
def execCBnez (a : CReg) (o : BitVec 7) (s : State) : Out := s.unitBranch1 (creg a) o.toInt fun x => x != 0
/-- `c.j` is `jal s0`. -/
def execCJ (o : BitVec 11) (s : State) : Out :=
  .next ((s.writeS s.cur 0 ((s.me.iss.ipc + 2).setWidth 64) 2).jump s.cur (relative s.me.iss.ipc o.toInt))

/-! ### Units that are not instructions, and prefixes -/

/-- ILLEGAL_UNIT: ILLEGAL with the unit's halfwords in `taddr` (R84). -/
def execIllegalUnit (raw : Word) (s : State) : Out := .next (s.trap s.cur .illegal raw)

/-- The iteration a `rep` unit starts from and the number still to run (R141, R144). -/
def Thread.repStart (x : Thread) (count : Nat) : Nat × Nat :=
  match x.repAt with
  | some p => p
  | none => if x.repc.act then (x.repc.done.toNat, x.repc.left.toNat) else (0, count)

/-- `rep`: the unit's current iteration; with none left to run the unit completes (R142, R144). -/
def execRep (count : BitVec 6) (_stride : BitVec 5) (s : State) : Out :=
  let (i, n) := s.me.repStart count.toNat
  if n = 0 then
    .next ((s.modThread s.cur fun x => { x.goOn x.iss.npc with repAt := none, repc := {} }).mirror s.cur)
  else
    .next (s.modThread s.cur fun x =>
      { x with repAt := some (i, n), iss := { x.iss with rep := true, iter := i, left := n } })

/-- `rlx`: the access of the unit is relaxed (R137). -/
def execRlx (s : State) : Out := .next (s.modThread s.cur fun x => { x with iss := { x.iss with rlx := true } })

end Sys2Proof.Machine
end

