-- ==== Sys2Proof/Machine/Home.lean ====
section
/-! DEFINITION. The home of ONCE blocks (R270 to R285): coverage, waiters, holds, clears, verdicts, poison, the pool
that backs its lists, and the fetches of windows that meet it (R320, R329, R370). -/

namespace Sys2Proof.Machine

/-! ### The pool and the fill-assembly entries (R272 to R276) -/

/-- The span of a block, by its number on this device; the spans of other devices' homes are numbered from 256. -/
def State.spanKey (s : State) (b : Nat) : Nat :=
  let d := b * 256 / 2 ^ 48
  if d = s.dev.toNat then homeSpan (b * 256) else 256 + 8 * d + homeSpan (b * 256)

/-- The blocks of a span's pool: 64 MiB of 256-byte blocks unless firmware has sized it (R276), and those in use. -/
def State.poolSize (s : State) (span : Nat) : Nat := s.pool.get (2 ^ 18) span
def State.poolBusy (s : State) (span : Nat) : List Nat := s.poolUsed.get [] span

/-- The physical address of a pool block of the span of block `b`. -/
def State.poolPlace (s : State) (b k : Nat) : Nat :=
  b * 256 / 2 ^ 48 * 2 ^ 48 + Config.poolBase (s.spanKey b) / 256 * 256 + 256 * k

/-- The lowest `n` numbers from `i` on that a list leaves free. -/
def freeNumbers (used : List Nat) (i n : Nat) : Nat → List Nat
  | 0 => []
  | k + 1 =>
    if n = 0 then []
    else if used.contains i then freeNumbers used (i + 1) n k else i :: freeNumbers used (i + 1) (n - 1) k

/-- A request that waits for a pool block is still to be served. -/
def State.awaitsPool (s : State) : PoolUser → Bool
  | .req r => (s.req r).live && (s.req r).status == .issued
  | .fetch key blk => ((s.windows.get {} key).blocks.get {} blk).state == .f
  | .copy id => (s.copies.find id).isSome
  | .drain core => (s.core core).mxRun.isSome
  | .flush key => !(s.windows.get {} key).flushes.isEmpty
  | .host _ => true
  | .home => false

/-- Those that wait for a pool block of a span, oldest first. -/
def State.poolLine (s : State) (span : Nat) : List PoolUser := (s.poolWait.get [] span).filter s.awaitsPool

/-- `n` pool blocks taken for a user: none where too few are free, or where another waits first (R276). The next that waits is
tried once one has been served. -/
def State.poolTake (s : State) (span n : Nat) (who : PoolUser) : Option (State × List Nat) :=
  if n = 0 then some (s, [])
  else
    let used := s.poolBusy span
    let before := match s.poolLine span with
      | [] => false
      | h :: _ => h != who
    if before || decide (s.poolSize span < used.length + n) then none
    else
      let ks := freeNumbers used 0 n (used.length + n)
      let rest := (s.poolLine span).filter (· != who)
      let s1 := { s with poolUsed := s.poolUsed.put span (used ++ ks), poolWait := s.poolWait.put span rest }
      some (if rest.isEmpty then s1 else s1.emit (.poolBlockFreed span), ks)

/-- Pool blocks freed. -/
def State.poolGive (s : State) (span : Nat) (ks : List Nat) : State :=
  if ks = [] then s
  else ({ s with poolUsed := s.poolUsed.put span ((s.poolBusy span).filter fun k => !ks.contains k) }).emit (.poolBlockFreed span)

/-- Pool blocks of a list of `n` waiters: 31 stand in the list's own block, and 31 in each further one (R45, R275). -/
def chainBlocks (n : Nat) : Nat := (n - 31 + 30) / 31
/-- Pool blocks of a queue of `n` holds, in blocks of the same layout. -/
def holdBlocks (n : Nat) : Nat := (n + 30) / 31

def Health.wait (h : Health) : Health := { h with pwait := if h.pwait < 2 ^ 32 - 1 then h.pwait + 1 else h.pwait }

/-- A request waits for a pool block, in order of arrival, and the wait is counted once (R276). -/
def State.waitPool (s : State) (span : Nat) (who : PoolUser) : State :=
  if (s.poolWait.get [] span).contains who then s
  else { s with poolWait := s.poolWait.put span (s.poolWait.get [] span ++ [who]),
                health := s.health.put span (s.health.get {} span).wait }

/-! ### Lists as they lie in memory (R44, R45, R272) -/

/-- A waiter entry as the 64 bits of R44. -/
def Waiter.word (w : Waiter) : Word :=
  BitVec.ofNat 64 (w.win.toNat * 2 ^ 63 + w.gen.toNat * 2 ^ 57 + w.tag.toNat * 2 ^ 33 + w.cls.toNat * 2 ^ 27 +
    w.slot.toNat * 2 ^ 23 + w.core.toNat * 2 ^ 10 + w.dev.toNat * 2 ^ 2 + w.arm.toNat * 2 + 1)

/-- One block of a list: up to 31 entries, and the chain doubleword with the next block's address. -/
def listBytes (ws : List Waiter) (next : Option Nat) : List Byte :=
  ((List.range 31).flatMap fun i => toBytesLE ((ws[i]?.map Waiter.word).getD 0).toNat 8) ++
    toBytesLE ((next.map fun a => a % 2 ^ 48 + 1).getD 0) 8

/-- The pool blocks of a list written. -/
def State.putChain (s : State) (b : Nat) : List Nat → List Waiter → State
  | [], _ => s
  | k :: ks, ws =>
    (s.memWrite (s.poolPlace b k) (listBytes (ws.take 31) (ks.head?.map (s.poolPlace b)))).putChain b ks (ws.drop 31)

def Block.fill (x : Block) : FillEntry := x.entry.getD {}
def Block.cov (x : Block) : BitVec 64 := x.fill.cov

/-- The list stands in the entry's waiter area: states P and H (R270, R275). -/
def Block.inArea (x : Block) : Bool := x.held || x.cov != 0

/-- A block's list written where it stands: its own 256 bytes or the entry's waiter area, and the pool blocks. -/
def State.putList (s : State) (b : Nat) : State :=
  let x := s.block b
  let bs := listBytes (x.waiters.take 31) (x.chain.head?.map (s.poolPlace b))
  let s1 := if x.inArea then s.putBlock b { x with entry := some { x.fill with area := bs } } else s.memWrite (b * 256) bs
  s1.putChain b x.chain (x.waiters.drop 31)

/-- An entry's 64-byte header (R272); `hq` is the address of its first hold-queue block. -/
def FillEntry.header (e : FillEntry) (x : Block) (b : Nat) (hq : Nat) : Nat :=
  let w := e.res.getD {}
  2 ^ 511 + e.holds.length * 2 ^ 185 + hq / 256 % 2 ^ 40 * 2 ^ 145 + w.dev.toNat * 2 ^ 137 + w.core.toNat * 2 ^ 124 +
    w.slot.toNat * 2 ^ 120 + e.verdicts.length * 2 ^ 112 + x.held.toNat * 2 ^ 111 + e.res.isSome.toNat * 2 ^ 110 +
    x.gen.toNat * 2 ^ 104 + b % 2 ^ 40 * 2 ^ 64 + e.cov.toNat

/-- Zero bytes. -/
def zeros (n : Nat) : List Byte := List.replicate n 0

/-- An entry's 320 bytes: the header and the waiter area. -/
def State.entryBytes (s : State) (b : Nat) : List Byte :=
  let e := (s.block b).fill
  toBytesLE (e.header (s.block b) b ((e.queue.head?.map (s.poolPlace b)).getD 0)) 64 ++ (e.area ++ zeros 256).take 256

/-! ### Entries taken, spilled and reloaded (R273, R274) -/

/-- The resident entries of a span: block, tick of the last touch, whether held only for queued holds. -/
def State.residents (s : State) (span : Nat) : List (Nat × Nat × Bool) :=
  s.blocks.filterMap fun (p : Nat × Block) =>
    match p.2.entry with
    | some e => if s.spanKey p.1 = span ∧ e.spill = []
        then some (p.1, e.touched, e.res.isNone && e.cov == 0 && !p.2.held && !e.holds.isEmpty) else none
    | none => none

/-- The lines that may be pinned in one set of a span's cache (R339). -/
def pinnedWays : Nat := 8

/-- The entry to spill: one held only for a queued hold first, else the least recently touched (R274). -/
def spillChoice : List (Nat × Nat × Bool) → Option (Nat × Nat × Bool)
  | [] => none
  | p :: ps => match spillChoice ps with
    | none => some p
    | some q =>
      if p.2.2 && !q.2.2 then some p
      else if !p.2.2 && q.2.2 then some q
      else if p.2.1 ≤ q.2.1 then some p else some q

/-- Room for one more resident entry, of block `b`: with all 4,096 of its span in use one is spilled to two pool blocks (R274); one
of its line's set, where that has no way left to pin (R339). -/
def State.entryRoom (s : State) (b : Nat) (who : PoolUser) : Option State :=
  let span := s.spanKey b
  let all := s.residents span
  let here := all.filter fun p => Config.mscSet p.1 == Config.mscSet b
  let rs := if pinnedWays ≤ here.length then here else all
  if all.length < 4096 ∧ here.length < pinnedWays then some s
  else match spillChoice rs, s.poolTake span 2 who with
    | some v, some (s1, ks) =>
      let bs := s1.entryBytes v.1
      let s2 := (s1.memWrite (s1.poolPlace v.1 (ks.getD 0 0)) (bs.take 256)).memWrite (s1.poolPlace v.1 (ks.getD 1 0)) (bs.drop 256)
      some (s2.modBlock v.1 fun x => { x with entry := some { x.fill with spill := ks } })
    | _, _ => none

/-- A request reaches a block: a spilled entry is reloaded first, and an entry counts as touched; none where the pool leaves
no room for that (R274). -/
def State.touch (s : State) (b : Nat) (who : PoolUser) : Option State :=
  let span := s.spanKey b
  match (s.block b).entry with
  | none => some s
  | some e =>
    if e.spill = [] then some (s.modBlock b fun x => { x with entry := some { e with touched := s.now } })
    else match s.entryRoom b who with
      | none => none
      | some s1 =>
        some ((s1.modBlock b fun x => { x with entry := some { e with spill := [], touched := s.now } }).poolGive span e.spill)

/-- The block with a resident entry, taken or reloaded; none where the pool leaves no room for that (R273, R274). -/
def State.withEntry (s : State) (b : Nat) (who : PoolUser) : Option State :=
  match (s.block b).entry with
  | some _ => s.touch b who
  | none =>
    match s.entryRoom b who with
    | none => none
    | some s1 => some (s1.modBlock b fun x => { x with entry := some { touched := s.now } })

/-- The entry that a block still needs: one with a reservation, queued holds, or a fill in progress (R273). -/
def Block.tidy (x : Block) : Block :=
  match x.entry with
  | none => x
  | some e =>
    if e.res.isNone && e.holds.isEmpty && (x.pres == .full || x.pres == .poison || (e.cov == 0 && !x.held))
    then { x with entry := none } else x

/-- The pool blocks that an entry names. -/
def FillEntry.blocks (e : FillEntry) : List Nat := e.queue ++ e.spill

/-- The entry freed where the block no longer needs it, with the pool blocks that it names (R273). -/
def State.tidy (s : State) (b : Nat) : State :=
  let e := (s.block b).fill
  let x := (s.block b).tidy
  let s1 := s.putBlock b x
  if x.entry.isNone then s1.poolGive (s.spanKey b) e.blocks else s1

/-- The presence code of a block that is neither FULL nor POISON: DEFERRED while it has waiters or is held. -/
def Block.recode (x : Block) : Block :=
  if x.pres = .full ∨ x.pres = .poison then x
  else { x with pres := if x.held || !x.waiters.isEmpty then .deferred else .empty }

/-! ### Waiters (R44, R275, R277, R278) -/

/-- A block with its list in the given pool blocks, and the bits that follow from it (R43, R279). -/
def Block.withList (x : Block) (b : Nat) (ws : List Waiter) (chain : List Nat) : Block :=
  ({ x with waiters := ws, chain := chain, peerw := ws.any fun w => w.dev.toNat != b * 256 / 2 ^ 48 } : Block).recode

/-- A block's list replaced and written; none where it needs a pool block and none is free. -/
def State.setWaiters (s : State) (b : Nat) (ws : List Waiter) (who : PoolUser) : Option State :=
  let x := s.block b
  let n := chainBlocks ws.length
  match s.poolTake (s.spanKey b) (n - x.chain.length) who with
  | none => none
  | some (s1, ks) =>
    some (((s1.modBlock b fun x => x.withList b ws ((x.chain ++ ks).take n)).putList b).poolGive (s.spanKey b) (x.chain.drop n))

/-- A waiter entered at the end of a block's list. -/
def State.addWaiter (s : State) (b : Nat) (w : Waiter) (who : PoolUser) : Option State :=
  s.setWaiters b ((s.block b).waiters ++ [w]) who

/-- A list that becomes shorter needs no pool block. -/
def State.keepWaiters (s : State) (b : Nat) (f : Waiter → Bool) : State :=
  let ws := (s.block b).waiters.filter f
  if ws = (s.block b).waiters then s else (s.setWaiters b ws .home).getD s

/-- The thread that a request is for, as a waiter entry names it. -/
def State.waiterOf (s : State) (r : Nat) : Waiter :=
  let q := s.req r
  let w : Waiter := { gen := (s.block (q.phys / 256)).gen, slot := BitVec.ofNat 4 (slotOf q.thread),
                      core := BitVec.ofNat 13 (coreOf q.thread), dev := s.dev, req := r, launch := q.launch, dva := q.dva }
  match q.from_ with
  | none => w
  | some p => { w with slot := p.slot, core := p.core, dev := p.dev }

/-- The queue of holds replaced, and written as R272 has it; none where it needs a pool block and none is free. -/
def State.setHolds (s : State) (b : Nat) (hs : List Nat) (who : PoolUser) : Option State :=
  let e := (s.block b).fill
  let n := holdBlocks hs.length
  match s.poolTake (s.spanKey b) (n - e.queue.length) who with
  | none => none
  | some (s1, ks) =>
    let q := (e.queue ++ ks).take n
    let s2 := s1.modBlock b fun x => { x with entry := some { x.fill with holds := hs, queue := q } }
    some ((s2.putChain b q (hs.map s2.waiterOf)).poolGive (s.spanKey b) (e.queue.drop n))

/-- The entry about a message for a device outside the domain (R231, R416): the sending core and the header. -/
def State.reportLost (s : State) (m : Message) : State :=
  s.report m.launch (s.errorEntry { core := field m.hdr.toNat 16 13 } 4 .ring 0 0 m.hdr.toNat)

/-- A message handed to the network: it stands in flight until it is delivered (R364), or, one for another device, until the
flit that carries it is acknowledged; one for a device outside the domain is dropped (R416). -/
def State.post (s : State) (m : Message) : State :=
  let s1 := { s with flight := s.flight ++ [m] }
  if m.dstDev = s.dev.toNat then s1.emit (.messageDelivery m.dstCore)
  else if s.reaches m.dstDev then s1
  else s.reportLost m

/-- A block notice for an arm waiter (R54, R130). -/
def State.notice (s : State) (w : Waiter) (pres : Nat) (gen : BitVec 6) : State :=
  let hdr := w.tag.toNat * 2 ^ 40 + w.dev.toNat * 2 ^ 32 + w.core.toNat * 2 ^ 16 + w.slot.toNat * 2 ^ 12 + 2 ^ 8 +
    2 * 2 ^ 6 + w.cls.toNat
  s.post { hdr := BitVec.ofNat 64 hdr,
           payload := [BitVec.ofNat 64 (w.dva.toNat / 256 * 256 + pres * 64 + gen.toNat)],
           dstDev := w.dev.toNat, dstCore := w.core.toNat, launch := w.launch }

/-- A thread whose parked access may be made again is ready, and a twin follower with its leader. -/
def State.readyFor (s : State) (t : Nat) : State :=
  let x := s.thread t
  let s1 := s.setThread t { x with state := .ready }
  if x.twin && !x.iss.alone then s1.modThread (partner t) fun y => { y with state := .ready } else s1

/-- A parked access goes on: its thread is ready, and re-issues it at its next turn (R251); a relaxed one, a stream
unit and another device's access are answered at once. -/
def State.unpark (s : State) (r : Nat) : State :=
  let q := s.req r
  let stream := match q.kind with
    | .stream _ _ => true
    | _ => false
  if q.relaxed || stream || q.from_.isSome then s.emit (q.reply r) else s.readyFor q.thread

/-- The accesses that touch a window's block and have not been answered. -/
def State.touching (s : State) (key blk : Nat) : List Nat :=
  let lo := (s.windows.get {} key).dbase + 256 * blk
  (s.reqs.filter fun (p : Nat × Req) =>
    p.2.live && p.2.space == .deck && p.2.cluster == key / 8 && decide (lo ≤ p.2.phys ∧ p.2.phys < lo + 256) &&
      (p.2.status == .blocked || p.2.status == .parked)).map (·.1)

/-- The accesses of a window's block are made again. -/
def State.retryTouching (s : State) (key blk : Nat) : State :=
  (s.touching key blk).foldl (fun s r =>
    let parked := (s.req r).status == .parked
    let s1 := s.modReq r fun q => { q with status := .blocked }
    if parked then s1.unpark r else s1.emit ((s.req r).reply r)) s

/-- The accesses of a window's block fail. -/
def State.failTouching (s : State) (key blk : Nat) (c : Cause) : State :=
  let dva := (s.windows.get {} key).gbase.toNat + 256 * blk
  (s.touching key blk).foldl (fun s r => s.refuse r c dva) s

/-- The key of the window that a window waiter names. -/
def Waiter.window (w : Waiter) : Nat := clusterOf w.core.toNat * 8 + w.slot.toNat % 8

/-- One waiter served (R277, R329). -/
def State.serve (s : State) (b : Nat) (poison : Bool) (w : Waiter) : State :=
  if w.arm then s.notice w (if poison then 3 else 1) (s.block b).gen
  else if w.win then
    match (s.windowsOn b).find? fun p => p.1 == w.window with
    | none => s
    | some p =>
      if poison then (s.modWinBlock p.1 p.2.1 WinBlock.poisoned).failTouching p.1 p.2.1 .poison
      else (s.beginFetch p.1 p.2.1).retryTouching p.1 p.2.1
  else
    let q := s.req w.req
    if !q.live || q.status != .parked then s
    else if poison then s.refuse w.req .poison q.dva.toNat
    else
      let v := if q.kind = .bwait then 0 else BitVec.ofNat 128 (s.memRead q.phys q.n)
      let s1 := (if q.kind = .bwait then s else s.refer w.req).modReq w.req fun q => { q with status := .replied, result := v }
      if q.kind = .bwait then s1.emit (q.reply w.req) else s1.unpark w.req

/-- The copies that a block holds go on (R197). -/
def State.resumeCopies (s : State) (b : Nat) : State :=
  (s.copies.filter fun (p : Nat × Copy) => p.2.heldOn == some b).foldl
    (fun s p => ({ s with copies := s.copies.put p.1 { p.2 with heldOn := none } }).emit (.copyUnitRequest p.2.core)) s

/-- The release of a block's waiters in order of registration; the chain and peerw bits are cleared and the pool blocks of the
list are freed (R277). -/
def State.release (s : State) (b : Nat) (poison : Bool) : State :=
  let x := s.block b
  let s1 := s.modBlock b fun x => { x with waiters := [], chain := [], peerw := false }
  ((x.waiters.foldl (fun s w => s.serve b poison w) s1).poolGive (s.spanKey b) x.chain).resumeCopies b

/-! ### Coverage (R124, R132, R271, R280) -/

/-- A fill whose coverage is complete: H while verdicts are pending, otherwise FULL with its waiters released. -/
def State.completeFill (s : State) (b : Nat) : State :=
  let x := s.block b
  let e := x.fill
  if e.verdicts = [] then
    ((s.putBlock b { x with pres := .full, held := false, entry := some { e with cov := 0, res := none } }).release b false).tidy b
  else s.putBlock b { x with pres := .deferred, held := true, entry := some { e with cov := BitVec.allOnes 64, res := none } }

/-- Words covered by a unit; a hold-mode crew that contributes for the first time adds its verdict (R280). -/
def State.cover (s : State) (b : Nat) (m : BitVec 64) (hold : Option Nat) : State :=
  let s1 := match hold with
    | none => s
    | some c =>
      if (s.block b).fill.verdicts.contains c then s
      else
        let s2 := s.modBlock b fun x => { x with entry := some { x.fill with verdicts := x.fill.verdicts ++ [c] } }
        if (s2.crews.find c).isNone then s2
        else s2.modCrew c fun k => { k with heldBlocks := if k.heldBlocks.contains b then k.heldBlocks else k.heldBlocks ++ [b] }
  let s2 := s1.modBlock b fun x => { x with entry := some { x.fill with cov := x.fill.cov ||| m } }
  if (s2.block b).cov = BitVec.allOnes 64 then s2.completeFill b else s2

/-- The first covering store moves the list of a block in D, unchanged, into the entry's waiter area (R275). -/
def State.moveList (s : State) (b : Nat) : State :=
  let x := s.block b
  if x.cov = 0 ∧ x.waiters ≠ [] then
    s.putBlock b { x with entry := some { x.fill with area := s.mem.readList (b * 256) 256 } }
  else s

/-- A covering access to words `m` of a ONCE block at its home, whose bytes `write` writes: performed, refused with none of
its words, or waiting for a pool block (R124, R271). -/
def State.coverWith (s : State) (b : Nat) (m : BitVec 64) (write : State → State) (hold : Option Nat) (who : PoolUser) :
    Except (Option Cause) State :=
  match s.touch b who with
  | none => .error none
  | some s =>
    let x := s.block b
    if x.pres = .poison then .error (some .poison)
    else if x.pres = .full ∨ x.held = true ∨ x.cov &&& m ≠ 0 then .error (some .once2)
    else match s.withEntry b who with
      | none => .error none
      | some s1 => .ok ((write (s1.moveList b)).cover b m hold)

/-- What a request does at a block's home once the block's entry is resident (R274). -/
def State.resident (s : State) (r : Nat) (f : State → State) : Out :=
  let b := (s.req r).phys / 256
  match s.touch b (.req r) with
  | none => .next (s.waitPool (s.spanKey b) (.req r))
  | some s1 => .next (f s1)

/-- A store to a ONCE block at its home. -/
def State.coverStore (s : State) (b : Nat) (phys : Nat) (bs : List Byte) (hold : Option Nat) (who : PoolUser) :
    Except (Option Cause) State :=
  s.coverWith b (wordsOf phys bs.length) (fun s => s.memWrite phys bs) hold who

def Req.holder (q : Req) : Option Nat := if q.hold then some q.crewId else none

/-- HOME_COVERING_STORE: a release, performed after the thread's earlier relaxed writes (R290, R291). -/
def execHomeCoveringStore (r : Nat) (s : State) : Out :=
  let q := s.req r
  if !q.live || q.status != .issued || q.kind != .store || !q.once then .next s
  else if s.relaxedEarlier q.thread r ≠ [] then .next (s.later (s.now + 1) (.homeCoveringStore r))
  else match s.coverStore (q.phys / 256) q.phys (toBytesLE q.data.toNat q.n) q.holder (.req r) with
    | .ok s1 => .next (s1.answer r 0)
    | .error (some c) => .next (s.refuse r c q.dva.toNat)
    | .error none => .next (s.waitPool (s.spanKey (q.phys / 256)) (.req r))

/-- HOME_BFIN: zero in every word not yet covered, then the fill is complete; no effect on a FULL or held block
(R132, R271). Its reply carries the mask of the words it zeroed (R399). -/
def execHomeBfin (r : Nat) (s : State) : Out :=
  let q := s.req r
  if !q.live || q.status != .issued || q.kind != .bfin then .next s
  else if s.relaxedEarlier q.thread r ≠ [] then .next (s.later (s.now + 1) (.homeBfin r))
  else
    let b := q.phys / 256
    let x := s.block b
    let m := ~~~x.cov
    if x.pres = .poison then .next (s.refuse r .poison q.dva.toNat)
    else if x.pres = .full ∨ x.held = true then s.resident r fun s => s.answer r 0
    else match s.coverWith b m (fun s => s.putWords (b * 256) m (zeros 256) 64) q.holder (.req r) with
      | .ok s1 => .next (s1.answer r (m.setWidth 128))
      | .error _ => .next (s.waitPool (s.spanKey b) (.req r))

/-! ### Loads, waits and queries (R123, R128) -/

/-- An access parks at its block (R123). -/
def State.parkAt (s : State) (r : Nat) : State :=
  let q := s.req r
  let b := q.phys / 256
  match s.addWaiter b (s.waiterOf r) (.req r) with
  | none => s.waitPool (s.spanKey b) (.req r)
  | some s1 =>
    let s2 := s1.modReq r fun q => { q with status := .parked }
    if q.relaxed || q.from_.isSome then s2 else s2.modThread q.thread fun x => { x with state := .pblk }

/-- The presence code that `bpoll` returns (R128). -/
def Block.code (x : Block) : Nat :=
  if x.pres = .full then 1 else if x.pres = .poison then 3 else if x.held || !x.waiters.isEmpty then 2 else 0

/-- A shared copy of a sector of a FULL block in a cluster's cache (R325). -/
def State.shareOnce (s : State) (cluster sector : Nat) : State :=
  if !caches cluster || s.sector cluster sector != .invalid then s
  else ((s.makeRoom cluster (sector / 4)).setSector cluster sector .shared).redirect (sector / 4)

/-- A load of a FULL block: the data, and a shared copy in the requester's cluster cache (R325); a peer's block is
never cached (R120). -/
def State.loadFull (s : State) (r : Nat) : State :=
  let q := s.req r
  let s1 := if q.space = .peer || q.from_.isSome then s else s.shareOnce q.cluster (q.phys / 64)
  (s1.refer r).answer r (BitVec.ofNat 128 (s.memRead q.phys q.n))

/-- HOME_LOAD: a load, `bwait`, `bpoll`, `bgen` or stream read at the home; on an OPEN page a block reads FULL at
generation 0 unless it is POISON (R123, R128). -/
def execHomeLoad (r : Nat) (s : State) : Out :=
  let q := s.req r
  let x := s.block (q.phys / 256)
  let dva := q.dva.toNat
  if !q.live || q.status != .issued then .next s
  else s.resident r fun s => match q.kind with
    | .bgen => s.answer r (if q.once then x.gen.setWidth 128 else 0)
    | .bpoll => s.answer r (BitVec.ofNat 128 (if q.once then x.code else if x.pres = .poison then 3 else 1))
    | .bwait =>
      if x.pres = .poison then s.refuse r .poison dva
      else if !q.once || x.pres == .full then s.answer r 0 else s.parkAt r
    | .load _ =>
      if !q.once then s
      else if x.pres = .poison then s.refuse r .poison dva
      else if x.pres = .full then s.loadFull r else s.parkAt r
    | .stream _ _ =>
      if !q.once then s
      else if x.pres = .poison then s.refuse r .poison dva
      else if x.pres = .full then s.loadFull r else s.parkAt r
    | _ => s

/-- HOME_BARM: an arm waiter, or the notice at once (R130). -/
def execHomeBarm (r : Nat) (s : State) : Out :=
  let q := s.req r
  if !q.live || q.status != .issued || q.kind != .barm then .next s
  else
    let b := q.phys / 256
    let x := s.block b
    let w := { s.waiterOf r with arm := true, cls := q.data.extractLsb' 0 6, tag := q.data.extractLsb' 6 24 }
    s.resident r fun s =>
      if x.pres = .poison then (s.notice w 3 (if q.once then x.gen else 0)).answer r 0
      else if !q.once || x.pres == .full then (s.notice w 1 (if q.once then x.gen else 0)).answer r 0
      else match s.addWaiter b w (.req r) with
        | none => s.waitPool (s.spanKey b) (.req r)
        | some s1 => s1.answer r 0

/-! ### Holds and clears (R129, R131, R283) -/

/-- A block that is E and not reserved is reserved for a request, which replies with the generation. -/
def State.grant (s : State) (b r : Nat) : State :=
  let s1 := s.modBlock b fun x => { x with entry := some { x.fill with res := some (s.waiterOf r) } }
  s1.answer r ((s.block b).gen.setWidth 128)

/-- The first queued hold of a block is granted; the pool block that its queue no longer needs is freed (R283). -/
def State.grantFirst (s : State) (b : Nat) : State :=
  match (s.block b).fill.holds with
  | [] => s
  | h :: hs => ((s.setHolds b hs .home).getD s).grant b h

/-- A hold waits in its block's queue; none where the queue needs a pool block and none is free. -/
def State.queueHold (s : State) (b r : Nat) : Option State :=
  let q := s.req r
  (s.setHolds b ((s.block b).fill.holds ++ [r]) (.req r)).map fun s1 =>
    let s2 := s1.modReq r fun q => { q with status := .parked }
    if q.from_.isSome then s2 else s2.modThread q.thread fun y => { y with state := .pblk }

/-- HOME_BHOLD: granted on a block that is E and unreserved, otherwise queued (R129); hqn counts to 65,535 (R272), and a hold
that finds so many queued tries again. -/
def execHomeBhold (r : Nat) (s : State) : Out :=
  let q := s.req r
  if !q.live || q.status != .issued || q.kind != .bhold then .next s
  else
    let b := q.phys / 256
    let x := s.block b
    if x.pres = .poison then .next (s.refuse r .poison q.dva.toNat)
    else if 65535 ≤ x.fill.holds.length then .next (s.later (s.now + 1) (.homeBhold r))
    else match s.withEntry b (.req r) with
      | none => .next (s.waitPool (s.spanKey b) (.req r))
      | some s1 =>
        if x.pres ≠ .full ∧ x.held = false ∧ x.cov = 0 ∧ x.fill.res = none then .next (s1.grant b r)
        else .next ((s1.queueHold b r).getD (s.waitPool (s.spanKey b) (.req r)))

/-- The bytes of a block as they stand at its home. -/
def State.blockBytes (s : State) (b : Nat) : List Byte := s.mem.readList (b * 256) 256

/-- A window's core for an entry that has no thread: the cluster's logical core 0, the window's crew (R378). -/
def State.concernedWindow (s : State) (key : Nat) : Concerned :=
  let c := s.crewOf (s.windows.get {} key).crewId
  let k := key / 8
  { core := if k < 512 then k * 16 else 8192 + (k - 512), crew := c.num, stage := c.stage, bay := c.bay }

/-- The dirty words of a window's ONCE block that a clear discards, each logged (R329). -/
def State.logDiscarded (s : State) (key blk : Nat) (m : BitVec 64) : Nat → State
  | 0 => s
  | n + 1 =>
    let w := s.windows.get {} key
    (if maskBit m (63 - n) then
      s.report w.launch (s.errorEntry (s.concernedWindow key) 7 .once2 (w.gbase.toNat + 256 * blk + 4 * (63 - n)) 0 0)
    else s).logDiscarded key blk m n

/-- A clear of a ONCE block in the windows that map it (R329). -/
def State.clearWindows (s : State) (b : Nat) : State :=
  ((s.windowsOn b).filter fun p => p.2.2.once).foldl (fun s p =>
    let s1 := s.logDiscarded p.1 p.2.1 p.2.2.dirty 64
    (s1.modWinBlock p.1 p.2.1 WinBlock.poisoned).retryTouching p.1 p.2.1) s

/-- Every cached copy of a block is recalled. -/
def State.recallCopies (s : State) (b : Nat) : State := ((s.clearWindows b).clearSectors b).redirect b

/-- The contents that a journal names are copied before a clear (R400). -/
def State.keepCopy (s : State) (b : Nat) : State :=
  let x := s.block b
  if x.refs = [] then s
  else { s with journalCopy := s.journalCopy.put (b * 64 + x.gen.toNat) (x.refs.map (·.1), s.blockBytes b),
                blocks := s.blocks.put b { x with refs := [] },
                journalUsed := s.journalUsed.put (s.spanKey b) (s.journalUsed.get 0 (s.spanKey b) + 256) }

/-- The clear of a block: E at the next generation, and the first queued hold granted (R131, R283). -/
def State.clear (s : State) (b : Nat) : State :=
  let s1 := ((s.keepCopy b).recallCopies b).modBlock b fun x =>
    { x with gen := x.gen + 1, pres := .empty, held := false, win := false }
  ((s1.keepWaiters b fun w => !w.win).grantFirst b).tidy b

/-- HOME_CLEAR: a FULL block is cleared, for `bclr.g` only at the expected generation; a POISON one by a privileged
thread alone (R128, R131). -/
def execHomeClear (r : Nat) (s : State) : Out :=
  let q := s.req r
  if !q.live || q.status != .issued || (q.kind != .bclr && q.kind != .bclrG) then .next s
  else if s.relaxedEarlier q.thread r ≠ [] then .next (s.later (s.now + 1) (.homeClear r))
  else
    let b := q.phys / 256
    let x := s.block b
    s.resident r fun s =>
      if x.pres = .poison ∧ q.priv = false then s.refuse r .poison q.dva.toNat
      else if x.pres = .empty ∨ x.pres = .deferred then s.refuse r .clear q.dva.toNat
      else if q.kind = .bclrG ∧ q.data.extractLsb' 0 6 ≠ x.gen then s.refuse r .clear q.dva.toNat
      else (s.clear b).answer r 0

/-! ### Withdrawals (R269, R278) -/

/-- The first entry that fits removed. -/
def dropFirst {α : Type} (f : α → Bool) : List α → List α
  | [] => []
  | x :: xs => if f x then xs else x :: dropFirst f xs

/-- A step of the home at a block once the block's entry is resident; a step for which the pool leaves no room is made later. -/
def State.homeTouch (s : State) (b : Nat) (again : Instr) (f : State → State) : Out :=
  match s.touch b .home with
  | none => .next (s.later (s.now + 1) again)
  | some s1 => .next (f s1)

/-- WAITER_WITHDRAWAL: the entry goes, later ones move up, and the block is EMPTY again without waiters (R278). -/
def execWaiterWithdrawal (blk : Nat) (waiter : Word) (s : State) : Out :=
  s.homeTouch blk (.waiterWithdrawal blk waiter) fun s =>
    let ws := dropFirst (fun (w : Waiter) => w.word == waiter) (s.block blk).waiters
    if ws = (s.block blk).waiters then s else (s.setWaiters blk ws .home).getD s

/-- A queued hold leaves; a granted one ends its reservation, and the next is served (R269). -/
def State.dropHold (s : State) (b r : Nat) : State :=
  let x := s.block b
  let e := x.fill
  if e.holds.contains r then ((s.setHolds b (e.holds.erase r) .home).getD s).tidy b
  else if (e.res.map (·.req)) = some r then
    let s1 := s.putBlock b { x with entry := some { e with res := none } }
    (if x.pres ≠ .full ∧ x.held = false ∧ e.cov = 0 then s1.grantFirst b else s1).tidy b
  else s

/-- HOLD_WITHDRAWAL. -/
def execHoldWithdrawal (blk r : Nat) (s : State) : Out :=
  if (s.block blk).entry.isNone then .next s
  else s.homeTouch blk (.holdWithdrawal blk r) fun s => s.dropHold blk r

/-- POOL_BLOCK_FREED: the oldest request that waits for a pool block proceeds (R276); write-backs and host writes try in every
tick. -/
def execPoolBlockFreed (span : Nat) (s : State) : Out :=
  let line := s.poolLine span
  let s1 := { s with poolWait := s.poolWait.put span line }
  match line with
  | [] => .next s1
  | .req r :: _ => .next (s1.emit ((s.req r).homeStep r))
  | .fetch key blk :: _ => .next (s1.emit (.windowFetchReply (key / 8) (key % 8) blk))
  | .copy id :: _ => .next (s1.emit (.copyUnitRequest (s.copies.get {} id).core))
  | .drain core :: _ => .next (s1.emit (.matrixOperationEnd core))
  | .flush _ :: _ => .next s1
  | .host _ :: _ => .next s1
  | .home :: _ => .next s1

/-! ### Verdicts (R271, R280, R281) -/

/-- A verdict that passes reaches a block. -/
def State.verdictPass (s : State) (crew b : Nat) : State :=
  let s := (s.touch b .home).getD s
  let x := s.block b
  match x.entry with
  | none => s
  | some e =>
    let s1 := s.putBlock b { x with entry := some { e with verdicts := e.verdicts.erase crew } }
    if x.held && (e.verdicts.erase crew).isEmpty then s1.completeFill b else s1

/-- A verdict that fails discards the whole fill; the waiters and the generation stay, and the list returns to the block's
bytes (R275, R281). The other bytes of the block keep what they hold (DESIGN CHOICE, assumption 110). -/
def State.verdictFail (s : State) (crew b : Nat) : State :=
  let s := (s.touch b .home).getD s
  let x := s.block b
  match x.entry with
  | none => s
  | some e =>
    if e.verdicts.contains crew then
      let s1 := s.putBlock b ({ x with held := false, entry := some { e with cov := 0, verdicts := [], area := [] } } : Block).recode
      (if x.waiters = [] then s1 else s1.putList b).tidy b
    else s

/-! ### Poison (R282, R344, R400) -/

def Health.log (h : Health) (addr : Nat) : Health :=
  { h with plog := (if h.pnext < h.plog.length then h.plog.set h.pnext (BitVec.ofNat 64 addr)
                    else h.plog ++ [BitVec.ofNat 64 addr]),
           pnext := (h.pnext + 1) % 64 }

/-- A poisoned or refused address in its span's health record (R380). -/
def State.logPoison (s : State) (b addr : Nat) : State :=
  { s with health := s.health.put (s.spanKey b) ((s.health.get {} (s.spanKey b)).log addr) }

/-- The streams of a crew: its threads', its window fetches', its copies'. -/
def ownsStream (crew key : Nat) : Bool :=
  if 2 ^ 100 ≤ key then (key - 2 ^ 100) / 2 ^ 60 == crew else key / 2 ^ 24 == crew

/-- Bytes of a list of streams. -/
def streamBytes (xs : List (Nat × List JEntry)) : Nat :=
  xs.foldl (fun n p => n + (p.2.map JEntry.bytes).foldl (· + ·) 0) 0

/-- The copies of blocks that no crew's journal but one names (R400), and the others without that crew. -/
def State.copiesOf (s : State) (crew : Nat) : Tab (List Nat × List Byte) :=
  s.journalCopy.filter fun (p : Nat × List Nat × List Byte) => p.2.1.all (· == crew)
def State.copiesLeft (s : State) (crew : Nat) : Tab (List Nat × List Byte) :=
  (s.journalCopy.filter fun (p : Nat × List Nat × List Byte) => p.2.1.any (· != crew)).map fun p =>
    (p.1, (p.2.1.filter (· != crew), p.2.2))

/-- The space of a span's journal that freed copies give back. -/
def State.copySpace (s : State) (crew span : Nat) : Nat :=
  256 * ((s.copiesOf crew).filter fun p => s.spanKey (p.1 / 64) == span).length

/-- A crew's streams, references and copies freed; what waits for room may proceed. -/
def State.freeJournal (s : State) (crew : Nat) : State :=
  let span := (s.crewOf crew).span
  let mine := s.journal.filter fun (p : Nat × List JEntry) => ownsStream crew p.1
  ({ s with journal := s.journal.filter fun (p : Nat × List JEntry) => !ownsStream crew p.1,
            journalCopy := s.copiesLeft crew,
            blocks := s.blocks.map fun (p : Nat × Block) => (p.1, { p.2 with refs := p.2.refs.filter fun r => r.1 != crew }),
            journalUsed := (s.journalUsed.put span (s.journalUsed.get 0 span - streamBytes mine)).map fun (p : Nat × Nat) =>
              (p.1, p.2 - s.copySpace crew p.1) }).emit (.journalSpaceFreed span)

/-- A crew as it is placed again for a new run. -/
def Crew.afresh (k : Crew) : Crew :=
  { k with status := .pending, digest := {}, heldBlocks := [], starts := [], winAt := 0, void := false, passed := false,
           usedSites := [], save := none }

/-- A sample that lost a referenced block is void: its runs reach no verdict, and its journal is freed; in hold mode the crew's held
fills are discarded and the crew is placed again once it has retired (R400). -/
def State.voidSample (s : State) (c : Nat) : State :=
  let k := s.crewOf c
  if k.run ≠ 1 then s
  else
    let s1 := { s with crews := s.crews.map fun (p : Nat × Crew) =>
      if p.2.original = c ∧ 2 ≤ p.2.run then (p.1, { p.2 with void := true }) else p }
    if k.hold then
      let s2 := k.heldBlocks.foldl (fun s b => s.verdictFail c b) s1
      if k.status = .retired then (s2.freeJournal c).modCrew c Crew.afresh
      else s2.modCrew c fun k => { k with void := true, heldBlocks := [] }
    else (s1.freeJournal c).modCrew c fun k => { k with sampled := false, run := 0, void := true }

/-- A block of a ONCE page poisoned in one step; of an OPEN page, refused to unprivileged accesses until it has been
rewritten (R126, R282). No cache keeps a copy: a block is cached only while its data may be read (R325). -/
def State.poison (s : State) (b : Nat) : State :=
  let x := s.block b
  let e := x.fill
  let s1 := s.putBlock b { x with pres := .poison, held := false, entry := none, cured := 0, refs := [] }
  let s2 := ((s1.release b true).poolGive (s.spanKey b) e.blocks).clearSectors b
  let s3 := e.holds.foldl (fun s r => s.refuse r .poison (s.req r).dva.toNat) (s2.redirect b)
  (x.refs.foldl (fun s p => s.voidSample p.1) s3).logPoison b (b * 256 % 2 ^ 48)

/-- BLOCK_POISONING: an uncorrectable error of a block's data or metadata. -/
def execBlockPoisoning (blk : Nat) (s : State) : Out :=
  .next ((s.countFound (s.spanKey blk)).poison blk)

/-- RECALL_TIMEOUT: a recall that is still unanswered makes its holder fail (R344). -/
def execRecallTimeout (w : Nat) (s : State) : Out :=
  match s.writeBacks.find w with
  | none => .next s
  | some r =>
    if r.isRecall && decide (r.asked + 2 ^ 24 ≤ s.now) then
      .next (({ s with writeBacks := s.writeBacks.drop w }).emit (.holderFailure (4096 + r.holder)))
    else .next s

/-- The blocks of which a cluster cache or a host port holds modified sectors. -/
def modifiedIn (m : Tab SectorState) (holder : Nat) : List Nat :=
  ((m.filter fun (p : Nat × SectorState) => p.1 / 2 ^ 50 == holder && p.2 == .modified).map fun p =>
    p.1 % 2 ^ 50 / 4).eraseDups

/-- The crews of a cluster whose cache holds a copy: those that are resident there. -/
def State.crewsAt (s : State) (cluster : Nat) : List (Nat × Crew) :=
  s.crews.filter fun (p : Nat × Crew) => p.2.cluster == cluster && (p.2.status == .resident || p.2.status == .stopping)

/-- The entries about a block of which a holder has failed: one for each window on it, and one for each launch that has a crew in
a cluster whose cache holds a copy (R344). The spec does not say whose copy a cache's sector is, nor the entry's kind (DESIGN
CHOICE, assumption 136). -/
def State.failEntries (s : State) (b : Nat) : List (Nat × Nat) :=
  ((s.windowsOn b).map fun p =>
    let w := s.windows.get {} p.1
    (w.launch, s.errorEntry (s.concernedWindow p.1) 7 .poison (w.gbase.toNat + 256 * p.2.1) 0 0)) ++
  ((((List.range 4).flatMap fun i => (holdersIn s.cache (4 * b + i)).map (·.1)).eraseDups.flatMap fun k =>
    (s.crewsAt k).map fun p => p.2.launch).eraseDups.map fun l =>
      (l, s.errorEntry {} 7 .poison (b * 256) 0 0))

/-- A block poisoned because a holder failed: its version advances, and the launches that hold a window or a copy are told
(R344). -/
def State.failBlock (s : State) (told : List (Nat × Nat)) (b : Nat) : State :=
  (told.foldl (fun s p => s.report p.1 p.2) ((s.bump b).poison b)).redirect b

/-- The blocks of a failed holder, which has let go of them in `gone`: what is told of them stands in the state before. -/
def State.failBlocks (s gone : State) (bs : List Nat) : State :=
  bs.foldl (fun t b => t.failBlock (s.failEntries b) b) gone

/-- HOLDER_FAILURE (R344): a cluster cache, a window (4096 + its key) or a host port (8192 + its number) fails; the
blocks it held modified are poisoned, and its clean copies are dropped. -/
def execHolderFailure (holder : Nat) (s : State) : Out :=
  if 8192 ≤ holder then
    let p := holder - 8192
    let bad := modifiedIn s.hostSectors p
    let s1 := { s with hostSectors := s.hostSectors.filter fun (q : Nat × SectorState) => q.1 / 2 ^ 50 != p }
    .next (s.failBlocks s1 bad)
  else if 4096 ≤ holder then
    let key := holder - 4096
    let w := s.windows.get {} key
    let bad := (w.blocks.filter fun (q : Nat × WinBlock) => q.2.dirty != 0).map fun q => q.2.phys / 256
    let blocks := w.blocks.map fun (q : Nat × WinBlock) => (q.1, { q.2 with state := .u, valid := 0, dirty := 0 })
    let s := if w.blocks.any fun (q : Nat × WinBlock) => s.deckWordBad key q.1 q.2.dirty then s.countFound (spanOfCluster (key / 8)) else s
    .next (s.failBlocks { s with windows := s.windows.put key { w with blocks := blocks } } bad)
  else
    let bad := modifiedIn s.cache holder
    let s1 := { s with cache := s.cache.filter fun (q : Nat × SectorState) => q.1 / 2 ^ 50 != holder }
    .next (s.failBlocks s1 bad)

/-! ### Fetches of windows (R320, R329, R370) -/

/-- The stream in which a sampled crew's window fetches are journaled, in order of fetch. -/
def State.windowStream (s : State) (crew : Nat) : Nat := s.journalCrew crew * 2 ^ 24 + 0xFFFF

/-- The words of a mask as numbers. -/
def wordsAt (bytes : List Byte) (m : BitVec 64) : List Nat :=
  ((List.range 64).filter fun i => maskBit m i).map fun i => ofBytesLE ((bytes.drop (4 * i)).take 4)

/-- Bytes written over the deck words of a window's block. -/
def State.putDeckWords (s : State) (cluster a : Nat) (m : BitVec 64) (data : List Byte) : Nat → State
  | 0 => s
  | n + 1 =>
    let i := 63 - n
    (if maskBit m i then s.deckWrite cluster (a + 4 * i) ((data.drop (4 * i)).take 4) else s).putDeckWords cluster a m data n

/-- The words of a fetch fill those that are not valid yet, and the accesses that waited go on. -/
def State.fillWindow (s : State) (key blk : Nat) (data : List Byte) : State :=
  let w := s.windows.get {} key
  let b := w.blocks.get {} blk
  let s1 := s.putDeckWords (key / 8) (w.dbase + 256 * blk) (~~~b.valid) data 64
  (s1.modWinBlock key blk fun x => { x with state := .v, valid := BitVec.allOnes 64 }).retryTouching key blk

/-- The words of a journal's entry laid out in a block. -/
def layWords (m : BitVec 64) : Nat → List Nat → List Byte
  | 0, _ => []
  | n + 1, ws =>
    if maskBit m (63 - n) then
      match ws with
      | w :: rest => toBytesLE w 4 ++ layWords m n rest
      | [] => zeros 4 ++ layWords m n []
    else zeros 4 ++ layWords m n ws

/-- The threads for whose access or unit a window's block is fetched. -/
def State.fetchers (s : State) (key blk : Nat) : List Nat :=
  ((s.touching key blk).map fun r => (s.req r).thread) ++
    (s.threads.filter fun (p : Nat × Thread) => p.2.wait == .retry (.windowFetch (key / 8) (key % 8) blk)).map (·.1) ++
    (s.cores.filterMap fun (p : Nat × Core) =>
      if clusterOf p.1 = key / 8 then p.2.mxRun.map fun m => m.1.thread else none)

/-- A fetch of a proof run, served from the journal (R370). -/
def State.replayWindow (s : State) (key blk crew : Nat) : State :=
  let k := s.crewOf crew
  match (s.journal.get [] (s.windowStream crew))[k.winAt]? with
  | some (.windowFetch m ws) =>
    (s.modCrew crew fun c => { c with winAt := c.winAt + 1 }).fillWindow key blk (layWords m 64 ws)
  | some (.windowRef b g) =>
    (s.modCrew crew fun c => { c with winAt := c.winAt + 1 }).fillWindow key blk (s.referenced b g)
  | _ =>
    let s1 := s.modWinBlock key blk fun x => { x with state := if x.valid = 0 then .u else .v }
    match s.fetchers key blk with
    | [] => s1
    | t :: _ => s1.journalLost t

/-- A fetch that found data: journaled for a sampled crew, of a ONCE block by reference (R370), held by the window under the
block's version, entered in the directory. -/
def State.fetched (s : State) (key blk : Nat) : State :=
  let w := s.windows.get {} key
  let b := w.blocks.get {} blk
  let home := b.phys / 256
  let data := s.blockBytes home
  let m := ~~~b.valid
  let span := spanOfCluster (key / 8)
  let s1 := if (s.crewOf w.crewId).run ≠ 1 then s
    else if b.once then
      ((s.journalAppend (s.windowStream w.crewId) span (.windowRef home (s.block home).gen)).1).named (s.journalCrew w.crewId) home
    else (s.journalAppend (s.windowStream w.crewId) span (.windowFetch m (wordsAt data m))).1
  let s2 := s1.modBlock home fun x => { x with win := true }
  ((s2.fillWindow key blk data).modWinBlock key blk fun x => { x with version := (s.block home).version }).redirect home

/-- A fetch that found a ONCE block not FULL: the window waits at the home, and the touching threads park. -/
def State.windowWaits (s : State) (key blk : Nat) : State :=
  let w := s.windows.get {} key
  let home := (w.blocks.get {} blk).phys / 256
  let k := key / 8
  let waiter : Waiter := { win := true, gen := (s.block home).gen, slot := BitVec.ofNat 4 (key % 8),
                           core := BitVec.ofNat 13 (if k < 512 then k * 16 else 8192 + (k - 512)), dev := s.dev,
                           launch := w.launch }
  match s.addWaiter home waiter (.fetch key blk) with
  | none => s.waitPool (s.spanKey home) (.fetch key blk)
  | some s1 =>
    (s1.touching key blk).foldl (fun s r =>
      let q := s.req r
      let s2 := s.modReq r fun q => { q with status := .parked }
      if q.relaxed then s2 else s2.modThread q.thread fun x => { x with state := .pblk })
      (s1.modWinBlock key blk fun x => { x with state := .w })

/-- A fetch of a block of an OPEN page: the words that other windows hold dirty and the sectors that caches own come home
first (R294, R320). -/
def State.fetchOpen (s : State) (key blk : Nat) (again : Instr) : State :=
  let b := (s.windows.get {} key).blocks.get {} blk
  let home := b.phys / 256
  s.inTurn home again fun s =>
  match s.recallThen home (~~~b.valid) (some key) [again] with
  | some s1 => s1
  | none =>
    let s := s.windowsAnswer home
    match (List.range 4).flatMap fun i => noticesTo (4 * home + i) false (s.agents (4 * home + i)) with
    | [] => s.fetched key blk
    | needs => s.serveAfter home needs again

/-- WINDOW_FETCH_REPLY: data, a block that is not FULL, or POISON; a sampled crew's waits for room in the journal (R401). -/
def execWindowFetchReply (cluster win blk : Nat) (s : State) : Out :=
  let key := 8 * cluster + win
  let w := s.windows.get {} key
  let b := w.blocks.get {} blk
  if !w.valid || b.state != .f then .next s
  else if s.rowHeld b.phys then
    .next ((s.rowWaiting (s.fetchers key blk)).later (s.now + 1) (.windowFetchReply cluster win blk))
  else if 2 ≤ (s.crewOf w.crewId).run then .next (s.replayWindow key blk w.crewId)
  else if (s.crewOf w.crewId).run = 1 ∧ s.journalRoom (spanOfCluster cluster) 264 = false then
    .next (s.later (s.now + 1) (.windowFetchReply cluster win blk))
  else
    let home := b.phys / 256
    let x := s.block home
    if x.pres = .poison then .next ((s.modWinBlock key blk WinBlock.poisoned).failTouching key blk .poison)
    else if b.once then
      match s.touch home (.fetch key blk) with
      | none => .next (s.waitPool (s.spanKey home) (.fetch key blk))
      | some s1 => .next (if x.pres = .full then s1.fetched key blk else s1.windowWaits key blk)
    else .next (s.fetchOpen key blk (.windowFetchReply cluster win blk))

end Sys2Proof.Machine
end

