-- ==== Sys2Proof/Machine/Walk.lean ====
section
/-! DEFINITION. Walks (R342, R343, R381): the words of tables that windows hold, the pages that a walk finds newly mapped (R42),
what a served or an unserved walk does to the accesses that joined it. -/

namespace Sys2Proof.Machine

/-! ### The entries that a walk reads (R294, R342) -/

/-- The physical addresses of the entries that a walk reads from a table downward. -/
def State.entriesFrom (s : State) (dva table : Nat) : List (Nat × Nat × Nat) → List Nat
  | [] => []
  | (lo, n, _) :: rest =>
    let a := s.local (table + 8 * field dva lo n)
    let e := s.memRead a 8
    a :: (if bitAt e 0 && !bitAt e 1 then s.entriesFrom dva (field e 12 36 * 2 ^ 12) rest else [])

/-- Entries of a walk that a window holds dirty or a host owns: a walk reads them at package scope, so that they come home
first. -/
def State.heldEntry (s : State) (asid dva : Nat) : Option Nat :=
  (s.entriesFrom dva (s.roots.get 0 asid) walkLevels).find? fun a => s.away a 8

/-- An entry of a walk lies in a row that throttling holds back (R340). -/
def State.entriesHeld (s : State) (asid dva : Nat) : Bool :=
  (s.entriesFrom dva (s.roots.get 0 asid) walkLevels).any s.rowHeld

/-- The block requests of a walk's reads (R340). -/
def State.openEntries (s : State) (asid dva : Nat) : State :=
  (s.entriesFrom dva (s.roots.get 0 asid) walkLevels).foldl State.openRow s

/-- The entries of a walk brought home within one step; each may lead to others. -/
def State.readyWalk (s : State) (asid dva : Nat) : Nat → State
  | 0 => s
  | n + 1 =>
    match s.heldEntry asid dva with
    | none => s
    | some a => (s.bringHome a 8).readyWalk asid dva n

/-! ### Newly mapped pages (R42, R270) -/

/-- A page that has been found mapped still is. -/
def State.stillMapped (s : State) (m : PageMap) : Bool :=
  decide (4096 ≤ m.asid) || match s.walk m.asid m.dva with
  | some l => l.phys m.dva == m.phys && l.once == m.once && l.bits == m.bits
  | none => false

/-- Records of pages that are mapped no more are dropped. -/
def State.dropUnmapped (s : State) : State := { s with mapped := s.mapped.filter s.stillMapped }

/-- A block of a newly mapped ONCE page: E at generation 0; what caches and windows hold of it stays in its directory. -/
def Block.anew (x : Block) : Block :=
  { version := x.version, spans := x.spans, hosts := x.hosts, win := x.win, dir := x.dir }

/-- Two pages have a byte in common. -/
def PageMap.meets (r m : PageMap) : Bool := decide (r.phys < m.phys + 2 ^ m.bits ∧ m.phys < r.phys + 2 ^ r.bits)

/-- Every block of a page made new; the pool blocks of its lists and entries are freed, and no cache keeps a sector, since the
block is not FULL (R325). -/
def State.freshPage (s : State) (m : PageMap) : State :=
  (s.blocks.filter fun (p : Nat × Block) => decide (m.phys ≤ p.1 * 256 ∧ p.1 * 256 < m.phys + 2 ^ m.bits)).foldl
    (fun s p => (((s.clearSectors p.1).modBlock p.1 Block.anew).redirect p.1).poolGive (s.spanKey p.1)
      (p.2.chain ++ p.2.fill.blocks)) s

/-- A translation that a walk has found: a ONCE page of this device that no record shows mapped is newly mapped. The model sees a
mapping at its first walk, and its end at a `tlbinv` or at the next new page (DESIGN CHOICE, assumption 114). -/
def State.noteMapped (s : State) (asid dva : Nat) (l : Leaf) : State :=
  let base := dva / 2 ^ l.bits * 2 ^ l.bits
  let m : PageMap := { asid := asid, dva := base, phys := l.phys base, bits := l.bits, once := l.once, key := l.key }
  if l.dev ≠ s.dev.toNat ∨ s.mapped.contains m = true then s
  else
    let s1 := s.dropUnmapped
    let known := s1.mapped.any fun r => r.once == m.once && r.meets m
    let s2 := if m.once && !known then s1.freshPage m else s1
    { s2 with mapped := (s2.mapped.filter fun r => !(decide (4096 ≤ r.asid) && r.meets m)) ++ [m] }

/-- A translation found by a walk enters the TLBs: the span's, and those of the cluster ports whose accesses joined (R343). -/
def State.enterLeaf (s : State) (js : List Joined) (asid dva : Nat) (l : Leaf) : State :=
  ((js.map s.joinedCluster).eraseDups).foldl (fun s k => s.fillTlb k asid dva l) (s.noteMapped asid dva l)

/-- A walk made within one step, for an agent that has no TLB. -/
def State.walkNow (s : State) (asid dva : Nat) : State × Option Leaf :=
  let s1 := s.readyWalk asid dva 8
  match s1.walk asid dva with
  | some l => (s1.noteMapped asid dva l, some l)
  | none => (s1, none)

/-! ### Walks and answers (R343, R381) -/

/-- What joined a served walk goes on. -/
def State.servedJoined (s : State) (l : Leaf) : Joined → State
  | .req r => (s.resolve r l).settle r
  | .fetch t _ => s.modThread t fun x => { x with state := .ready, wait := .none }
  | .copy c _ =>
    match s.copies.find c with
    | some x => ({ s with copies := s.copies.put c { x with heldOn := none } }).emit (.copyUnitRequest x.core)
    | none => s
  | .drain core _ => s.emit (.matrixOperationEnd core)
  | .winFetch _ _ _ => s

/-- The fault record of a walk that found no valid mapping, for the command processor that took the packet of the launch whose
access came first (R381). -/
def State.faultRecord (s : State) (span entry : Nat) (m : Miss) : FaultRecord :=
  { cp := (s.launchOf m.launch).cp, tick := s.now, kmask := m.kmask, joined := min m.joined.length 4095, entry := entry, span := span,
    asid := m.asid, dva := m.dva }

def State.sendFault (s : State) (span entry : Nat) (m : Miss) : State :=
  let f := s.faultRecord span entry m
  let c := s.cps.get {} f.cp
  { s with cps := s.cps.put f.cp { c with faults := c.faults ++ [f] } }

/-- The wake of what a served entry held (R381): parked threads by a wake message with their park number, relaxed
accesses and copies at once. -/
def State.wakeJoined (s : State) (l : Leaf) (j : Joined) : State :=
  match j with
  | .req r =>
    let q := s.req r
    if q.relaxed then s.servedJoined l j else s.emit (.pageFaultWake q.thread q.park.toNat false)
  | .fetch t park => s.emit (.pageFaultWake t park.toNat false)
  | .copy _ _ => s.servedJoined l j
  | .drain _ _ => s.servedJoined l j
  | .winFetch _ _ _ => s

/-- A walk that has found a leaf: it fills the TLBs and answers what joined. -/
def State.walkFound (s : State) (span entry : Nat) (m : Miss) (l : Leaf) : State :=
  let s1 := ({ s with misses := s.misses.drop (span * 4096 + entry) }).enterLeaf m.joined m.asid m.dva.toNat l
  m.joined.foldl (fun s j => if m.serving then s.wakeJoined l j else s.servedJoined l j) s1

/-- A walk that has found none: a fault record goes to the command processor, and what joined parks, or stays parked. -/
def State.walkFailed (s : State) (span entry : Nat) (m : Miss) : State :=
  let s1 := { s with misses := s.misses.put (span * 4096 + entry) { m with answering := true, serving := false } }
  ((if m.serving then s1 else m.joined.foldl (fun s j => s.parkJoined j) s1)).sendFault span entry m

/-- TRANSLATION_WALK: a walk reads its entries at package scope, once no throttled row holds one back, and ends (R340, R342,
R343). -/
def execTranslationWalk (span entry : Nat) (s : State) : Out :=
  match s.misses.find (span * 4096 + entry) with
  | none => .next s
  | some m =>
    if m.answering && !m.serving then .next s
    else match s.heldEntry m.asid m.dva.toNat with
    | some a => .next ((s.comeHome a 8 [.translationWalk span entry]).getD s)
    | none =>
      if s.entriesHeld m.asid m.dva.toNat then
        .next ((s.rowWaiting (m.joined.filterMap s.joinedThread)).later (s.now + 1) (.translationWalk span entry))
      else
        let s1 := s.openEntries m.asid m.dva.toNat
        .next (match s.walk m.asid m.dva.toNat with
          | some l => s1.walkFound span entry m l
          | none => s1.walkFailed span entry m)

/-- FAULT_SERVE: the span walks again (R381). -/
def execFaultServe (span entry : Nat) (s : State) : Out :=
  match s.misses.find (span * 4096 + entry) with
  | none => .next s
  | some m =>
    if !m.answering || m.serving then .next s
    else .next ({ s with misses := s.misses.put (span * 4096 + entry) { m with serving := true } }.emit
      (.translationWalk span entry))

end Sys2Proof.Machine
end

