-- ==== Sys2Proof/Machine/Kill.lean ====
section
/-! DEFINITION. What ends a thread from outside its own stream: the withdrawal of what it waits for (R265, R278, R387),
the strain that a site is charged (R408, R409), and the kill of a thread that consumes an uncorrectable error (R385,
R386). -/

namespace Sys2Proof.Machine

/-- A strain score charged, saturating; at the limit the site begins to close (R374, R408, R409). -/
def State.strain (s : State) (site n : Nat) : State :=
  let x := s.site site
  let v := min 0xFFFF (x.strain + n)
  let s1 := s.modSite site fun y => { y with strain := v }
  if s.strainLimit ≤ v ∧ x.closed = false ∧ x.closing = false then
    (s1.modSite site fun y => { y with closing := true }).emit (.rowRemap site)
  else s1

/-- The strain charged to the site of a core. -/
def State.strainCore (s : State) (core n : Nat) : State :=
  match s.siteKey core with
  | some k => s.strain k n
  | none => s

/-- The place that a withdrawn access kept in its thread's journal stream is given up (R265, R399). -/
def State.unrecord (s : State) (q : Req) : State :=
  match q.jslot with
  | none => s
  | some p =>
    let key := s.streamKey q.thread
    let span := spanOfCluster q.cluster
    { s with journal := s.journal.put key ((s.journal.get [] key).eraseIdx p),
             journalUsed := s.journalUsed.put span (s.journalUsed.get 0 span - s.entryAt key p) }

/-- The access that a thread waits for is withdrawn: its waiter or hold at the home, which a flit tells a peer's, its place in a
miss-buffer entry, and the request itself, whose reply is then discarded (R265, R269, R278). -/
def State.withdrawReq (s : State) (r : Nat) : State :=
  let q := s.req r
  if !q.live then s
  else
    let b := q.phys / 256
    let s1 := ((s.unrecord q).leaveMiss (.req r)).dropReq r
    if q.space = .peer then (if q.status = .issued ∨ q.status = .parked then s1.toPeer q.phys else s1)
    else if q.kind = .bhold then s1.emit (.holdWithdrawal b r)
    else if q.status = .parked ∧ q.space ≠ .deck then
      match (s.block b).waiters.find? fun w => w.req == r && !w.arm && !w.win with
      | some w => s1.emit (.waiterWithdrawal b w.word)
      | none => s1
    else s1

/-- What a thread waits for is withdrawn. -/
def State.withdraw (s : State) (t : Nat) : State :=
  match (s.thread t).wait with
  | .reply r => (s.withdrawReq r).leaveMiss (s.fetchJoin t)
  | .retry (.streamUnit _) =>
    ((s.reqs.filter fun (p : Nat × Req) => p.2.live && p.2.thread == t && (match p.2.kind with
      | .stream _ _ => true
      | _ => false)).foldl (fun s p => s.withdrawReq p.1) s).leaveMiss (s.fetchJoin t)
  | _ => s.leaveMiss (s.fetchJoin t)

/-- Steps 1 to 6 of R386 once a killed thread's relaxed accesses have completed: their faults go to the record, its waiters are
withdrawn, what it holds is released, the entry of kind 5 is written, the site is charged and the scrub of its registers begins. -/
def State.finishKill (s : State) (t aux : Nat) : State :=
  let x := s.thread t
  let c := coreOf t
  let s1 := (s.reportPending t x.pc.toNat x.pendingFaults).withdraw t
  let s2 := s1.modCore c fun k => { k with entries := releaseEntries (slotOf t) s1.now k.entries }
  let s3 := s2.returnPermit c x.permit
  let s4 := (s3.countFound (spanOf c)).reportThread t 5 .regpoison 0 x.pc.toNat aux
  let s5 := s4.modThread t fun y =>
    { y with state := .killed, wait := .none, bindings := [], half := none, permit := none, latchD := {}, latchA := {},
             latchB := {}, token := false, evt := false, repAt := none, scrubEnd := s.now + 64, pendingFaults := [],
             killAux := none, iss := { y.iss with ended := .trapped } }
  (s5.strainCore c 512).later (s.now + 64) (.killScrubEnd t)

/-- The kill of thread `t` by an error in a register: bits [5:0] the field, bit 6 accumulator, bit 7 shared. It issues nothing
further; the device goes on once the thread's relaxed accesses have completed (R386). -/
def State.killOne (s : State) (t aux : Nat) : State :=
  let s1 := s.modThread t fun y => { y with state := .killed, killAux := some aux, iss := { y.iss with ended := .trapped } }
  if (s.thread t).rlxn = 0 then s1.finishKill t aux else s1

/-- A killed thread whose relaxed accesses have completed. -/
def State.settleKilled (s : State) (t : Nat) : State :=
  match (s.thread t).killAux with
  | some aux => if (s.thread t).rlxn = 0 then s.finishKill t aux else s
  | none => s

/-- A thread that consumes an uncorrectable error: its gang splits and it alone is killed (R385). -/
def State.kill (s : State) (t aux : Nat) : State := (s.endGang t true).killOne t aux

/-- KILL_SCRUB_END: after 64 ticks, and once its relaxed accesses have completed, the slot is free (R386). -/
def execKillScrubEnd (t : Nat) (s : State) : Out :=
  let x := s.thread t
  if x.state != .killed then .next s
  else if s.now < x.scrubEnd then .next s
  else if 0 < x.rlxn then .next (s.later (s.now + 1) (.killScrubEnd t))
  else .next ((s.reportPending t x.pc.toNat x.pendingFaults).freeSlot t)

end Sys2Proof.Machine
end

