-- ==== Sys2Proof/Machine/Peer.lean ====
section
/-! DEFINITION. What another device does to this one over the causeway (R231, R266, R267, R278, R415): the flits that a port
accepts, the accesses to this device's memory, the messages, the answers to this device's accesses and the withdrawals that they
carry. -/

namespace Sys2Proof.Machine

/-! ### What a data flit carries -/

/-- A field of the request or message in a payload, `n` bits wide. -/
def flit (payload : List Byte) (k n : Nat) : Nat := Config.flitField payload k % 2 ^ n

/-- The kind of an access by number (R116 to R134). -/
def peerKind (payload : List Byte) : ReqKind :=
  match flit payload 1 4 with
  | 0 => .load false
  | 1 => .store
  | 2 => .amo (peerOp (flit payload 2 4))
  | 3 => .bwait
  | 4 => .bhold
  | 5 => .barm
  | 6 => .bpoll
  | 7 => .bgen
  | 8 => .bclr
  | 9 => .bclrG
  | 10 => .bfin
  | _ => .load true
where
  /-- The operation of an atomic by number (R77). -/
  peerOp : Nat → AmoOp
    | 0 => .add
    | 1 => .and
    | 2 => .or
    | 3 => .xor
    | 4 => .min
    | 5 => .max
    | 6 => .minu
    | 7 => .maxu
    | 8 => .swap
    | 9 => .cas
    | 10 => .fadd
    | _ => .inc

/-- A peer's crew, as the contributor to a fill that its verdict will name (R280): no crew of this device has the number. -/
def peerCrew (payload : List Byte) : Nat := 2 ^ 40 + flit payload 3 8 * 2 ^ 32 + flit payload 9 32

/-- The request of a peer: its operands by number; the model's thread number names no slot of this device. -/
def peerReq (dev : BitVec 8) (payload : List Byte) : Req :=
  let n := 2 ^ flit payload 6 2 * (if flit payload 7 1 = 1 then 2 else 1)
  { live := true, thread := 2 ^ 30, kind := peerKind payload, space := .global,
    from_ := some { dev := BitVec.ofNat 8 (flit payload 3 8), core := BitVec.ofNat 13 (flit payload 4 13),
                    slot := BitVec.ofNat 4 (flit payload 5 4) },
    n := n, phys := dev.toNat * 2 ^ 48 + flit payload 8 48 / n * n, dva := BitVec.ofNat 57 (flit payload 10 57),
    data := BitVec.ofNat 128 (flit payload 11 128), expect := BitVec.ofNat 64 (flit payload 12 64), priv := flit payload 13 1 = 1,
    hold := flit payload 14 1 = 1, crewId := peerCrew payload }

/-! ### Checks 9 to 11 at the home (R114, R266) -/

/-- The page of a physical address as this device has mapped it; one that only peers name has what the flit says (R266). -/
def State.homePage (s : State) (phys : Nat) (payload : List Byte) : PageMap :=
  (s.mapped.find? fun m => decide (m.phys ≤ phys ∧ phys < m.phys + 2 ^ m.bits)).getD
    { asid := 4096, phys := phys / 2 ^ 16 * 2 ^ 16, once := flit payload 15 1 = 1, key := flit payload 16 9 }

/-- An access of a peer at its home: its key, its discipline, then its block as for a local one. -/
def State.peerAccess (s : State) (payload : List Byte) : State :=
  let q0 := peerReq s.dev payload
  let m := s.homePage q0.phys payload
  let q := { q0 with once := m.once }
  let r := s.nextReq
  let s1 := { s with reqs := s.reqs.put r q, nextReq := r + 1,
                     mapped := if s.mapped.contains m then s.mapped else s.mapped ++ [m] }
  let home := match q.kind with
    | .load _ | .store | .amo _ => m.once
    | _ => true
  if hbmEnd < q.phys % 2 ^ 48 + q.n then s1.refuse r .page q.dva.toNat
  else if m.key ≠ 0 ∧ (s.keys.get {} m.key).state ≠ .live then s1.refuse r .deadkey q.dva.toNat
  else match q.discipline m.once with
    | some c => s1.refuse r c q.dva.toNat
    | none => s1.emit (if home then q.homeStep r else q.reply r)

/-- A message of a peer: its header, its payload, the core that it is for (R53, R231). -/
def State.peerMessage (s : State) (payload : List Byte) : State :=
  let core := flit payload 2 14
  let m : Message := { hdr := BitVec.ofNat 64 (flit payload 20 64), dstDev := s.dev.toNat, dstCore := core,
                       join := if flit payload 16 1 = 1 then some (flit payload 17 32) else none,
                       payload := (List.range (flit payload 3 4)).map fun i => BitVec.ofNat 64 (flit payload (21 + i) 64) }
  ({ s with flight := s.flight ++ [m] }).emit (.messageDelivery core)

/-- The verdict of a peer's crew on its part of a held fill (R280, R281). -/
def State.peerVerdict (s : State) (payload : List Byte) : State :=
  let b := s.dev.toNat * 2 ^ 40 + flit payload 8 48 / 256
  if flit payload 2 1 = 1 then s.verdictPass (peerCrew payload) b else s.verdictFail (peerCrew payload) b

/-! ### What a peer's home answers, and what a peer withdraws (R267, R269, R278) -/

/-- The value of an answer, as wide as the access gives it (R116, R128, R132, R134). -/
def Req.peerValue (q : Req) (v : Nat) : VWord :=
  BitVec.ofNat 128 (match q.kind with
    | .load _ => v % 2 ^ (8 * q.n)
    | .stream _ _ => v % 2 ^ (8 * q.n)
    | .amo _ => v % 2 ^ (8 * q.n)
    | .bpoll => v % 4
    | .bgen => v % 64
    | .bhold => v % 64
    | .bfin => v % 2 ^ 64
    | _ => 0)

/-- The fault that an answer carries (R114 checks 9 to 11, R376). -/
def peerCause (payload : List Byte) : Cause :=
  match flit payload 32 3 with
  | 0 => .page
  | 1 => .deadkey
  | 2 => .align
  | 3 => .once2
  | 4 => .clear
  | _ => .poison

/-- The answer of a peer's home to an access of this device: its value, its fault, or word that it waits there; one whose access
has been withdrawn is discarded (R267, R278). -/
def State.peerReply (s : State) (payload : List Byte) : State :=
  let r := flit payload 30 64
  let q := s.req r
  if !q.live || q.space != .peer || (q.status != .issued && q.status != .parked) then s
  else match flit payload 31 2 with
    | 0 => s.answer r (q.peerValue (flit payload 11 128))
    | 1 => s.refuse r (peerCause payload) q.dva.toNat
    | 2 =>
      let s1 := s.modReq r fun q => { q with status := .parked }
      if q.relaxed then s1 else s1.modThread q.thread fun x => { x with state := .pblk }
    | _ => s

/-- The request of a peer's thread that waits at a block. -/
def State.peerWaits (s : State) (payload : List Byte) (b : Nat) : Option Nat :=
  (s.reqs.find? fun (p : Nat × Req) => p.2.live && p.2.status == .parked && p.2.phys / 256 == b &&
    p.2.from_ == some { dev := BitVec.ofNat 8 (flit payload 3 8), core := BitVec.ofNat 13 (flit payload 4 13),
                        slot := BitVec.ofNat 4 (flit payload 5 4) }).map (·.1)

/-- A peer withdraws the waiter or the hold of a thread that has been stopped or killed (R269, R278). -/
def State.peerWithdrawal (s : State) (payload : List Byte) : State :=
  match s.peerWaits payload (s.dev.toNat * 2 ^ 40 + flit payload 8 48 / 256) with
  | some r => s.withdrawReq r
  | none => s

/-- What an accepted data flit brings: an access, a message, a verdict, an answer, a withdrawal, or what this device need do
nothing for. -/
def State.peerFlit (s : State) (payload : List Byte) : State :=
  match flit payload 0 3 with
  | 1 => s.peerAccess payload
  | 2 => s.peerMessage payload
  | 3 => s.peerVerdict payload
  | 4 => s.peerReply payload
  | 5 => s.peerWithdrawal payload
  | _ => s

/-! ### The receiver (R415) -/

/-- A data flit with the expected number. -/
def State.acceptFlit (s : State) (p : Nat) (payload : List Byte) : State :=
  let s1 := (s.modPort p fun y =>
    { y with rxSeq := (y.rxSeq + 1) % 4096, gap := false, unacked := y.unacked + 1, received := y.received ++ [payload] }).later
      (s.now + 256) (.ackTimer p)
  (if 32 ≤ (s1.port p).unacked then s1.acknowledge p else s1).peerFlit payload

/-- FLIT_RECEIVE: a flit is accepted, or discarded for a CRC error, an unknown type or another number. -/
def execFlitReceive (port seq typ : Nat) (crcOk : Bool) (payload : List Byte) (s : State) : Out :=
  let x := s.port port
  let n := ofBytesLE (payload.take 2) % 4096
  if !x.open_ then .next s
  else if !crcOk then .next ((s.modPort port fun y => { y with crcErrors := y.crcErrors + 1 }).discardFlit port)
  else if typ = 1 then .next s
  else if typ = 2 then .next (s.emit (.ack port n))
  else if typ = 3 then .next (s.emit (.nak port n))
  else if typ = 0 ∧ seq = x.rxSeq then .next (s.acceptFlit port payload)
  else .next (s.discardFlit port)

end Sys2Proof.Machine
end

