-- ==== Sys2Proof/Machine/Engine.lean ====
section
/-! DEFINITION. What the engine instructions share: operands in `m1` (R179), the transaction barrier (R46, R208), the
deck and global accesses of engines (R194, R309, R447), the conversion of positions by swizzles (R200). -/

namespace Sys2Proof.Machine

/-! ### Operands in `m1` -/

/-- A deck operand: an offset in `m1`, checked with rights rd and w, then its alignment (R179, R180). -/
def State.inM1 (s : State) (t : Nat) (off : Word) (n align : Nat) : Gate Nat :=
  let g := s.segment t 1
  if !(g.admits .rd off.toNat n && g.admits .w off.toNat n) || g.space != .deck then .trap .seg off
  else if off.toNat % align ≠ 0 then .trap .align off
  else .go (g.base.toNat + off.toNat)

/-- A condition on an operand value; a value that breaks it traps ILLEGAL with the value in `taddr` (R180). -/
def require (ok : Bool) (v : Word) : Gate Unit := if ok then .go () else .trap .illegal v

/-- Fields of a word that are reserved are 0. -/
def noneIn (v : Word) (lo n : Nat) : Bool := field v.toNat lo n == 0

/-- A unit of the engines with no register result: it completes once its gate has passed. -/
def State.act (s : State) (rs : List Reg) (g : Gate State) : Out :=
  s.unit rs (g.next fun s1 => .go (s1.complete s.cur))

/-! ### Deck accesses of threads' engine units -/

/-- The parts of a deck range that lie in one block each. -/
def blockParts (a n : Nat) : List (Nat × Nat) :=
  (List.range ((a % 256 + n + 255) / 256)).map fun i =>
    let lo := max a ((a / 256 + i) * 256)
    (lo, min (a + n) ((a / 256 + i + 1) * 256) - lo)

/-- A unit's deck access within one block, at a window that holds it (R320, R447). -/
def State.windowGate (s : State) (writes : Bool) (off : Word) (a n : Nat) : Gate Unit :=
  let k := clusterOf (coreOf s.cur)
  match s.windowAt k a with
    | none => .go ()
    | some (key, blk) =>
      if writes && !(s.windows.get {} key).writable then .trap .seg off
      else match ((s.windows.get {} key).blocks.get {} blk).meets n (wordsOf a n) (!writes) writes with
        | .perform => .go ()
        | .trap c => .trap c off
        | _ => .wait .wmem (.windowFetch k (key % 8) blk)

/-- A deck access that a unit makes waits for copies and for window fetches, block by block (R119, R309, R320, R447). -/
def State.deckGate (s : State) (a n : Nat) (writes : Bool) (off : Word) : Gate Unit :=
  if s.deckBusy (clusterOf (coreOf s.cur)) a n then .wait .wmem (.deckRange a n)
  else (blockParts a n).foldl (fun g p => g.next fun _ => s.windowGate writes off p.1 p.2) (.go ())

/-- Pieces of a write to a DVA range enter a run's digest: 4, 2 or 1 bytes each, as the range is aligned (R402). -/
def State.digestRange (s : State) (crew dva : Nat) (bs : List Byte) : State :=
  let w := if dva % 4 = 0 ∧ bs.length % 4 = 0 then 4 else if dva % 2 = 0 ∧ bs.length % 2 = 0 then 2 else 1
  s.digestPieces crew dva w (ofBytesLE bs) (bs.length / w)

/-- Words written through a window: valid, dirty, in the digest, and gone from every other holder (R294, R320, R402). -/
def State.markWindow (s : State) (crew key blk a : Nat) (bs : List Byte) : State :=
  let w := s.windows.get {} key
  let b := w.blocks.get {} blk
  let m := wordsOf a bs.length
  let s1 := s.modWinBlock key blk fun x => x.written m
  let s2 := if b.once then s1 else s1.claimWords key (b.phys / 256) m
  s2.digestRange crew (w.gbase.toNat + 256 * blk + a % 256) bs

/-- Bytes stored in the deck by a unit or an engine, with the masks of a window that covers them. -/
def State.deckPut (s : State) (crew cluster a : Nat) (bs : List Byte) : State :=
  let s1 := s.deckStore cluster a bs
  match s.windowAt cluster a with
  | none => s1
  | some (key, blk) => s1.markWindow crew key blk a bs

/-! ### Transaction barriers (R46) -/

/-- A phase completes when no arrival and no sector is pending (R208). -/
def Barrier.settle (b : Barrier) : Barrier :=
  if b.parr = 0 ∧ b.psect = 0 then { b with phase := (b.phase + 1) % 16, parr := b.init } else b

/-- A barrier written by a `tb` unit or by a copy. The spec calls a `tb` unit a deck access (R119, R309): it fetches the block of a
window that holds the barrier, and what it and the engines write there makes no word valid or dirty and meets no check of the
window's rights, which R447 gives for `mx` units alone (DESIGN CHOICE, assumption 142). -/
def State.setBarrier (s : State) (cluster a : Nat) (b : Barrier) : State :=
  (s.deckWrite cluster a (toBytesLE b.bits 16)).latchStored cluster a 16
def State.modBarrier (s : State) (cluster a : Nat) (f : Barrier → Barrier) : State :=
  s.setBarrier cluster a (f (s.barrier cluster a))

/-! ### Swizzles (R200) -/

def swizzle (span : Option Nat) (x : Nat) : Nat :=
  match span with
  | none => x
  | some c => x ^^^ (x / (16 * 2 ^ c) % 2 ^ c * 16)

/-! ### Accesses of engines -/

/-- What an engine's access comes to: done with the bytes read, a wait (the engine tries again), a failure with its
cause and address. -/
inductive EngineAcc where
  | done (s : State) (bytes : List Byte)
  | wait (s : State)
  | fail (s : State) (c : Cause) (addr : Nat)

/-- A range cut at the next multiple of 256. -/
def pieceAt (a n : Nat) : Nat := min n (256 - a % 256)

/-- The start of a fetch of a window's block for an engine, or what stops it: its translation, its home, a write-back of the
window to that block that has not arrived (R320, R336). -/
def State.engineTouch (s : State) (key blk : Nat) (j : Joined) : Except Cause State :=
  let w := s.windows.get {} key
  let dva := w.gbase.toNat + 256 * blk
  let st := (w.blocks.get {} blk).state
  match (if st = .f ∨ st = .w then s.mapWindow key blk else s.translateWindow key blk) with
  | none => .ok ((s.joinMiss (key / 8) w.asid dva 3 j).getD s)
  | some (.error c) => .error c
  | some (.ok s1) =>
    let b := (s1.windows.get {} key).blocks.get {} blk
    if (s1.block (b.phys / 256)).pres = .poison then .error .poison
    else if (b.state = .u ∨ b.state = .v) ∧ s1.inFlight key (b.phys / 256) = [] then
      .ok (s1.beginFetch key blk)
    else .ok s1

/-- The bytes of a range at a deck address that lie before its first word that a window's block holds valid. -/
def WinBlock.beforeValid (b : WinBlock) (a n : Nat) : Nat :=
  match (List.range ((a % 4 + n + 3) / 4)).find? fun i => b.valid.getLsbD (a % 256 / 4 + i) with
  | some i => 4 * i - a % 4
  | none => n

/-- One piece of an engine's deck access, within one block: read where `data` is none. A write to a ONCE page ends at the first
word that is valid already, or before a word that it covers in part; what lies before is written (R309, R447). -/
def State.enginePiece (s : State) (core crew : Nat) (off a n : Nat) (data : Option (List Byte)) : EngineAcc :=
  let k := clusterOf core
  let run (s : State) : EngineAcc :=
    match data with
    | none => .done s (readBytes (s.deckByte k) a n)
    | some bs => .done (s.deckPut crew k a bs) []
  if s.deckBusy k a n then .wait s
  else match s.windowAt k a with
    | none => run s
    | some (key, blk) =>
      let w := s.windows.get {} key
      if data.isSome && !w.writable then .fail s .seg off
      else
        match s.mapWindow key blk with
        | some (.ok s1) =>
          let b := (s1.windows.get {} key).blocks.get {} blk
          if data.isSome && b.once && (a % 4 != 0 || n % 4 != 0) then .fail s1 .align off
          else match b.meets n (wordsOf a n) data.isNone data.isSome with
          | .perform =>
            if data.isSome && !b.once && s1.claimWaits key (b.phys / 256) (wordsOf a n) then .wait s1 else run s1
          | .trap c =>
            let m := b.beforeValid a n
            .fail (match data with
              | some bs => if m = 0 then s1 else s1.deckPut crew k a (bs.take m)
              | none => s1) c (off + m)
          | _ => match s1.engineTouch key blk (.drain core (w.gbase.toNat + 256 * blk)) with
            | .ok s2 => .wait s2
            | .error c => .fail s1 c (w.gbase.toNat + 256 * blk)
        | _ => match s.engineTouch key blk (.drain core (w.gbase.toNat + 256 * blk)) with
          | .ok s2 => .wait s2
          | .error c => .fail s c (w.gbase.toNat + 256 * blk)

/-- An engine's access to TCM or deck through a segment, at an offset that has passed its checks; `fuel` pieces. -/
def State.engineLocal (s : State) (t : Nat) (g : Seg) (off n : Nat) (data : Option (List Byte)) : Nat → EngineAcc
  | 0 => .done s []
  | fuel + 1 =>
    if n = 0 then .done s []
    else
      let a := g.base.toNat + off
      let core := coreOf t
      if g.space = .tcm then
        match data with
        | none => .done s (readBytes (s.tcmByte core) a n)
        | some bs => .done (s.tcmStore core a bs) []
      else
        let m := pieceAt a n
        match s.enginePiece core (s.thread t).crewId off a m (data.map fun bs => bs.take m) with
        | .done s1 bs =>
          match s1.engineLocal t g (off + m) (n - m) (data.map fun bs => bs.drop m) fuel with
          | .done s2 cs => .done s2 (bs ++ cs)
          | r => r
        | r => r

/-- A coherent write of an engine to `n` bytes of an OPEN block may be performed (R292, R327, R332): the words that windows hold
dirty have come home, and the sectors have left their other holders; true where it waits for earlier requests to the block, for
its notices (R326), for a recall, for its row (R340), or because the version may not advance. -/
def State.openWrite (s : State) (who cluster phys n : Nat) : State × Bool :=
  let b := phys / 256
  let m := wordsOf phys n
  if !s.mayAdvance b || !s.homeFree b || s.rowHeld phys then (s, true)
  else match s.engineAsks who cluster (s.engineNeeds cluster (sectorsOf phys n) true) with
    | some s1 => (s1, true)
    | none => match s.recallThen b m none [] with
      | some s1 => (s1, true)
      | none => (((sectorsOf phys n).foldl (fun s k => s.engineWrites cluster k) (s.windowsAnswer b)).dropWords b m none
          |>.openRow phys, false)

/-- A coherent read of an engine from an OPEN block (R294, R327), in the same way. -/
def State.openRead (s : State) (who cluster phys n : Nat) : State × Bool :=
  let b := phys / 256
  if !s.mayAdvance b || !s.homeFree b || s.rowHeld phys then (s, true)
  else match s.engineAsks who cluster (s.engineNeeds cluster (sectorsOf phys n) false) with
    | some s1 => (s1, true)
    | none => match s.recallThen b (wordsOf phys n) none [] with
      | some s1 => (s1, true)
      | none => ((sectorsOf phys n).foldl (fun s k => s.engineReads cluster k) (s.windowsAnswer b) |>.openRow phys, false)

/-- The next piece of an engine's global write for thread `t`: a word of a ONCE block, each a covering store, or the
bytes up to the end of an OPEN block (R194, R202). What is left comes back. An offset or a stride that is no multiple of 4 fails
at the first row that a ONCE page takes. -/
def State.engineWrite (s : State) (t : Nat) (peer : Bool) (dva : Nat) (data : List Byte) (joined : Joined)
    (off : Nat) (skewed : Bool) : EngineAcc :=
  let x := s.thread t
  let cluster := clusterOf (coreOf t)
  let open_ := data.take (pieceAt dva data.length)
  if s.replaying t then .done (s.digestRange x.crewId dva open_) (data.drop open_.length)
  else
    let asid := s.asidOf x.launch
    match s.tlbFind cluster asid dva with
    | none =>
      match s.joinMiss cluster asid dva 3 joined with
      | some s1 => .wait s1
      | none => .wait s
    | some l =>
      if !l.w || (decide (l.dev = s.dev.toNat) == peer) then .fail s .page dva
      else if peer && !s.reaches l.dev then .fail s .poison dva
      else if !s.keyLive l dva then .fail s .deadkey dva
      else
        let phys := l.phys dva
        let once := s.homeOnce l dva
        if once && (skewed || dva % 4 != 0) then .fail s .align off
        else if peer then
          let part := if once then data.take 4 else open_
          if !once && x.proofHold then .fail s .page dva
          else match peerRefuses phys s.now once with
            | some c => .fail s c dva
            | none => .done ((s.toPeer phys).digestRange x.crewId dva part) (data.drop part.length)
        else if once && (!(s.relaxedEarlier t s.nextReq).isEmpty || s.rowHeld phys) then .wait s
        else if once then
          match (s.openRow phys).coverStore (phys / 256) phys (data.take 4) (if x.proofHold then some x.crewId else none) (.drain (coreOf t)) with
          | .ok s1 => .done (s1.digestRange x.crewId dva (data.take 4)) (data.drop 4)
          | .error (some c) => .fail s c dva
          | .error none => .wait (s.waitPool (s.spanKey (phys / 256)) (.drain (coreOf t)))
        else if x.proofHold then .fail s .page dva
        else if (s.block (phys / 256)).pres = .poison ∧ x.priv = false then .fail s .poison dva
        else
          let (s1, asked) := s.openWrite (2 * coreOf t + 1) cluster phys open_.length
          if asked then .wait s1
          else .done (((s1.engineDone (2 * coreOf t + 1)).memWrite phys open_).digestRange x.crewId dva open_) (data.drop open_.length)

end Sys2Proof.Machine
end

