-- ==== Sys2Proof/Machine/Matrix.lean ====
section
/-! DEFINITION. The matrix engine (R181 to R194, R313, R314): its configuration, rings, scale buffer and queue, the
operations' checks, starts, cancellations, arithmetic and ends. -/

namespace Sys2Proof.Machine

/-! ### Rings (R49, R184, R185, R313) -/

def Ring.slot (r : Ring) (i : Nat) : RingSlot := r.slots.get {} i
def Ring.tile (r : Ring) : Nat := 256 * 2 ^ r.tsz
def Ring.size (r : Ring) : Nat := (r.nslot + 1) * r.tile
/-- The swizzle of a ring's descriptor. -/
def Ring.span (r : Ring) : Option Nat := if r.swzen then some r.swz.toNat else none

def State.ring (s : State) (core n : Nat) : Ring := (s.core core).rings.get {} n
def State.modRing (s : State) (core n : Nat) (f : Ring → Ring) : State :=
  s.modCore core fun c => { c with rings := c.rings.put n (f (c.rings.get {} n)) }

/-- The rings that an operation names. -/
def MxKind.names (k : MxKind) (n : Nat) : Bool :=
  match k with
  | .mma _ ra rb _ _ => ra == n || rb == n
  | .mma4 ra rb _ _ => ra == n || rb == n
  | .zero _ _ => false
  | .load _ _ _ _ => false
  | .drain _ _ _ _ => false

/-- The two entries of the engine's queue (R181): the operations issued behind them wait, in order, for an entry to free. -/
def Core.mxEntries (c : Core) : List MxOp := c.mxQueue.take 2

/-- A queued or executing operation, or a copy in flight, names a ring of a core (R184). -/
def State.ringBusy (s : State) (core n : Nat) : Bool :=
  let c := s.core core
  (c.mxEntries.any fun op => op.kind.names n) || (match c.mxRun with
    | some p => p.1.kind.names n
    | none => false) ||
    s.copies.any fun (p : Nat × Copy) =>
      p.2.core == core && p.2.stage != .retired && (match p.2.ring with
        | some r => r.1 == n
        | none => false)

/-- A deck range meets an open window of the cluster. -/
def State.meetsWindow (s : State) (cluster a n : Nat) : Bool :=
  s.windows.any fun (p : Nat × Window) =>
    p.1 / 8 == cluster && p.2.valid && decide (p.2.dbase < a + n ∧ a < p.2.dbase + 256 * p.2.nblk)

/-- The slot at the tail is claimed: in a state, with its link (R185). -/
def Ring.claim (r : Ring) (x : RingSlot) : Ring :=
  { r with slots := r.slots.put r.tail x, tail := (r.tail + 1) % (r.nslot + 1), cnt := r.cnt + 1 }

/-- The tile at the head is popped: its slot becomes free, or, while its copy is in flight, stale until that retires (R313). -/
def Ring.popOne (r : Ring) (free : Bool) : Ring :=
  let x := r.slot r.head
  if r.cnt = 0 then r
  else { r with slots := r.slots.put r.head (if free then {} else { x with state := .stale }),
                head := (r.head + 1) % (r.nslot + 1), cnt := r.cnt - 1 }

/-- A slot's tile is ready: it was pushed, or the phase of its copy's barrier differs from the linked one (R185). -/
def State.slotReady (s : State) (cluster : Nat) (x : RingSlot) : Bool :=
  match x.state with
  | .ready => true
  | .linked => (s.barrier cluster x.bar).phase != x.phase
  | .free => false
  | .stale => false

def State.popRing (s : State) (core n k : Nat) : State :=
  match k with
  | 0 => s
  | k + 1 =>
    let r := s.ring core n
    let x := r.slot r.head
    (s.modRing core n fun r0 => r0.popOne (s.slotReady (clusterOf core) x || (s.copies.find x.copy).isNone)).popRing core n k

/-- `mx.cfg`: a row of R183, no reserved bit. -/
def cfgRow (c : Nat) : Option (Nat × Bool) :=
  let a := field c 0 4
  let b := field c 4 4
  let scl := bitAt c 8
  let fp8 (x : Nat) : Bool := x == 3 || x == 4
  if a = 2 ∧ b = 2 ∧ scl = false then some (32, false)
  else if a = 1 ∧ b = 1 ∧ scl = false then some (32, false)
  else if fp8 a && fp8 b then some (64, false)
  else if a = 5 ∧ b = 5 then some (128, false)
  else if a = 8 ∧ b = 8 ∧ scl = false then some (64, true)
  else none

def execMxCfg (a : RegField) (s : State) : Out :=
  s.act [sreg a] <| (s.readS s.cur a).next fun (x, s1) =>
    (require (noneIn x 9 55 && (cfgRow x.toNat).isSome) x).next fun _ =>
      .go (s1.modCore (coreOf s.cur) fun c => { c with mxCfg := x.setWidth 9 })

/-- `mx.ring` (R184). -/
def execMxRing (a : RegField) (n : BitVec 2) (s : State) : Out :=
  s.act [sreg a] <| (s.readS s.cur a).next fun (x, s1) =>
    let core := coreOf s.cur
    let w := x.toNat
    let base := field w 0 21
    let r : Ring := { swzen := bitAt w 48, swz := BitVec.ofNat 3 (field w 45 3), tsz := field w 28 4, nslot := field w 24 4 }
    (require (noneIn x 49 15 && noneIn x 32 13 && noneIn x 21 3 && decide (r.tsz ≤ 4) && r.nslot != 0) x).next fun _ =>
      (s.inM1 s.cur (BitVec.ofNat 64 base) r.size 1).next fun addr =>
        (require (addr % 256 == 0 && decide (addr + r.size ≤ 2 ^ 21) && !s.meetsWindow (clusterOf core) addr r.size) x).next fun _ =>
          if s.ringBusy core n.toNat then .wait .wmx (.ringIdle n.toNat)
          else .go (s1.modRing core n.toNat fun _ => { r with base := addr })

/-- `mx.push`: a release; the slot at the tail is ready at once (R185, R291). -/
def execMxPush (n : BitVec 2) (s : State) : Out :=
  let core := coreOf s.cur
  let r := s.ring core n.toNat
  s.act [] <| (if r.nslot = 0 then .trap .illegal (n.setWidth 64)
    else if r.cnt = r.nslot + 1 ∨ (r.slot r.tail).state ≠ .free then .wait .wmx (.ringSlot n.toNat)
    else s.releaseGate.next fun _ => .go (s.modRing core n.toNat fun r => r.claim { state := .ready }))

/-- `mx.pop`: waits for a tile, never for its readiness (R185). -/
def execMxPop (n : BitVec 2) (s : State) : Out :=
  let core := coreOf s.cur
  let r := s.ring core n.toNat
  s.act [] <| (if r.nslot = 0 then .trap .illegal (n.setWidth 64)
    else if r.cnt = 0 then .wait .wmx (.ringTile n.toNat)
    else .go (s.popRing core n.toNat 1))

/-- The granules of 8 bytes of a deck range hold an uncorrectable error (R384): the first one's address. -/
def State.badDeck (s : State) (cluster a n : Nat) : Option Nat :=
  (s.deckErrors.find? fun g => g / 2 ^ 18 == cluster && decide (a / 8 ≤ g % 2 ^ 18 ∧ g % 2 ^ 18 ≤ (a + n - 1) / 8)).map
    fun g => g % 2 ^ 18 * 8

/-- `mx.scale`: 64 and 256 bytes of `m1` into the scale buffer (R188). -/
def execMxScale (a b : RegField) (s : State) : Out :=
  let k := clusterOf (coreOf s.cur)
  s.unit [sreg a, sreg b] <| (s.read2 a b).next fun (x, y, s1) =>
    (s.inM1 s.cur x 64 64).next fun pa => (s.inM1 s.cur y 256 64).next fun pb =>
      (s.deckGate pa 64 false x).next fun _ => (s.deckGate pb 256 false y).next fun _ =>
        if (s.badDeck k pa 64).isSome then .trap .poison x
        else if (s.badDeck k pb 256).isSome then .trap .poison y
        else
          .go ((((s1.modCore (coreOf s.cur) fun c =>
            { c with mxScale := putBytes (putBytes [] 0 (readBytes (s.deckByte k) pa 64)) 64
                                  (readBytes (s.deckByte k) pb 256) }).await s.cur .wmem .banks).ask
              { cluster := k, engine := true, number := mxNumber (coreOf s.cur), since := s.now + deckTrip,
                banks := banksOf pa 64 ++ banksOf pb 256, asker := .unit s.cur }))

/-! ### The queue (R181, R221, R314) -/

/-- A matrix operation issues: it captures the configuration, the scale buffer and, with `.ret`, the permit, and stands in order of
issue; its thread waits, for an entry of the queue where both are held, and until the operation has ended (DEDUCED, assumption
150). -/
def State.enqueue (s : State) (kind : MxKind) (ret : Bool) (seg : Seg) : Gate State :=
  let core := coreOf s.cur
  let c := s.core core
  let x := s.me
  let op : MxOp := { id := s.nextOp, thread := s.cur, kind := kind, cfg := c.mxCfg, scale := c.mxScale,
                     permit := if ret then x.permit else none, seg := seg, pc := x.pc }
  let s1 := { s.modCore core fun c => { c with mxQueue := c.mxQueue ++ [op] } with nextOp := s.nextOp + 1 }
  let s2 := if ret then s1.modThread s.cur fun y => { y with permit := none } else s1
  .go ((s2.await s.cur .wmx (.engine op.id)).emit (.matrixOperationStart core))

def execMxZero (acc : BitVec 2) (int : Bool) (s : State) : Out :=
  s.unit [] (s.enqueue (.zero acc.toNat int) false {})

def execMxMma (acc ra rb : BitVec 2) (ka kb ret : Bool) (s : State) : Out :=
  s.unit [] (s.enqueue (.mma acc.toNat ra.toNat rb.toNat ka kb) ret {})

def execMxMma4 (ra rb : BitVec 2) (ka kb ret : Bool) (s : State) : Out :=
  s.unit [] (s.enqueue (.mma4 ra.toNat rb.toNat ka kb) ret {})

/-- The segment, and the stride, of a row operation's control word. -/
def rowSeg (ctl : Word) : SegField := BitVec.ofNat 3 (field ctl.toNat 5 3)
def rowStride (ctl : Word) : Nat := field ctl.toNat 16 16

/-- Sixteen rows through a segment: the first whose range fails R40. -/
def rowsFit (g : Seg) (r : Right) (off : Word) (stride n : Nat) : Option Nat :=
  ((List.range 16).map fun i => off.toNat + i * stride).find? fun o => !g.admits r o n

/-- `mx.load`: its operands are checked at issue (R180, R189). -/
def execMxLoad (acc : BitVec 2) (a b : RegField) (int : Bool) (s : State) : Out :=
  s.unit [sreg a, sreg b] <| (s.read2 a b).next fun (x, y, s1) =>
    let g := s.segment s.cur (rowSeg y)
    let stride := rowStride y
    (require (noneIn y 32 32 && noneIn y 8 8 && noneIn y 0 5 && stride % 4 == 0 && decide (64 ≤ stride)) y).next fun _ =>
      if g.space = .global ∨ g.space = .peer then .trap .seg x
      else match rowsFit g .rd x stride 64 with
        | some o => .trap .seg (BitVec.ofNat 64 o)
        | none => if x.toNat % 4 ≠ 0 then .trap .align x else s1.enqueue (.load acc.toNat int x y) false g

/-- `mx.drain`: its control word is checked when the drain starts (R194). -/
def execMxDrain (acc : BitVec 2) (a b : RegField) (clr ret : Bool) (s : State) : Out :=
  s.unit [sreg a, sreg b] <| (s.read2 a b).next fun (x, y, s1) =>
    s1.enqueue (.drain acc.toNat x y clr) ret (s.segment s.cur (rowSeg y))

/-! ### The end of an operation -/

/-- The engine is free: the operation's permit returns, and the next one may start. -/
def State.freeEngine (s : State) (core : Nat) (op : MxOp) : State :=
  ((s.modCore core fun c => { c with mxRun := none, mxNeed := [] }).returnPermit core op.permit).emit (.matrixOperationStart core)

/-- A thread still waits for an operation. -/
def State.waitsFor (s : State) (op : MxOp) : Bool := (s.thread op.thread).wait == .engine op.id

/-- An operation ends and its thread goes on. -/
def State.endMx (s : State) (core : Nat) (op : MxOp) : State :=
  let s1 := s.freeEngine core op
  if s.waitsFor op then s1.complete op.thread else s1

/-- An operation ends with a fault, which its thread takes at its unit. -/
def State.failMx (s : State) (core : Nat) (op : MxOp) (c : Cause) (addr : Nat) : State :=
  let s1 := s.freeEngine core op
  if s.waitsFor op then s1.trap op.thread c (BitVec.ofNat 64 addr) else s1

/-- An operation cancelled: `h30.mxcan`, an entry of kind 3, the fault at its unit (R193, R384). -/
def State.cancelMx (s : State) (core : Nat) (op : MxOp) (c : Cause) (addr : Nat) : State :=
  let s1 := s.modCore core fun k => { k with mxCan := true }
  let s2 := s1.report (s.thread op.thread).launch
    (s.errorEntry (s.concerned op.thread) 3 c addr op.pc.toNat (addr % 2 ^ 21))
  s2.failMx core op c addr

/-! ### Tiles and arithmetic (R186, R191, R192) -/

/-- The type of a code: a format, and the bits of an element. -/
def mxFormat (code : Nat) : Option Format :=
  match code with
  | 0 => some fp32
  | 1 => some fp16
  | 2 => some bf16
  | 3 => some e4m3
  | 4 => some e5m2
  | 5 => some e2m1
  | _ => none

def mxBits (code : Nat) : Nat :=
  match code with
  | 0 => 32
  | 1 => 16
  | 2 => 16
  | 5 => 4
  | 9 => 16
  | 0xA => 32
  | 0xB => 64
  | _ => 8

/-- A tile's byte at a logical offset: the ring's swizzle places it, and where the copy wrote with another span the
byte it placed for that position is read (R186). -/
def State.tileByte (s : State) (cluster : Nat) (r : Ring) (slot x : Nat) : Byte :=
  s.deckByte cluster (r.base + slot * r.tile + swizzle r.span x)

/-- Element `k` of line `i` of a tile. -/
def State.element (s : State) (cluster : Nat) (r : Ring) (slot bits i k : Nat) : Nat :=
  if bits = 4 then field (s.tileByte cluster r slot (64 * i + k / 2)).toNat (k % 2 * 4) 4
  else if bits = 8 then (s.tileByte cluster r slot (64 * i + k)).toNat
  else (s.tileByte cluster r slot (64 * i + 2 * k)).toNat + 256 * (s.tileByte cluster r slot (64 * i + 2 * k + 1)).toNat

/-- A line of a tile as the values of its `K` elements. -/
def State.line (s : State) (cluster : Nat) (r : Ring) (slot code K i : Nat) : List Nat :=
  (List.range K).map fun k => s.element cluster r slot (mxBits code) i k

/-- An E8M0 scale (R150): a power of two, or a NaN. -/
def scaleValue (b : Byte) : Fp := if b = 0xFF then .nan else .fin false 1 ((b.toNat : Int) - 127)

/-- The products of a row and a column, each exact (R191). -/
def products (fa fb : Format) (scl : Bool) (sa sb : Nat → Fp) : Nat → List Nat → List Nat → List Fp
  | k, a :: as, b :: bs =>
    let p := ((fa.value a).mul (fb.value b)).1
    (if scl then ((p.mul (sa (k / 32))).1.mul (sb (k / 32))).1 else p) :: products fa fb scl sa sb (k + 1) as bs
  | _, _, _ => []

/-- The exact sum of an accumulator element and products: any NaN, or infinities of both signs, give a NaN; an
infinity wins; an exact zero is +0 unless every term is −0 (R191). -/
def exactSum (terms : List Fp) : Fp :=
  let nan := terms.any Fp.isNan
  let pos := terms.any fun x => x == .inf false
  let neg := terms.any fun x => x == .inf true
  if nan || (pos && neg) then .nan
  else if pos then .inf false
  else if neg then .inf true
  else
    let sum := terms.foldl (fun (acc : Fp) x => (acc.add 0 x).1) (.fin true 0 0)
    match sum with
    | .fin _ 0 _ => .fin (terms.all Fp.isNeg) 0 0
    | x => x

/-- One element of a step (R191, R192). -/
def mxElement (cfg : Nat) (acc : BitVec 32) (sa sb : Nat → Fp) (row col : List Nat) : BitVec 32 :=
  let a := field cfg 0 4
  let b := field cfg 4 4
  match mxFormat a, mxFormat b with
  | some fa, some fb =>
    BitVec.ofNat 32 (roundFp fp32 0 (exactSum (fp32.value acc.toNat ::
      products fa fb (bitAt cfg 8) sa sb 0 row col))).1
  | _, _ =>
    BitVec.ofInt 32 ((acc.toInt) + ((row.zip col).foldl (fun (z : Int) p => z + signed 8 p.1 * signed 8 p.2) 0))

/-- The elements of an accumulator after a step with A rows and B columns. -/
def State.stepAcc (s : State) (core acc : Nat) (op : MxOp) (rowsA colsB : List (List Nat)) (t : Nat) : State :=
  let c := s.core core
  let cfg := op.cfg.toNat
  let new := (List.range 256).foldl (fun (m : Tab (BitVec 32)) e =>
    let i := e / 16
    let j := e % 16
    m.put (256 * acc + e) (mxElement cfg (c.acc.get 0 (256 * acc + e))
      (fun g => scaleValue (op.scale.get 0 (4 * i + g))) (fun g => scaleValue (op.scale.get 0 (64 + 64 * t + 4 * j + g)))
      (rowsA.getD i []) (colsB.getD j []))) c.acc
  s.setCore core { c with acc := new, poisoned := c.poisoned.filter fun p => p != 128 + acc }

/-- The slots whose tiles an operation reads. -/
def Ring.heads (r : Ring) (n : Nat) : List Nat := (List.range n).map fun i => (r.head + i) % (r.nslot + 1)

/-- A step's effect: the accumulators, and the pops (R190). -/
def State.doStep (s : State) (core : Nat) (op : MxOp) (ra rb : Nat) (ka kb : Bool) (accs : List Nat) : State :=
  let k := clusterOf core
  let depth := ((cfgRow op.cfg.toNat).getD (0, false)).1
  let a := s.ring core ra
  let b := s.ring core rb
  let rows := (List.range 16).map fun i => s.line k a (op.slots.headD 0) (field op.cfg.toNat 0 4) depth i
  let s1 := (accs.zip (op.slots.drop 1)).foldl (fun st (p : Nat × Nat) =>
    st.stepAcc core p.1 op rows ((List.range 16).map fun j => s.line k b p.2 (field op.cfg.toNat 4 4) depth j)
      (if accs.length = 1 then 0 else p.1)) s
  let s2 := if ka then s1 else s1.popRing core ra 1
  if kb then s2 else s2.popRing core rb accs.length

/-- The checks of R187: the number named by the first that fails, which is the configuration word, the ring's number or the
accumulator's (DESIGN CHOICE, assumption 106). -/
def State.mxChecks (s : State) (core : Nat) (op : MxOp) (ra rb : Nat) (four : Bool) (accs : List Nat) : Option Nat :=
  match cfgRow op.cfg.toNat with
  | none => some op.cfg.toNat
  | some row =>
    if (s.ring core ra).tsz ≠ 2 ∨ (s.ring core ra).nslot = 0 then some ra
    else if (s.ring core rb).tsz ≠ 2 ∨ (s.ring core rb).nslot = 0 then some rb
    else if four && decide ((s.ring core rb).nslot < 3) then some rb
    else accs.find? fun n => (s.core core).accInt.get false n != row.2

/-- The slots an operation reads, with their rings. -/
def State.mxSlots (s : State) (core ra rb nb : Nat) : List (Ring × Nat) :=
  ((s.ring core ra).heads 1).map (fun i => (s.ring core ra, i)) ++
    ((s.ring core rb).heads nb).map fun i => (s.ring core rb, i)

/-- A tile that makes the operation fail: behind a poisoned barrier (R193), or with a granule in error (R384). -/
def State.badTile (s : State) (cluster t : Nat) (slots : List (Ring × Nat)) : Option (Cause × Nat) :=
  match slots.find? fun p =>
      (p.1.slot p.2).linked && ((p.1.slot p.2).poison || (s.barrier cluster (p.1.slot p.2).bar).poison) with
  | some p => some (.async, (p.1.slot p.2).barOff)
  | none =>
    (slots.findSome? fun p => s.badDeck cluster (p.1.base + p.2 * p.1.tile) p.1.tile).map fun a =>
      (.poison, a - (s.segment t 1).base.toNat)

/-! ### The run of an operation (R182, R315) -/

/-- The fields of a row operation's control word. -/
def rowBytes (ctl : Word) : Nat := 16 * (mxBits (field ctl.toNat 0 4) / 8)

/-- The duration of an operation that no bank delays (R182). -/
def MxOp.ticks (op : MxOp) : Nat :=
  match op.kind with
  | .zero _ _ => 1
  | .load _ _ _ _ => 16
  | .mma _ _ _ _ _ => 32
  | .mma4 _ _ _ _ => 128
  | .drain _ _ _ _ => 16

/-- The banks of a piece of 32 bytes of a slot's tile (R315). -/
def Ring.piece (r : Ring) (slot p : Nat) : List Nat := banksOf (r.base + slot * r.tile + 32 * (p % 32)) 32

/-- The banks that a step of logical core `c` needs at τ (R315). -/
def State.stepNeed (s : State) (core : Nat) (slots : List Nat) (ra rb t : Nat) : List Nat :=
  let c := logical core
  (if t < 32 then (s.ring core ra).piece (slots.headD 0) (2 * c + t) else []) ++
    (s.ring core rb).piece (slots.getD (1 + t / 32) 0) (2 * c + t + 1)

/-- The banks of row `t` of a load or a drain whose segment is the deck. -/
def rowNeed (g : Seg) (off stride n t : Nat) : List Nat :=
  if g.space = .deck then banksOf (g.base.toNat + off + t * stride) n else []

/-- The banks that an operation needs at τ. -/
def State.mxNeedAt (s : State) (core : Nat) (op : MxOp) (t : Nat) : List Nat :=
  match op.kind with
  | .zero _ _ => []
  | .load _ _ off ctl => rowNeed op.seg off.toNat (rowStride ctl) 64 t
  | .mma _ ra rb _ _ => s.stepNeed core op.slots ra rb t
  | .mma4 ra rb _ _ => s.stepNeed core op.slots ra rb t
  | .drain _ off ctl _ => rowNeed op.seg off.toNat (rowStride ctl) (rowBytes ctl) t

/-- An operation starts: one that reads or writes the deck advances with the ticks in which the banks serve it, another ends
after its duration. -/
def State.runMx (s : State) (core : Nat) (op : MxOp) : State :=
  match s.mxNeedAt core op 0 with
  | [] => (s.modCore core fun c => { c with mxRun := some (op, s.now + op.ticks) }).later (s.now + op.ticks)
      (.matrixOperationEnd core)
  | need => s.modCore core fun c => { c with mxRun := some (op, s.now), mxTau := 0, mxNeed := need }

/-- After a tick in which the banks served all that an operation needs, τ advances; the last τ ends it (R315). -/
def State.advanceMx (s : State) (core : Nat) : State :=
  let c := s.core core
  match c.mxRun with
  | none => s
  | some (op, _) =>
    if !c.mxNeed.isEmpty then s
    else if c.mxTau + 1 < op.ticks then
      s.setCore core { c with mxTau := c.mxTau + 1, mxNeed := s.mxNeedAt core op (c.mxTau + 1) }
    else s.emit (.matrixOperationEnd core)

/-- A step at the head of the queue: its checks, its wait for tiles, its cancellation, or its run (R182, R187, R193). It waits
until all its tiles are ready, also where one of them stands behind a poisoned barrier (DESIGN CHOICE, assumption 137). -/
def State.startStep (s : State) (core : Nat) (op : MxOp) (ra rb : Nat) (accs : List Nat) : State :=
  let k := clusterOf core
  let pop (s : State) : State := s.modCore core fun c => { c with mxQueue := c.mxQueue.drop 1 }
  match s.mxChecks core op ra rb (decide (1 < accs.length)) accs with
  | some n => (pop s).failMx core op .illegal n
  | none =>
    let slots := s.mxSlots core ra rb accs.length
    let enough := decide (1 ≤ (s.ring core ra).cnt) && decide (accs.length ≤ (s.ring core rb).cnt)
    if !enough || !(slots.all fun p => s.slotReady k (p.1.slot p.2)) then s
    else match s.badTile k op.thread slots with
      | some (c, a) => ((pop s).foundBy c op.thread).cancelMx core op c a
      | none =>
        match accs.find? fun n => (s.core core).poisoned.contains (128 + n) with
        | some n =>
          let s1 := (pop s).freeEngine core op
          if (s.thread op.thread).twin then s1.modThread op.thread fun x => { x with pair := { x.pair with diverged := true } }
          else s1.kill op.thread (64 + n)
        | none =>
          (pop s).runMx core { op with slots := slots.map (·.2) }

/-- An element of a row of a drain, after conversion (R194); an FP32 accumulator drained as FP32 gives its bits unchanged
(DESIGN CHOICE, assumption 109). -/
def drainValue (int : Bool) (code : Nat) (sat : Bool) (v : BitVec 32) : Nat :=
  if int then
    let w := mxBits code
    if sat then satSigned w v.toInt else v.toNat % 2 ^ w
  else match mxFormat code with
    | some f => if code = 0 then v.toNat else (narrow f 0 sat none v.toNat).1
    | none => 0

def State.drainBytes (s : State) (core acc code : Nat) (sat : Bool) : List Byte :=
  let c := s.core core
  (List.range 256).flatMap fun e =>
    toBytesLE (drainValue (c.accInt.get false acc) code sat (c.acc.get 0 (256 * acc + e))) (mxBits code / 8)

/-- The checks of a drain when it starts (R194): the cause and the value or offset. -/
def State.drainCheck (s : State) (core acc : Nat) (off ctl : Word) (g : Seg) : Option (Cause × Word) :=
  let code := field ctl.toNat 0 4
  let size := mxBits code / 8
  let int := (s.core core).accInt.get false acc
  let stride := rowStride ctl
  let typeOk := if int then code == 0xA || code == 9 || code == 8 else decide (code ≤ 4)
  if !noneIn ctl 32 32 || !noneIn ctl 8 8 || !typeOk || decide (stride < 16 * size) then some (.illegal, ctl)
  else if g.space = .peer then some (.seg, off)
  else match rowsFit g .w off stride (16 * size) with
    | some o => some (.seg, BitVec.ofNat 64 o)
    | none => if off.toNat % size ≠ 0 ∨ stride % size ≠ 0 then some (.align, off) else none

/-- MATRIX_OPERATION_START: the operation at the head makes its checks and starts once the engine is free and its tiles
are ready (R182). -/
def execMatrixOperationStart (core : Nat) (s : State) : Out :=
  let c := s.core core
  if c.mxRun.isSome then .next s
  else match c.mxQueue with
    | [] => .next s
    | op :: rest =>
      if s.wantsStop op.thread && s.even (s.stopGroup op.thread) then .next s
      else
      let s1 := s.setCore core { c with mxQueue := rest }
      match op.kind with
      | .zero _ _ => .next (s1.runMx core op)
      | .load _ _ _ _ => .next (s1.runMx core op)
      | .mma acc ra rb _ _ => .next (s.startStep core op ra rb [acc])
      | .mma4 ra rb _ _ => .next (s.startStep core op ra rb [0, 1, 2, 3])
      | .drain acc off ctl _ =>
        match s.drainCheck core acc off ctl op.seg with
        | some (c, a) => .next (s1.failMx core op c a.toNat)
        | none =>
          if (s.core core).poisoned.contains (128 + acc) then .next ((s1.freeEngine core op).kill op.thread (64 + acc))
          else
            .next (s1.runMx core { op with buf := s.drainBytes core acc (field ctl.toNat 0 4) (bitAt ctl.toNat 4) })

/-! ### Row operations: loads and drains (R189, R194, R447) -/

/-- The 1,024 bytes of a load, row by row. -/
def State.loadRows (s : State) (t : Nat) (g : Seg) (off stride : Nat) : Nat → EngineAcc
  | 0 => .done s []
  | n + 1 =>
    let o := off + (15 - n) * stride
    let a := g.base.toNat + o
    let bad := if g.space = .tcm then (granules a 64 ++ (List.range 8).map fun i => a / 8 + i).any fun k =>
        (s.core (coreOf t)).tcmErrors.contains k
      else (s.badDeck (clusterOf (coreOf t)) a 64).isSome
    if bad then .fail (s.countFound (spanOf (coreOf t))) .poison o
    else match s.engineLocal t g o 64 none 3 with
      | .done s1 bs => match s1.loadRows t g off stride n with
        | .done s2 cs => .done s2 (bs ++ cs)
        | r => r
      | r => r

/-- The elements of an accumulator from 1,024 bytes. -/
def accFrom (m : Tab (BitVec 32)) (e : Nat) : List Byte → Nat → Tab (BitVec 32)
  | _, 0 => m
  | bs, n + 1 => accFrom (m.put e (BitVec.ofNat 32 (ofBytesLE (bs.take 4)))) (e + 1) (bs.drop 4) n

/-- The rest of a drain's rows, as far as they can be written now: `done` bytes of `total` stand. -/
def State.drainRows (s : State) (core : Nat) (op : MxOp) (off stride row : Nat) : Nat → List Byte → Nat → EngineAcc
  | _, _, 0 => .done s []
  | _, [], _ => .done s []
  | done, b :: bs, fuel + 1 =>
    let data := b :: bs
    let o := off + done / row * stride + done % row
    let left := data.take (row - done % row)
    let piece := if op.seg.space = .deck then left.take (pieceAt (op.seg.base.toNat + o) left.length) else left
    let mark (s : State) (n : Nat) : State :=
      s.modCore core fun c => { c with mxRun := c.mxRun.map fun p => ({ p.1 with progress := n }, p.2) }
    if op.seg.space = .global then
      match s.engineWrite op.thread false (op.seg.base.toNat + o) piece (.drain core (op.seg.base.toNat + o))
          off (off % 4 != 0 || stride % 4 != 0) with
      | .done s1 rest =>
        let n := done + (piece.length - rest.length)
        (mark s1 n).drainRows core op off stride row n (data.drop (piece.length - rest.length)) fuel
      | .wait s1 => .wait s1
      | .fail s1 c a => .fail s1 c a
    else
      match s.engineLocal op.thread op.seg o piece.length (some piece) 3 with
      | .done s1 _ =>
        let n := done + piece.length
        (mark s1 n).drainRows core op off stride row n (data.drop piece.length) fuel
      | .wait s1 => .wait s1
      | .fail s1 c a => .fail s1 c a

/-- The operation tries again in the next tick. -/
def State.againMx (s : State) (core : Nat) : State := s.later (s.now + 1) (.matrixOperationEnd core)

/-- MATRIX_OPERATION_END: the effect, the pops, the permit, the thread (R182, R190). A drain that a parked page fault or
a fetch holds goes on when it can. -/
def execMatrixOperationEnd (core : Nat) (s : State) : Out :=
  match (s.core core).mxRun with
  | none => .next s
  | some (op, due) =>
    if decide (s.now < due) || !(s.core core).mxNeed.isEmpty then .next s
    else match op.kind with
      | .zero acc int =>
        let s1 := s.modCore core fun c =>
          { c with acc := c.acc.filter fun (p : Nat × BitVec 32) => p.1 / 256 != acc, accInt := c.accInt.put acc int,
                   poisoned := c.poisoned.filter fun p => p != 128 + acc }
        .next (s1.endMx core op)
      | .load acc int off ctl =>
        match s.loadRows op.thread op.seg off.toNat (rowStride ctl) 16 with
        | .done s1 bs =>
          let s2 := s1.modCore core fun c =>
            { c with acc := accFrom c.acc (256 * acc) bs 256, accInt := c.accInt.put acc int,
                     poisoned := c.poisoned.filter fun p => p != 128 + acc }
          .next (s2.endMx core op)
        | .wait s1 => .next (s1.againMx core)
        | .fail s1 c a => .next (s1.failMx core op c a)
      | .mma acc ra rb ka kb => .next ((s.doStep core op ra rb ka kb [acc]).endMx core op)
      | .mma4 ra rb ka kb => .next ((s.doStep core op ra rb ka kb [0, 1, 2, 3]).endMx core op)
      | .drain acc off ctl clr =>
        let row := rowBytes ctl
        match s.drainRows core op off.toNat (rowStride ctl) row op.progress (op.buf.drop op.progress) 300 with
        | .done s1 _ =>
          let s2 := if clr then s1.modCore core fun c =>
              { c with acc := c.acc.filter fun (p : Nat × BitVec 32) => p.1 / 256 != acc } else s1
          .next (s2.endMx core op)
        | .wait s1 => .next (s1.againMx core)
        | .fail s1 c a => .next (s1.failMx core op c a)

end Sys2Proof.Machine
end

