-- ==== Sys2Proof/Machine/Copy.lean ====
section
/-! DEFINITION. Copies (R195 to R206, R304 to R310): their checks at issue, acceptance, units, failures and
retirement, and prefetches (R204). -/

namespace Sys2Proof.Machine

/-! ### Layout records (R47, R48) -/

/-- A field of a record per dimension, 0 to 4. -/
def perDim (x lo w : Nat) : List Nat := (List.range 5).map fun i => field x (lo + w * i) w

def goodType (t : Nat) : Bool := decide (t ≤ 5) || t == 8 || t == 9 || t == 0xA || t == 0xB

/-- A record, unless R47 rejects it. -/
def layoutOf (x : Nat) : Option Layout :=
  let l : Layout :=
    { box := perDim x 416 16, str := 0 :: (perDim x 288 32).take 4, dim := perDim x 128 32, fill := field x 96 32,
      swz := if bitAt x 71 then some (field x 72 3) else none, rank := field x 68 3, type := field x 64 4,
      base := field x 0 57 }
  let used := (List.range 5).all fun i =>
    if i < l.rank then l.dim.getD i 0 != 0 && l.box.getD i 0 != 0
    else l.dim.getD i 0 == 0 && l.box.getD i 0 == 0 && l.str.getD i 0 == 0
  if field x 57 7 = 0 ∧ field x 75 21 = 0 ∧ field x 496 16 = 0 ∧ 1 ≤ l.rank ∧ l.rank ≤ 5 ∧ goodType l.type = true ∧
      used = true ∧ (l.type = 5 → l.dim.getD 0 0 % 2 = 0 ∧ l.box.getD 0 0 % 2 = 0)
  then some l else none

/-- The bits of an element, and the fill value in them (R47). -/
def Layout.bits (l : Layout) : Nat := mxBits l.type
def Layout.fillBits (l : Layout) : Nat :=
  if l.type = 0xB then ((BitVec.ofNat 32 l.fill).signExtend 64).toNat else l.fill % 2 ^ l.bits

/-- The elements of a copy's box, or of its rows. -/
def Copy.count (c : Copy) : Nat :=
  match c.kind with
  | .cpGather => c.rows * c.layout.box.getD 0 0
  | _ => (c.layout.box.take c.layout.rank).foldl (· * ·) 1

/-- The coordinates of element `x` of a box with its origin. -/
def boxCoords (x : Nat) : List Nat → List Int → List Int
  | b :: bs, o :: os => (o + (x % b : Nat)) :: boxCoords (x / b) bs os
  | _, _ => []

def Copy.coords (c : Copy) (x : Nat) : List Int :=
  match c.kind with
  | .cpGather => [(x % c.layout.box.getD 0 1 : Nat), c.idx.getD (x / c.layout.box.getD 0 1) 0]
  | _ => boxCoords x (c.layout.box.take c.layout.rank) c.origin

/-- The byte offset of coordinates of dimensions 1 and above. -/
def strideBytes : List Int → List Nat → Int
  | z :: zs, t :: ts => z * t * 16 + strideBytes zs ts
  | _, _ => 0

/-- The address of element `x` in global memory in bits, unless it lies outside the tensor (R197, R203). -/
def Copy.bitOf (c : Copy) (x : Nat) : Option Nat :=
  let z := c.coords x
  if (z.zip c.layout.dim).all (fun p => decide (0 ≤ p.1) && decide (p.1 < p.2)) then
    some ((c.layout.base : Int) * 8 + z.headD 0 * c.layout.bits + strideBytes (z.drop 1) (c.layout.str.drop 1) * 8).toNat
  else none

/-- The bytes of a copy, its units, the bytes of a unit. -/
def Copy.total (c : Copy) : Nat := if c.kind = .cpDd then c.bytes.getD 0 else c.count * c.layout.bits / 8
def Copy.units (c : Copy) : Nat := (c.total + 63) / 64
def Copy.unitLen (c : Copy) (u : Nat) : Nat := min 64 (c.total - 64 * u)

/-- The elements that the swizzle places in a unit (R306). -/
def Copy.elementsIn (c : Copy) (u : Nat) : List Nat :=
  (List.range ((c.unitLen u + 15) / 16)).flatMap fun i =>
    let p := 64 * u + 16 * i
    let n := min 16 (c.total - p)
    let l := swizzle c.layout.swz p
    (List.range (n * 8 / c.layout.bits)).map fun k => l * 8 / c.layout.bits + k

/-! ### The state of copies -/

def State.copy (s : State) (id : Nat) : Copy := s.copies.get {} id
def State.putCopy (s : State) (id : Nat) (c : Copy) : State := { s with copies := s.copies.put id c }
def State.modCopy (s : State) (id : Nat) (f : Copy → Copy) : State := s.putCopy id (f (s.copy id))

/-- The end of a copy: its entry, its permit, the stale slot it leaves (R221, R304, R313). -/
def State.retireCopy (s : State) (id : Nat) : State :=
  let c := s.copy id
  let s1 := { (s.engineDone (2 * id)) with copies := s.copies.drop id }
  let s2 := match c.ring with
    | none => s1
    | some (n, i) => s1.modRing c.core n fun r =>
        if (r.slot i).state = RingSlotState.stale ∧ (r.slot i).copy = id then { r with slots := r.slots.put i {} } else r
  (s2.returnPermit c.core c.permit).emit (.crewRetirement c.crewId)

/-- Whom an entry about a copy names: the core and the slot that issued it, wherever it goes on (R383). -/
def State.concernedCopy (s : State) (c : Copy) : Concerned :=
  let k := s.crewOf c.crewId
  { core := coreOf c.issuer, slot := slotOf c.issuer, tid := c.tid, crew := k.num, stage := k.stage, bay := k.bay }

/-- A copy fails once its barrier's bank has served it: its outstanding units leave psect in one access, the barrier is poisoned,
the record is told, the copy retires (R198, R310). -/
def State.endFailed (s : State) (id : Nat) (cause : Cause) (addr : Nat) : State :=
  let c := s.copy id
  let s1 := s.modBarrier (clusterOf c.core) c.bar fun b =>
    ({ b with psect := b.psect - c.outstanding, poison := true, fcause := if b.fcause = 0 then cause.code else b.fcause,
              faddr := if b.fcause = 0 then addr else b.faddr } : Barrier).settle
  let s2 := s1.report c.launch (s.errorEntry (s.concernedCopy c) 2 cause addr c.pc.toNat c.barOff)
  s2.retireCopy id

/-- A copy fails (R198): it leaves the miss-buffer entry that it joined, does nothing more, and its engine asks for its barrier's
bank (R310, R316). -/
def State.failCopy (s : State) (id : Nat) (cause : Cause) (addr : Nat) : State :=
  let c := s.copy id
  if c.failing then s
  else ((s.leaveMiss (.copy id 0)).putCopy id { c with failing := true }).askCopy c.core (banksOf c.bar 16)
    (.copyFail id cause addr)

/-! ### Issue (R196, R201, R203, R205, R304) -/

/-- The fields of a target word. -/
def barOffset (d : Word) : Nat := field d.toNat 36 17 * 16
def deckOffset (d : Word) : Nat := field d.toNat 0 21

/-- The target word: reserved bits, the barrier in `m1` (R195, R196). -/
def State.targetGate (s : State) (d : Word) (ring : Bool) : Gate Nat :=
  (require (noneIn d 53 11 && noneIn d 21 15 && (!ring || noneIn d 2 19)) d).next fun _ =>
    s.inM1 s.cur (BitVec.ofNat 64 (barOffset d)) 16 1

/-- One of the 32 entries of the cluster's scoreboard for a thread, after those that came before it (R205, R309). -/
def State.entryFree (s : State) (t : Nat) : Bool :=
  let k := clusterOf (coreOf t)
  let all := s.copies.filter fun (p : Nat × Copy) => clusterOf p.2.core == k
  decide (all.length < 32) && s.ahead t .copyEntry (fun u => clusterOf (coreOf u) == k) == 0

/-- Room in the scoreboard of the cluster. -/
def State.copyRoom (s : State) : Gate Unit := if s.entryFree s.cur then .go () else .wait .wmem .copyEntry

/-- A copy of the current thread, before its particulars. -/
def State.newCopy (s : State) (kind : CopyKind) (d : Word) (bar : Nat) (ret : Bool) : Copy :=
  let x := s.me
  { kind := kind, core := coreOf s.cur, thread := s.cur, crewId := x.crewId, launch := x.launch, pc := x.pc, issuer := s.cur,
    word := x.iss.raw, target := d, segs := x.seg,
    m1 := s.segment s.cur 1, bar := bar, barOff := barOffset d, outstanding := 1,
    permit := if ret then x.permit else none, tid := x.tid.toNat, ordinal := x.copiesIssued,
    after := (s.reqs.filter fun (p : Nat × Req) => p.2.live && p.2.relaxed && p.2.thread == s.cur).map (·.1) }

/-- The largest count of sectors that a barrier holds (R46). -/
def maxSectors : Nat := 2 ^ 24 - 1

/-- A copy issues: psect + 1, its entry, its permit; one that psect cannot count fails at once (R198, R304). -/
def State.issueCopy (s : State) (c : Copy) : State :=
  let k := clusterOf c.core
  let s1 := s.modThread s.cur fun x =>
    { x with copiesIssued := x.copiesIssued + 1, permit := if c.permit.isSome then none else x.permit }
  let s2 (c : Copy) : State := { s1 with copies := s1.copies.put s.nextCopy c, nextCopy := s.nextCopy + 1 }
  if maxSectors < (s.barrier k c.bar).psect + 1 then (s2 { c with outstanding := 0 }).failCopy s.nextCopy .illegal c.barOff
  else (s2 c).modBarrier k c.bar fun b => { b with psect := b.psect + 1 }

/-- A barrier whose init is 0 cannot count a copy (R196); `taddr` holds the barrier's offset, which is the number that R180 asks
for (DESIGN CHOICE, assumption 139). -/
def State.barrierReady (s : State) (bar off : Nat) : Gate Unit :=
  if (s.barrier (clusterOf (coreOf s.cur)) bar).init = 0 then .trap .illegal (BitVec.ofNat 64 off) else .go ()

/-- The destination of a copy: the deck at doff, or the ring slot it claims, which must not hold its barrier (R185, R304). A copy
that lacks both waits for its entry first (DESIGN CHOICE, assumption 112). -/
def State.place (s : State) (d : Word) (ring : Bool) (c : Copy) : Gate State :=
  if ring then
    let n := field d.toNat 0 2
    let r := s.ring c.core n
    let lo := r.base + r.tail * r.tile
    if r.nslot = 0 then .trap .illegal (BitVec.ofNat 64 n)
    else s.copyRoom.next fun _ =>
      if r.cnt = r.nslot + 1 ∨ (r.slot r.tail).state ≠ .free then .wait .wmx (.ringSlot n)
      else if lo ≤ c.bar ∧ c.bar + 16 ≤ lo + r.tile then .trap .illegal (BitVec.ofNat 64 c.barOff)
      else
        let slot : RingSlot := { state := .linked, copy := s.nextCopy, bar := c.bar, barOff := c.barOff,
                                 phase := (s.barrier (clusterOf c.core) c.bar).phase, linked := true }
        .go ((s.modRing c.core n fun r => r.claim slot).issueCopy
          { c with ring := some (n, r.tail), doff := lo, bytes := some r.tile })
  else
    (s.inM1 s.cur (BitVec.ofNat 64 (deckOffset d)) 1 1).next fun a =>
      s.copyRoom.next fun _ => .go (s.issueCopy { c with doff := a })

/-- Lanes 0 to 3 of a vector as signed words, and the fifth coordinate. -/
def originOf (v : VWord) (a : Word) : List Int :=
  ((lanes 32 v).map (signed 32)) ++ [signed 32 (field a.toNat 32 32)]

/-- `cp.in` and `cp.out`: a box (R197, R202). -/
def State.unitBox (s : State) (kind : CopyKind) (d a b : RegField) (ring sys ret : Bool) : Out :=
  s.act [sreg d, sreg a, vreg b] <| (s.readS s.cur d).next fun (t, s1) => (s1.readS s.cur a).next fun (x, s2) =>
    (s2.readV s.cur b).next fun (v, s3) =>
      (require (noneIn x 21 11) x).next fun _ => (s.targetGate t ring).next fun bar =>
        (s.inM1 s.cur (BitVec.ofNat 64 (field x.toNat 0 21)) 64 64).next fun _ =>
          (s.barrierReady bar (barOffset t)).next fun _ =>
            s3.place t ring { s3.newCopy kind t bar ret with recOff := field x.toNat 0 21, origin := originOf v x, sys := sys }

def execCpIn (d a b : RegField) (ring ret : Bool) (s : State) : Out := s.unitBox .cpIn d a b ring false ret
def execCpOut (d a b : RegField) (sys ret : Bool) (s : State) : Out := s.unitBox .cpOut d a b false sys ret

/-- `cp.gather` (R203). -/
def execCpGather (d a b : RegField) (ring ret : Bool) (s : State) : Out :=
  s.act [sreg d, sreg a, sreg b] <| (s.readS s.cur d).next fun (t, s1) => (s1.readS s.cur a).next fun (x, s2) =>
    (s2.readS s.cur b).next fun (y, s3) =>
      let n := y.toNat
      (require (noneIn x 21 11 && noneIn x 53 11) x).next fun _ => (require (n != 0 && decide (n ≤ 65535)) y).next fun _ =>
        (s.targetGate t ring).next fun bar =>
          (s.inM1 s.cur (BitVec.ofNat 64 (field x.toNat 0 21)) 64 64).next fun _ =>
            (s.inM1 s.cur (BitVec.ofNat 64 (field x.toNat 32 21)) (4 * n) 4).next fun _ =>
              (s.barrierReady bar (barOffset t)).next fun _ =>
                s3.place t ring { s3.newCopy .cpGather t bar ret with
                  recOff := field x.toNat 0 21, listOff := field x.toNat 32 21, rows := n }

/-- `cp.dd` (R201, R205): `taddr` of ranges that overlap holds the count, of a destination in a window its offset (DESIGN CHOICE,
assumption 139). -/
def execCpDd (d a b : RegField) (ret : Bool) (s : State) : Out :=
  s.act [sreg d, sreg a, sreg b] <| (s.readS s.cur d).next fun (t, s1) => (s1.readS s.cur a).next fun (x, s2) =>
    (s2.readS s.cur b).next fun (y, s3) =>
      let n := y.toNat
      (require (n % 16 == 0 && decide (16 ≤ n ∧ n ≤ 2 ^ 21)) y).next fun _ => (s.targetGate t false).next fun bar =>
        (s.inM1 s.cur x n 16).next fun src =>
          (s.inM1 s.cur (BitVec.ofNat 64 (deckOffset t)) n 16).next fun dst =>
            (require (decide (src + n ≤ dst ∨ dst + n ≤ src)) y).next fun _ =>
              (require (!s.meetsWindow (clusterOf (coreOf s.cur)) dst n) (BitVec.ofNat 64 (deckOffset t))).next fun _ =>
                (require (!(decide (dst ≤ bar ∧ bar + 16 ≤ dst + n))) (BitVec.ofNat 64 (barOffset t))).next fun _ =>
                  (s.barrierReady bar (barOffset t)).next fun _ => s.copyRoom.next fun _ =>
                    .go (s3.issueCopy { s3.newCopy .cpDd t bar ret with doff := dst, src := src, bytes := some n })

/-! ### Acceptance (R197, R198, R304, R305) -/

/-- The oldest copy of a core that has not been accepted. -/
def State.oldestIssued (s : State) (core : Nat) : Option Nat :=
  (s.copies.find? fun (p : Nat × Copy) => p.2.core == core && p.2.stage == .issued && !p.2.failing).map (·.1)

def State.accepted (s : State) (core : Nat) : List (Nat × Copy) :=
  s.copies.filter fun (p : Nat × Copy) => p.2.core == core && p.2.stage == .accepted && !p.2.failing

/-- The units beyond the first are added to psect; beyond 2^24 − 1 the copy fails (R198). -/
def State.countUnits (s : State) (id : Nat) (c : Copy) : State :=
  let k := clusterOf c.core
  if maxSectors < (s.barrier k c.bar).psect + (c.units - 1) then (s.putCopy id c).failCopy id .illegal c.barOff
  else ((s.modBarrier k c.bar fun b => { b with psect := b.psect + (c.units - 1) }).putCopy id
    { c with stage := .accepted, outstanding := c.units }).emit (.copyUnitRequest c.core)

/-- The bytes that a copy's destination leaves it. -/
def Copy.capacity (c : Copy) : Nat :=
  match c.ring with
  | some _ => c.bytes.getD 0
  | none => c.m1.base.toNat + c.m1.length.toNat - c.doff

/-- A copy's record and list read and checked at acceptance (R197, R203, R304, R205). -/
def State.acceptBox (s : State) (id : Nat) (c : Copy) : State :=
  let k := clusterOf c.core
  let base := c.m1.base.toNat
  if (s.badDeck k (base + c.recOff) 64).isSome then (s.countFound (spanOf c.core)).failCopy id .poison c.recOff
  else match layoutOf (s.deckRead k (base + c.recOff) 64) with
    | none => s.failCopy id .illegal c.recOff
    | some l =>
      let idx := (List.range c.rows).map fun j => signed 32 (s.deckRead k (base + c.listOff + 4 * j) 4)
      let c1 := { c with layout := l, idx := idx }
      let n := c1.total
      let span := match l.swz with
        | some z => 16 * 2 ^ z
        | none => 1
      if c.kind = .cpGather ∧ l.rank ≠ 2 then s.failCopy id .illegal c.recOff
      else if c.kind = .cpGather ∧ (s.badDeck k (base + c.listOff) (4 * c.rows)).isSome then (s.countFound (spanOf c.core)).failCopy id .poison c.listOff
      else if c1.capacity < n then s.failCopy id .seg (c.doff - base)
      else if n % span ≠ 0 then s.failCopy id .align c.recOff
      else if c.ring.isNone && decide (c.doff ≤ c.bar ∧ c.bar + 16 ≤ c.doff + n) then s.failCopy id .illegal c.barOff
      else if c.ring.isNone && s.meetsWindow k c.doff n then s.failCopy id .illegal (c.doff - base)
      else s.countUnits id { c1 with bytes := if c.ring.isSome then c.bytes else some n }

/-- The banks of a copy's record and list. -/
def Copy.recordBanks (c : Copy) : List Nat :=
  banksOf (c.m1.base.toNat + c.recOff) 64 ++
    if c.kind = .cpGather then banksOf (c.m1.base.toNat + c.listOff) (4 * c.rows) else []

/-- COPY_ACCEPTANCE: in order of issue, while fewer than 8 accepted copies have units outstanding, and after every
earlier relaxed access of the issuing thread; the record and the list are read once their banks have served them (R206, R305,
R316). -/
def execCopyAcceptance (core : Nat) (s : State) : Out :=
  let took (s : State) : State := s.modCore core fun c => { c with lastAccept := s.now + 1 }
  if 8 ≤ (s.accepted core).length ∨ (s.core core).lastAccept = s.now + 1 then .next s
  else match s.oldestIssued core with
    | none => .next s
    | some id =>
      let c := s.copy id
      if c.suspended || c.after.any (fun r => (s.req r).live) then .next s
      else if c.kind = .cpDd then .next ((took s).countUnits id c)
      else if !c.asked then .next ((s.putCopy id { c with asked := true }).askCopy core c.recordBanks (.records core))
      else if s.asks.any fun x => x.asker == .records core then .next s
      else .next ((took s).acceptBox id c)

/-- Copies whose miss found no entry make their access again once there is room (R305). -/
def State.resumeMisses (s : State) : State :=
  (s.copies.filter fun (p : Nat × Copy) => p.2.heldOn == some (2 ^ 62 + 1) && s.missRoom (clusterOf p.2.core)).foldl
    (fun s p => s.modCopy p.1 fun c => { c with heldOn := none }) s

/-! ### Units (R197, R199, R202, R306, R370) -/

/-- The segment of `m2` to `m7` as they stood at issue that holds a range of global memory: whether it is a peer
segment (R197). -/
def Copy.through (c : Copy) (r : Right) (a n : Nat) : Option Bool :=
  ((List.range 6).map fun i => c.segs.get {} (i + 2)).findSome? fun g =>
    if (g.space = .global ∨ g.space = .peer) ∧ g.grants r = true ∧ g.base.toNat ≤ a ∧
        a + n ≤ g.base.toNat + g.length.toNat
    then some (g.space == .peer) else none

/-- The first byte from `a` that no such segment holds. -/
def Copy.outside (c : Copy) (r : Right) (a : Nat) : Nat → Nat
  | 0 => a
  | n + 1 => if (c.through r a 1).isSome then c.outside r (a + 1) n else a

/-- What a step of a copy comes to. -/
inductive CopyAcc (α : Type) where
  | done (a : α)
  | wait (s : State)
  | fail (c : Cause) (addr : Nat)

/-- The translation of a copy's access, or its hold on a miss (R199). -/
def State.copyLeaf (s : State) (id : Nat) (c : Copy) (r : Right) (dva : Nat) (peer : Bool) : CopyAcc Leaf :=
  let cluster := clusterOf c.core
  let asid := s.asidOf c.launch
  match s.tlbFind cluster asid dva with
  | none =>
    match s.joinMiss cluster asid dva 3 (.copy id dva) with
    | some s1 => .wait (s1.modCopy id fun c => { c with heldOn := some (2 ^ 62) })
    | none => .wait (s.modCopy id fun c => { c with heldOn := some (2 ^ 62 + 1) })
  | some l =>
    if (match r with | .w => !l.w | _ => !l.rd) || (decide (l.dev = s.dev.toNat) == peer) then .fail .page dva
    else if peer && !s.reaches l.dev then .fail .poison dva
    else if !s.keyLive l dva then .fail .deadkey dva
    else .done l

/-- Bytes read from global memory for a copy: a ONCE block holds it until FULL, a POISON block fails it, what windows hold
dirty and caches own comes home first, and the sectors enter the cluster's cache (R197, R294, R327); a peer's home answers with
what it holds (R266). -/
def State.copyRead (s : State) (id : Nat) (c : Copy) (dva n : Nat) : CopyAcc (State × Nat) :=
  match c.through .rd dva n with
  | none => .fail .seg (c.outside .rd dva n)
  | some peer =>
    match s.copyLeaf id c .rd dva peer with
    | .wait s1 => .wait s1
    | .fail k a => .fail k a
    | .done l =>
      let phys := l.phys dva
      let b := phys / 256
      let pres := if peer then peerPresence b s.now else (s.block b).pres
      if pres = .poison then .fail .poison (dva / 256 * 256)
      else if s.homeOnce l dva && pres != .full then .wait (if peer then s else s.modCopy id fun c => { c with heldOn := some b })
      else if peer then .done (s.toPeer phys, ofBytesLE (peerBytes phys n s.now))
      else if s.rowHeld phys then .wait s
      else if l.once then .done ((sectorsOf phys n).foldl (fun s k => s.shareOnce (clusterOf c.core) k) (s.openRow phys), s.memRead phys n)
      else
        let (s1, asked) := s.openRead (2 * id) (clusterOf c.core) phys n
        if asked then .wait s1 else .done (s1, s1.memRead phys n)

/-- Bytes read part by part, each within one block: no rule aligns a tensor's base (R47). -/
def State.copyReads (s : State) (id : Nat) (c : Copy) : List (Nat × Nat) → CopyAcc (State × Nat)
  | [] => .done (s, 0)
  | (a, n) :: ps =>
    match s.copyRead id c a n with
    | .done (s1, v) =>
      match s1.copyReads id c ps with
      | .done (s2, w) => .done (s2, v + 2 ^ (8 * n) * w)
      | r => r
    | r => r

/-- The bits of one element at its source: the fill value outside the tensor. -/
def State.copyElement (s : State) (id : Nat) (c : Copy) (x : Nat) : CopyAcc (State × Nat) :=
  match c.bitOf x with
  | none => .done (s, c.layout.fillBits)
  | some bit =>
    let n := (c.layout.bits + 7) / 8
    match s.copyReads id c (blockParts (bit / 8) n) with
    | .done (s1, v) => .done (s1, v / 2 ^ (bit % 8) % 2 ^ c.layout.bits)
    | .wait s1 => .wait s1
    | .fail k a => .fail k a

/-- The bits of a unit's elements, one after another. -/
def State.copyElements (s : State) (id : Nat) (c : Copy) : List Nat → CopyAcc (State × Nat)
  | [] => .done (s, 0)
  | x :: xs =>
    match s.copyElement id c x with
    | .done (s1, v) =>
      match s1.copyElements id c xs with
      | .done (s2, w) => .done (s2, v + 2 ^ c.layout.bits * w)
      | r => r
    | r => r

/-- The journal key of a unit's entry (R399): each unit has its own, since units are done in any order (DESIGN CHOICE, assumption
143). -/
def State.copyKey (s : State) (c : Copy) (u : Nat) : Nat :=
  2 ^ 100 + ((s.journalCrew c.crewId * 2 ^ 24 + c.tid * 2 ^ 16) * 2 ^ 16 + c.ordinal) * 2 ^ 20 + u

/-- A unit's data stand: its engine asks the barrier's bank for the decrement (R310, R316). -/
def State.unitDone (s : State) (id u : Nat) : State :=
  let c := s.copy id
  (s.putCopy id { c with done := c.done ++ [u] }).askCopy c.core (banksOf c.bar 8) (.decrement id)

/-- A unit is counted: psect − 1; the last one retires the copy (R198, R310). -/
def State.unitCounted (s : State) (id : Nat) : State :=
  let c := s.copy id
  if (s.copies.find id).isNone || c.failing then s
  else
    let s1 := s.modBarrier (clusterOf c.core) c.bar fun b => ({ b with psect := b.psect - 1 } : Barrier).settle
    let c1 := { c with outstanding := c.outstanding - 1 }
    if c1.outstanding = 0 then (s1.putCopy id c1).retireCopy id else s1.putCopy id c1

/-- A copy tries its unit again when what holds it is gone. -/
def State.unitWaits (s : State) (id u : Nat) : State :=
  s.modCopy id fun c => { c with requested := c.requested.erase u }

/-- The blocks that a unit's elements lie in: number by DVA, physical number, generation; none where one of them is no ONCE block of
this device, so that the unit is journaled by value (R399). -/
def State.unitRefs (s : State) (c : Copy) (u : Nat) : Option (List (Nat × Nat × BitVec 6)) :=
  let parts := ((c.elementsIn u).filterMap c.bitOf).flatMap fun bit => blockParts (bit / 8) ((c.layout.bits + 7) / 8)
  (parts.map fun p => p.1 / 256).eraseDups.mapM fun b =>
    match s.tlbFind (clusterOf c.core) (s.asidOf c.launch) (256 * b) with
    | some l =>
      if l.once && l.dev == s.dev.toNat then some (b, l.phys (256 * b) / 256, (s.block (l.phys (256 * b) / 256)).gen) else none
    | none => none

/-- A byte of global memory as a unit's references give it (R400). -/
def State.refByte (s : State) (refs : List (Nat × Nat × BitVec 6)) (a : Nat) : Byte :=
  match refs.find? fun p => p.1 == a / 256 with
  | some p => (s.referenced p.2.1 p.2.2).getD (a % 256) 0
  | none => 0

/-- The bits of a unit's elements, one after another, by its references. -/
def State.refElements (s : State) (c : Copy) (refs : List (Nat × Nat × BitVec 6)) : List Nat → Nat
  | [] => 0
  | x :: xs =>
    (match c.bitOf x with
      | none => c.layout.fillBits
      | some bit => ofBytesLE (readBytes (s.refByte refs) (bit / 8) ((c.layout.bits + 7) / 8)) / 2 ^ (bit % 8) % 2 ^ c.layout.bits) +
    2 ^ c.layout.bits * s.refElements c refs xs

/-- The entry of a unit of a sampled crew's copy, by reference where its blocks are ONCE, and the blocks that it names. -/
def State.unitEntry (s : State) (c : Copy) (u : Nat) (bs : List Byte) : JEntry × List Nat :=
  match s.unitRefs c u with
  | none => (.copyRead bs, [])
  | some [] => (.copyRead bs, [])
  | some (r :: rs) => (.copyRefs (r :: rs), (r :: rs).map fun p => p.2.1)

/-- A copy of a proof run whose unit finds no entry of its kind: it has no effect, and the run ends without a digest (R405). -/
def State.copyLost (s : State) (id : Nat) : State :=
  let c := s.copy id
  let x := s.thread c.thread
  let s1 := s.retireCopy id
  if x.live ∧ x.crewId = c.crewId ∧ x.tid.toNat = c.tid then s1.journalLost c.thread else s1.runLost c.crewId none

/-- A unit into the deck, from the source or, for a proof run, from the journal (R306, R370, R399). -/
def State.unitIn (s : State) (id u : Nat) : State :=
  let c := s.copy id
  let n := c.unitLen u
  let span := spanOf c.core
  let run := (s.crewOf c.crewId).run
  let put (s : State) (bs : List Byte) : State := s.deckStore (clusterOf c.core) (c.doff + 64 * u) bs
  if 2 ≤ run then
    match s.journal.get [] (s.copyKey c u) with
    | .copyRead bs :: _ => (put s bs).unitDone id u
    | .copyRefs refs :: _ => (put s (toBytesLE (s.refElements c refs (c.elementsIn u)) n)).unitDone id u
    | _ => s.copyLost id
  else
    match s.copyElements id c (c.elementsIn u) with
    | .wait s1 => s1.unitWaits id u
    | .fail k a => s.failCopy id k a
    | .done (s0, v) =>
      let bs := toBytesLE v n
      let s1 := s0.engineDone (2 * id)
      if run = 1 then
        let (e, named) := s1.unitEntry c u bs
        if s1.journalRoom span e.bytes then
          let s2 := (s1.journalAppend (s1.copyKey c u) span e).1
          (put (named.foldl (fun s b => s.named (s.journalCrew c.crewId) b) s2) bs).unitDone id u
        else s1.unitWaits id u
      else (put s1 bs).unitDone id u

/-- A unit of `cp.dd`. -/
def State.unitDd (s : State) (id u : Nat) : State :=
  let c := s.copy id
  let k := clusterOf c.core
  let n := c.unitLen u
  match s.badDeck k (c.src + 64 * u) n with
  | some a => (s.countFound (spanOf c.core)).failCopy id .poison (a - c.m1.base.toNat)
  | none => (s.deckStore k (c.doff + 64 * u) (readBytes (s.deckByte k) (c.src + 64 * u) n)).unitDone id u

/-! #### `cp.out` -/

/-- The elements of a copy inside the tensor, with their addresses in bits. -/
def Copy.inside (c : Copy) : List (Nat × Nat) :=
  (List.range c.count).filterMap fun x => (c.bitOf x).map fun b => (x, b)

/-- The bits of element `x` as the deck holds them. -/
def State.deckElement (s : State) (c : Copy) (x : Nat) : Nat :=
  let k := clusterOf c.core
  let w := c.layout.bits
  if w = 4 then field (s.deckByte k (c.doff + swizzle c.layout.swz (x / 2))).toNat (x % 2 * 4) 4
  else ofBytesLE ((List.range (w / 8)).map fun i => s.deckByte k (c.doff + swizzle c.layout.swz (x * (w / 8) + i)))

/-- The element that covers a bit of global memory. -/
def ownerAt (es : List (Nat × Nat)) (w bit : Nat) : Option (Nat × Nat) :=
  es.find? fun p => decide (p.2 ≤ bit ∧ bit < p.2 + w)

/-- Every bit of a word is written by the copy. -/
def wordOwned (es : List (Nat × Nat)) (w a : Nat) : Bool :=
  (List.range 8).all fun i => (ownerAt es w (8 * a + 4 * i)).isSome

/-- The word that the copy writes at `a`: of elements that name the same bits, the lowest-numbered one's (DESIGN CHOICE,
assumption 111). -/
def State.ownedWord (s : State) (c : Copy) (es : List (Nat × Nat)) (a : Nat) : Nat :=
  (List.range 8).foldl (fun v i =>
    match ownerAt es c.layout.bits (8 * a + 4 * i) with
    | some p => v + (s.deckElement c p.1 / 2 ^ (8 * a + 4 * i - p.2) % 16) * 2 ^ (4 * i)
    | none => v) 0

/-- The words of global memory that begin inside an element. -/
def wordsBegun (bit w : Nat) : List Nat :=
  (List.range 3).filterMap fun i =>
    let a := ((bit / 8 + 3) / 4 + i) * 4
    if bit ≤ 8 * a ∧ 8 * a < bit + w then some a else none

/-- The words of `n` bytes at an address, by their addresses. -/
def wordsIn (a n : Nat) : List Nat := (List.range ((a % 4 + n + 3) / 4)).map fun i => (a / 4 + i) * 4

/-- The checks before anything is written, part by part: rights, and whole words on ONCE pages (R202). -/
def State.outChecks (s : State) (id : Nat) (c : Copy) (es : List (Nat × Nat)) : List (Nat × Nat) → CopyAcc Unit
  | [] => .done ()
  | (a, n) :: rest =>
    match c.through .w a n with
    | none => .fail .seg (c.outside .w a n)
    | some peer =>
      if s.replaying c.thread || decide (2 ≤ (s.crewOf c.crewId).run) then s.outChecks id c es rest
      else match s.copyLeaf id c .w a peer with
        | .wait s1 => .wait s1
        | .fail k x => .fail k x
        | .done l =>
          if s.homeOnce l a && !(wordsIn a n).all (wordOwned es c.layout.bits) then .fail .align a
          else s.outChecks id c es rest

/-- The parts of global memory that some elements take, each within one block. -/
def Copy.parts (c : Copy) (es : List (Nat × Nat)) : List (Nat × Nat) :=
  es.flatMap fun p => blockParts (p.2 / 8) ((c.layout.bits + 7) / 8)

/-- What a `cp.out` writes to an OPEN page with element `x` at a bit address: the bytes, and the elements that they hold. A byte
of which the copy writes both E2M1 elements is written whole; of one that it writes in part the other half stays (R202). -/
def State.outBytes (s : State) (c : Copy) (es : List (Nat × Nat)) (x bit phys : Nat) : List Byte × List Nat :=
  let w := c.layout.bits
  let v := s.deckElement c x
  if w ≠ 4 then (toBytesLE v (w / 8), [x])
  else
    let low := decide (bit % 8 = 0)
    match ownerAt es 4 (if low then bit + 4 else bit - 4) with
    | some p =>
      let u := s.deckElement c p.1
      (toBytesLE (if low then v + 16 * u else u + 16 * v) 1, [x, p.1])
    | none =>
      let old := (s.mem.read phys).toNat
      (toBytesLE (if low then old / 16 * 16 + v else old % 16 + 16 * v) 1, [x])

/-- A part of an element on an OPEN page written, or the words of a ONCE page that begin in it (R202). -/
def State.outPart (s : State) (id : Nat) (c : Copy) (es : List (Nat × Nat)) (x bit a n : Nat) : CopyAcc State :=
  let hold := (s.crewOf c.crewId).hold && (s.crewOf c.crewId).run != 0
  match c.through .w a n with
  | none => .fail .seg (c.outside .w a n)
  | some peer =>
    match s.copyLeaf id c .w a peer with
    | .wait s1 => .wait s1
    | .fail k x => .fail k x
    | .done l =>
      let phys := l.phys a
      if peer then
        (if !s.homeOnce l a && hold then .fail .page a
        else match peerRefuses phys s.now (s.homeOnce l a) with
          | some k => .fail k a
          | none => .done (s.toPeer phys))
      else if l.once && s.rowHeld phys then .wait s
      else if l.once then
        ((wordsBegun bit c.layout.bits).filter fun z => decide (a ≤ z ∧ z < a + n)).foldl (fun (acc : CopyAcc State) z =>
          match acc with
          | .done s =>
            if (s.copy id).covered.contains z then .done s
            else
              let p := phys + z - a
              match s.coverStore (p / 256) p (toBytesLE (s.ownedWord c es z) 4) (if hold then some c.crewId else none) (.copy id) with
              | .ok s1 => .done (s1.modCopy id fun c => { c with covered := c.covered ++ [z] })
              | .error (some k) => .fail k z
              | .error none => .wait (s.waitPool (s.spanKey (p / 256)) (.copy id))
          | r => r) (.done s)
      else if hold then .fail .page a
      else if (s.block (phys / 256)).pres = .poison then .fail .poison a
      else if (s.copy id).written.contains x then .done s
      else
        let write (s : State) : State := s.memWrite phys (((s.outBytes c es x bit phys).1.drop (a - bit / 8)).take n)
        let (s1, asked) := s.openWrite (2 * id) (clusterOf c.core) phys n
        if asked then .wait s1 else .done (write s1)

/-- One element written, part by part: an element that the base leaves across two blocks has two (R47, R202). -/
def State.outElement (s : State) (id : Nat) (c : Copy) (es : List (Nat × Nat)) (x bit : Nat) : CopyAcc State :=
  if 2 ≤ (s.crewOf c.crewId).run then .done s
  else
    match (c.parts [(x, bit)]).foldl (fun (acc : CopyAcc State) p =>
      match acc with
      | .done s => s.outPart id c es x bit p.1 p.2
      | r => r) (.done s) with
    | .done s1 => .done (s1.modCopy id fun k => { k with written := k.written ++ (s.outBytes c es x bit 0).2 })
    | r => r

/-- A unit's elements written in turn. -/
def State.outElements (s : State) (id : Nat) (c : Copy) (es : List (Nat × Nat)) : List Nat → CopyAcc State
  | [] => .done s
  | x :: xs =>
    match c.bitOf x with
    | none => s.outElements id c es xs
    | some bit =>
      match s.outElement id c es x bit with
      | .done s1 => s1.outElements id c es xs
      | r => r

/-- What a unit wrote enters its run's digest (R402): nibbles as the byte they stand in. -/
def State.digestOut (s : State) (c : Copy) (xs : List Nat) : State :=
  if (s.crewOf c.crewId).run = 0 then s
  else xs.foldl (fun s x =>
    match c.bitOf x with
    | none => s
    | some bit => s.digestRange c.crewId (bit / 8)
        (toBytesLE (if c.layout.bits = 4 then s.deckElement c x * 2 ^ (bit % 8) else s.deckElement c x)
          ((c.layout.bits + 7) / 8))) s

/-- A unit of `cp.out` (R202). -/
def State.unitOut (s : State) (id u : Nat) : State :=
  let c := s.copy id
  let k := clusterOf c.core
  match s.badDeck k (c.doff + 64 * u) (c.unitLen u) with
  | some a => (s.countFound (spanOf c.core)).failCopy id .poison (a - c.m1.base.toNat)
  | none =>
    let es := c.inside
    let checks := if c.done = [] ∧ c.covered = [] ∧ c.written = [] then s.outChecks id c es (c.parts es) else .done ()
    match checks with
    | .wait s1 => s1.unitWaits id u
    | .fail e a => s.failCopy id e a
    | .done _ =>
      match s.outElements id c es (c.elementsIn u) with
      | .wait s1 => s1.unitWaits id u
      | .fail e a => s.failCopy id e a
      | .done s1 => ((s1.engineDone (2 * id)).digestOut c (c.elementsIn u)).unitDone id u

/-- The banks that a unit takes: those of its deck bytes (R316). -/
def Copy.unitBanks (c : Copy) (u : Nat) : List Nat :=
  (if c.kind = .cpDd then banksOf (c.src + 64 * u) (c.unitLen u) else []) ++ banksOf (c.doff + 64 * u) (c.unitLen u)

/-- The copy engine's requests outstanding at the cluster port: units of copies and of streams (R305, R311). -/
def State.portRequests (s : State) (core : Nat) : Nat :=
  (s.accepted core).foldl (fun n (p : Nat × Copy) => n + (p.2.requested.length - p.2.done.length))
    (s.reqs.filter fun (p : Nat × Req) => p.2.refills core).length

/-- COPY_UNIT_REQUEST: a source request for the oldest accepted copy that is not held, its lowest unit first; at most 64
are outstanding (R305). -/
def execCopyUnitRequest (core : Nat) (s : State) : Out :=
  if 64 ≤ s.portRequests core then .next s
  else match (s.accepted core).find? fun p => p.2.heldOn.isNone && !p.2.suspended && decide (p.2.requested.length < p.2.units) with
    | none => .next s
    | some (id, c) =>
      match (List.range c.units).find? fun u => !c.requested.contains u with
      | none => .next s
      | some u => .next ((s.putCopy id { c with requested := c.requested ++ [u] }).askCopy core (c.unitBanks u) (.copyUnit id u))

/-- COPY_UNIT_DONE: the unit's reads and writes are performed (R198). -/
def execCopyUnitDone (copy u : Nat) (s : State) : Out :=
  match s.copies.find copy with
  | none => .next s
  | some c =>
    if c.stage != .accepted || c.failing || !c.requested.contains u || c.done.contains u then .next s
    else match c.kind with
      | .cpIn => .next (s.unitIn copy u)
      | .cpGather => .next (s.unitIn copy u)
      | .cpDd => .next (s.unitDd copy u)
      | .cpOut => .next (s.unitOut copy u)

/-! ### Prefetches (R204, R312) -/

/-- One sector of a prefetch: brought into the cluster cache unless the fetch would fault, finds a block that is not
FULL, or meets a `nospec` page. -/
def State.prefetch (s : State) (t : Nat) (dva : Nat) : State :=
  let cluster := clusterOf (coreOf t)
  match s.walkNow (s.asidOf (s.thread t).launch) dva with
  | (s, none) => s
  | (s, some l) =>
    let phys := l.phys dva
    let x := s.block (phys / 256)
    if !l.rd || l.nospec || l.dev ≠ s.dev.toNat || !s.keyLive l dva || x.pres == .poison || (l.once && x.pres != .full) then s
    else if s.sector cluster (phys / 64) ≠ .invalid then s
    else if l.once then s.shareOnce cluster (phys / 64)
    else if caches cluster then s.ask1 cluster (phys / 64) .getS 0
    else s

/-- `cp.pf`: the operands of `cp.in` without a target; it records nothing. -/
def execCpPf (a b : RegField) (s : State) : Out :=
  s.act [sreg a, vreg b] <| (s.readS s.cur a).next fun (x, s1) => (s1.readV s.cur b).next fun (v, s2) =>
    (require (noneIn x 21 11) x).next fun _ =>
      (s.inM1 s.cur (BitVec.ofNat 64 (field x.toNat 0 21)) 64 64).next fun rec0 =>
        match layoutOf (s.deckRead (clusterOf (coreOf s.cur)) rec0 64) with
        | none => .go s2
        | some l =>
          let c : Copy := { segs := s.me.seg, layout := l, origin := originOf v x }
          let n := (l.bits + 7) / 8
          let sectors := (c.inside.flatMap fun p =>
            if (c.through .rd (p.2 / 8) n).isSome then sectorsOf (p.2 / 8) n else []).eraseDups
          .go (if s.replaying s.cur then s2 else sectors.foldl (fun s k => s.prefetch s.cur (64 * k)) s2)

end Sys2Proof.Machine
end

