-- ==== Sys2Proof/Machine/SaveCode.lean ====
section
/-! DEFINITION. The coding of the dirty 4 KiB regions of TCMs and decks in a save record (R392). -/

namespace Sys2Proof.Machine

/-! ### Coding -/

/-- The token of a block of 256 bytes and its body: the first of R392's table that fits. -/
def codeBlock (bs : List Byte) : Nat × List Byte :=
  if bs.all (· == 0) then (0, [])
  else if bs = (List.replicate 64 (bs.take 4)).flatten then (1, bs.take 4)
  else (2, bs)

/-- The token map of a region's blocks, block 0 lowest. -/
def tokenMap : List (Nat × List Byte) → Nat
  | [] => 0
  | x :: xs => x.1 + 4 * tokenMap xs

/-- A list of bytes filled up with zeros to a multiple of `n`. -/
def padTo (n : Nat) (bs : List Byte) : List Byte := bs ++ List.replicate ((n - bs.length % n) % n) 0

/-- A region's record: header doubleword, bodies in block order, padding. -/
def codeRegion (index : Nat) (bs : List Byte) : List Byte :=
  let blocks := (List.range 16).map fun i => codeBlock ((bs.drop (256 * i)).take 256)
  padTo 8 (toBytesLE (index * 2 ^ 32 + tokenMap blocks) 8 ++ blocks.flatMap fun x => x.2)

/-! ### Decoding (R393) -/

/-- A block's bytes from its token and what follows; none for a token of 11, or where the body is cut short. -/
def decodeBlock (token : Nat) (bs : List Byte) : Option (List Byte × List Byte) :=
  match token with
  | 0 => some (List.replicate 256 0, bs)
  | 1 => if bs.length < 4 then none else some ((List.replicate 64 (bs.take 4)).flatten, bs.drop 4)
  | 2 => if bs.length < 256 then none else some (bs.take 256, bs.drop 256)
  | _ => none

/-- The blocks of a token map in order, and what follows their bodies. -/
def decodeBlocks : Nat → Nat → List Byte → Option (List Byte × List Byte)
  | 0, _, bs => some ([], bs)
  | n + 1, m, bs =>
    match decodeBlock (m % 4) bs with
    | none => none
    | some (b, rest) =>
      match decodeBlocks n (m / 4) rest with
      | none => none
      | some (cs, end_) => some (b ++ cs, end_)

/-- One region's index and bytes, and what follows its record; none where its header or its length is wrong. -/
def decodeRegion (bs : List Byte) : Option (Nat × List Byte × List Byte) :=
  let h := ofBytesLE (bs.take 8)
  if bs.length < 8 ∨ 2 ^ 48 ≤ h then none
  else match decodeBlocks 16 (h % 2 ^ 32) (bs.drop 8) with
    | none => none
    | some (x, rest) =>
      let pad := (8 - (bs.length - rest.length) % 8) % 8
      if rest.length < pad then none else some (h / 2 ^ 32, x, rest.drop pad)

/-- Regions one after another, at most `n`; none where one is wrong or bytes are left over. -/
def decodeRegions : Nat → List Byte → Option (List (Nat × List Byte))
  | _, [] => some []
  | 0, _ => none
  | n + 1, bs =>
    match decodeRegion bs with
    | none => none
    | some (i, x, rest) => (decodeRegions n rest).map fun xs => (i, x) :: xs

/-! ### Dirty bits -/

/-- The dirty bit of a 4 KiB region of a core's TCM: a byte of it has been written since the TCM was prepared (R29); the last
region is the ring, whose bytes preparation leaves. -/
def State.tcmDirty (s : State) (core region : Nat) : Bool :=
  if region = 15 then s.ringDirty.contains core else s.tcm.any fun (p : Nat × Byte) => p.1 / 4096 == core * 16 + region

/-- The dirty bit of a 4 KiB region of a cluster's deck: a byte of it has been written since its allocation was placed. -/
def State.deckDirty (s : State) (cluster region : Nat) : Bool :=
  s.deck.any fun (p : Nat × Byte) => p.1 / 4096 == cluster * 512 + region

/-- The dirty regions of a TCM, coded in ascending order. -/
def State.codedTcm (s : State) (core : Nat) : List Byte :=
  ((List.range 16).filter fun i => s.tcmDirty core i).flatMap fun i =>
    codeRegion i (readBytes (s.tcmByte core) (4096 * i) 4096)

/-- The dirty regions of a deck range of `n` bytes, coded in ascending order. -/
def State.codedDeck (s : State) (cluster base n : Nat) : List Byte :=
  ((List.range (n / 4096)).filter fun i => s.deckDirty cluster (base / 4096 + i)).flatMap fun i =>
    codeRegion i (readBytes (s.deckByte cluster) (base + 4096 * i) 4096)

/-- Coded regions written back: each sets its bytes, and so its dirty bit. -/
def restoreRegions (m : Tab Byte) (base n : Nat) (bs : List Byte) : Tab Byte :=
  ((decodeRegions n bs).getD []).foldl (fun m r => putBytes m (base + 4096 * r.1) r.2) m

end Sys2Proof.Machine
end

