-- ==== Sys2Proof/Machine/SaveImage.lean ====
section
/-! DEFINITION. Save records as they lie in a span's save region: the parts of a thread (R390) and of a core (R391), the header,
chain entries and suspended copies (R389), and where in the region a record stands (R388). What the spec gives a field of these
layouts without a place in it stands where the model puts it (DESIGN CHOICE, assumption 141). -/

namespace Sys2Proof.Machine

/-! ### Words of registers (R33, R35, R39, R49, R52) -/

def Space.code : Space → Nat
  | .tcm => 0
  | .deck => 1
  | .global => 2
  | .peer => 3

def spaceOf (n : Nat) : Space := if n = 0 then .tcm else if n = 1 then .deck else if n = 2 then .global else .peer

/-- `tstat` (R33). -/
def Thread.tstat (x : Thread) (slot : Nat) : Nat :=
  x.rlxn % 2 ^ 4 + x.priv.toNat * 2 ^ 4 + slot * 2 ^ 7 + x.gang.toNat * 2 ^ 11 + x.leader.toNat * 2 ^ 13 + x.split.toNat * 2 ^ 14 +
    x.twin.toNat * 2 ^ 15 + x.cseg.toNat * 2 ^ 16 + x.intrap.toNat * 2 ^ 19

def RepC.bits (r : RepC) : Nat := r.left.toNat + r.done.toNat * 2 ^ 6 + r.act.toNat * 2 ^ 12
def Seg.lim (g : Seg) : Nat :=
  g.length.toNat + g.rd.toNat * 2 ^ 59 + g.w.toNat * 2 ^ 60 + g.x.toNat * 2 ^ 61 + g.space.code * 2 ^ 62

/-- A named barrier's 16 bits (R52). -/
def NamedBarrier.bits (b : NamedBarrier) : Nat := b.exp + b.arr * 2 ^ 5 + b.phase.toNat * 2 ^ 10

/-- A ring descriptor with its deck address as an offset from `base` (R49, R391). -/
def Ring.bits (r : Ring) (base : Nat) : Nat :=
  r.base - base + r.nslot * 2 ^ 24 + r.tsz * 2 ^ 28 + r.head * 2 ^ 32 + r.tail * 2 ^ 36 + r.cnt * 2 ^ 40 + r.swz.toNat * 2 ^ 45 +
    r.swzen.toNat * 2 ^ 48

def RingSlotState.code : RingSlotState → Nat
  | .free => 0
  | .linked => 1
  | .ready => 2
  | .stale => 3

/-- A slot's word: its state, its barrier's offset, the linked phase. -/
def RingSlot.bits (x : RingSlot) : Nat := x.state.code + x.barOff / 16 * 16 + x.phase % 16 * 2 ^ 24

/-- A ring entry's state byte. -/
def EntryState.code : EntryState → Nat
  | .free => 0
  | .delivered => 1
  | .claimed k => 2 + k % 16 * 16

/-- A nest record's 64 bytes (R218). -/
def Nest.bits (n : Nest) : Nat :=
  n.base0 + n.base1 * 2 ^ 32 + n.lv * 2 ^ 64 + ((List.range (n.lv + 1)).map fun l =>
    (n.n.getD l 0 + n.inc0.getD l 0 * 2 ^ 32 + n.inc1.getD l 0 * 2 ^ 64) * 2 ^ (128 + 96 * l)).foldl (· + ·) 0

/-- The word of a sequencer: P, the permits out, seqrun, seqdone, the next tuple. -/
def Sequencer.bits (q : Sequencer) : Nat :=
  q.permits % 2 ^ 9 + q.out.length % 2 ^ 9 * 2 ^ 9 + q.running.toNat * 2 ^ 18 + q.done.toNat * 2 ^ 19 + q.emitted % 2 ^ 44 * 2 ^ 20

/-! ### The parts of a record (R389 to R391) -/

/-- `n` little-endian words of `w` bytes. -/
def words (w n : Nat) (f : Nat → Nat) : List Byte := (List.range n).flatMap fun i => toBytesLE (f i) w

/-- A latch's tag: register and hold. -/
def Latch.tag (l : Latch) : Nat := l.reg.toNat + l.hold.toNat * 2 ^ 6

/-- The indices of a stream's next unit, level 0 first. -/
def unitIndex : List Nat → Nat → Nat
  | [], _ => 0
  | c :: cs, u => u % c + 2 ^ 16 * unitIndex cs (u / c)

/-- A stream record (R209). -/
def Binding.record (b : Binding) : Nat :=
  let st (i : Nat) : Nat := (BitVec.ofInt 32 (b.st.getD i 0)).toNat
  b.off % 2 ^ 57 + b.segNo * 2 ^ 57 + b.cnt.getD 0 0 * 2 ^ 112 + b.cnt.getD 1 0 * 2 ^ 128 + b.cnt.getD 2 0 * 2 ^ 144 +
    st 0 * 2 ^ 160 + st 1 * 2 ^ 192 + st 2 * 2 ^ 224

/-- A binding's 48 bytes: the record, the indices with the register and the valid bit, zeros. -/
def bindingBytes : Option Binding → List Byte
  | none => toBytesLE 0 48
  | some b => toBytesLE (b.record + 2 ^ 256 * (unitIndex b.cnt b.next % 2 ^ 48 + b.reg * 2 ^ 48 + 2 ^ 63)) 48

/-- A thread part's 1,344 bytes (R390). -/
def Thread.image (x : Thread) (slot : Nat) : List Byte :=
  words 8 31 (fun i => (x.s.get 0 (i + 1)).toNat) ++ toBytesLE x.pc.toNat 8 ++ words 16 32 (fun i => (x.v.get 0 i).toNat) ++
    words 16 8 (fun k => (x.seg.get {} k).base.toNat + 2 ^ 64 * (x.seg.get {} k).lim) ++
    [x.tstat slot, x.fmode.toNat, x.fflags.toNat, x.repc.bits, x.evt.toNat, x.tcause.toNat, x.taddr.toNat, x.tepc.toNat,
      x.tvec.toNat, x.tscratch.toNat].flatMap (fun v => toBytesLE v 8) ++
    [x.latchD, x.latchA, x.latchB].flatMap (fun l => toBytesLE l.value.toNat 16) ++
    toBytesLE (x.latchD.tag + x.latchA.tag * 2 ^ 8 + x.latchB.tag * 2 ^ 16) 8 ++ toBytesLE (x.half.getD 0).toNat 8 ++
    toBytesLE (match x.permit with
      | some k => 2 ^ 8 + k.toNat
      | none => 0) 8 ++
    toBytesLE (x.token.toNat + x.park.toNat * 2 ^ 8 + slot * 2 ^ 16) 8 ++
    (List.range 4).flatMap (fun i => bindingBytes x.bindings[i]?) ++ words 8 10 (fun i => (x.counters.get 0 i).toNat) ++ zeroBytes 16
where
  zeroBytes (n : Nat) : List Byte := List.replicate n 0

/-- The queues into a core from one direction: its scalar entries and their count, its vector entries and theirs. -/
def Core.queueBytes (c : Core) (dir : Nat) : List Byte :=
  let q := c.portQ.get [] dir
  let v := c.portVQ.get [] dir
  words 8 4 (fun i => (q.getD i 0).toNat) ++ toBytesLE q.length 8 ++ words 16 4 (fun i => (v.getD i 0).toNat) ++ toBytesLE v.length 8

/-- A core part's 7,040 bytes; `base` is where the crew's deck range begins, `wins` the windows that the crew opened on the core
(R391). -/
def Core.image (c : Core) (base : Nat) (wins : List Nat) : List Byte :=
  let tags := ((List.range 4).map fun t =>
    (c.accInt.get false t).toNat * 2 ^ t + (c.poisoned.contains (128 + t)).toNat * 2 ^ (4 + t)).foldl (· + ·) 0
  words 4 1024 (fun i => (c.acc.get 0 i).toNat) ++ toBytesLE tags 8 ++ words 8 24 (fun i => (c.h.get 0 i).toNat) ++
    words 16 28 (fun i => (c.w.get 0 i).toNat) ++ words 8 4 (fun n => (c.rings.get {} n).bits base) ++
    words 8 64 (fun i => ((c.rings.get {} (i / 16)).slots.get {} (i % 16)).bits) ++ toBytesLE c.mxCfg.toNat 8 ++
    words 1 320 (fun i => (c.mxScale.get 0 i).toNat) ++ words 2 256 (fun i => (c.bars.get {} i).bits) ++
    toBytesLE ((c.seq.nest.map Nest.bits).getD 0) 64 ++ toBytesLE c.seq.bits 8 ++
    words 24 8 (fun i => match c.seq.queue[i]? with
      | some q => q.1.toNat + q.2.toNat * 2 ^ 128
      | none => 0) ++
    toBytesLE (c.seq.out.foldl (fun m k => m ||| 2 ^ k.toNat) 0) 32 ++ words 8 8 (fun i => (c.counters.get 0 (16 + i)).toNat) ++
    (List.range 4).flatMap c.queueBytes ++ toBytesLE (c.rtabEn.toNat + c.rtabBase.toNat * 2 ^ 9) 8 ++
    words 1 32 (fun i => (c.entries.get {} i).state.code) ++
    toBytesLE (wins.foldr (fun w v => w % 8 + 8 * v) 0) 8 ++ toBytesLE wins.length 8 ++ List.replicate 48 0

/-- A chain entry's 128 bytes: the message. -/
def Message.image (m : Message) : List Byte :=
  toBytesLE m.hdr.toNat 8 ++ words 8 15 fun i => (m.payload.getD i 0).toNat

/-- A suspended copy of `units` units: its unit word, record offset, origin, target word and barrier, then the units done. -/
def Copy.image (c : Copy) (units : Nat) : List Byte :=
  toBytesLE c.word.toNat 8 ++ toBytesLE c.recOff 8 ++ (words 4 6 fun i => (BitVec.ofInt 32 (c.origin.getD i 0)).toNat) ++
    toBytesLE c.target.toNat 8 ++ toBytesLE c.barOff 16 ++
    padTo 64 (toBytesLE (c.done.foldl (fun m u => m ||| 2 ^ u) 0) ((units + 7) / 8))

/-- A record's header: whose it is, the sizes of the crew, where each part begins, `h31` at the save. -/
def recordHeader (k : Crew) (cores threads deck : Nat) (parts : List Nat) (tick : Nat) : List Byte :=
  padTo 64 (toBytesLE (k.num + k.stage * 2 ^ 32 + k.bay * 2 ^ 36) 8 ++ toBytesLE (cores + threads * 2 ^ 8 + deck * 2 ^ 32) 8 ++
    (words 4 6 fun i => parts.getD i 0) ++ toBytesLE tick 8)

/-! ### The save region (R382, R388) -/

/-- What the records of a span take of its save region: offsets and lengths. -/
def State.saved (s : State) (span : Nat) : List (Nat × Nat) :=
  (s.crews.filterMap fun (p : Nat × Crew) => match p.2.save with
    | some r => if p.2.span = span ∧ r.size ≠ 0 then some (r.place, r.size) else none
    | none => none) ++
  s.asides.filterMap fun a => if spanOf (coreOf a.thread) = span then some (a.place, 1344) else none

/-- The lowest multiple of 64 at which `n` bytes stand clear of every record of a span. -/
def State.savePlace (s : State) (span n : Nat) : Nat :=
  let used := s.saved span
  let ends := used.map fun p => (p.1 + p.2 + 63) / 64 * 64
  let last := ends.foldl max 0
  (ends.filter fun a => used.all fun p => decide (a + n ≤ p.1 ∨ p.1 + p.2 ≤ a)).foldl min
    (if used.all fun p => decide (n ≤ p.1) then 0 else last)

/-- Where an offset of a span's save region lies. -/
def State.saveAddress (s : State) (span off : Nat) : Nat := s.local (Config.saveBase span / 64 * 64 + off)

end Sys2Proof.Machine
end

