-- ==== Sys2Proof/Machine/Stream.lean ====
section
/-! DEFINITION. Stream registers (R209 to R213, R311, R312): binding, fetching ahead, the fetch of a unit that is popped
before it has arrived, freeing and skipping. -/

namespace Sys2Proof.Machine

/-! ### The record and the nest (R209) -/

/-- A record's 256 bits; none where a reserved bit is set, a count is 0 or a stride is no multiple of 16. -/
def streamOf (x : Nat) (v : Nat) (seg : Tab Seg) : Option Binding :=
  let k := field x 57 3
  let st := [signed 32 (field x 160 32), signed 32 (field x 192 32), signed 32 (field x 224 32)]
  let cnt := [field x 112 16, field x 128 16, field x 144 16]
  if field x 60 52 ≠ 0 ∨ cnt.any (· == 0) ∨ st.any (fun i => i % 16 != 0) then none
  else some { reg := v, seg := seg.get {} k, segNo := k, off := field x 0 57, st := st, cnt := cnt }

/-- The number of units. -/
def Binding.total (b : Binding) : Nat := b.cnt.foldl (· * ·) 1

/-- Offsets of the units, i0 innermost: indices of unit `u` against the counts, times the strides. -/
def nestOffset : List Nat → List Int → Nat → Int
  | c :: cs, t :: ts, u => (u % c : Nat) * t + nestOffset cs ts (u / c)
  | _, _, _ => 0

def Binding.offset (b : Binding) (u : Nat) : Int := b.off + nestOffset b.cnt b.st u

/-- The lowest and the highest unit offset of the nest: each level at 0 or at its last index (R210). -/
def nestLow : List Nat → List Int → Int
  | c :: cs, t :: ts => min 0 ((c - 1 : Int) * t) + nestLow cs ts
  | _, _ => 0
def nestHigh : List Nat → List Int → Int
  | c :: cs, t :: ts => max 0 ((c - 1 : Int) * t) + nestHigh cs ts
  | _, _ => 0

/-- A unit's 16 bytes at an offset that may be negative pass R40. -/
def Seg.admitsInt (g : Seg) (r : Right) (off : Int) (n : Nat) : Bool :=
  decide (0 ≤ off) && g.admits r off.toNat n

/-! ### Bindings of a thread -/

def Thread.binding (x : Thread) (v : Nat) : Option Binding := x.bindings.find? fun b => b.reg == v

def Thread.modBinding (x : Thread) (v : Nat) (f : Binding → Binding) : Thread :=
  { x with bindings := x.bindings.map fun b => if b.reg = v then f b else b }

/-- The end of a binding: its units are discarded, and the reply of a request for one is discarded too (R211, R311). -/
def Thread.unbind (x : Thread) (v : Nat) : Thread := { x with bindings := x.bindings.filter fun b => b.reg != v }

/-- The checks of R210 on a record that has been read. -/
def State.bindGate (s : State) (v : Nat) (a : Word) (x : Nat) : Gate Binding :=
  match streamOf x v s.me.seg with
  | none => .trap .illegal a
  | some b =>
    let lo := b.off + nestLow b.cnt b.st
    let hi := b.off + nestHigh b.cnt b.st
    if !b.seg.admitsInt .rd lo 16 then .trap .seg (BitVec.ofInt 64 lo)
    else if !b.seg.admitsInt .rd hi 16 then .trap .seg (BitVec.ofInt 64 hi)
    else if (b.seg.base.toNat + b.off) % 16 ≠ 0 then .trap .align (BitVec.ofNat 64 b.off)
    else if b.seg.space = .peer then .trap .seg (BitVec.ofNat 64 b.off)
    else if (s.me.binding v).isNone ∧ 4 ≤ s.me.bindings.length then .trap .illegal 4
    else .go b

/-- `sm.bind` (R210). -/
def execSmBind (d : BitVec 5) (a : RegField) (s : State) : Out :=
  let v := d.toNat
  let k := clusterOf (coreOf s.cur)
  s.unit [sreg a] <| (s.readS s.cur a).next fun (x, s1) =>
    (s.inM1 s.cur x 32 32).next fun addr => (s.deckGate addr 32 false x).next fun _ =>
      if (s.badDeck k addr 32).isSome then .trap .poison x
      else (s.bindGate v x (s.deckRead k addr 32)).next fun b =>
        let b := { b with after := (s.reqs.filter fun (p : Nat × Req) => p.2.live && p.2.relaxed && p.2.thread == s.cur).map (·.1) }
        .go ((((s1.modThread s.cur fun y => { y.unbind v with bindings := (y.unbind v).bindings ++ [b] }).emit
          (.streamRefill s.cur v)).await s.cur .wmem .banks).askUnit s.cur addr 32)

/-- `sm.free` (R213). -/
def execSmFree (d : BitVec 5) (s : State) : Out :=
  s.act [] (.go (s.modThread s.cur fun x => x.unbind d.toNat))

/-- `sm.skip`: units go unread; a binding whose last unit goes ends (R213). -/
def execSmSkip (d : BitVec 5) (a : RegField) (s : State) : Out :=
  s.act [sreg a] <| (s.readS s.cur a).next fun (n, s1) =>
    let v := d.toNat
    match s1.me.binding v with
    | none => .go s1
    | some b =>
      if b.total ≤ b.next + n.toNat then .go (s1.modThread s.cur fun x => x.unbind v)
      else .go ((s1.modThread s.cur fun x => x.modBinding v fun b =>
        { b with next := b.next + n.toNat, fetched := b.fetched.filter fun p => decide (b.next + n.toNat ≤ p.1) }).emit
          (.streamRefill s.cur v))

/-! ### Fetching ahead (R212, R311, R312) -/

/-- A unit of global memory as a fetch ahead finds it; a walk that it makes may leave a translation in the TLBs, and
nothing else is left of one that is dropped. -/
def State.peekGlobal (s : State) (t dva : Nat) : State × Option VWord :=
  let cluster := clusterOf (coreOf t)
  let asid := s.asidOf (s.thread t).launch
  let go (s : State) (l : Leaf) : State × Option VWord :=
    let b := l.phys dva / 256
    let x := s.block b
    if l.nospec || !l.rd || l.dev != s.dev.toNat || !s.keyLive l dva || x.pres == .poison || (l.once && x.pres != .full) ||
        x.win || s.away (l.phys dva) 16 then (s, none)
    else (s, some (BitVec.ofNat 128 (s.memRead (l.phys dva) 16)))
  if fixedMapped t dva then (s, none)
  else match s.tlbFind cluster asid dva with
  | some l => go s l
  | none =>
    match s.walkNow asid dva with
    | (s1, none) => (s1, none)
    | (s1, some l) => go (s1.fillTlb cluster asid dva l) l

/-- A unit fetched ahead, or dropped. The crews of sampled originals and proof runs fetch no unit of global memory ahead,
so that their journals name the units in the order in which they are read (R399). -/
def State.peek (s : State) (t : Nat) (b : Binding) (u : Nat) : State × Option VWord :=
  let a := (b.seg.base.toNat + b.offset u).toNat
  match b.seg.space with
  | .global => if s.recording t || s.replaying t then (s, none) else s.peekGlobal t a
  | .peer => (s, none)
  | sp =>
    let inWindow := sp == .deck && (s.windowAt (clusterOf (coreOf t)) a).isSome
    if s.badGranule t sp a 16 true || inWindow then (s, none) else (s, some (BitVec.ofNat 128 (s.localRead t sp a 16)))

/-- The first unit that a binding has not requested. -/
def Binding.wanted (b : Binding) : Nat := max b.ahead b.next

/-- A relaxed access that the refills of a binding follow is outstanding (R212, R293). -/
def State.bindWaits (s : State) (b : Binding) : Bool := b.after.any fun r => (s.req r).live

/-- The engine may ask for the next unit now: at most 8 ahead of the reads, after the accesses before the `sm.bind`, and a deck
unit free of copies (R212, R309, R311). -/
def State.mayPeek (s : State) (t : Nat) (b : Binding) : Bool :=
  let u := b.wanted
  decide (u < b.total ∧ u < b.next + 8) && !s.bindWaits b && decide (s.portRequests (coreOf t) < 64) &&
    !(b.seg.space == .deck && s.deckBusy (clusterOf (coreOf t)) (b.seg.base.toNat + b.offset u).toNat 16)

def State.refill (s : State) (t v : Nat) : Nat → State
  | 0 => s
  | n + 1 =>
    match (s.thread t).binding v with
    | none => s
    | some b =>
      if !s.mayPeek t b then s
      else
        let u := b.wanted
        let (s1, r) := s.peek t b u
        (s1.modThread t fun x => x.modBinding v fun b =>
          { b with ahead := u + 1, fetched := match r with
              | some w => b.fetched ++ [(u, w)]
              | none => b.fetched }).refill t v n

/-- A refill of a deck binding: the unit's banks are asked for, and once they have served it the unit is fetched (R311, R316). -/
def State.refillDeck (s : State) (t v : Nat) (b : Binding) : State :=
  if s.asks.any fun x => x.asker == .refill t v then s
  else if b.asked then
    ((s.modThread t fun x => x.modBinding v fun b => { b with asked := false }).refill t v 1).emit (.streamRefill t v)
  else if s.mayPeek t b then
    (s.modThread t fun x => x.modBinding v fun b => { b with asked := true }).askCopy (coreOf t)
      (banksOf (b.seg.base.toNat + b.offset b.wanted).toNat 16) (.refill t v)
  else s

/-- STREAM_REFILL: the units that the binding lacks, in order, at most 8 ahead. -/
def execStreamRefill (t v : Nat) (s : State) : Out :=
  match (s.thread t).binding v with
  | none => .next s
  | some b => .next (if b.seg.space = .deck then s.refillDeck t v b else s.refill t v 8)

/-! ### The unit that a read waits for (R211, R212) -/

/-- The request of thread `t` for a unit of register `v`. -/
def State.streamReq (s : State) (t v : Nat) : Option Nat :=
  (s.reqs.find? fun (p : Nat × Req) => p.2.live && p.2.thread == t && (match p.2.kind with
    | .stream w _ => w == v
    | _ => false)).map (·.1)

/-- A read waits for a unit whose fetch ahead was dropped, or has not been made: it is fetched as a load is. -/
def State.streamDemand (s : State) (t v : Nat) : State :=
  let x := s.thread t
  match x.binding v with
  | none => s.setThread t { x with state := .ready, wait := .none }
  | some b =>
    if (s.streamReq t v).isSome || s.bindWaits b || decide (64 ≤ s.portRequests (coreOf t)) then s
    else if (b.fetched.map (·.1)).head? = some b.next then s.setThread t { x with state := .ready, wait := .none }
    else
      let off := (b.offset b.next).toNat
      let a := b.seg.base.toNat + off
      if s.badGranule t b.seg.space a 16 true then (s.countFound (spanOf (coreOf t))).trap t .poison (BitVec.ofNat 64 off)
      else
        let q : Req :=
          { live := true, thread := t, cluster := clusterOf (coreOf t), launch := x.launch, crewId := x.crewId,
            kind := .stream v b.next, seg := BitVec.ofNat 3 b.segNo, space := b.seg.space, off := BitVec.ofNat 64 off,
            dva := BitVec.ofNat 57 a, phys := a, n := 16, vec := true, pc := x.pc, hold := x.proofHold, priv := x.priv,
            park := x.park, major := x.iss.major, twin := x.twin && !x.iss.alone,
            overlay := if x.twin && !x.iss.alone then s.heldBytes t b.seg.space a 16 else [] }
        let r := s.nextReq
        let s1 := ({ s with reqs := s.reqs.put r q, nextReq := r + 1 }).attemptReq r
        match (s1.req r).status with
        | .refused _ _ => s1.emit (.streamUnitArrival t v)
        | _ => s1

/-- A request for a unit moved to its answer, where it has come to its point. -/
def State.streamStep (s : State) (r : Nat) : State :=
  let q := s.req r
  match q.status with
  | .issued =>
    if q.once then
      if s.sector q.cluster (q.phys / 64) = .shared then
        (s.refer r).modReq r fun q => { q with status := .replied, result := BitVec.ofNat 128 (s.memRead q.phys q.n) }
      else s
    else s.performOpen r
  | .banked => if s.bankFree r then s.performLocal r true else s
  | _ => s

/-- STREAM_UNIT_ARRIVAL: a request that its sector's grant, or room at the port, has been awaiting is made, and answered in its own
time; the unit of an answer joins those fetched and the waiting read goes on; a failure traps at the reading unit; a reply whose
binding has ended is discarded. -/
def execStreamUnitArrival (t v : Nat) (s : State) : Out :=
  match s.streamReq t v with
  | none => .next s
  | some r =>
    let q := s.req r
    match (s.thread t).binding v with
    | none => .next (s.dropReq r)
    | some b =>
      if q.kind ≠ .stream v b.next then .next (s.dropReq r)
      else if q.status = .awaiting then .next (s.makeGranted r)
      else if q.status = .blocked then .next (s.attemptReq r)
      else
        let s1 := s.streamStep r
        let q1 := s1.req r
        match q1.status with
        | .replied =>
          let s2 := match q1.jslot with
            | some p => s1.journalSet (s1.streamKey t) (spanOfCluster q1.cluster) p q1.entry
            | none => s1
          .next ((s2.dropReq r).modThread t fun x =>
            let y := x.modBinding v fun b =>
              { b with fetched := (b.next, q1.withHeld q1.result) :: b.fetched.filter fun p => p.1 != b.next }
            if y.wait = .retry (.streamUnit v) then { y with state := .ready, wait := .none } else y)
        | .refused c a => .next ((s1.dropReq r).trap t c a)
        | _ => .next s1

end Sys2Proof.Machine
end

