-- ==== Sys2Proof/Machine/TBarrier.lean ====
section
/-! DEFINITION. The transaction-barrier instructions (R207, R208). -/

namespace Sys2Proof.Machine

/-- The barrier that a unit names: its `m1` offset, the waits and the errors of the deck (R179, R207, R384). -/
def State.barrierGate (s : State) (off : Word) : Gate Nat :=
  (s.inM1 s.cur off 16 16).next fun a => (s.deckGate a 16 false off).next fun _ =>
    if (s.badDeck (clusterOf (coreOf s.cur)) a 16).isSome then .trap .poison off else .go a

/-- A barrier that has been initialised. -/
def State.countsGate (s : State) (a : Nat) (off : Word) : Gate Unit :=
  if (s.barrier (clusterOf (coreOf s.cur)) a).init = 0 then .trap .illegal off else .go ()

/-- The barrier that `tb.init` leaves. -/
def freshBarrier (n : Nat) : Barrier := { init := n, parr := n }

/-- A barrier unit has issued: it acts when the barrier's bank serves it (R207, R263). -/
def State.askBarrier (s : State) (t a : Nat) (w : Wait) : State := (s.await t .wmem w).askUnit t a 8

/-- `tb.init` at its barrier once no sector is pending; otherwise its thread waits. -/
def State.initBarrier (s : State) (t a n : Nat) : State :=
  let k := clusterOf (coreOf t)
  if (s.barrier k a).psect = 0 then (s.setBarrier k a (freshBarrier n)).complete t
  else s.await t .wsync (.tbInit a n)

def execTbInit (a b : RegField) (s : State) : Out :=
  s.unit [sreg a, sreg b] <| (s.read2 a b).next fun (x, y, s1) =>
    (s.barrierGate x).next fun addr =>
      (require (y != 0 && decide (y.toNat < 2 ^ 12)) y).next fun _ => .go (s1.askBarrier s.cur addr (.tbInit addr y.toNat))

/-- The arrival: `d` receives the phase, and the phase completes if nothing is pending (R207, R208). -/
def State.arriveAt (s : State) (t a : Nat) (d : RegField) : State :=
  let k := clusterOf (coreOf t)
  let b := s.barrier k a
  let s1 := s.setBarrier k a ({ b with parr := b.parr - 1 } : Barrier).settle
  (s1.writeS t d (BitVec.ofNat 64 b.phase) 0).complete t

/-- `tb.arrive` at its barrier: with no arrival left in the phase its thread waits for the next one (R207). -/
def State.arriveOrWait (s : State) (t a : Nat) (d : RegField) : State :=
  let b := s.barrier (clusterOf (coreOf t)) a
  if b.parr = 0 then s.await t .wsync (.tbArrive d a b.phase)
  else if s.portRoom t (sreg d) then s.arriveAt t a d
  else s.askBarrier t a (.tbArrive d a b.phase)

/-- `tb.arrive`: a release of the thread's earlier accesses (R207, R290). -/
def execTbArrive (d a : RegField) (s : State) : Out :=
  s.unit [sreg a, sreg d] <| (s.readS s.cur a).next fun (x, s1) =>
    (s.barrierGate x).next fun addr => (s.countsGate addr x).next fun _ => s.releaseGate.next fun _ =>
      let b := s.barrier (clusterOf (coreOf s.cur)) addr
      (s1.destS s.cur d (BitVec.ofNat 64 b.phase)).next fun _ => .go (s1.askBarrier s.cur addr (.tbArrive d addr b.phase))

/-- The end of a wait for a phase: a poisoned barrier traps ASYNC (R207). -/
def State.passBarrier (s : State) (t a : Nat) (off : Word) : State :=
  if (s.barrier (clusterOf (coreOf t)) a).poison then s.trap t .async off else s.complete t

def execTbWait (a b : RegField) (s : State) : Out :=
  s.unit [sreg a, sreg b] <| (s.read2 a b).next fun (x, y, s1) =>
    (s.barrierGate x).next fun addr => (s.countsGate addr x).next fun _ =>
      .go (s1.askBarrier s.cur addr (.tbWait addr x (field y.toNat 0 4)))

/-- `tb.wait` at its barrier. -/
def State.passOrWait (s : State) (t a : Nat) (off : Word) (token : Nat) : State :=
  if (s.barrier (clusterOf (coreOf t)) a).phase ≠ token then s.passBarrier t a off else s.await t .wsync (.tbWait a off token)

def execTbTest (d a b : RegField) (s : State) : Out :=
  s.unit [sreg a, sreg b, sreg d] <| (s.read2 a b).next fun (x, y, s1) =>
    (s.barrierGate x).next fun addr => (s.countsGate addr x).next fun _ =>
      (s1.destS s.cur d 0).next fun _ => .go (s1.askBarrier s.cur addr (.tbTest d addr x (field y.toNat 0 4)))

/-- `tb.test` at its barrier: a poisoned phase traps ASYNC with `d` unwritten (R207). -/
def State.testBarrier (s : State) (t a : Nat) (d : RegField) (off : Word) (token : Nat) : State :=
  let b := s.barrier (clusterOf (coreOf t)) a
  let passed := b.phase != token
  if passed && b.poison then s.trap t .async off
  else if !s.portRoom t (sreg d) then s.askBarrier t a (.tbTest d a off token)
  else (s.writeS t d (if passed then 1 else 0) 0).complete t

/-- What a barrier unit that waits in WSYNC does once its condition holds: the arrival in the next phase is a new access of the
barrier's bank, and may find no arrival left there (R207, R448). -/
def State.settleBarrier (s : State) (t : Nat) : State :=
  let k := clusterOf (coreOf t)
  if (s.thread t).state ≠ .wsync then s
  else match (s.thread t).wait with
    | .tbInit a n => if (s.barrier k a).psect = 0 then s.initBarrier t a n else s
    | .tbArrive d a phase =>
      if (s.barrier k a).phase ≠ phase then s.askBarrier t a (.tbArrive d a (s.barrier k a).phase) else s
    | .tbWait a off token => if (s.barrier k a).phase ≠ token then s.passBarrier t a off else s
    | _ => s

end Sys2Proof.Machine
end

