-- ==== Sys2Proof/Machine/Window.lean ====
section
/-! DEFINITION. Windows (R214 to R217, R320 to R322, R328 to R331): opening, writing back, closing and dropping, and the
touch that a unit waits for. -/

namespace Sys2Proof.Machine

def State.window (s : State) (key : Nat) : Window := s.windows.get {} key
def State.putWindow (s : State) (key : Nat) (w : Window) : State := { s with windows := s.windows.put key w }
def State.modWindow (s : State) (key : Nat) (f : Window → Window) : State := s.putWindow key (f (s.window key))
/-- The key of a thread's window. -/
def windowKey (t n : Nat) : Nat := clusterOf (coreOf t) * 8 + n

def overlaps (a n b m : Nat) : Bool := decide (a < b + m ∧ b < a + n)

/-- The rings of a cluster's cores that a deck range meets. -/
def State.meetsRing (s : State) (cluster a n : Nat) : Bool :=
  s.cores.any fun (p : Nat × Core) =>
    clusterOf p.1 == cluster && p.2.rings.any fun (q : Nat × Ring) => q.2.nslot != 0 && overlaps q.2.base q.2.size a n

/-- Another open window of the cluster whose launch runs in the same address space, and whose range meets a range of
DVAs (R214). -/
def State.meetsGlobal (s : State) (cluster asid dva n : Nat) : Bool :=
  s.windows.any fun (p : Nat × Window) =>
    p.1 / 8 == cluster && p.2.valid && p.2.asid == asid && overlaps p.2.gbase.toNat (256 * p.2.nblk) dva n

/-- `win.open` (R214). Which value `taddr` takes for each ILLEGAL: assumption 152, DESIGN CHOICE. -/
def execWinOpen (a b : RegField) (w : BitVec 3) (seg : SegField) (s : State) : Out :=
  s.act [sreg a, sreg b] <| (s.read2 a b).next fun (x, y, s1) =>
    let k := clusterOf (coreOf s.cur)
    let key := windowKey s.cur w.toNat
    let n := field x.toNat 32 12
    let g := s.segment s.cur seg
    (require (noneIn x 44 20 && noneIn x 21 11 && decide (1 ≤ n ∧ n ≤ 2048)) x).next fun _ =>
      (s.inM1 s.cur (BitVec.ofNat 64 (field x.toNat 0 21)) (256 * n) 256).next fun dbase =>
        if g.space ≠ .global ∨ !g.admits .rd y.toNat (256 * n) then .trap .seg y
        else
          let dva := g.base.toNat + y.toNat
          if dva % 256 ≠ 0 then .trap .align y
          else
            (require (!(s.window key).valid) (w.setWidth 64)).next fun _ =>
              (require (!s.meetsWindow k dbase (256 * n) && !s.meetsRing k dbase (256 * n)) x).next fun _ =>
                (require (!s.meetsGlobal k (s.asidOf s.me.launch) dva (256 * n)) y).next fun _ =>
                  .go (s1.putWindow key
                    { valid := true, core := coreOf s.cur, gbase := BitVec.ofNat 57 dva, nblk := n, dbase := dbase,
                      writable := g.admits .w y.toNat (256 * n), launch := s.me.launch, crewId := s.me.crewId,
                      asid := s.asidOf s.me.launch, flushes := (s.window key).flushes })

/-! ### The end of a window -/

/-- A write-back of a window that has closed: no word is still to go, and it ends once those that it has sent are performed; it
has nothing to do with a window opened there later. -/
def Flush.orphaned (f : Flush) : Flush := { f with todo := [], closing := false }

/-- A window closes: fetches in flight and waiters at homes end, and what waited for it is made again on the ordinary
deck (R216, R329). -/
def State.closeWindow (s : State) (key : Nat) : State :=
  let w := s.window key
  let s1 := w.blocks.foldl (fun s (p : Nat × WinBlock) =>
    let s2 := if p.2.state = .w then
        match (s.block (p.2.phys / 256)).waiters.find? fun v => v.win && v.window == key with
        | some v => s.emit (.waiterWithdrawal (p.2.phys / 256) v.word)
        | none => s
      else s
    s2.retryTouching key p.1) s
  s1.putWindow key { (s1.window key) with valid := false, blocks := [], flushes := w.flushes.map Flush.orphaned }

/-- `win.drop`: the dirty words are discarded (R216). -/
def execWinDrop (w : BitVec 3) (s : State) : Out :=
  let key := windowKey s.cur w.toNat
  s.act [] (.go (if (s.window key).valid then s.closeWindow key else s))

/-! ### Write-backs (R215, R217, R321, R335) -/

/-- The words of a window that are dirty now, by block. -/
def Window.dirtyWords (w : Window) : List (Nat × BitVec 64) :=
  (w.blocks.filter fun (p : Nat × WinBlock) => p.2.dirty != 0).map fun p => (p.1, p.2.dirty)

/-- A failure is kept if it is the first. -/
def Flush.failed (f : Flush) (c : Cause) (addr : Nat) : Flush :=
  match f.fail with
  | some _ => f
  | none => { f with fail := some (c, addr) }

/-- The lowest word of a mask. -/
def firstWord (m : BitVec 64) : Nat := ((List.range 64).find? fun i => maskBit m i).getD 0

/-- The DVA of the first of some words of a window's block. -/
def State.firstDva (s : State) (key blk : Nat) (m : BitVec 64) : Nat :=
  (s.window key).gbase.toNat + 256 * blk + 4 * firstWord m

/-- Words of a window's block that are dirty no more. -/
def WinBlock.cleaned (b : WinBlock) (m : BitVec 64) : WinBlock :=
  { b with dirty := b.dirty &&& ~~~m, after := if b.dirty &&& ~~~m = 0 then [] else b.after }

/-- The words of a ONCE block, each a covering store, which follows the storing threads' earlier relaxed accesses (R215, R290);
true where the rest waits for those or for a pool block. -/
def State.flushOnce (s : State) (key blk phys : Nat) (m : BitVec 64) (hold : Option Nat) (f : Flush) :
    Nat → State × Flush × Bool
  | 0 => (s, f, false)
  | n + 1 =>
    let i := 63 - n
    let w := s.window key
    let clean (s : State) : State := s.modWinBlock key blk fun x => x.cleaned ((1 : BitVec 64) <<< i)
    if !maskBit m i then s.flushOnce key blk phys m hold f n
    else if (w.blocks.get {} blk).after.any fun r => (s.req r).live then (s, f, true)
    else match s.coverStore (phys / 256) (phys + 4 * i) (readBytes (s.deckByte (key / 8)) (w.dbase + 256 * blk + 4 * i) 4) hold
        (.flush key) with
      | .ok s1 => (clean s1).flushOnce key blk phys m hold f n
      | .error (some c) => (clean s).flushOnce key blk phys m hold (f.failed c (w.gbase.toNat + 256 * blk + 4 * i)) n
      | .error none => (s.waitPool (s.spanKey (phys / 256)) (.flush key), f, true)

/-- Ticks from a write-back's departure to its arrival at the home: the figure that the spec calls typical for HBM4 (R118). -/
def writeBackTrip : Nat := 380

/-- The write-backs of a block: one for each aligned unit of 16 bytes that holds words of the mask, whose byte mask covers only
those (R321). -/
def State.sendUnits (s : State) (key blk phys : Nat) (m : BitVec 64) : Nat → State × List Nat
  | 0 => (s, [])
  | n + 1 =>
    let unit := m &&& ((0xF : BitVec 64) <<< (4 * (15 - n)))
    if unit = 0 then s.sendUnits key blk phys m n
    else
      let wb : WriteBack := { block := phys / 256, cluster := key / 8, mask := unit, data := s.windowBytes key blk,
                              version := ((s.window key).blocks.get {} blk).version, asked := s.now, holder := key }
      let s1 := { s with writeBacks := s.writeBacks.put s.nextWb wb, nextWb := s.nextWb + 1 }
      let r := (s1.viaChannel phys (s.now + writeBackTrip) none (.writebackArrival s.nextWb)).sendUnits key blk phys m n
      (r.1, s.nextWb :: r.2)

/-- One block's words go: write-backs under the version that the window keeps (R335), covering stores, or a refusal; true where
it has to wait for a translation, a pool block, earlier write-backs of the block (R336), or the failure of the window, a word of
which is found in error (R344). -/
def State.flushBlock (s : State) (key blk : Nat) (m : BitVec 64) (f : Flush) : State × Flush × Bool :=
  let w := s.window key
  let dva := w.gbase.toNat + 256 * blk
  let first := s.firstDva key blk m
  let clean (s : State) : State := s.modWinBlock key blk fun x => x.cleaned m
  if 2 ≤ (s.crewOf w.crewId).run then (clean s, f, false)
  else match s.tlbFind (key / 8) w.asid dva with
  | none =>
    match s.joinMiss (key / 8) w.asid dva 1 (.winFetch (key / 8) (key % 8) blk) with
    | some s1 => (s1, f, true)
    | none => (s, f, true)
  | some l =>
    if !l.w || l.dev != s.dev.toNat then (clean s, f.failed .page first, false)
    else if !s.keyLive l dva then (clean s, f.failed .deadkey first, false)
    else if s.deckWordBad key blk m then (s.emit (.holderFailure (4096 + key)), f, true)
    else
      let phys := l.phys dva
      if l.once then
        s.flushOnce key blk phys m (s.windowHold w) f 64
      else if (s.windowHold w).isSome then (clean s, f.failed .page first, false)
      else if (s.block (phys / 256)).pres = .poison then (clean s, f.failed .poison first, false)
      else if s.inFlight key (phys / 256) ≠ [] then (s, f, true)
      else
        let (s1, sent) := s.sendUnits key blk phys m 16
        (clean s1, { f with sent := f.sent ++ sent }, false)

/-- The blocks of a write-back, one after another, until one has to wait. -/
def State.flushBlocks (s : State) (key : Nat) (f : Flush) : List (Nat × BitVec 64) → State × Flush
  | [] => (s, { f with todo := [] })
  | p :: ps =>
    let m := p.2 &&& ((s.window key).blocks.get {} p.1).dirty
    if m = 0 then s.flushBlocks key f ps
    else match s.flushBlock key p.1 m f with
      | (s1, f1, false) => s1.flushBlocks key f1 ps
      | (s1, f1, true) => (s1, { f1 with todo := p :: ps })

/-- The entry of kind 8 of a close that no thread waits for, with the window's number (R217, R379). -/
def State.reportClose (s : State) (key : Nat) (f : Flush) : State :=
  match f.fail with
  | none => s
  | some (c, a) =>
    s.report (s.window key).launch (s.errorEntry (s.concernedWindow key) 8 c a 0 (key % 8))

/-- The end of a write-back: the window closes if it was to, and the thread that waits goes on or traps. -/
def State.endFlush (s : State) (key : Nat) (f : Flush) : State :=
  let crew := (s.window key).crewId
  let s1 := if f.closing then (if f.thread.isNone then s.reportClose key f else s).closeWindow key else
    (if f.thread.isNone then s.reportClose key f else s)
  match f.thread with
  | none => (s1.emit (.crewRetirement crew)).emit (.contextSave crew)
  | some t =>
    if (s1.thread t).wait ≠ .flush key then s1
    else match f.fail with
      | none => s1.complete t
      | some (c, a) => (s1.reportThread t 7 c a (s1.thread t).pc.toNat 0).trap t c (BitVec.ofNat 64 a)

/-- The write-back that began first goes on: its blocks, then its end once every write has been performed. -/
def State.flushStep (s : State) (key : Nat) : State :=
  match (s.window key).flushes with
  | [] => s
  | f :: rest =>
    let (s1, f1) := s.flushBlocks key f f.todo
    if f1.todo.isEmpty && f1.sent.all (fun i => (s1.writeBacks.find i).isNone) then
      (s1.modWindow key fun w => { w with flushes := rest }).endFlush key f1
    else s1.modWindow key fun w => { w with flushes := f1 :: rest }

/-- A write-back of the words that are dirty now begins. -/
def State.beginFlush (s : State) (key : Nat) (t : Option Nat) (closing : Bool) : State :=
  (s.modWindow key fun w =>
    { w with flushes := w.flushes ++ [{ thread := t, closing := closing, todo := w.dirtyWords }] }).flushStep key

/-- A flush by a thread, which waits for it; it is a release at package scope (R215). -/
def State.unitFlush (s : State) (w : BitVec 3) (closing : Bool) : Out :=
  let key := windowKey s.cur w.toNat
  s.unit [] (s.releaseGate.next fun _ =>
    .go (if (s.window key).valid then (s.await s.cur .wmem (.flush key)).beginFlush key (some s.cur) closing
         else s.complete s.cur))

def execWinFlush (w : BitVec 3) (s : State) : Out := s.unitFlush w false
def execWinClose (w : BitVec 3) (s : State) : Out := s.unitFlush w true

/-! ### The touch that a unit waits for (R320) -/

/-- A unit of an engine waits for a window's block: its fetch begins, its translation parks the thread, a failure traps
at the unit; with every word valid the unit is attempted again. -/
def State.touchFor (s : State) (t cluster win blk : Nat) : State :=
  let key := 8 * cluster + win
  let w := s.window key
  let ready (s : State) : State := s.modThread t fun x => { x with state := .ready, wait := .none }
  if !w.valid then ready s
  else
    let b := w.blocks.get {} blk
    if b.valid = BitVec.allOnes 64 then ready s
    else if b.state = .f ∨ b.state = .w then s
    else match s.engineTouch key blk (s.fetchJoin t) with
      | .ok s1 => s1
      | .error c =>
        let dva := w.gbase.toNat + 256 * blk
        (s.reportThread t 7 c dva (s.thread t).pc.toNat 0).trap t c (BitVec.ofNat 64 dva)

end Sys2Proof.Machine
end

