-- ==== Sys2Proof/Machine/Sequencer.lean ====
section
/-! DEFINITION. The loop sequencer (R51, R218 to R221, R317, R318). -/

namespace Sys2Proof.Machine

/-- A level of a nest record: 96 bits from bit 128 + 96 L. -/
def nestLevel (x l : Nat) : Nat := field x (128 + 96 * l) 96

/-- A nest record's 512 bits; none where a reserved bit is set or a count is 0 (R218, R219). -/
def nestOf (x : Nat) : Option Nest :=
  let lv := field x 64 2
  let used := (List.range (lv + 1)).map (nestLevel x)
  let unused := (List.range (3 - lv)).map fun i => nestLevel x (lv + 1 + i)
  if field x 66 62 ≠ 0 ∨ used.any (fun l => field l 16 16 != 0 || field l 0 16 == 0) ∨ unused.any (· != 0) then none
  else some { lv := lv, base0 := field x 0 32, base1 := field x 32 32, n := used.map fun l => field l 0 16,
              inc0 := used.map fun l => field l 32 32, inc1 := used.map fun l => field l 64 32 }

def Nest.total (n : Nest) : Nat := n.n.foldl (· * ·) 1

/-- The indices of record `m`, level 0 first and fastest. -/
def indicesOf : List Nat → Nat → List Nat
  | [], _ => []
  | c :: cs, m => m % c :: indicesOf cs (m / c)

/-- A record's 128 bits (R51, R218). -/
def Nest.record (n : Nest) (m : Nat) : VWord :=
  let ix := indicesOf n.n m
  let sum (incs : List Nat) : Nat := ((ix.zip incs).map fun p => p.1 * p.2).foldl (· + ·) 0
  let i (k : Nat) : Nat := ix.getD k 0
  BitVec.ofNat 128 (i 0 + i 1 * 2 ^ 16 + i 2 * 2 ^ 32 + i 3 * 2 ^ 48 +
    (n.base0 + sum n.inc0) % 2 ^ 32 * 2 ^ 64 + (n.base1 + sum n.inc1) % 2 ^ 32 * 2 ^ 96)

/-- `seq.cfg` (R219). -/
def execSeqCfg (a : RegField) (s : State) : Out :=
  let core := coreOf s.cur
  let k := clusterOf core
  s.unit [sreg a] <| (s.readS s.cur a).next fun (x, s1) =>
    (s.inM1 s.cur x 64 64).next fun addr =>
      (require (!(s.core core).seq.running) x).next fun _ =>
        (s.deckGate addr 64 false x).next fun _ =>
          if (s.badDeck k addr 64).isSome then .trap .poison x
          else match nestOf (s.deckRead k addr 64) with
            | none => .trap .illegal x
            | some n => .go (((s1.modCore core fun c => { c with seq := { c.seq with nest := some n } }).await s.cur .wmem
                .banks).askUnit s.cur addr 64)

/-- `seq.start` (R220). -/
def execSeqStart (a : RegField) (s : State) : Out :=
  let core := coreOf s.cur
  let q := (s.core core).seq
  s.act [sreg a] <| (s.readS s.cur a).next fun (x, s1) =>
    (require (!q.running && q.nest.isSome && x != 0 && decide (x.toNat < 256)) x).next fun _ =>
      .go ((s1.modCore core fun c =>
        { c with seq := { c.seq with permits := x.toNat, running := true, done := false, emitted := 0, out := [], queue := [] } }).emit
          (.sequencerEmit core))

/-- `seq.stop` (R221). -/
def execSeqStop (s : State) : Out :=
  s.act [] (.go (s.modCore (coreOf s.cur) fun c => { c with seq := { c.seq with running := false, out := [], queue := [] } }))

/-- `seq.ret` (R221). -/
def execSeqRet (s : State) : Out :=
  s.act [] (.go ((s.modThread s.cur fun x => { x with permit := none }).returnPermit (coreOf s.cur) s.me.permit))

/-- The sequencer has records left, room in its queue, and every permit held out (R319). -/
def Sequencer.starved (q : Sequencer) : Bool :=
  match q.nest with
  | none => false
  | some n => q.running && decide (q.emitted < n.total) && decide (q.queue.length < 8) && decide (q.permits ≤ q.out.length)

/-- The sequencer's next step at a tick: one record at most (R220, R317). -/
def Sequencer.step (q : Sequencer) (now : Nat) : Sequencer :=
  match q.nest with
  | none => q
  | some n =>
    if !q.running then q
    else if q.emitted < n.total then
      if q.queue.length < 8 ∧ q.out.length < q.permits ∧ q.lastAt ≠ now + 1 then
        let tok : Byte := BitVec.ofNat 8 q.emitted
        { q with queue := q.queue ++ [(n.record q.emitted, tok)], out := q.out ++ [tok], emitted := q.emitted + 1,
                 done := decide (q.emitted + 1 = n.total), lastAt := now + 1 }
      else q
    else if q.queue.isEmpty then { q with running := false } else q

/-- SEQUENCER_EMIT. -/
def execSequencerEmit (core : Nat) (s : State) : Out :=
  .next (s.modCore core fun c => { c with seq := c.seq.step s.now })

end Sys2Proof.Machine
end

