-- ==== Sys2Proof/Machine/ThreadOps.lean ====
section
/-! DEFINITION. Threads (R222 to R229): their start and end, yields, parks and wakes, gangs. -/

namespace Sys2Proof.Machine

/-! ### Starting a thread (R10, R30) -/

/-- `m0` of every new thread. -/
def tcmSeg : Seg := { base := 0, length := 65536, space := .tcm, w := true, rd := true }

/-- A thread placed in slot `t`: what the slot itself keeps stays, its journal stream is numbered, and it is ready once
the stores it must not precede are performed (R38, R223, R348, R399). -/
def State.startThread (s : State) (t : Nat) (x : Thread) (stores : List Nat) : State :=
  let old := s.thread t
  let crew := s.crewOf x.crewId
  let k := crew.starts.get 0 x.tid.toNat
  let waits := !stores.isEmpty
  let y : Thread := { x with counters := old.counters, park := old.park, given := old.given,
                             stream := k, state := if waits then .wmem else .ready,
                             wait := if waits then .retry (.stores stores) else .none }
  (s.setThread t y).modCrew x.crewId fun c => { c with starts := c.starts.put x.tid.toNat (k + 1) }

/-- A set-aside thread is about to return to a slot (R382). -/
def State.returning (s : State) (t : Nat) : Bool := s.asides.any fun a => a.thread == t && a.woken

/-- The lowest free slot of a core that is given to a crew (R346), and to which no set-aside thread is about to return; every
slot of a command processor's core is its firmware's. -/
def State.freeSlotOf (s : State) (core crew : Nat) : Option Nat :=
  (List.range 16).find? fun i =>
    let y := s.thread (core * 16 + i)
    y.state == .free && (y.given == some crew || decide (8192 ≤ core)) && !s.returning (core * 16 + i)

/-- A `tid` with its slot replaced (R10). -/
def tidAt (tid : BitVec 8) (slot : Nat) : BitVec 8 := BitVec.ofNat 8 (tid.toNat / 16 * 16 + slot)

/-- The thread that `spawn` starts (R30, R223). -/
def Thread.child (x : Thread) (slot : Nat) (pc : BitVec 57) (arg : Word) : Thread :=
  { s := [(1, arg)], seg := x.seg.put 0 tcmSeg, pc := pc, tvec := x.tvec, fmode := x.fmode, cseg := x.cseg, priv := x.priv,
    bay := x.bay, nbay := x.nbay, crew := x.crew, ncore := x.ncore, stage := x.stage, nstage := x.nstage,
    tid := tidAt x.tid slot, nthr := x.nthr, proofHold := x.proofHold, proofRun := x.proofRun, launch := x.launch,
    crewId := x.crewId }

/-- `spawn` (R223). -/
def execSpawn (d a b : RegField) (s : State) : Out :=
  s.unit [sreg a, sreg b, sreg d] <| (s.read2 a b).next fun (target, arg, s1) =>
    let core := coreOf s.cur
    if 2 ^ 57 ≤ target.toNat then .trap .seg target
    else match s.freeSlotOf core s.me.crewId with
      | none => (s1.putS s.cur d (BitVec.allOnes 64) 2).next fun s2 => .go (s2.complete s.cur)
      | some k =>
        (s1.putS s.cur d (BitVec.ofNat 64 k) 2).next fun s2 =>
          .go ((s2.startThread (core * 16 + k) (s.me.child k (BitVec.ofNat 57 (target.toNat / 2 * 2)) arg)
            (s.relaxedEarlier s.cur s.nextReq)).complete s.cur)

/-! ### Ending and yielding (R224, R226) -/

/-- Step 1 of R224: relaxed accesses complete, and a fault of one is taken. -/
def State.leaveGate (s : State) : Gate Unit :=
  if 0 < s.me.rlxn then .wait .wmem (.relaxedDone false)
  else if s.me.pendingFaults ≠ [] then .pending else .go ()

/-- The end of the current thread; of both members of a twin pair. -/
def State.leave (s : State) : State :=
  let s1 := s.freeSlot s.cur
  if s.me.twin then s1.freeSlot (partner s.cur) else s1

/-- `exit` (R224). -/
def execExit (s : State) : Out := s.unit [] (s.leaveGate.next fun _ => .go s.leave)

/-- `yield` (R226). -/
def execYield (s : State) : Out :=
  s.unit [] (.go ((s.complete s.cur).modThread s.cur fun x => { x with state := .yielded }))

/-! ### Writing the result of a wait -/

/-- A value can be written to a destination now. -/
def State.canPut (s : State) (t : Nat) (d : RegField) (v : Word) : Bool :=
  match s.destS t d v with
  | .go _ => true
  | _ => false

/-- A wait ends with a register write, performed in this tick (R448). -/
def State.finishWait (s : State) (t : Nat) (d : RegField) (v : Word) : State := (s.writeS t d v 0).complete t

/-! ### Park and wake (R227) -/

/-- `park`. -/
def execPark (d a : RegField) (s : State) : Out :=
  s.unit [sreg a, sreg d] <| (s.readS s.cur a).next fun (x, s1) =>
    (require (noneIn x 32 32) x).next fun _ => (s1.destS s.cur d 1).next fun _ =>
      if s.me.token then .go (((s1.modThread s.cur fun y => { y with token := false }).writeS s.cur d 1 2).complete s.cur)
      else
        let due := s.now + x.toNat
        let s2 := s1.await s.cur .wsync (.park d (if x = 0 then none else some due))
        .go (if x = 0 then s2 else s2.later due (.parkTimeout s.cur))

/-- A parked thread whose token is set, or whose timeout has passed, goes on; the token wins. -/
def State.settlePark (s : State) (t : Nat) : State :=
  let x := s.thread t
  match x.wait with
  | .park d due =>
    if x.token then
      if s.canPut t d 1 then (s.modThread t fun y => { y with token := false }).finishWait t d 1 else s
    else match due with
      | some u => if u ≤ s.now then (if s.canPut t d 0 then s.finishWait t d 0 else s) else s
      | none => s
  | _ => s

/-- A wake on its way to thread `t` in this tick. -/
def wakes (t : Nat) : Instr → Bool
  | .wakeArrival u _ => u == t
  | _ => false

/-- PARK_TIMEOUT: a wake that arrives in the tick of the timeout wins. -/
def execParkTimeout (t : Nat) (s : State) : Out :=
  if s.events.any (wakes t) then .next (s.emit (.parkTimeout t)) else .next (s.settlePark t)

/-- `wake`: a release; the waker continues at once, and the wake reaches its slot in the next tick, or once the thread's earlier
accesses are performed (R227, R291). -/
def execWake (a : RegField) (s : State) : Out :=
  s.act [sreg a] <| (s.readS s.cur a).next fun (x, s1) =>
    (require (noneIn x 29 35 && noneIn x 0 12) x).next fun _ =>
      .go (s1.laterAfter (s.relaxedEarlier s.cur s.nextReq) (s.now + 1) (.wakeArrival (field x.toNat 16 13 * 16 + field x.toNat 12 4)
        s.me.launch))

/-- WAKE_ARRIVAL: the token of the launch's thread in the slot is set, or the wake is discarded. -/
def execWakeArrival (t launch : Nat) (s : State) : Out :=
  let x := s.thread t
  if x.live && x.launch == launch then .next ((s.setThread t { x with token := true }).settlePark t) else .next s

/-! ### Gangs (R228, R229) -/

/-- What a member of a rendezvous waits with. -/
inductive Meeting where
  | fuse (g : Nat)
  | twin
deriving DecidableEq, Repr

def Wait.meeting : Wait → Option (Meeting × RegField)
  | .fuse d g => some (.fuse g, d)
  | .twinOn d => some (.twin, d)
  | _ => Option.none

def Meeting.size : Meeting → Nat
  | .fuse g => g
  | .twin => 2

/-- The crew of thread `t` holds every core of the group of `g` cores. -/
def State.groupFits (s : State) (t g : Nat) : Bool :=
  let x := s.thread t
  let first := coreOf t - x.tid.toNat / 16
  let low := coreOf t / g * g
  decide (first ≤ low ∧ low + g ≤ first + x.ncore.toNat)

/-- Every member's slot holds a thread of the crew. -/
def State.groupPresent (s : State) (t g : Nat) : Bool :=
  (members t g).all fun m => (s.thread m).live && (s.thread m).crewId == (s.thread t).crewId

/-- Another member waits in a rendezvous of another size (R228), or of another kind (DESIGN CHOICE, assumption 107). -/
def State.groupDiffers (s : State) (t : Nat) (k : Meeting) : Bool :=
  (members t k.size).any fun m => m != t && (match (s.thread m).wait.meeting with
    | some (j, _) => j != k
    | none => false)

/-- Every member waits in the same rendezvous. -/
def State.groupMet (s : State) (t : Nat) (k : Meeting) : Bool :=
  (members t k.size).all fun m => match (s.thread m).wait.meeting with
    | some (j, _) => j == k
    | none => false

/-- What `twin.on` copies from the leader into the follower (R244). -/
def Thread.twinFrom (y x : Thread) : Thread :=
  { y.openOwn with s := x.s, v := x.v, seg := x.seg, fmode := x.fmode, fflags := x.fflags, repc := x.repc, tvec := x.tvec,
                   tscratch := x.tscratch, errors := x.errors }

/-- A member joins: its index into its register, its place in the gang, the leader's PC + 4. The write belongs to no fingerprint,
since a pair's streams begin at the rendezvous (R411). -/
def State.joinMember (s : State) (leader : Nat) (k : Meeting) (s0 : State) (m : Nat) : State :=
  let i := coreOf m - coreOf leader
  let pc := (s0.thread leader).pc + 4
  let d := match (s0.thread m).wait.meeting with
    | some p => p.2
    | none => 0
  let s1 := if k = .twin ∧ m ≠ leader then s.modThread m fun y => y.twinFrom (s0.thread leader) else s
  let s2 := (s1.modThread m fun y => { y with iss := { y.iss with alone := false } }).writeS m d (BitVec.ofNat 64 i) 0
  s2.modThread m fun y =>
    let z : Thread := { y.goOn pc with gang := if k.size = 2 then 1 else 2, leader := m == leader, repAt := none }
    if k = .twin then { z with twin := true, pair := {} } else z

/-- The state that a twin pair rolls back to: the registers, CSRs and PC of the leader as its gang begins. -/
def State.firstAgreed (s : State) (leader : Nat) : State :=
  let c := (s.thread leader).context
  (s.modThread leader fun x => { x with pair := { x.pair with agreed := c } }).modThread (partner leader) fun x =>
    { x with pair := { x.pair with agreed := c } }

/-- The rendezvous of thread `t`'s group: complete, refused, or still waiting (R228). -/
def State.settleMeeting (s : State) (t : Nat) : State :=
  match (s.thread t).wait.meeting with
  | none => s
  | some (k, _) =>
    let g := BitVec.ofNat 64 k.size
    if !s.groupPresent t k.size || s.groupDiffers t k then s.trap t .illegal g
    else if s.groupMet t k then
      let ms := members t k.size
      let leader := ms.headD t
      let s1 := ms.foldl (fun st m => st.joinMember leader k s m) s
      if k = .twin then s1.firstAgreed leader else s1
    else s

/-- The checks of `fuse` and `twin.on` before they wait: outside a gang, outside twin mode, a group of the crew's own
cores, no member missing, none waiting otherwise (R228, R229, R244). For `twin.on` in a gang `taddr` is 0, as R229 has it and
not the G of R228: the model's choice (log entry 140). -/
def State.meetingGate (s : State) (k : Meeting) : Gate Unit :=
  let t := s.cur
  let x := s.me
  let g := BitVec.ofNat 64 k.size
  if x.twin then .trap .illegal g
  else if x.gangSize ≠ 1 then .trap .illegal 0
  else if !s.groupFits t k.size || !s.groupPresent t k.size || s.groupDiffers t k then .trap .illegal g
  else .go ()

/-- `fuse` (R228). -/
def execFuse (d a : RegField) (s : State) : Out :=
  s.unit [sreg a, sreg d] <| (s.readS s.cur a).next fun (x, s1) =>
    (if s.me.gangSize ≠ 1 ∧ !s.me.twin then .trap .illegal 0 else require (x == 2 || x == 4) x).next fun _ =>
      (s.meetingGate (.fuse x.toNat)).next fun _ => (s1.destS s.cur d 0).next fun _ =>
        .go ((s1.await s.cur .wsync (.fuse d x.toNat)).settleMeeting s.cur)

/-- `split`: every member goes on at the unit after it on its own fetch; outside a gang it has no effect (R229). A twin
pair ends only at `twin.off` or TWIN. -/
def execSplit (s : State) : Out :=
  s.unit [] (.go (if s.me.twin then s.complete s.cur else (s.complete s.cur).endGang s.cur false))

end Sys2Proof.Machine
end

