-- ==== Sys2Proof/Machine/Message.lean ====
section
/-! DEFINITION. Messages (R53 to R58, R230 to R233, R348, R349, R363 to R365): sending, migrating, delivery, the overflow
pool, claims, and starts under the routine table. -/

namespace Sys2Proof.Machine

/-! ### Sending (R230, R231, R398, R405) -/

/-- The fields of a send word. -/
def sendDev (w : Word) : Nat := field w.toNat 32 8
def sendCore (w : Word) : Nat := field w.toNat 16 13
def sendLen (w : Word) : Nat := field w.toNat 8 4
def sendClass (w : Word) : Nat := field w.toNat 0 6
def sendTag (w : Word) : Nat := field w.toNat 40 24
/-- The reserved bits of a send word are 0. -/
def sendLegal (w : Word) : Bool := noneIn w 29 3 && noneIn w 12 4 && noneIn w 6 2

/-- The first core of thread `t`'s crew. -/
def State.crewFirst (s : State) (t : Nat) : Nat := coreOf t - (s.thread t).tid.toNat / 16

/-- The core is one of thread `t`'s crew, on this device. -/
def State.ownCore (s : State) (t dev core : Nat) : Bool :=
  dev == s.dev.toNat && decide (s.crewFirst t ≤ core ∧ core < s.crewFirst t + (s.thread t).ncore.toNat)

/-- Where a message goes: the core that its word names; from a proof run, a core of its own crew, for a core of the original
run's block the core of the same index, or nowhere (R405). -/
def State.routeOf (s : State) (t : Nat) (w : Word) : Option (Nat × Nat) :=
  let dev := sendDev w
  let core := sendCore w
  if s.ownCore t dev core || !s.replaying t then some (dev, core)
  else
    let o := s.crewOf (s.crewOf (s.thread t).crewId).original
    let n := (s.thread t).ncore.toNat
    if dev = s.dev.toNat ∧ o.firstCore ≤ core ∧ core < o.firstCore + n then some (dev, s.crewFirst t + (core - o.firstCore))
    else none

/-- A message that leaves the crew of the thread: neither to its own cores nor, from a proof run, to what stands for them. -/
def State.leavesCrew (s : State) (t : Nat) (w : Word) : Bool :=
  match s.routeOf t w with
  | some (dev, core) => !s.ownCore t dev core
  | none => true

/-- The header of R53 for a message of thread `t`. -/
def State.headerOf (s : State) (t kind len : Nat) (w : Word) : Word :=
  BitVec.ofNat 64 (sendTag w * 2 ^ 40 + s.dev.toNat * 2 ^ 32 + coreOf t % 2 ^ 13 * 2 ^ 16 + slotOf t * 2 ^ 12 + len * 2 ^ 8 +
    kind * 2 ^ 6 + sendClass w)

/-- The first `a` of a list replaced by `b`. -/
def replaceFirst {α : Type} [DecidableEq α] (a b : α) : List α → List α
  | [] => []
  | x :: xs => if x = a then b :: xs else x :: replaceFirst a b xs

/-- A message leaves on a flit, by the hash of its sending core (R441), and stays in the network's buffers until that flit is
acknowledged. -/
def State.departMessage (s : State) (m : Message) : State :=
  let gone : Message := { m with sent := true }
  { s with flight := replaceFirst m gone s.flight }.sendOver m.dstDev (field m.hdr.toNat 16 13) (some gone)

/-- The messages for other devices that may leave: those of one sender in order, each after the accesses that it follows
(R231, R364). -/
def State.departMessages (s : State) : List Message → List Nat → State
  | [], _ => s
  | m :: ms, held =>
    if m.dstDev = s.dev.toNat ∨ m.sent then s.departMessages ms held
    else if held.contains m.sender || m.after.any (fun r => (s.req r).live) then s.departMessages ms (held ++ [m.sender])
    else (s.departMessage m).departMessages ms held

/-- The messages of a core that stand in the buffers of the mesh and the causeway. The header's 13 bits name command processor p's
core as p (R53), so its messages count with those of core p, and none of its own: its `send` never waits (DESIGN CHOICE, assumption
138). -/
def State.unsent (s : State) (core : Nat) : Nat :=
  (s.flight.filter fun m => m.sender == s.dev.toNat * 2 ^ 16 + core && field m.hdr.toNat 6 2 != 2).length

/-- The network takes one more message of a core (R58). -/
def State.networkRoom (s : State) (core : Nat) : Bool := decide (s.unsent core < s.netRoom)

/-- What `send` and `mig` check of their word and of the network. -/
def State.sendGate (s : State) (w : Word) : Gate Unit :=
  if s.me.proofHold && s.leavesCrew s.cur w then .trap .illegal w
  else if s.networkRoom (coreOf s.cur) then .go () else .wait .wsync (.network (sendCore w))

/-- A message handed to the network; what leaves a sampled crew enters its digest (R231, R402). -/
def State.sendMessage (s : State) (kind : Nat) (w : Word) (payload : List Word) : State :=
  let x := s.me
  let s1 := if s.leavesCrew s.cur w then
      s.digestPayload x.crewId (sendDev w) (sendCore w) (sendClass w) (sendTag w) 1 payload
    else s
  match s.routeOf s.cur w with
  | none => s1
  | some (dev, core) =>
    s1.post { hdr := s.headerOf s.cur kind payload.length w, payload := payload, dstDev := dev, dstCore := core,
              launch := x.launch, crew := x.crewId, after := s.relaxedEarlier s.cur s.nextReq }

/-- The payload of a `send`: `len` doublewords of TCM through `m0`. -/
def State.payloadGate (s : State) (b : RegField) (len : Nat) (s1 : State) : Gate (List Word × State) :=
  if len = 0 then .go ([], s1)
  else
    (s1.readS s.cur b).next fun (off, s2) =>
      let g := s.segment s.cur 0
      if !g.admits .rd off.toNat (8 * len) || g.space != .tcm then .trap .seg off
      else if off.toNat % 8 ≠ 0 then .trap .align off
      else
        let a := g.base.toNat + off.toNat
        let core := coreOf s.cur
        if (List.range len).any fun i => (s.core core).tcmErrors.contains (a / 8 + i) then .trap .poison off
        else .go ((List.range len).map fun i => BitVec.ofNat 64 (s.tcmRead core (a + 8 * i) 8), s2)

/-- `send` (R231). -/
def execSend (a b : RegField) (s : State) : Out :=
  s.act [sreg a, sreg b] <| (s.readS s.cur a).next fun (w, s1) =>
    (require (sendLegal w) w).next fun _ => (s.payloadGate b (sendLen w) s1).next fun (p, s2) =>
      (s.sendGate w).next fun _ => .go (s2.sendMessage 0 w p)

/-- The payload of a `mig`: the offset of the unit after it, and `s1` to `s8` (R54, R233). -/
def State.migPayload (s : State) : List Word :=
  s.me.iss.npc.setWidth 64 :: (List.range 8).map fun i => s.me.s.get 0 (i + 1)

/-- `mig`: the message leaves, and the thread ends as `exit` ends it (R233). -/
def execMig (a : RegField) (s : State) : Out :=
  s.unit [sreg a] <| (s.readS s.cur a).next fun (w, s1) =>
    if s.me.twin then .trap .illegal w
    else if s.me.gangSize ≠ 1 then .trap .illegal 0
    else
      (require (sendLegal w && sendLen w == 0) w).next fun _ => s.leaveGate.next fun _ =>
        (match s.me.errors.find? fun e => decide (1 ≤ e ∧ e ≤ 8) with
          | some e => (.kill e : Gate Unit)
          | none => .go ()).next fun _ => (s.sendGate w).next fun _ => .go ((s1.sendMessage 1 w s.migPayload).leave)

/-- FLOW_CONTROL_RELEASE: the network takes the message of a thread that it held back. -/
def execFlowControlRelease (t : Nat) (s : State) : Out :=
  match (s.thread t).wait with
  | .retry (.network _) =>
    if s.networkRoom (coreOf t) then .next (s.modThread t fun x => { x with state := .ready, wait := .none }) else .next s
  | _ => .next s

/-! ### Claiming (R232) -/

/-- `recvp`, and a `recv` that finds an entry: the entry is claimed and its address written. -/
def State.receive (s : State) (d : RegField) (r : Option (Nat × State)) (other : State) : Gate State :=
  match r with
  | some (i, s1) => (s1.putS s.cur d (BitVec.ofNat 64 (entryAddress i)) 2).next fun s2 => .go (s2.complete s.cur)
  | none => .go other

def execRecv (d a : RegField) (s : State) : Out :=
  s.unit [sreg a, sreg d] <| (s.readS s.cur a).next fun (mask, s1) =>
    (require (mask != 0) 0).next fun _ =>
      s1.receive d (s1.claim s.cur mask.toNat) (s1.await s.cur .wsync (.recv d mask))

def execRecvp (d a : RegField) (s : State) : Out :=
  s.unit [sreg a, sreg d] <| (s.readS s.cur a).next fun (mask, s1) =>
    (require (mask != 0) 0).next fun _ =>
      match s1.claim s.cur mask.toNat with
      | some r => s1.receive d (some r) s1
      | none => (s1.putS s.cur d 0 2).next fun s2 => .go (s2.complete s.cur)

/-- A thread that waits in `recv` claims the entry that it waited for. -/
def State.settleRecv (s : State) (t : Nat) : State :=
  match (s.thread t).wait with
  | .recv d mask =>
    match s.claim t mask.toNat with
    | some (i, s1) =>
      let v := BitVec.ofNat 64 (entryAddress i)
      if s1.canPut t d v then s1.finishWait t d v else s
    | none => s
  | _ => s

/-! ### Delivery (R58, R231, R363 to R365) -/

/-- Two launches of one launch group (R362). -/
def State.sameGroup (s : State) (a b : Nat) : Bool :=
  a == b || ((s.launchOf a).join.isSome && (s.launchOf a).join == (s.launchOf b).join)

/-- A core holds a thread of the sender's launch, or of one joined to it, on this device or another (R363). -/
def State.accepts (s : State) (core : Nat) (m : Message) : Bool :=
  (List.range 16).any fun i =>
    let y := s.thread (core * 16 + i)
    y.live && (s.sameGroup y.launch m.launch || (m.join.isSome && (s.launchOf y.launch).join == m.join))

/-- The entry about a message that is dropped: the core, the crew concerned, the header (R378, R379). -/
def State.reportRing (s : State) (launch core : Nat) (crew : Option Nat) (hdr : Word) : State :=
  let who : Concerned := match crew with
    | none => { core := core }
    | some c => { core := core, crew := (s.crewOf c).num, stage := (s.crewOf c).stage, bay := (s.crewOf c).bay }
  s.report launch (s.errorEntry who 4 .ring 0 0 hdr.toNat)

/-- The entries of a cluster's cores in its overflow pool, and the pool's size in entries: 128 KiB unless firmware has
sized it (R365). -/
def State.overflowUsed (s : State) (cluster : Nat) : Nat :=
  (s.cores.filter fun (p : Nat × Core) => clusterOf p.1 == cluster).foldl (fun n p => n + p.2.overflow.length) 0
def State.overflowRoom (s : State) (core : Nat) : Bool :=
  decide ((s.core core).overflow.length < 1024 ∧
    s.overflowUsed (clusterOf core) < s.overflowSize.get (128 * 1024) (clusterOf core) / 128)

/-- The message that a core takes next: one whose stores are performed, with none of its sender's before it. -/
def State.nextMessage (s : State) (core : Nat) : List Message → List Nat → Option Message
  | [], _ => none
  | m :: ms, held =>
    if m.dstDev ≠ s.dev.toNat ∨ m.dstCore ≠ core then s.nextMessage core ms held
    else if held.contains m.sender || m.after.any (fun r => (s.req r).live) then s.nextMessage core ms (held ++ [m.sender])
    else some m

/-- MESSAGE_DELIVERY: at most one message in each tick, into a free entry of the ring, or the overflow pool, or dropped. -/
def execMessageDelivery (core : Nat) (s : State) : Out :=
  if (s.core core).lastDelivery = s.now + 1 then .next s
  else match s.nextMessage core s.flight [] with
    | none => .next s
    | some m =>
      let s1 := { s with flight := s.flight.erase m }
      let s2 := s1.modCore core fun c => { c with lastDelivery := s.now + 1 }
      if !s.accepts core m then .next (s2.reportRing m.launch core none m.hdr)
      else
        let entry := if (s.core core).overflow.isEmpty then s.freeEntry core else none
        match entry with
        | some i => .next ((s2.putEntry core i m.hdr m.payload .delivered).emit (.routineSpawn core))
        | none =>
          if s.overflowRoom core then .next (s2.modCore core fun c => { c with overflow := c.overflow ++ [m] })
          else .next s

/-- The lowest ring entry that has been free since before this tick. -/
def State.freedEntry (s : State) (core : Nat) : Option Nat :=
  (List.range 32).find? fun i =>
    let e := (s.core core).entries.get {} i
    e.state == .free && decide (e.freedAt ≤ s.now)

/-- OVERFLOW_MOVE: the oldest overflow entry moves into an entry of the ring in the tick after it became free (R58, R349). -/
def execOverflowMove (core : Nat) (s : State) : Out :=
  match (s.core core).overflow, s.freedEntry core with
  | m :: ms, some i =>
    let s1 := ((s.modCore core fun c => { c with overflow := ms }).putEntry core i m.hdr m.payload .delivered).emit
      (.routineSpawn core)
    .next (if ms.isEmpty then s1 else s1.emit (.overflowMove core))
  | _, _ => .next s

/-! ### Starts under the routine table (R30, R57, R346, R348, R349, R405) -/

def freeRing (c : Core) (now i : Nat) : Core := { c with entries := c.entries.put i { freedAt := now + 1 } }

/-- An entry freed; the oldest overflow entry moves in the next tick. -/
def State.freeRingEntry (s : State) (core i : Nat) : State :=
  (s.modCore core fun c => freeRing c s.now i).later (s.now + 1) (.overflowMove core)

/-- The delivered entries of unbound classes are dropped, counted and reported (R57). -/
def State.dropUnbound (s : State) (core : Nat) (by_ : Writer) : State :=
  (byOrder (s.core core).entries).foldl (fun s p =>
    if p.2.state = .delivered ∧ (s.routine core (field p.2.hdr.toNat 0 6)).1 = 0 then
      ((s.freeRingEntry core p.1).modCore core fun c => { c with drop := min 0xFFFF (c.drop + 1) }).reportRing by_.launch core
        (some by_.crewId) p.2.hdr
    else s) s

/-- Threads of a class that live on a core; one that is set aside has not exited (R57, R382). -/
def State.liveOfClass (s : State) (core cls : Nat) : Nat :=
  ((List.range 16).filter fun i =>
    let y := s.thread (core * 16 + i)
    y.live && y.msgClass == some cls).length +
  (s.asides.filter fun a => coreOf a.thread == core && a.saved.msgClass == some cls).length

/-- A class may start one more thread on a core. -/
def State.startable (s : State) (core cls : Nat) : Bool :=
  let (mode, limit, _) := s.routine core cls
  mode == 1 && decide (s.liveOfClass core cls < limit)

/-- The thread that a message starts (R30): at its routine with the entry's address, or, for `mig`, with what it carries. -/
def Writer.child (w : Writer) (slot cls : Nat) (pc : BitVec 57) (regs : Tab Word) : Thread :=
  { s := regs, seg := w.seg.put 0 tcmSeg, pc := pc, priv := w.priv, bay := w.bay, nbay := w.nbay, crew := w.crew,
    ncore := w.ncore, stage := w.stage, nstage := w.nstage, tid := tidAt w.tid slot, nthr := w.nthr,
    proofHold := w.proofHold, proofRun := w.proofRun, launch := w.launch, crewId := w.crewId, msgClass := some cls }

/-- A start from ring entry `i` in slot `k`. -/
def State.startFrom (s : State) (core i k : Nat) (w : Writer) : State :=
  let e := (s.core core).entries.get {} i
  let cls := field e.hdr.toNat 0 6
  let t := core * 16 + k
  let stores := w.stores.filter fun r => (s.req r).live
  let s1 := s.modCore core fun c => { c with lastStart := s.now + 1 }
  if field e.hdr.toNat 6 2 = 1 then
    let p := s.entryPayload core i
    let regs : Tab Word := (List.range 8).map fun j => (j + 1, p.getD (j + 1) 0)
    let pc := BitVec.ofNat 57 ((p.getD 0 0).toNat / 2 * 2)
    ((s1.startThread t (w.child k cls pc regs) stores).claimEntry t i).freeRingEntry core i
  else
    let pc := BitVec.ofNat 57 (s.routine core cls).2.2
    (s1.startThread t (w.child k cls pc [(1, BitVec.ofNat 64 (entryAddress i))]) stores).claimEntry t i

/-- A proof run's start: the stream of the slot's next thread begins with a message of a class in spawn mode (R405). -/
def State.startReplay (s : State) (core k : Nat) (w : Writer) : State :=
  let tid := tidAt w.tid k
  let crew := s.crewOf w.crewId
  let key := s.journalCrew w.crewId * 2 ^ 24 + tid.toNat * 2 ^ 16 + crew.starts.get 0 tid.toNat % 2 ^ 16
  match (s.journal.get [] key).head?, s.freeEntry core with
  | some (.message hdr payload), some i =>
    if s.startable core (field hdr.toNat 0 6) then
      ((s.putEntry core i hdr payload .delivered).startFrom core i k w).modThread (core * 16 + k) fun x =>
        { x with journalAt := 1 }
    else s
  | _, _ => s

/-- The journal of a sampled crew has room for the message that a start claims (R399, R401). -/
def State.spawnRoom (s : State) (core : Nat) (w : Writer) (e : RingEntry) : Bool :=
  w.proofRun != 1 || !s.outsideOf (coreOf w.thread - w.tid.toNat / 16) w.ncore.toNat e.hdr.toNat || s.journalRoom (spanOf core) 136

/-- ROUTINE_SPAWN: unbound entries are dropped; the oldest entry whose class may start a thread starts one, at most one in
each tick, in the lowest free slot of the table's crew. -/
def execRoutineSpawn (core : Nat) (s : State) : Out :=
  let c := s.core core
  match c.rtabBy with
  | none => .next s
  | some w =>
    if !c.rtabEn then .next s
    else
      let s1 := s.dropUnbound core w
      if c.lastStart = s.now + 1 then .next s1
      else match s1.freeSlotOf core w.crewId with
        | none => .next s1
        | some k =>
          match (byOrder (s1.core core).entries).find? fun p =>
              p.2.state == .delivered && s1.startable core (field p.2.hdr.toNat 0 6) && s1.spawnRoom core w p.2 with
          | some p => .next (s1.startFrom core p.1 k w)
          | none => if 2 ≤ w.proofRun.toNat then .next (s1.startReplay core k w) else .next s1

end Sys2Proof.Machine
end

