-- ==== Sys2Proof/Machine/NamedBarrier.lean ====
section
/-! DEFINITION. Named barriers and events (R52, R234 to R236). -/

namespace Sys2Proof.Machine

def State.namedBar (s : State) (core n : Nat) : NamedBarrier := (s.core core).bars.get {} n
def State.putBar (s : State) (core n : Nat) (b : NamedBarrier) : State :=
  s.modCore core fun c => { c with bars := c.bars.put n b }

/-- One more arrival; the last one toggles the phase (R235). -/
def NamedBarrier.arrive (b : NamedBarrier) : NamedBarrier :=
  if b.arr + 1 = b.exp then { b with arr := 0, phase := !b.phase } else { b with arr := b.arr + 1 }

/-- A barrier that has been initialised. -/
def State.barGate (s : State) (n : BitVec 8) : Gate Unit :=
  require ((s.namedBar (coreOf s.cur) n.toNat).exp != 0) (n.setWidth 64)

/-- `bar.init`. -/
def execBarInit (a : RegField) (n : BitVec 8) (s : State) : Out :=
  s.act [sreg a] <| (s.readS s.cur a).next fun (x, s1) =>
    let core := coreOf s.cur
    let b := s.namedBar core n.toNat
    (require (decide (1 ≤ x.toNat ∧ x.toNat ≤ 16)) x).next fun _ =>
      (require (b.arr == 0) (n.setWidth 64)).next fun _ =>
        .go (s1.putBar core n.toNat { b with exp := x.toNat, arr := 0 })

/-- The arrival of thread `t`, whose earlier stores are performed: `bar.arrive` writes the phase after `delay` ticks,
`bar.sync` waits for the toggle. -/
def State.barArrival (s : State) (t : Nat) (d : Option RegField) (n delay : Nat) : State :=
  let core := coreOf t
  let b := s.namedBar core n
  let s1 := s.putBar core n b.arrive
  match d with
  | some f => (s1.writeS t f (boolWord b.phase) delay).complete t
  | none => if (b.arrive).phase = b.phase then s1.await t .wsync (.barrier n b.phase) else s1.complete t

/-- The arrival of a unit that has waited for its thread's accesses: the thread of a `bar.arrive` stays out of the rotation until
its write, 2 ticks after the arrival (R235, R448). Those 2 ticks count as the wait they end, WMEM: the model's choice (log
entry 140). -/
def State.lateArrival (s : State) (t : Nat) (d : Option RegField) (n : Nat) : State :=
  match d with
  | none => s.barArrival t none n 2
  | some f =>
    let b := s.namedBar (coreOf t) n
    ((s.putBar (coreOf t) n b.arrive).writeS t f (boolWord b.phase) 2).await t .wmem (.timed (s.now + 2))

/-- `bar.arrive` and `bar.sync`: the thread first waits in WMEM for its earlier relaxed stores and atomics (R235). -/
def State.unitBar (s : State) (d : Option RegField) (n : BitVec 8) : Out :=
  s.unit (d.toList.map sreg) <| (s.barGate n).next fun _ =>
    (match d with
      | some f => s.destS s.cur f 0
      | none => (.go () : Gate Unit)).next fun _ =>
    match s.relaxedEarlier s.cur s.nextReq with
    | [] => .go (s.barArrival s.cur d n.toNat 2)
    | rs => .go (s.await s.cur .wmem (.barHold d n.toNat rs))

def execBarArrive (d : RegField) (n : BitVec 8) (s : State) : Out := s.unitBar (some d) n
def execBarSync (n : BitVec 8) (s : State) : Out := s.unitBar none n

/-- `bar.wait`. -/
def execBarWait (a : RegField) (n : BitVec 8) (s : State) : Out :=
  s.unit [sreg a] <| (s.readS s.cur a).next fun (x, s1) =>
    (s.barGate n).next fun _ =>
      let phase := (s.namedBar (coreOf s.cur) n.toNat).phase
      if phase ≠ bitAt x.toNat 0 then .go (s1.complete s.cur)
      else .go (s1.await s.cur .wsync (.barrier n.toNat phase))

/-- What a waiting barrier unit does once its condition holds. -/
def State.settleBar (s : State) (t : Nat) : State :=
  match (s.thread t).wait with
  | .barHold d n rs => if rs.any (fun r => (s.req r).live) then s else s.lateArrival t d n
  | .barrier n phase => if (s.namedBar (coreOf t) n).phase ≠ phase then s.complete t else s
  | _ => s

/-! ### Events (R236) -/

/-- `wfe`. -/
def execWfe (s : State) : Out :=
  s.unit [] (.go (if s.me.evt then (s.modThread s.cur fun x => { x with evt := false }).complete s.cur
                  else s.await s.cur .wsync .wfe))

/-- `sev`: a release; its thread continues at once, and the event reaches each masked slot in the next tick, or once the thread's
earlier accesses are performed (R236, R291). -/
def execSev (a : RegField) (s : State) : Out :=
  s.act [sreg a] <| (s.readS s.cur a).next fun (x, s1) =>
    (require (noneIn x 29 35) x).next fun _ =>
      let rs := s.relaxedEarlier s.cur s.nextReq
      .go ((List.range 16).foldl (fun s i =>
        if bitAt x.toNat i then s.laterAfter rs (s.now + 1) (.eventArrival (field x.toNat 16 13 * 16 + i) s.me.launch) else s) s1)

/-- EVENT_ARRIVAL: a thread of the launch in the slot receives the event; one that waits for it consumes it. -/
def execEventArrival (t launch : Nat) (s : State) : Out :=
  let x := s.thread t
  if !x.live || x.launch != launch then .next s
  else if x.wait = .wfe ∧ x.state = .wsync then .next (s.complete t)
  else .next (s.setThread t { x with evt := true })

end Sys2Proof.Machine
end

