-- ==== Sys2Proof/Machine/System.lean ====
section
/-! DEFINITION. System instructions (R31 to R39, R237 to R243): control and status registers, software traps and the return
from an exception, segments, translations, scrubbing. -/

namespace Sys2Proof.Machine

/-! ### The CSR map (R31, R32) -/

/-- What a level grants. -/
inductive CsrRight where
  | none | r | rw
deriving DecidableEq, Repr

/-- A CSR's rights, unprivileged and privileged; none where the map does not list the number. -/
def csrRights (n : Nat) : Option (CsrRight × CsrRight) :=
  if n ≤ 4 ∨ (8 ≤ n ∧ n ≤ 0xC) ∨ n = 0x18 then some (.rw, .rw)
  else if (0x10 ≤ n ∧ n ≤ 0x14) ∨ n = 0x19 ∨ n = 0x30 then some (.r, .r)
  else if (0x20 ≤ n ∧ n ≤ 0x2F) ∨ (0x800 ≤ n ∧ n ≤ 0x809) ∨ (0x810 ≤ n ∧ n ≤ 0x817) then some (.r, .rw)
  else if n = 0x31 then some (.none, .r)
  else none

/-- The check of R31, for a read or a write. -/
def csrCheck (n : Nat) (priv write : Bool) : Option Cause :=
  match csrRights n with
  | none => some .illegal
  | some (u, p) =>
    let here := if priv then p else u
    if here = .none then some .priv
    else if write && here != .rw then (if u = .rw ∨ p = .rw then some .priv else some .illegal)
    else none

/-! ### Reading (R33 to R39) -/

/-- `mbox` (R37). -/
def Core.mbox (c : Core) : Nat :=
  let used := (c.entries.filter fun (p : Nat × RingEntry) => p.2.state != .free).length
  let waiting := (c.entries.filter fun (p : Nat × RingEntry) => p.2.state == .delivered).length
  used + waiting * 2 ^ 6 + c.overflow.length * 2 ^ 12 + c.drop * 2 ^ 24

/-- The value that thread `t` reads from a CSR of the map. -/
def State.csrValue (s : State) (t n : Nat) : Nat :=
  let x := s.thread t
  let core := coreOf t
  let c := s.core core
  if n = 0 then x.tstat (slotOf t)
  else if n = 1 then x.fmode.toNat
  else if n = 2 then x.fflags.toNat
  else if n = 3 then x.repc.bits
  else if n = 4 then x.evt.toNat
  else if n = 8 then x.tcause.toNat
  else if n = 9 then x.taddr.toNat
  else if n = 0xA then x.tepc.toNat
  else if n = 0xB then x.tvec.toNat
  else if n = 0xC then x.tscratch.toNat
  else if n = 0x10 then core % 2 ^ 13 + ((s.siteOf core).getD 0) * 2 ^ 16 + s.dev.toNat * 2 ^ 24
  else if n = 0x11 then x.bay.toNat + x.nbay.toNat * 2 ^ 4
  else if n = 0x12 then x.crew.toNat + x.ncore.toNat * 2 ^ 32
  else if n = 0x13 then x.stage.toNat + x.nstage.toNat * 2 ^ 4
  else if n = 0x14 then x.tid.toNat + x.nthr.toNat * 2 ^ 8
  else if n = 0x18 then c.rtabEn.toNat + c.rtabBase.toNat * 2 ^ 9
  else if n = 0x19 then c.mbox
  else if 0x20 ≤ n ∧ n ≤ 0x27 then (x.seg.get {} (n - 0x20)).base.toNat
  else if 0x28 ≤ n ∧ n ≤ 0x2F then (x.seg.get {} (n - 0x28)).lim
  else if n = 0x30 then ((s.siteKey core).map fun k => (s.site k).strain).getD 0 + s.strainLimit * 2 ^ 16
  else if n = 0x31 then x.proofRun.toNat + x.proofHold.toNat * 2 ^ 2
  else if 0x800 ≤ n ∧ n ≤ 0x809 then (x.counters.get 0 (n - 0x800)).toNat
  else if 0x810 ≤ n ∧ n ≤ 0x817 then (c.counters.get 0 (n - 0x800)).toNat
  else 0

/-! ### Writing -/

/-- What a thread that writes `rtab` leaves for those started under the table: they wait for its stores and atomics at the core's
TCM (R30, R348). -/
def State.writer (s : State) (t : Nat) : Writer :=
  let x := s.thread t
  { thread := t, seg := x.seg, launch := x.launch, crewId := x.crewId, bay := x.bay, nbay := x.nbay, crew := x.crew,
    ncore := x.ncore, stage := x.stage, nstage := x.nstage, nthr := x.nthr, priv := x.priv, proofHold := x.proofHold,
    proofRun := x.proofRun, tid := x.tid, stores := (s.relaxedEarlier t s.nextReq).filter fun r => (s.req r).space == .tcm && (s.req r).kind.writes }

/-- The writable fields of a thread CSR; a 1 written to `tstat.split` clears it, unless the write is that of `csrc`. -/
def Thread.writeCsr (x : Thread) (n v : Nat) (clears : Bool) : Thread :=
  if n = 0 then { x with cseg := BitVec.ofNat 3 (field v 16 3), split := x.split && !(clears && bitAt v 14) }
  else if n = 1 then { x with fmode := BitVec.ofNat 2 v }
  else if n = 2 then { x with fflags := BitVec.ofNat 5 v }
  else if n = 3 then { x with repc := { act := bitAt v 12, done := BitVec.ofNat 6 (field v 6 6), left := BitVec.ofNat 6 v } }
  else if n = 4 then { x with evt := bitAt v 0 }
  else if n = 8 then { x with tcause := BitVec.ofNat 8 v }
  else if n = 9 then { x with taddr := BitVec.ofNat 64 v }
  else if n = 0xA then { x with tepc := BitVec.ofNat 57 (v / 2 * 2) }
  else if n = 0xB then { x with tvec := BitVec.ofNat 57 (v / 2 * 2) }
  else if n = 0xC then { x with tscratch := BitVec.ofNat 64 v }
  else if 0x20 ≤ n ∧ n ≤ 0x27 then
    let g : Seg := { (x.seg.get {} (n - 0x20)) with base := BitVec.ofNat 57 v }
    { x with seg := x.seg.put (n - 0x20) g }
  else if 0x28 ≤ n ∧ n ≤ 0x2F then
    let g : Seg := { base := (x.seg.get {} (n - 0x28)).base, length := BitVec.ofNat 57 v, rd := bitAt v 59,
                     w := bitAt v 60, x := bitAt v 61, space := spaceOf (field v 62 2) }
    { x with seg := x.seg.put (n - 0x28) g }
  else if 0x800 ≤ n ∧ n ≤ 0x809 then { x with counters := x.counters.put (n - 0x800) (BitVec.ofNat 64 v) }
  else x

/-- A CSR written by thread `t`. -/
def State.writeCsr (s : State) (t n v : Nat) (clears : Bool) : State :=
  let core := coreOf t
  if n = 0x18 then
    (s.modCore core fun c =>
      { c with rtabBase := BitVec.ofNat 7 (field v 9 7), rtabEn := bitAt v 0, rtabBy := some (s.writer t) }).emit
        (.routineSpawn core)
  else if 0x810 ≤ n ∧ n ≤ 0x817 then
    s.modCore core fun c => { c with counters := c.counters.put (n - 0x800) (BitVec.ofNat 64 v) }
  else s.modThread t fun x => x.writeCsr n v clears

/-- The check of R31 as a gate; `taddr` receives the halfwords of the unit (R84). -/
def State.csrGate (s : State) (n : BitVec 12) (write : Bool) : Gate Unit :=
  match csrCheck n.toNat s.me.priv write with
  | some c => .trap c s.me.iss.raw
  | none => .go ()

/-- A unit whose privilege, or whose CSR, is checked before its fields (R85). -/
def State.unitAfter (s : State) (g0 : Gate Unit) (rs : List Reg) (g : Gate State) : Out :=
  s.finish s.cur (g0.next fun _ => (s.guardRegs s.cur rs).next fun _ => g)

/-- `csrr`. -/
def execCsrr (d : RegField) (csr : BitVec 12) (s : State) : Out :=
  s.unitAfter (s.csrGate csr false) [sreg d] <|
    (s.putS s.cur d (BitVec.ofNat 64 (s.csrValue s.cur csr.toNat)) 2).next fun s1 => .go (s1.complete s.cur)

/-- `csrw`, `csrs` and `csrc` (R238). -/
def State.unitCsr (s : State) (x : RegField) (csr : BitVec 12) (f : Nat → Nat → Nat) (clears : Bool) : Out :=
  s.unitAfter (s.csrGate csr true) [sreg x] <| (s.readS s.cur x).next fun (v, s1) =>
    let old := s1.csrValue s.cur csr.toNat
    let old := if csr = 0 ∧ clears then old / 2 ^ 15 * 2 ^ 15 + old % 2 ^ 14 else old
    .go (((s1.writeCsr s.cur csr.toNat (f old v.toNat) clears).note s.cur (csrBytes csr.toNat (f old v.toNat))).complete s.cur)

def execCsrw (x : RegField) (csr : BitVec 12) (s : State) : Out := s.unitCsr x csr (fun _ v => v) true
def execCsrs (x : RegField) (csr : BitVec 12) (s : State) : Out := s.unitCsr x csr (fun o v => o ||| v) true
def execCsrc (x : RegField) (csr : BitVec 12) (s : State) : Out :=
  s.unitCsr x csr (fun o v => o &&& (2 ^ 64 - 1 - v)) false

/-! ### Traps and returns (R239, R240) -/

/-- A software trap: the unit completes, and the fault stands at the unit after it; a twin pair compares first (R245). -/
def State.softTrap (s : State) (c : Cause) (addr : Word) : State :=
  let t := s.cur
  let x := s.me
  if x.twin && x.pair.units != 0 then s.compareTwins t
  else
    let past (y : Thread) : Thread := { y with pc := x.iss.npc }
    let s1 := s.modThread t past
    let s2 := if x.twin then s1.modThread (partner t) past else s1
    (s2.trapOf t c addr x.pc).modThread t fun y => { y with iss := { y.iss with ended := if x.twin then .both else .issued } }

def execTrap (k : BitVec 12) (s : State) : Out := s.unit [] (.go (s.softTrap .syscall (k.setWidth 64)))
def execBrk (s : State) : Out := s.unit [] (.go (s.softTrap .brk 0))

/-- `eret` (R240). -/
def execEret (s : State) : Out :=
  s.unit [] (if s.me.intrap then .go ((s.modThread s.cur Thread.returned).mirror s.cur)
             else .trap .illegal s.me.iss.raw)

/-! ### Segments (R241) -/

def Seg.narrow (g : Seg) (off len rights : Word) : Seg :=
  { g with base := g.base + off.setWidth 57, length := len.setWidth 57, x := g.x && bitAt rights.toNat 2,
           w := g.w && bitAt rights.toNat 1, rd := g.rd && bitAt rights.toNat 0 }

/-- `segw`. -/
def execSegw (a b c : RegField) (seg : SegField) (s : State) : Out :=
  s.act [sreg a, sreg b, sreg c] <| (s.read2 a b).next fun (off, len, s1) => (s1.readS s.cur c).next fun (r, s2) =>
    let g := s.segment s.cur seg
    (require (noneIn r 3 61) r).next fun _ => (require (seg != s.me.cseg) (seg.setWidth 64)).next fun _ =>
      if g.length.toNat < off.toNat + len.toNat then .trap .seg off
      else .go (s2.modThread s.cur fun x => { x with seg := x.seg.put seg.toNat (g.narrow off len r) })

/-! ### Translations (R242) -/

/-- A privileged instruction (R85). -/
def State.privGate (s : State) : Gate Unit := if s.me.priv then .go () else .trap .priv s.me.iss.raw

/-- Translations removed from every TLB, and from blocks of windows that hold no word; what is unmapped by then is forgotten. -/
def State.dropTlb (s : State) (gone : TlbEntry → Bool) : State :=
  { s.dropUnmapped with
           l1 := s.l1.map fun (p : Nat × List TlbEntry) => (p.1, p.2.filter fun e => !gone e),
           lltlb := s.lltlb.map fun (p : Nat × List TlbEntry) => (p.1, p.2.filter fun e => !gone e),
           windows := s.windows.map fun (p : Nat × Window) =>
             let blocks := p.2.blocks.map fun (q : Nat × WinBlock) =>
               (q.1, if q.2.valid = 0 ∧ q.2.state = .u then { q.2 with mapped := false } else q.2)
             (p.1, ({ p.2 with blocks := blocks } : Window)) }

/-- Ticks until every TLB has answered a `tlbinv`: the reply time of the cluster port (DESIGN CHOICE, assumption 100). -/
def tlbTrip : Nat := 24

/-- `tlbinv`. -/
def execTlbinv (a b : RegField) (s : State) : Out :=
  s.unitAfter s.privGate [sreg a, sreg b] <| (s.read2 a b).next fun (dva, mode, s1) =>
    (require (noneIn mode 2 62 && mode != 3) mode).next fun _ => s.releaseGate.next fun _ =>
      let asid := s.asidOf s.me.launch
      .go ((s1.dropTlb fun e =>
        if mode = 0 then e.covers asid (dva.toNat % 2 ^ 57) else if mode = 1 then e.asid == asid else true).await s.cur .wmem
          (.timed (s.now + tlbTrip)))

/-! ### Scrubbing (R243, R384) -/

/-- The granules of a range that hold an error of a list. -/
def errorsIn (errs : List Nat) (lo n : Nat) : List Nat := errs.filter fun g => decide (lo ≤ g ∧ g < lo + n)

/-- A corrected error counted in its span's health record, saturating (R380, R384). -/
def State.countSpan (s : State) (core : Nat) : State :=
  let h := s.health.get {} (spanOf core)
  { s with health := s.health.put (spanOf core) { h with corr := min (2 ^ 32 - 1) (h.corr + 1) } }

/-- A corrected error counted in a launch's error record (R377). -/
def State.countLaunch (s : State) (launch : Nat) : State :=
  let l := s.launchOf launch
  match s.walk l.asid (l.errDva.toNat + 16) with
  | none => s
  | some leaf => s.putAt l.asid (l.errDva.toNat + 16) (toBytesLE (s.memRead (leaf.phys (l.errDva.toNat + 16)) 8 + 1) 8)

/-- An error that the check bits have corrected: its span counts it, and, for a register, the launch and the site's strain
(R377, R384, R408). -/
def State.countCorrection (s : State) (x : Nat × Bool) : State :=
  let s1 := s.countSpan x.1
  if x.2 then
    (match (s.core x.1).launch with
      | some l => s1.countLaunch l
      | none => s1).strainCore x.1 1
  else s1
def State.countCorrections (s : State) : State :=
  s.corrections.foldl State.countCorrection { s with corrections := [] }

/-- One doubleword scrubbed: a corrected error ends and is counted, an uncorrectable one is reported. -/
def State.scrubOne (s : State) (t : Nat) (tcm : Bool) (base a : Nat) : State :=
  let core := coreOf t
  let g := if tcm then a / 8 else clusterOf core * 2 ^ 18 + a / 8
  let soft := if tcm then (s.core core).tcmSoft else s.deckSoft
  let hard := if tcm then (s.core core).tcmErrors else s.deckErrors
  let s1 := if soft.contains g then
      (if tcm then s.modCore core fun c => { c with tcmSoft := soft.filter (· != g) }
       else { s with deckSoft := soft.filter (· != g) }).countSpan core |>.countLaunch (s.thread t).launch
    else s
  if hard.contains g then (s1.countFound (spanOf core)).reportThread t 7 .poison (a - base) (s.thread t).pc.toNat 0 else s1

/-- A scrub's next doubleword: the bank of a deck one is asked for when the one before has been served (R243, R263). -/
def State.scrubNext (s : State) (t : Nat) : State :=
  match (s.thread t).wait with
  | .scrub tcm base a left since =>
    let s1 := s.scrubOne t tcm base a
    if left ≤ 1 then s1.complete t
    else
      let s2 := s1.modThread t fun x => { x with wait := .scrub tcm base (a + 8) (left - 1) since }
      if tcm then s2
      else s2.ask { cluster := clusterOf (coreOf t), number := requester t, since := s.now + 1, banks := banksOf (a + 8) 8,
                    asker := .unit t }
  | _ => s

/-- The banks have served the unit that a thread waits for (R207, R263). -/
def State.serveUnit (s : State) (t : Nat) : State :=
  match (s.thread t).wait with
  | .tbInit a n => s.initBarrier t a n
  | .tbArrive d a _ => s.arriveOrWait t a d
  | .tbWait a off token => s.passOrWait t a off token
  | .tbTest d a off token => s.testBarrier t a d off token
  | .banks => s.complete t
  | .scrub _ _ _ _ _ => s.scrubNext t
  | _ => s

/-- A scrub of TCM treats one doubleword a tick. -/
def State.settleScrub (s : State) (t : Nat) : State :=
  match (s.thread t).wait with
  | .scrub true _ _ _ since => if since ≤ s.now then s.scrubNext t else s
  | _ => s

/-- `scrub`: at least one tick for each doubleword, and the reply of one access. -/
def execScrub (a b : RegField) (seg : SegField) (s : State) : Out :=
  s.unitAfter s.privGate [sreg a, sreg b] <| (s.read2 a b).next fun (off, len, s1) =>
    let g := s.segment s.cur seg
    let n := len.toNat
    (require (decide (1 ≤ n ∧ n ≤ 0x200000)) len).next fun _ =>
      if g.space = .global ∨ g.space = .peer ∨ !g.admits .rd off.toNat n ∨ !g.admits .w off.toNat n then .trap .seg off
      else if off.toNat % 256 ≠ 0 then .trap .align off
      else if n % 256 ≠ 0 then .trap .align len
      else
        let a := g.base.toNat + off.toNat
        let tcm := g.space == .tcm
        let since := s.now + (if tcm then tcmTrip else deckTrip) + 1
        let s2 := s1.await s.cur .wmem (.scrub tcm g.base.toNat a (n / 8) since)
        .go (if tcm then s2
          else s2.ask { cluster := clusterOf (coreOf s.cur), number := requester s.cur, since := since, banks := banksOf a 8,
                        asker := .unit s.cur })

/-- The end of a wait for a tick. -/
def State.settleTimed (s : State) (t : Nat) : State :=
  match (s.thread t).wait with
  | .timed due => if due ≤ s.now then s.complete t else s
  | _ => s

end Sys2Proof.Machine
end

