-- ==== Sys2Proof/Machine/Twin.lean ====
section
/-! DEFINITION. Twin execution (R244, R245, R260, R411 to R413): pairing, comparison, rollback. -/

namespace Sys2Proof.Machine

/-- `twin.on`: the rendezvous of `fuse` with G = 2 (R244). -/
def execTwinOn (d : RegField) (s : State) : Out :=
  s.unit [sreg d] <| (s.meetingGate .twin).next fun _ => (s.destS s.cur d 0).next fun _ =>
    .go ((s.await s.cur .wsync (.twinOn d)).settleMeeting s.cur)

/-- Twin mode ends in a thread. -/
def Thread.untwin (x : Thread) : Thread := { x with twin := false, gang := 0, leader := false, pair := {} }

/-- `twin.off`: a check point; afterwards both members hold equal registers and go on independently (R245). -/
def execTwinOff (s : State) : Out :=
  s.unit [] (.go (if s.me.twin then
      ((s.complete s.cur).modThread s.cur Thread.untwin).modThread (partner s.cur) Thread.untwin
    else s.complete s.cur))

/-- The leader of a pair. -/
def State.leaderOf (s : State) (t : Nat) : Nat := if (s.thread t).leader then t else partner t

/-- The context that a rollback restores; within a `rep` unit it resumes at the iteration reached (R144). -/
def Thread.agreedContext (x : Thread) : Context :=
  match x.repAt with
  | some (i, n) => { x.context with repc := { act := true, done := BitVec.ofNat 6 i, left := BitVec.ofNat 6 n } }
  | none => x.context

/-- Agreement: this point is the agreed point, both fingerprints restart, and the held stores may be performed (R412). -/
def State.agree (s : State) (l : Nat) : State :=
  let c := (s.thread l).agreedContext
  let held := (s.thread l).pair.held
  let p : TwinPair := { agreed := c, approved := true }
  (s.modThread l fun x => { x with pair := { p with held := held, toDo := held.length } }).modThread (partner l) fun x =>
    { x with pair := p }

/-- A member returned to the rollback copy, its held stores discarded; errors of its registers end with their contents. -/
def Thread.rolledBack (x : Thread) (c : Context) : Thread :=
  { (x.withContext c).openOwn with state := .ready, wait := .none, repAt := none, errors := [],
                                   pair := { agreed := c, disagreed := true } }

/-- Disagreement: the first since the agreed point rolls both members back; a second one ends twin mode, each member traps
TWIN, and each site is charged (R408, R412, R413). -/
def State.disagree (s : State) (l : Nat) : State :=
  let f := partner l
  let c := (s.thread l).pair.agreed
  let again := (s.thread l).pair.disagreed
  let s1 := (s.modThread l fun x => x.rolledBack c).modThread f fun x => x.rolledBack c
  if again then
    let s2 := (s1.modThread l Thread.untwin).modThread f Thread.untwin
    (((s2.trapOne l .twin 0).trapOne f .twin 0).strainCore (coreOf l) 128).strainCore (coreOf f) 128
  else s1

/-- The held store that comes next is performed by the leader. -/
def State.performHeld (s : State) (l : Nat) : State :=
  let x := s.thread l
  match x.pair.held with
  | [] => s.modThread l fun y => { y with pair := { y.pair with toDo := 0 } }
  | h :: hs =>
    let g := x.seg.get {} h.seg.toNat
    let a := g.base.toNat + h.off.toNat
    let q : Req :=
      { live := true, thread := l, cluster := clusterOf (coreOf l), launch := x.launch, crewId := x.crewId, kind := .store,
        seg := h.seg, space := g.space, off := h.off, dva := BitVec.ofNat 57 a, phys := a, n := h.data.length,
        data := BitVec.ofNat 128 (ofBytesLE h.data), pc := x.pc, hold := x.proofHold, priv := x.priv, park := x.park }
    let r := s.nextReq
    let s1 := s.modThread l fun y => { y with pair := { y.pair with held := hs, toDo := y.pair.toDo - 1 } }
    (({ s1 with reqs := s1.reqs.put r q, nextReq := r + 1 }).attemptReq r).settle r

/-- A member waits in a comparison. -/
def Thread.comparing (x : Thread) : Bool := x.twin && x.wait == .retry .twinCompare

/-- TWIN_COMPARE: the comparison, then the held stores one after another, then the pair goes on. -/
def execTwinCompare (t : Nat) (s : State) : Out :=
  let l := s.leaderOf t
  let f := partner l
  let x := s.thread l
  let y := s.thread f
  if !x.comparing || !y.comparing then .next s
  else if 0 < x.pair.toDo then .next (s.performHeld l)
  else if x.pair.approved && x.pair.units == 0 then
    let go (z : Thread) : Thread := { z with state := .ready, wait := .none, pair := { z.pair with approved := false } }
    .next ((s.modThread l go).modThread f go)
  else if x.pair.print = y.pair.print ∧ x.pair.diverged = false ∧ y.pair.diverged = false then
    .next ((s.agree l).emit (.twinCompare l))
  else .next (s.disagree l)

end Sys2Proof.Machine
end

