-- ==== Sys2Proof/Machine/PageFault.lean ====
section
/-! DEFINITION. Parked page faults (R120, R381, R382): the answer that rejects an entry, the wake of a parked thread, and
threads set aside while they wait. -/

namespace Sys2Proof.Machine

/-! ### Rejection (R381) -/

/-- The write-back of a window's block that a rejected walk stops fails there (R217). -/
def State.rejectFlush (s : State) (key blk : Nat) : State :=
  match (s.window key).flushes with
  | [] => s
  | f :: rest =>
    match f.todo with
    | (b, m) :: todo =>
      if b ≠ blk then s
      else
        let g : Flush := { (f.failed .page (s.firstDva key blk m)) with todo := todo }
        ((s.modWinBlock key blk fun x => x.cleaned m).modWindow key fun w =>
          { w with flushes := g :: rest }).flushStep key
    | [] => s

/-- What a rejected entry held: a parked thread is told by its wake message, a relaxed access is refused, an engine's access
fails. -/
def State.rejectJoined (s : State) : Joined → State
  | .req r =>
    let q := s.req r
    if q.relaxed then s.refuse r .page q.dva.toNat else s.emit (.pageFaultWake q.thread q.park.toNat true)
  | .fetch t park => s.emit (.pageFaultWake t park.toNat true)
  | .copy c dva =>
    if (s.copies.find c).isNone then s else (s.modCopy c fun k => { k with heldOn := none }).failCopy c .page dva
  | .drain core dva =>
    match (s.core core).mxRun with
    | some p => s.failMx core p.1 .page dva
    | none => s
  | .winFetch cluster win blk => s.rejectFlush (8 * cluster + win) blk

/-- FAULT_REJECT: an entry that awaits an answer ends, and everything that joined it fails. -/
def execFaultReject (span entry : Nat) (s : State) : Out :=
  match s.misses.find (span * 4096 + entry) with
  | none => .next s
  | some m =>
    if !m.answering || m.serving then .next s
    else .next (m.joined.foldl State.rejectJoined { s with misses := s.misses.drop (span * 4096 + entry) })

/-! ### Wakes (R120, R381) -/

/-- A parked thread whose page is mapped: it makes its access again from check 8 at its next turn (R251). -/
def State.wakeServed (s : State) (t : Nat) : State :=
  let go (s : State) : State := s.modThread t fun x => { x with state := .ready, wait := .none }
  match (s.thread t).wait with
  | .reply _ => s.readyFor t
  | .retry (.streamUnit v) =>
    match s.streamReq t v with
    | some r =>
      ((s.modReq r fun q => { q with status := .blocked }).modThread t fun x => { x with state := .wmem }).emit
        (.streamUnitArrival t v)
    | none => go s
  | _ => go s

/-- A parked thread whose fault is rejected traps PAGE at its unit, with the DVA; the refusal stands in the record (R376). -/
def State.wakeRejected (s : State) (t : Nat) : State :=
  let refused (s : State) (r : Nat) : State :=
    (s.modThread t fun x => { x with state := .wmem }).refuse r .page (s.req r).dva.toNat
  let trapped (dva : Nat) : State :=
    (s.reportThread t 7 .page dva (s.thread t).pc.toNat 0).trap t .page (BitVec.ofNat 64 dva)
  match (s.thread t).wait with
  | .reply r => refused s r
  | .retry (.streamUnit v) =>
    match s.streamReq t v with
    | some r => refused s r
    | none => s
  | .retry (.windowFetch cluster win blk) => trapped ((s.window (8 * cluster + win)).gbase.toNat + 256 * blk)
  | .fetch dva => trapped dva
  | _ => s

/-- A set-aside thread's wake has come (R382). -/
def Aside.wake (a : Aside) (t park : Nat) (reject : Bool) : Aside :=
  if a.thread = t ∧ a.saved.park.toNat = park then { a with woken := true, rejected := reject } else a

/-- PAGE_FAULT_WAKE: a wake whose park number is not the parked thread's is discarded. -/
def execPageFaultWake (t park : Nat) (reject : Bool) (s : State) : Out :=
  let x := s.thread t
  if s.asides.any fun a => a.thread == t && a.saved.park.toNat == park then
    .next { s with asides := s.asides.map fun a => a.wake t park reject }
  else if x.state ≠ .pfault ∨ x.park.toNat ≠ park then .next s
  else .next (if reject then s.wakeRejected t else s.wakeServed t)

/-! ### The save region (R388) -/

/-- Room for `n` more bytes in a span's save region: 512 MiB unless the command processor has sized it. -/
def State.saveRoom (s : State) (span n : Nat) : Bool :=
  decide (s.saveUsed.get 0 span + n ≤ s.saveSize.get (512 * 2 ^ 20) span)
def State.saveTake (s : State) (span n : Nat) : State := { s with saveUsed := s.saveUsed.put span (s.saveUsed.get 0 span + n) }
def State.saveGive (s : State) (span n : Nat) : State := { s with saveUsed := s.saveUsed.put span (s.saveUsed.get 0 span - n) }

/-! ### Setting aside (R382) -/

/-- A delivered entry waits on a core that R57 would start if a slot were free. -/
def State.startWaits (s : State) (core crew : Nat) : Bool :=
  let c := s.core core
  c.rtabEn && (match c.rtabBy with
    | some w => w.crewId == crew
    | none => false) && (s.freeSlotOf core crew).isNone &&
      c.entries.any fun (p : Nat × RingEntry) => p.2.state == .delivered && s.startable core (field p.2.hdr.toNat 0 6)

/-- The conditions of R382. The model sets no thread aside that has relaxed accesses outstanding or belongs to a gang. -/
def State.mayAside (s : State) (t : Nat) : Bool :=
  let x := s.thread t
  x.state == .pfault && (s.launchOf x.launch).lend && decide (x.faultSince + 4096 ≤ s.now) && x.rlxn == 0 &&
    x.gangSize == 1 && !x.twin && s.startWaits (coreOf t) x.crewId && !(s.asides.any fun a => a.thread == t) &&
    s.saveRoom (spanOf (coreOf t)) 1344

/-- The entries that a slot has claimed carry another mark while the thread that claimed them is set aside. -/
def remark (from_ to_ : Nat) (c : Core) : Core :=
  { c with entries := c.entries.map fun (p : Nat × RingEntry) =>
      if p.2.state = .claimed from_ then (p.1, { p.2 with state := .claimed to_ }) else p }

/-- A thread as its part is saved: the units that a stream has buffered are not (R390). -/
def Thread.withoutBuffers (x : Thread) : Thread :=
  { x with bindings := x.bindings.map fun b => { b with fetched := [], ahead := b.next } }

/-- SET_ASIDE: the thread's part is written to a set-aside record (R390), and its slot is free for the stand-in. -/
def execSetAside (t : Nat) (s : State) : Out :=
  if !s.mayAside t then .next s
  else
    let x := s.thread t
    let core := coreOf t
    let place := s.savePlace (spanOf core) 1344
    let a : Aside := { thread := t, saved := x.withoutBuffers, place := place }
    let s1 := { (s.memWrite (s.saveAddress (spanOf core) place) (x.withoutBuffers.image (slotOf t))) with asides := s.asides ++ [a] }
    let s2 := s1.setThread t { counters := x.counters, park := x.park, given := x.given }
    .next (((s2.modCore core (remark (slotOf t) (slotOf t + 16))).saveTake (spanOf core) 1344).emit (.routineSpawn core))

/-- SET_ASIDE_RETURN: the thread stands in its slot again, and makes its access again or traps PAGE. -/
def execSetAsideReturn (t : Nat) (s : State) : Out :=
  let y := s.thread t
  match s.asides.find? fun a => a.thread == t && a.woken with
  | none => .next s
  | some a =>
    if y.state ≠ .free then .next s
    else
      let core := coreOf t
      let x : Thread := { a.saved with counters := y.counters, park := y.park, given := y.given }
      let s1 := { s with asides := s.asides.filter fun b => b.thread != t }
      let s2 := ((s1.setThread t x).modCore core (remark (slotOf t + 16) (slotOf t))).saveGive (spanOf core) 1344
      .next (if a.rejected then s2.wakeRejected t else s2.wakeServed t)

end Sys2Proof.Machine
end

