-- ==== Sys2Proof/Machine/Placement.lean ====
section
/-! DEFINITION. Placement (R352 to R358, R362): which crew a distributor places next, where it fits, how its cores are
prepared and its threads started, or restored from a save record (R393). -/

namespace Sys2Proof.Machine

/-! ### Cores, slots and deck (R352 to R354) -/

/-- A logical core exists (R410). -/
def State.coreExists (s : State) (core : Nat) : Bool := (s.siteOf core).isSome
/-- A core holds no thread. -/
def State.coreEmpty (s : State) (core : Nat) : Bool := (List.range 16).all fun i => !(s.thread (core * 16 + i)).live
/-- The cores of a cluster that exist and hold no thread (R352). -/
def State.freeCores (s : State) (cluster : Nat) : List Nat :=
  ((List.range 16).map fun i => cluster * 16 + i).filter fun c => s.coreExists c && s.coreEmpty c
def State.freeInSpan (s : State) (span : Nat) : Nat :=
  (List.range 64).foldl (fun n i => n + (s.freeCores (span * 64 + i)).length) 0

/-- A core holds nothing of a launch other than `l`: no thread, and no slot given to one of its crews. -/
def State.coreFor (s : State) (core l : Nat) : Bool :=
  s.coreExists core && (List.range 16).all fun i =>
    let y := s.thread (core * 16 + i)
    (!y.live || y.launch == l) && (match y.given with
      | some c => (s.crewOf c).launch == l
      | none => true)

/-- A slot holds no thread and is given to no crew. -/
def State.slotOpen (s : State) (t : Nat) : Bool := (s.thread t).state == .free && (s.thread t).given == none

/-- The slots a crew receives on a block of cores: 0 to t − 1, or for a slot-shared stage the lowest that are free on every
core (R354); a pre-empted crew's own (R393). -/
def State.slotsFor (s : State) (k : Crew) (l : Launch) (cores : List Nat) : Option (List Nat) :=
  let free (i : Nat) : Bool := cores.all fun c => s.slotOpen (c * 16 + i)
  if k.status = .saved then (if k.slots.all free then some k.slots else none)
  else if l.shared.getLsbD k.stage then
    let xs := ((List.range 16).filter free).take l.threads
    if xs.length = l.threads then some xs else none
  else if (List.range l.threads).all free then some (List.range l.threads) else none

/-- A deck length rounded up to 4 KiB. -/
def deckSize (l : Launch) : Nat := (l.deck + 4095) / 4096 * 4096

/-- What a cluster offers of its deck (R353, R365). -/
def State.deckOffer (s : State) (cluster : Nat) : Nat := 2 ^ 21 - s.overflowSize.get (128 * 1024) cluster

/-- The deck ranges that crews hold in a cluster. -/
def State.deckHeld (s : State) (cluster : Nat) : List (Nat × Nat) :=
  (s.crews.filter fun (p : Nat × Crew) => p.2.placed && p.2.cluster == cluster).map fun p =>
    (p.2.deckBase, deckSize (s.launchOf p.2.launch))

/-- The lowest free range of `n` bytes of a cluster's deck. -/
def State.deckFor (s : State) (cluster n : Nat) : Option Nat :=
  let held := s.deckHeld cluster
  ((List.range 512).map (· * 4096)).find? fun a =>
    decide (a + n ≤ s.deckOffer cluster) && held.all fun p => decide (a + n ≤ p.1 ∨ p.1 + p.2 ≤ a)

/-- The cores of block `j` of a cluster. -/
def blockCores (cluster c j : Nat) : List Nat := (List.range c).map fun i => cluster * 16 + c * j + i

/-- The windows of a save record can be opened again in a cluster (R393). -/
def State.windowsFit (s : State) (k : Crew) (cluster : Nat) : Bool :=
  match k.save with
  | none => true
  | some r => r.windows.all fun (p : Nat × Window) =>
      !(s.window (cluster * 8 + p.1 % 8)).valid &&
        !s.meetsGlobal cluster p.2.asid p.2.gbase.toNat (256 * p.2.nblk)

/-- A place for a crew: its first core, its slots, its deck base. -/
structure Place where
  cluster : Nat
  first : Nat
  slots : List Nat
  deck : Nat
deriving DecidableEq, Repr

/-- Where a crew fits in a cluster: the lowest block, then the lowest deck range (R353, R358). No new crew goes to a cluster
in which a site is closing (R388). -/
def State.fitsIn (s : State) (k : Crew) (cluster : Nat) : Option Place :=
  let l := s.launchOf k.launch
  let closing := (List.range 20).any fun i => (s.site (cluster * 20 + i)).closing
  if closing || k.avoid.contains cluster || !s.windowsFit k cluster then none
  else match s.deckFor cluster (deckSize l) with
    | none => none
    | some d =>
      (List.range (16 / l.cores)).findSome? fun j =>
        let cores := blockCores cluster l.cores j
        if cores.all fun c => s.coreFor c k.launch then
          (s.slotsFor k l cores).map fun xs => { cluster := cluster, first := cores.headD 0, slots := xs, deck := d }
        else none

/-- Free cores of a cluster that a place leaves. -/
def State.freeAfter (s : State) (l : Launch) (p : Place) : Nat :=
  ((s.freeCores p.cluster).filter fun c => !decide (p.first ≤ c ∧ c < p.first + l.cores)).length

/-- The place with the fewest free cores left, the lowest cluster among equals (R358). -/
def State.fit (s : State) (k : Crew) : Option Place :=
  let l := s.launchOf k.launch
  ((List.range 64).filterMap fun i => s.fitsIn k (k.span * 64 + i)).foldl (fun (best : Option Place) p =>
    match best with
    | none => some p
    | some b => if s.freeAfter l p < s.freeAfter l b then some p else some b) none

/-! ### Eligibility (R351, R355) -/

def CrewStatus.waits : CrewStatus → Bool
  | .pending => true
  | .saved => true
  | _ => false

/-- A crew that counts for the stages after its own. -/
def CrewStatus.counts : CrewStatus → Bool
  | .resident => true
  | .stopping => true
  | .retired => true
  | _ => false

/-- The launches of a launch's group (R362). -/
def State.inGroup (s : State) (l m : Nat) : Bool := (s.launchOf m).live && s.sameGroup l m

/-- The group number and home device of a join word. -/
def joinGroup (j : Nat) : Nat := field j 0 24
def joinHome (j : Nat) : Nat := field j 24 8

/-- A stage of a launch's group is satisfied: a crew of it is resident or has retired, here or by a notice, or it has no
crew in the whole group. -/
def State.stageDone (s : State) (l stage : Nat) : Bool :=
  let mine := s.crews.filter fun (p : Nat × Crew) => s.inGroup l p.2.launch && p.2.stage == stage && decide (p.2.run ≤ 1)
  let told := match (s.launchOf l).join with
    | none => false
    | some j => s.notices.any fun n =>
        n.group == joinGroup j && n.home == joinHome j && n.stage == stage && n.dev != s.dev.toNat
  let elsewhere := match (s.launchOf l).join with
    | none => false
    | some j => s.remoteStages.contains (joinGroup j, joinHome j, stage)
  mine.any (fun p => p.2.status.counts) || told || (mine.isEmpty && !elsewhere)

/-- An eligible pending crew; while a checkpoint needs every save record where it is, none (DEDUCED, assumption 128). -/
def State.eligible (s : State) (k : Crew) : Bool :=
  s.checkpointTo.isNone && k.status.waits && !k.placed && (s.launchOf k.launch).live &&
    (List.range k.stage).all fun i => s.stageDone k.launch i

/-- The crew's queue is served: otherwise none of its crews is selected, and they keep their places (R351). -/
def State.queueServed (s : State) (k : Crew) : Bool := (s.queues.get {} (s.launchOf k.launch).queue).en

/-- A crew's place within its queue: launch, stage, number. -/
def State.crewOrder (s : State) (k : Crew) : Nat := ((s.launchOf k.launch).order * 16 + k.stage) * 2 ^ 32 + k.num

/-- The eligible crews of a span whose queues are served; proof runs and third runs only where there are no others (R357). -/
def State.candidates (s : State) (span : Nat) : List (Nat × Crew) :=
  let xs := s.crews.filter fun (p : Nat × Crew) => p.2.span == span && s.eligible p.2 && s.queueServed p.2
  let own := xs.filter fun p => decide (p.2.run ≤ 1)
  if own.isEmpty then xs else own

/-! ### The order of a decision (R356, R357) -/

def State.queueOf (s : State) (k : Crew) : Nat := (s.launchOf k.launch).queue

/-- The effective priority of a queue on a span. -/
def State.eff (s : State) (span q : Nat) : Nat :=
  let x := s.queues.get {} q
  Nat.min 15 (min (x.prio + s.qwait.get 0 (span * 4096 + q) / 2 ^ 20) (max x.agecap x.prio))

/-- Ascending numbers without repeats. -/
def sortNat : List Nat → List Nat
  | [] => []
  | x :: xs => let ys := (sortNat xs).filter (· != x)
    (ys.filter (· < x)) ++ [x] ++ ys.filter (x < ·)

/-- The queues of a list from the one above `q`, wrapping, ending with `q` itself. -/
def fromAbove (q : Nat) (qs : List Nat) : List Nat := (qs.filter (q < ·)) ++ qs.filter (· ≤ q)

/-- The turn of a level as a decision serves it (R357). -/
def State.turnAt (s : State) (span level : Nat) (qs : List Nat) : Turn :=
  let t := s.turns.get {} (span * 16 + level)
  let weight (q : Nat) : Nat := (s.queues.get {} q).wgt + 1
  match t.queue with
  | none => { queue := qs.head?, credit := (qs.head?.map weight).getD 0 }
  | some q =>
    if qs.contains q && t.credit != 0 then t
    else { queue := (fromAbove q qs).head?, credit := ((fromAbove q qs).head?.map weight).getD 0 }

/-- The first crew of a queue among candidates. -/
def State.firstOf (s : State) (xs : List (Nat × Crew)) (q : Nat) : Option (Nat × Crew) :=
  (xs.filter fun p => s.queueOf p.2 == q).foldl (fun (best : Option (Nat × Crew)) p =>
    match best with
    | none => some p
    | some b => if s.crewOrder p.2 < s.crewOrder b.2 then some p else some b) none

/-! ### Preparing cores (R29, R301, R347) -/

/-- A core before the first thread of a launch. -/
def Core.prepared (c : Core) (launch epoch : Nat) : Core :=
  { pend := c.pend, drop := c.drop, delivered := c.delivered, lastDelivery := c.lastDelivery, lastStart := c.lastStart,
    counters := c.counters, launch := some launch, tcmEpoch := epoch, tcmErrors := c.tcmErrors, tcmSoft := c.tcmSoft }

/-- A core on which no slot is given to a crew is prepared: nothing of an earlier launch is left, and the bytes of its TCM
outside the ring are undefined. -/
def State.prepareCore (s : State) (core launch : Nat) : State :=
  if (List.range 16).any fun i => (s.thread (core * 16 + i)).given.isSome then s
  else
    let e := s.epochs + 1
    let s1 := s.modCore core fun c => c.prepared launch e
    { s1 with epochs := e, tcm := s1.tcm.filter fun (p : Nat × Byte) =>
        p.1 / 2 ^ 16 != core || decide (0xF000 ≤ p.1 % 2 ^ 16), ringDirty := s1.ringDirty.filter fun c => c != core }

/-- The bytes of a deck range become undefined (R301). -/
def State.clearDeck (s : State) (cluster base n : Nat) : State :=
  let e := s.epochs + 1
  let lo := cluster * 2 ^ 21 + base
  { s with epochs := e, deck := s.deck.filter fun (p : Nat × Byte) => !decide (lo ≤ p.1 ∧ p.1 < lo + n),
           deckEpoch := (List.range (n / 4096)).foldl (fun m i => m.put (cluster * 512 + base / 4096 + i) e) s.deckEpoch }

/-! ### Starting a crew (R30, R302, R396) -/

/-- A span's journal region is not empty (R396, R401). -/
def State.journals (s : State) (span : Nat) : Bool := s.journalSize.get (1024 * 2 ^ 20) span != 0

/-- The draw of R396 for a crew. -/
def State.draws (s : State) (k : Crew) : Bool :=
  let l := s.launchOf k.launch
  let m1 : Word := BitVec.ofNat 64 (k.num + k.stage * 2 ^ 32 + k.bay * 2 ^ 40)
  decide (field (sipHash s.ks l.serial m1).toNat 0 12 < l.pfrac) && s.journals k.span

/-- A crew as its first placement leaves it: sampled, or not. -/
def State.sample (s : State) (k : Crew) : Crew :=
  if k.drawn || decide (2 ≤ k.run) then k
  else if s.draws k then { k with drawn := true, sampled := true, run := 1, hold := (s.launchOf k.launch).phold }
  else { k with drawn := true }

/-- The deck segment of a crew (R353). -/
def deckSeg (base n : Nat) : Seg := { base := BitVec.ofNat 57 base, length := BitVec.ofNat 57 n, space := .deck, w := true, rd := true }

/-- A thread that placement starts (R30). -/
def newThread (id : Nat) (k : Crew) (l : Launch) (index slot : Nat) : Thread :=
  { s := [(1, l.arg.setWidth 64)], seg := (l.segs.put 0 tcmSeg).put 1 (deckSeg k.deckBase l.deck),
    pc := BitVec.ofNat 57 (l.entries.getD k.stage 0), tvec := l.tvec, priv := l.priv, bay := BitVec.ofNat 3 k.bay,
    nbay := BitVec.ofNat 3 (l.nbay - 1), crew := BitVec.ofNat 32 k.num, ncore := BitVec.ofNat 5 l.cores,
    stage := BitVec.ofNat 4 k.stage, nstage := BitVec.ofNat 4 (l.nstage - 1), tid := BitVec.ofNat 8 (index * 16 + slot),
    nthr := BitVec.ofNat 8 (l.cores * l.threads - 1), proofHold := k.hold, proofRun := BitVec.ofNat 2 k.run,
    launch := k.launch, crewId := id }

/-- The slots of a block of cores. -/
def slotsOf (first cores : Nat) (slots : List Nat) : List Nat :=
  (List.range cores).flatMap fun i => slots.map fun j => (first + i) * 16 + j

/-- Every slot given to the crew, and its threads started, in one tick. -/
def State.startCrew (s : State) (id : Nat) (k : Crew) : State :=
  let l := s.launchOf k.launch
  (slotsOf k.firstCore l.cores k.slots).foldl (fun s t =>
    let s1 := s.modThread t fun x => { x with given := some id }
    s1.startThread t (newThread id k l (coreOf t - k.firstCore) (slotOf t)) []) s

/-! ### Restoring a crew (R393) -/

/-- A deck address of an old allocation in the new one. -/
def moveDeck (old new n a : Nat) : Nat := if old ≤ a ∧ a < old + n then a - old + new else a

def Seg.moved (g : Seg) (old new n : Nat) : Seg :=
  if g.space = .deck then { g with base := BitVec.ofNat 57 (moveDeck old new n g.base.toNat) } else g

def Ring.moved (r : Ring) (old new n : Nat) : Ring :=
  { r with base := moveDeck old new n r.base,
           slots := r.slots.map fun (p : Nat × RingSlot) => (p.1, { p.2 with bar := moveDeck old new n p.2.bar }) }

def Thread.moved (x : Thread) (old new n : Nat) : Thread :=
  { x with seg := x.seg.map fun (p : Nat × Seg) => (p.1, p.2.moved old new n),
           bindings := x.bindings.map fun b => { b with seg := b.seg.moved old new n } }

def Copy.moved (c : Copy) (old new n oldCore newCore : Nat) : Copy :=
  { c with core := newCore + (c.core - oldCore), thread := newCore * 16 + (c.thread - oldCore * 16),
           segs := c.segs.map fun (p : Nat × Seg) => (p.1, p.2.moved old new n), m1 := c.m1.moved old new n,
           bar := moveDeck old new n c.bar, doff := moveDeck old new n c.doff, src := moveDeck old new n c.src,
           requested := c.done, heldOn := none, suspended := false }

/-- What an rtab's writer left is copied by later starts: its segments move too. -/
def Core.moved (c : Core) (old new n oldCore newCore : Nat) : Core :=
  { c with rings := c.rings.map fun (p : Nat × Ring) => (p.1, p.2.moved old new n),
           rtabBy := c.rtabBy.map fun w =>
             { w with thread := newCore * 16 + (w.thread - oldCore * 16), stores := [],
                      seg := w.seg.map fun (p : Nat × Seg) => (p.1, p.2.moved old new n) } }

/-- A saved window opened again, with every mask 0. -/
def Window.reopened (w : Window) (old new n : Nat) : Window :=
  { w with valid := true, dbase := moveDeck old new n w.dbase, blocks := [], flushes := [] }

/-- The parts of a record written to the new cores and deck range, the threads started in one tick. `old` is the crew as it
was saved, `k` as it is placed. The restored chains stand in the new cluster's pool even where they exceed its size: no new
entry then finds room (DESIGN CHOICE, assumption 132). -/
def State.restoreCrew (s : State) (id : Nat) (old k : Crew) (r : SaveRecord) : State :=
  let l := s.launchOf k.launch
  let a := r.deckBase
  let b := k.deckBase
  let n := deckSize l
  let oldCore := old.firstCore
  let first := k.firstCore
  let s1 := r.cores.foldl (fun s (p : Nat × Core) =>
    s.modCore (first + p.1) fun c =>
      { (p.2.moved a b n oldCore first) with tcmEpoch := c.tcmEpoch, counters := p.2.counters, launch := c.launch, pend := c.pend,
                                             lastDelivery := c.lastDelivery, lastStart := c.lastStart,
                                             tcmErrors := c.tcmErrors, tcmSoft := c.tcmSoft }) s
  let rings := (r.tcm.filter fun (p : Nat × List Byte) => ((decodeRegions 16 p.2).getD []).any fun x => x.1 == 15).map fun p =>
    first + p.1
  let s2 := { s1 with tcm := r.tcm.foldl (fun m (p : Nat × List Byte) => restoreRegions m ((first + p.1) * 2 ^ 16) 16 p.2) s1.tcm,
                      ringDirty := (rings ++ s1.ringDirty).eraseDups }
  let s3 := { s2 with deck := restoreRegions s2.deck (k.cluster * 2 ^ 21 + b) (n / 4096) r.deck }
  let s4 := r.windows.foldl (fun s (p : Nat × Window) => s.putWindow (k.cluster * 8 + p.1 % 8) (p.2.reopened a b n)) s3
  let s5 := (slotsOf first l.cores k.slots).foldl (fun s t => s.modThread t fun x => { x with given := some id }) s4
  let s6 := r.threads.foldl (fun s (p : Nat × Nat × Thread) =>
    let t := (first + p.1) * 16 + p.2.1
    s.setThread t { (p.2.2.moved a b n) with given := some id, lastAttempt := none }) s5
  let s7 := r.asides.foldl (fun s (p : Nat × Nat × Thread) =>
    let x : Aside := { thread := (first + p.1) * 16 + p.2.1, saved := { (p.2.2.moved a b n) with given := some id }, woken := true }
    ({ s with asides := s.asides ++ [x] }).saveTake k.span 1344) s6
  let s8 := r.copies.foldl (fun s (p : Nat × Copy) =>
    { s with copies := s.copies.put p.1 (p.2.moved a b n oldCore first) }) s7
  (s8.saveGive k.span r.size).modCrew id fun c => { c with save := none }

/-- A record with the coded regions as they stand in the save region, and whether its header does (R393). -/
def State.recordThere (s : State) (span : Nat) (r : SaveRecord) : SaveRecord × Bool :=
  let at_ (off n : Nat) : List Byte := s.mem.readList (s.saveAddress span (r.place + off)) n
  let first := 64 + 7040 * r.cores.length + 1344 * (r.threads.length + r.asides.length)
  let take (acc : Nat × List (Nat × List Byte)) (p : Nat × List Byte) : Nat × List (Nat × List Byte) :=
    (acc.1 + p.2.length, acc.2 ++ [(p.1, at_ acc.1 p.2.length)])
  ({ r with tcm := (r.tcm.foldl take (first, [])).2, deck := at_ (r.size - (r.deck.length + 63) / 64 * 64) r.deck.length },
    at_ 0 64 == r.header)

/-- A save record whose coded regions have no token of 11 and end where their headers say (R393). -/
def SaveRecord.sound (r : SaveRecord) (n : Nat) : Bool :=
  let fits (limit : Nat) (bs : List Byte) : Bool := match decodeRegions limit bs with
    | some xs => xs.all fun x => decide (x.1 < limit)
    | none => false
  r.tcm.all (fun (p : Nat × List Byte) => fits 16 p.2) && fits (n / 4096) r.deck

/-- A rejected record: the crew retires without running, with an entry of kind 9, whose cause the spec does not name (R379,
R393). -/
def State.rejectRecord (s : State) (id : Nat) (k : Crew) : State :=
  let who : Concerned := { core := k.firstCore, crew := k.num, stage := k.stage, bay := k.bay }
  let entry := s.errorEntry who 9 .illegal 0 0 0 - Cause.illegal.code + (Config.unstated s.now).toNat % 256
  let n := match k.save with
    | some r => r.size
    | none => 0
  (((s.report k.launch entry).saveGive k.span n).modCrew id fun c =>
    { c with status := .stopping, save := none, placed := false }).emit (.crewRetirement id)

/-! ### A placement (R358, R362) -/

/-- The devices that a flit reaches. -/
def State.peersUp (s : State) : List Nat :=
  ((s.routes.map fun (p : Nat × BitVec 12) => p.1).filter fun d => d != s.dev.toNat && s.reaches d).eraseDups

/-- A notice of a group leaves over the causeway for every device, whose command processor takes it as a JOIN_NOTICE (R362;
DESIGN CHOICE, assumption 130). -/
def State.tellGroup (s : State) (n : Notice) : State := s.peersUp.foldl (fun s d => s.overCauseway d n.group) s

/-- A notice for the other members of a group: the first placement, or the last retirement, of a stage here (R362). -/
def State.notify (s : State) (l stage : Nat) (retired : Bool) : State :=
  match (s.launchOf l).join with
  | none => s
  | some j =>
    let n : Notice := { group := joinGroup j, home := joinHome j, stage := stage, dev := s.dev.toNat, retired := retired }
    if s.notices.contains n then s else ({ s with notices := s.notices ++ [n] }).tellGroup n

/-- Crew `id` placed: its slots and deck range, its cores prepared, its threads started or restored. The registers of a saved crew
are those that the model keeps beside its record (DESIGN CHOICE, assumption 141). -/
def State.place1 (s : State) (id : Nat) (p : Place) (prio : Nat) : State :=
  let old := s.crewOf id
  let l := s.launchOf old.launch
  let k : Crew := { (s.sample old) with status := .resident, cluster := p.cluster, firstCore := p.first, slots := p.slots,
                                        deckBase := p.deck, prio := prio, placedAt := s.now, placed := true, preempt := false }
  match old.save with
  | none =>
    let s1 := (blockCores p.cluster l.cores ((p.first - p.cluster * 16) / l.cores)).foldl
      (fun s c => s.prepareCore c old.launch) ({ s with crews := s.crews.put id k })
    ((s1.clearDeck p.cluster p.deck (deckSize l)).startCrew id k).notify old.launch old.stage false
  | some r0 =>
    let (r, whole) := s.recordThere old.span r0
    if !whole || !r.sound (deckSize l) then s.rejectRecord id old
    else
      let s1 := (blockCores p.cluster l.cores ((p.first - p.cluster * 16) / l.cores)).foldl
        (fun s c => s.prepareCore c old.launch) ({ s with crews := s.crews.put id k })
      (s1.clearDeck p.cluster p.deck (deckSize l)).restoreCrew id old k r

/-- The first of a list of queues whose first crew fits. -/
def State.firstFit (s : State) (xs : List (Nat × Crew)) : List Nat → Option (Nat × Nat × Place)
  | [] => none
  | q :: qs =>
    match s.firstOf xs q with
    | none => s.firstFit xs qs
    | some c => match s.fit c.2 with
      | some p => some (q, c.1, p)
      | none => s.firstFit xs qs

/-- The levels of a span at which no queue has an eligible crew hold no current queue (R357). -/
def State.dropTurns (s : State) (span : Nat) (levels : List Nat) : State :=
  { s with turns := s.turns.map fun (p : Nat × Turn) =>
      if p.1 / 16 != span || levels.contains (p.1 % 16) then p else (p.1, {}) }

/-- PLACEMENT_DECISION: at most one crew every 32 ticks, the first that fits at the highest level with an eligible crew. A level
that has made no placement yet holds no current queue until one is made; one that a decision found without an eligible crew holds one
again from the next decision that serves it, also where that decision places nothing (DEDUCED, assumption 151). -/
def execPlacementDecision (span : Nat) (s : State) : Out :=
  if s.now % 32 ≠ 0 then .next s
  else
    let xs := s.candidates span
    let qs := sortNat (xs.map fun p => s.queueOf p.2)
    let all := s.crews.filter fun (p : Nat × Crew) => p.2.span == span && s.eligible p.2
    let s0 := s.dropTurns span (all.map fun p => s.eff span (s.queueOf p.2))
    let top := (qs.map fun q => s.eff span q).foldl max 0
    let here := qs.filter fun q => s.eff span q == top
    if here.isEmpty then .next s0
    else
      let turn := s.turnAt span top here
      let cur := turn.queue.getD 0
      let s1 := { s0 with turns := s0.turns.put (span * 16 + top) turn }
      match s1.firstFit xs (cur :: (fromAbove cur here).filter (· != cur)) with
      | none => .next (if (s.turns.find (span * 16 + top)).isNone then s0 else s1)
      | some (q, id, p) =>
        let s2 := if q = cur then { s1 with turns := s1.turns.put (span * 16 + top) { turn with credit := turn.credit - 1 } } else s1
        .next (({ s2 with qwait := s2.qwait.put (span * 4096 + q) 0 }).place1 id p top)

/-- JOIN_NOTICE: stage order uses a notice from the tick in which it arrives. -/
def execJoinNotice (group home stage dev : Nat) (retired : Bool) (s : State) : Out :=
  let n : Notice := { group := group, home := home, stage := stage, dev := dev, retired := retired }
  .next (if s.notices.contains n then s else { s with notices := s.notices ++ [n] })

end Sys2Proof.Machine
end

