-- ==== Sys2Proof/Machine/Proof.lean ====
section
/-! DEFINITION. Proof runs and verdicts (R369, R371 to R373, R399 to R401, R404 to R410), and the retirement of crews and
launches (R366, R367). -/

namespace Sys2Proof.Machine

/-! ### Sites, strain and pass counts (R406, R408) -/

/-- The sites of a run, each on which one of its threads issued a unit. -/
def Crew.sites (k : Crew) : List Nat := k.usedSites
/-- The clusters of a run's sites. -/
def Crew.clusters (k : Crew) : List Nat := ((k.usedSites.map (· / 20)) ++ [k.cluster]).eraseDups

/-- A site of a run in the majority: one more pass; at 2^16 its score falls by 1. -/
def State.passSite (s : State) (site : Nat) : State :=
  s.modSite site fun x =>
    if x.pass + 1 < 2 ^ 16 then { x with pass := x.pass + 1 } else { x with pass := 0, strain := x.strain - 1 }

def State.passRun (s : State) (k : Crew) : State := k.sites.foldl State.passSite s
def State.strainRun (s : State) (k : Crew) : State := k.sites.foldl (fun s i => s.strain i 256) s

/-- The mask of a run's sites in a cluster. -/
def Crew.siteMask (k : Crew) (cluster : Nat) : Nat :=
  (k.sites.filter fun i => i / 20 == cluster).foldl (fun m i => m + 2 ^ (i % 20)) 0

/-- The entries of kind 6 about a losing run, one for each of its clusters (R371, R379, R406). -/
def State.reportRun (s : State) (k : Crew) (majority compared : Nat) : State :=
  (k.clusters.filter fun c => k.siteMask c != 0).foldl (fun s c =>
    let who : Concerned := { core := if c = k.cluster then k.firstCore else c * 16, crew := k.num, stage := k.stage, bay := k.bay }
    s.report k.launch (s.errorEntry who 6 .verify 0 0 (k.siteMask c + majority * 2 ^ 32 + compared * 2 ^ 36))) s

/-! ### The journal's space (R399, R401) -/

/-- JOURNAL_SPACE_FREED: the accesses that wait for the region proceed, oldest first, while it has room. -/
def execJournalSpaceFreed (span : Nat) (s : State) : Out :=
  match s.journalWait.get [] span with
  | [] => .next s
  | r :: rest =>
    let s1 := { s with journalWait := s.journalWait.put span rest }
    if !(s.req r).live then .next (s1.emit (.journalSpaceFreed span))
    else if s.journalRoom span (s.req r).entry.bytes then .next ((s1.start r).emit (.journalSpaceFreed span))
    else .next s

/-! ### Runs (R404) -/

/-- The first of the spans after `n`, in order, with as many free cores as the crew has; otherwise `n`. -/
def State.runSpan (s : State) (n cores : Nat) : Nat :=
  (((List.range 7).map fun i => (n + 1 + i) % 8).find? fun k => decide (cores ≤ s.freeInSpan k)).getD n

/-- A proof run (2) or third run (3) of crew `c`, placed after `prev`, away from the clusters of the runs named. -/
def State.handRun (s : State) (c run : Nat) (prev : Crew) (earlier : List Crew) (digests : List Digest) : State :=
  let o := s.crewOf c
  let k : Crew :=
    { launch := o.launch, num := o.num, stage := o.stage, bay := o.bay,
      span := s.runSpan prev.span (s.launchOf o.launch).cores, run := run, hold := o.hold, original := c,
      drawn := true, compared := digests, avoid := (earlier.flatMap Crew.clusters).eraseDups }
  { s with crews := s.crews.put s.nextCrew k, nextCrew := s.nextCrew + 1 }

/-- Two digests agree; a run with none agrees with nothing (R405). -/
def Digest.agrees (a b : Digest) : Bool := !a.none && !b.none && a.lo == b.lo && a.hi == b.hi

/-! ### Completion (R367, R373, R428) -/

/-- A crew counts as retired: one that runs in hold mode only once its last run's fills have passed. -/
def Crew.done (k : Crew) : Bool :=
  k.status == .retired && (!(k.hold && k.run == 1) || k.passed)

/-- The launch's windows that are still written back. -/
def State.launchWindows (s : State) (l : Nat) : List Nat :=
  let x := s.launchOf l
  (s.windows.filter fun (p : Nat × Window) => p.2.valid && x.crews.contains p.2.crewId).map (·.1)

/-- The command processor's core is told once of a completed launch, after every write of its crews and of their windows has
been performed (R299, R428). -/
def State.tellLaunch (s : State) (l : Nat) : State :=
  let x := s.launchOf l
  if x.completed && !x.told && (s.launchWindows l).isEmpty then
    (s.modLaunch l fun y => { y with told := true }).post
      { hdr := BitVec.ofNat 64 (2 * 2 ^ 8 + 63), payload := [BitVec.ofNat 64 l, BitVec.ofNat 64 (x.queue * 2 ^ 32 + x.slot)],
        dstDev := s.dev.toNat, dstCore := 8192 + x.cp }
  else s

/-- A launch completes with the retirement of its last crew (R367). -/
def State.completeLaunch (s : State) (l : Nat) : State :=
  let x := s.launchOf l
  if x.live && !x.completed && x.crews.all (fun c => (s.crewOf c).done) then
    (s.modLaunch l fun y => { y with completed := true }).tellLaunch l
  else s

/-! ### Verdicts (R371, R372, R406, R407) -/

/-- The crew's fills pass. -/
def State.passFills (s : State) (c : Nat) : State :=
  let k := s.crewOf c
  (k.heldBlocks.foldl (fun s b => s.verdictPass c b) s).modCrew c fun k => { k with passed := true, heldBlocks := [] }

/-- The crew's held fills are discarded. -/
def State.failFills (s : State) (c : Nat) : State :=
  let k := s.crewOf c
  (k.heldBlocks.foldl (fun s b => s.verdictFail c b) s).modCrew c fun k => { k with heldBlocks := [] }

/-- The runs of a sample are settled: their streams are freed, and the launch may complete. -/
def State.settled (s : State) (c : Nat) : State :=
  let s1 := { s with crews := s.crews.map fun (p : Nat × Crew) =>
    if p.2.original = c ∧ 2 ≤ p.2.run then (p.1, { p.2 with void := true }) else p }
  (s1.freeJournal c).completeLaunch (s.crewOf c).launch

/-- A hold-mode crew placed again: for a re-run against the majority's digest, or as a new sampled original. -/
def State.placeAgain (s : State) (c : Nat) (majority : Option Digest) (compared : List Digest) : State :=
  s.modCrew c fun k =>
    { k.afresh with rerun := majority.isSome, majority := majority, compared := compared,
                    avoid := if majority.isSome then (k.avoid ++ k.clusters).eraseDups else k.avoid }

/-- The original and the proof run agree. -/
def State.verdictSame (s : State) (c : Nat) (proof : Crew) : State :=
  (((s.passRun (s.crewOf c)).passRun proof).passFills c).settled c

/-- The third run agrees with the proof run: the original loses. -/
def State.verdictOriginal (s : State) (c : Nat) (proof third : Crew) : State :=
  let o := s.crewOf c
  let s1 := if o.hold then s.failFills c else s
  let s2 := (((s1.reportRun o 2 3).strainRun o).passRun proof).passRun third
  let s3 := if o.hold then s2.placeAgain c (some proof.digest) [o.digest, proof.digest, third.digest] else s2
  s3.settled c

/-- The third run agrees with the original: the proof run loses. -/
def State.verdictProof (s : State) (c : Nat) (proof third : Crew) : State :=
  let o := s.crewOf c
  ((((((s.reportRun proof 2 3).strainRun proof).passRun o).passRun third).passFills c)).settled c

/-- All three differ: no verdict and no strain; a hold-mode crew becomes a new sampled original. -/
def State.verdictNone (s : State) (c : Nat) : State :=
  let o := s.crewOf c
  let s1 := s.reportRun o 1 3
  (if o.hold then (s1.failFills c).placeAgain c none [] else s1).settled c

/-- A re-run retires: it passes, or it is a losing run too (R372). -/
def State.settleRerun (s : State) (c : Nat) (m : Digest) : State :=
  let k := s.crewOf c
  let all := k.compared ++ [k.digest]
  if k.digest.agrees m then (((s.passRun k).passFills c).settled c)
  else
    let s1 := ((s.failFills c).reportRun k (all.filter fun d => d.agrees m).length all.length).strainRun k
    (s1.placeAgain c (some m) all).settled c

/-- What follows the retirement of crew `c`: the proof run of a sampled original, the comparison of a re-run, completion. -/
def State.afterRetire (s : State) (c : Nat) : State :=
  let k := s.crewOf c
  if 2 ≤ k.run then s.emit (.proofRunRetirement c)
  else if k.run = 0 then (if k.void then s.freeJournal c else s).completeLaunch k.launch
  else if k.void then
    (if k.hold then (s.freeJournal c).modCrew c Crew.afresh else s.freeJournal c).completeLaunch k.launch
  else match k.majority with
    | some m => s.settleRerun c m
    | none => (s.handRun c 2 k [k] [k.digest]).completeLaunch k.launch

/-- PROOF_RUN_RETIREMENT: the digest of a proof run or a third run is compared. -/
def execProofRunRetirement (crew : Nat) (s : State) : Out :=
  let k := s.crewOf crew
  let c := k.original
  if k.run < 2 || k.status != .retired || k.void then .next s
  else if k.run = 2 then
    if k.digest.agrees (s.crewOf c).digest then .next (s.verdictSame c k)
    else .next ((s.handRun c 3 k [s.crewOf c, k] [(s.crewOf c).digest, k.digest]))
  else match s.crews.find? fun (p : Nat × Crew) => p.2.original == c && p.2.run == 2 && !p.2.void with
    | none => .next s
    | some p =>
      if k.digest.agrees p.2.digest then .next (s.verdictOriginal c p.2 k)
      else if k.digest.agrees (s.crewOf c).digest then .next (s.verdictProof c p.2 k)
      else .next (s.verdictNone c)

/-! ### Retirement (R366) -/

/-- The cores on which slots are given to a crew. -/
def State.crewCores (s : State) (c : Nat) : List Nat :=
  ((s.threads.filter fun (p : Nat × Thread) => p.2.given == some c).map fun p => coreOf p.1).eraseDups

/-- Another crew holds slots of a core. -/
def State.sharedWith (s : State) (core c : Nat) : Bool :=
  (List.range 16).any fun i => match (s.thread (core * 16 + i)).given with
    | some d => d != c
    | none => false

/-- A matrix operation of the crew stands on a core. -/
def State.crewMx (s : State) (c core : Nat) : Bool :=
  let k := s.core core
  let mine (op : MxOp) : Bool := (s.thread op.thread).given == some c
  k.mxQueue.any mine || (match k.mxRun with
    | some p => mine p.1
    | none => false)

/-- A delivered entry waits for a start that R346 would give to the crew. -/
def State.startsPending (s : State) (c core : Nat) : Bool :=
  let k := s.core core
  let spawns (hdr : Word) : Bool := (s.routine core (field hdr.toNat 0 6)).1 == 1
  k.rtabEn && (match k.rtabBy with
    | some w => w.crewId == c
    | none => false) &&
    (k.entries.any (fun (p : Nat × RingEntry) => p.2.state == .delivered && spawns p.2.hdr) ||
      k.overflow.any fun m => spawns m.hdr)

/-- The conditions of R366; a thread that is set aside counts as one of the crew's (R382). -/
def State.mayRetire (s : State) (c : Nat) : Bool :=
  let k := s.crewOf c
  (k.status == .resident || k.status == .stopping) && k.save.isNone &&
    s.threads.all (fun (p : Nat × Thread) => p.2.given != some c || p.2.state == .free) &&
    s.asides.all (fun a => a.saved.crewId != c) &&
    s.copies.all (fun (p : Nat × Copy) => p.2.crewId != c) &&
    (s.crewCores c).all fun core => !s.crewMx c core && !s.startsPending c core

/-- The sequencer stopped and the unclaimed entries of the ring and the chain discarded, each reported (R366). -/
def State.clearCore (s : State) (c core : Nat) : State :=
  let k := s.core core
  let l := (s.crewOf c).launch
  let left := (byOrder k.entries).filter fun p => p.2.state == .delivered
  let s1 := s.modCore core fun x =>
    { x with seq := { x.seq with running := false, out := [], queue := [] }, overflow := [],
             entries := x.entries.filter fun (p : Nat × RingEntry) => p.2.state != .delivered }
  let s2 := left.foldl (fun s p => s.reportRing l core (some c) p.2.hdr) s1
  k.overflow.foldl (fun s m => s.reportRing l core (some c) m.hdr) s2

/-- The crew's windows. -/
def State.crewWindows (s : State) (c : Nat) : List Nat :=
  (s.windows.filter fun (p : Nat × Window) => p.2.valid && p.2.crewId == c).map (·.1)

/-- The crew's slots are given back. -/
def State.releaseSlots (s : State) (c : Nat) : State :=
  { s with threads := s.threads.map fun (p : Nat × Thread) => if p.2.given = some c then (p.1, { p.2 with given := none }) else p }

/-- The last crew of a stage on this device has retired (R362). -/
def State.noticeRetired (s : State) (l stage : Nat) : State :=
  if s.crews.all fun (p : Nat × Crew) => !(s.inGroup l p.2.launch && p.2.stage == stage && decide (p.2.run ≤ 1)) || p.2.status == .retired
  then s.notify l stage true else s

/-- Crew `c` retires in this tick. -/
def State.retire (s : State) (c : Nat) : State :=
  let k := s.crewOf c
  let s1 := (s.crewCores c).foldl (fun s core => if s.sharedWith core c then s else s.clearCore c core) s
  let s2 := ((s1.releaseSlots c).saveGive k.span k.reserved).modCrew c fun k =>
    { k with status := .retired, preempt := false, reserved := 0 }
  let s3 := (s2.crewWindows c).foldl (fun s key => s.beginFlush key none true) s2
  let s4 := if (s3.crewWindows c).isEmpty then s3.modCrew c fun k => { k with placed := false } else s3
  (s4.noticeRetired k.launch k.stage).afterRetire c

/-- CREW_RETIREMENT; once the write-backs of its windows are done, its deck range is free. -/
def execCrewRetirement (crew : Nat) (s : State) : Out :=
  let k := s.crewOf crew
  if s.mayRetire crew then .next (s.retire crew)
  else if (k.status == .retired || k.status == .pending) && k.placed && (s.crewWindows crew).isEmpty then
    .next ((s.modCrew crew fun k => { k with placed := false }).tellLaunch k.launch)
  else .next s

/-! ### Injectors, limits, reopening (R369, R409) -/

/-- SITE_INJECTOR_WRITE: ignored with a reserved bit set, or armed with a count of 0. -/
def execSiteInjectorWrite (site : Nat) (w : Word) (s : State) : Out :=
  let x := w.toNat
  if field x 0 12 ≠ 0 ∨ field x 25 7 ≠ 0 ∨ field x 52 11 ≠ 0 ∨ (bitAt x 63 = true ∧ field x 32 20 = 0) then .next s
  else .next (s.modSite site fun x => { x with injector := w })

/-- STRAIN_LIMIT_WRITE: a value of 0 or above 0xFFFF is ignored; every site at or above the new limit begins to close. -/
def execStrainLimitWrite (limit : Nat) (s : State) : Out :=
  if limit = 0 ∨ 0xFFFF < limit then .next s
  else .next (s.sites.foldl (fun s (p : Nat × Site) => s.strain p.1 0) { s with strainLimit := limit })

/-- SITE_REOPEN: only an authenticated command sets a site's score to 0 and reopens it. -/
def execSiteReopen (site : Nat) (auth : Bool) (s : State) : Out :=
  .next (if auth then s.modSite site fun x => { x with strain := 0, closed := false, closing := false } else s)

end Sys2Proof.Machine
end

