-- ==== Sys2Proof/Machine/Preempt.lean ====
section
/-! DEFINITION. Pre-emption (R265, R387 to R394), relief (R360) and the closure of sites (R374, R388). -/

namespace Sys2Proof.Machine

/-! ### Requests (R387, R388) -/

/-- The largest save record of a crew of a launch (R388, R389): every region of TCM and deck coded in full, every entry of
its cluster's pool, a full scoreboard. -/
def State.maxRecord (s : State) (k : Crew) : Nat :=
  let l := s.launchOf k.launch
  64 + 7040 * l.cores + 1344 * l.cores * l.threads + 16 * 4104 * l.cores + s.overflowSize.get (128 * 1024) k.cluster +
    32 * 4160 + deckSize l / 4096 * 4104

/-- PREEMPTION_REQUEST: a resident crew begins to stop once the save region has room for its record; until then it runs and
the request stands. -/
def execPreemptionRequest (crew : Nat) (s : State) : Out :=
  let k := s.crewOf crew
  if k.status ≠ .resident then .next s
  else
    let n := s.maxRecord k
    if s.saveRoom k.span n then
      .next (((s.saveTake k.span n).modCrew crew fun c => { c with status := .stopping, preempt := true, reserved := n }).emit
        (.contextSave crew))
    else .next (s.modCrew crew fun c => { c with preempt := true })

/-! ### Stopping threads (R265) -/

/-- A matrix operation of a thread waits in the queue. -/
def State.mxQueued (s : State) (t op : Nat) : Bool := (s.core (coreOf t)).mxQueue.any fun o => o.id == op

/-- A thread stands at a boundary at which R265 stops it; one in WMEM does not before the reply that it waits for. -/
def State.stopsNow (s : State) (t : Nat) : Bool :=
  let x := s.thread t
  match x.state with
  | .ready => true
  | .yielded => true
  | .pblk => true
  | .pfault => true
  | .wsync => x.wait != .retry .twinCompare
  | .wmx => (match x.wait with
    | .retry _ => true
    | .engine op => s.mxQueued t op
    | _ => false)
  | _ => false

/-- A twin pair at its agreed point. -/
def Thread.atAgreed (x : Thread) : Bool :=
  x.state == .ready && x.wait == .none && x.pair.units == 0 && !x.pair.approved

/-- What a thread that stops has waiting is withdrawn; a queued matrix operation's permit returns to the latch. -/
def State.withdrawAll (s : State) (t : Nat) : State :=
  match (s.thread t).wait with
  | .engine op =>
    let c := s.core (coreOf t)
    match c.mxQueue.find? fun o => o.id == op with
    | some o =>
      (s.setCore (coreOf t) { c with mxQueue := c.mxQueue.filter fun o => o.id != op }).modThread t fun x =>
        { x with permit := if o.permit.isSome then o.permit else x.permit }
    | none => s
  | _ => s.withdraw t

/-- What a stopped thread keeps of its wait: an arrival at a named barrier stands, and it waits on (R236). -/
def Wait.kept : Wait → Wait
  | .barrier n phase => .barrier n phase
  | _ => .none

/-- A thread at its stop: a `rep` unit's progress in `repc` (R143). -/
def Thread.stopped (x : Thread) : Thread :=
  { x with state := .stopping, wait := x.wait.kept, stopReq := false, lineAt := none, repAt := none,
           repc := match x.repAt with
             | some (i, n) => { act := true, done := BitVec.ofNat 6 i, left := BitVec.ofNat 6 n }
             | none => x.repc }

/-- A thread of a run that has no digest ends instead (R405). -/
def State.endsRun (s : State) (t : Nat) : Bool := (s.crewOf (s.thread t).crewId).digest.none

/-- One thread stopped: a fault of a relaxed access is taken (R139, R225). -/
def State.stopOne (s : State) (t : Nat) : State :=
  let s1 := s.withdrawAll t
  let x := s1.thread t
  if x.pendingFaults ≠ [] then s1.takePending t
  else if s.endsRun t then s1.freeSlot t
  else (s1.setThread t x.stopped).emit (.contextSave x.crewId)

/-- Threads that stop at one boundary: the relaxed accesses of all complete first (R140, R258). -/
def State.stopTogether (s : State) (ms : List Nat) : State :=
  match ms.filter fun m => decide (0 < (s.thread m).rlxn) with
  | [] => ms.foldl State.stopOne s
  | late => late.foldl (fun s m => (s.withdrawAll m).hold m .wmem (.relaxedDone false)) s

/-- THREAD_STOP: the threads of a gang stop together, at one boundary: where some have completed the unit at which others wait,
once those have completed it too (R258, R265); a twin pair at an agreed point. -/
def execThreadStop (t : Nat) (s : State) : Out :=
  let x := s.thread t
  if !s.wantsStop t then .next s
  else if x.twin then
    if x.atAgreed && (s.thread (partner t)).atAgreed then .next (s.stopTogether [t, partner t]) else .next s
  else if ((s.stopGroup t).all fun m => s.stopsNow m) && s.even (s.stopGroup t) then .next (s.stopTogether (s.stopGroup t))
  else .next s

/-! ### Saving (R387, R389 to R391) -/

/-- The threads of a crew that stand in slots given to it. -/
def State.crewThreads (s : State) (c : Nat) : List (Nat × Thread) :=
  s.threads.filter fun (p : Nat × Thread) => p.2.given == some c && p.2.state != .free

/-- The crew's copies. -/
def State.crewCopies (s : State) (c : Nat) : List (Nat × Copy) :=
  s.copies.filter fun (p : Nat × Copy) => p.2.crewId == c

/-- Every thread of the crew has stopped, its register writes are performed and its matrix operations are over. -/
def State.crewStopped (s : State) (c : Nat) : Bool :=
  (s.crewThreads c).all (fun p => p.2.state == .stopping) &&
    (s.crewCores c).all fun core => (s.core core).pend.isEmpty && !s.crewMx c core

/-- A set-aside thread's parked access is withdrawn. -/
def State.withdrawAside (s : State) (a : Aside) : State :=
  match a.saved.wait with
  | .reply r => s.withdrawReq r
  | _ => s.leaveMiss (.fetch a.thread a.saved.park)

/-- A thread's part; what stands at a named barrier keeps its unit (R236). -/
def Thread.part (x : Thread) : Thread :=
  { x.withoutBuffers with state := if x.wait = .none then .ready else .wsync, given := none,
                           iss := if x.wait = .none then {} else x.iss }

/-- A core's part: on a core that another crew holds, the entries of that crew's messages stay where they are. -/
def Core.part (c : Core) (sharedCore : Bool) (slots : List Nat) : Core :=
  let mine (e : RingEntry) : Bool := match e.state with
    | .claimed k => slots.contains (k % 16)
    | _ => false
  if sharedCore then { c with entries := c.entries.filter fun (p : Nat × RingEntry) => mine p.2, overflow := [] } else c

def Core.left (c : Core) (sharedCore : Bool) (slots : List Nat) : Core :=
  let mine (e : RingEntry) : Bool := match e.state with
    | .claimed k => slots.contains (k % 16)
    | _ => false
  if sharedCore then { c with entries := c.entries.filter fun (p : Nat × RingEntry) => !mine p.2 }
  else { c with entries := [], overflow := [], seq := { c.seq with running := false } }

/-- A record's thread parts in order of `tid`, those of set-aside threads among them (R389). -/
def SaveRecord.threadParts (r : SaveRecord) : List (Nat × Nat × Thread) :=
  (List.range 256).flatMap fun i => (r.threads ++ r.asides).filter fun p => p.2.2.tid.toNat == i

/-- The windows that the crew has opened on its core `i`, whose first core is `first`. -/
def SaveRecord.windowsOf (r : SaveRecord) (first i : Nat) : List Nat :=
  (r.windows.filter fun p => p.2.core == first + i).map (·.1)

/-- The parts of a record after its header, each filled up to a multiple of 64 bytes (R389). -/
def SaveRecord.parts (r : SaveRecord) (first : Nat) : List (List Byte) :=
  [(r.cores.map fun p => p.2.image r.deckBase (r.windowsOf first p.1)).flatten,
    (r.threadParts.map fun p => p.2.2.image p.2.1).flatten, (r.tcm.map fun p => p.2).flatten,
    (r.cores.flatMap fun p => p.2.overflow.map Message.image).flatten,
    (r.copies.map fun p => p.2.image p.2.units).flatten, r.deck].map (padTo 64)

/-- Where parts that follow one another from an offset on begin. -/
def offsets : Nat → List (List Byte) → List Nat
  | _, [] => []
  | a, p :: ps => a :: offsets (a + p.length) ps

/-- A record laid out for a crew at a place of its span's save region: its header, its size (R388, R389). -/
def SaveRecord.laid (r : SaveRecord) (k : Crew) (cores threads deck place : Nat) (parts : List (List Byte)) : SaveRecord :=
  { r with place := place, size := 64 + parts.flatten.length,
           header := recordHeader k cores threads deck (offsets 64 parts) r.tick }

/-- The record of a crew whose threads have stopped. -/
def State.recordOf (s : State) (c : Nat) (r : SaveRecord) : SaveRecord :=
  let k := s.crewOf c
  let l := s.launchOf k.launch
  let cores := List.range l.cores
  let asides := s.asides.filter fun a => a.saved.crewId == c
  let r1 : SaveRecord := { r with
    cores := cores.map fun i => (i, (s.core (k.firstCore + i)).part (s.sharedWith (k.firstCore + i) c) k.slots),
    threads := (s.crewThreads c).map fun (p : Nat × Thread) => (coreOf p.1 - k.firstCore, slotOf p.1, p.2.part),
    asides := asides.map fun a => (coreOf a.thread - k.firstCore, slotOf a.thread, { a.saved.part with wait := .none }),
    tcm := cores.map fun i => (i, s.codedTcm (k.firstCore + i)),
    deck := s.codedDeck k.cluster k.deckBase (deckSize l),
    deckBase := k.deckBase, copies := s.crewCopies c }
  let parts := r1.parts k.firstCore
  r1.laid k l.cores (l.cores * l.threads) (deckSize l) (s.savePlace k.span (64 + parts.flatten.length)) parts

/-- A record written to its place in the span's save region (R387, R389). -/
def State.writeRecord (s : State) (k : Crew) (r : SaveRecord) : State :=
  s.memWrite (s.saveAddress k.span r.place) (r.header ++ (r.parts k.firstCore).flatten)

/-- The crew leaves its slots, its cores and its deck range, and is pending again (R361, R387). -/
def State.vacate (s : State) (c : Nat) (r : SaveRecord) : State :=
  let k := s.crewOf c
  let cores := s.crewCores c
  let s1 := (s.asides.filter fun a => a.saved.crewId == c).foldl State.withdrawAside s
  let gone := (s.asides.filter fun a => a.saved.crewId == c).length
  let s2 := { s1 with asides := s1.asides.filter fun a => a.saved.crewId != c,
                      copies := s1.copies.filter fun (p : Nat × Copy) => p.2.crewId != c }
  let s3 := r.copies.foldl (fun s (p : Nat × Copy) => s.leaveMiss (.copy p.1 0))
    (s2.saveGive k.span (1344 * gone + (k.reserved - r.size)))
  let s4 := cores.foldl (fun s core => s.modCore core fun x => x.left (s.sharedWith core c) k.slots) s3
  let s5 := { s4 with threads := s4.threads.map fun (p : Nat × Thread) =>
    if p.2.given = some c then
      (p.1, ({ counters := p.2.counters, park := p.2.park } : Thread)) else p }
  (cores.foldl State.leaveCore s5).modCrew c fun k =>
    { k with status := .saved, save := some r, placed := false, preempt := false, reserved := 0 }

/-- CONTEXT_SAVE: once every thread has stopped the windows are written back and the copies drain or are suspended; then the
record is written. A crew without threads whose engines are idle retires instead. -/
def execContextSave (crew : Nat) (s : State) : Out :=
  let k := s.crewOf crew
  if k.status ≠ .stopping || !s.crewStopped crew then .next s
  else if s.mayRetire crew then .next (s.emit (.crewRetirement crew))
  else match k.save with
    | none =>
      let ws := s.crewWindows crew
      let r : SaveRecord := { windows := ws.map fun key => (key % 8, s.window key), tick := s.now }
      .next ((ws.foldl (fun s key => s.beginFlush key none true) (s.modCrew crew fun c => { c with save := some r })).emit
        (.contextSave crew))
    | some r =>
      if !(s.crewWindows crew).isEmpty || (s.crewCopies crew).any fun p => p.2.heldOn == none then .next s
      else
        let r1 := s.recordOf crew r
        .next ((s.writeRecord k r1).vacate crew r1)

/-! ### Relief (R360) -/

/-- The resident crews of a group on a span. -/
def State.groupOn (s : State) (l span : Nat) (f : CrewStatus → Bool) : List (Nat × Crew) :=
  s.crews.filter fun (p : Nat × Crew) => s.inGroup l p.2.launch && p.2.span == span && f p.2.status

/-- The crew of the highest stage, and among those the highest number. -/
def lastCrew (xs : List (Nat × Crew)) : Option (Nat × Crew) :=
  xs.foldl (fun (best : Option (Nat × Crew)) p =>
    match best with
    | none => some p
    | some b => if b.2.stage < p.2.stage ∨ (b.2.stage = p.2.stage ∧ b.2.num < p.2.num) then some p else some b) none

/-- The victim of relief for a pending crew that fits no cluster: above the lowest pending stage of its group. -/
def State.victimFor (s : State) (span : Nat) (k : Crew) : Option Nat :=
  match lastCrew (s.groupOn k.launch span (· == .resident)) with
  | none => none
  | some v =>
    if (s.groupOn k.launch span CrewStatus.waits).any fun p => decide (p.2.stage < v.2.stage) then some v.1 else none

/-- The victim of relief on a span; where crews of several groups qualify at once, for the pending crew that the model numbers
lowest (DESIGN CHOICE, assumption 131). -/
def State.victim (s : State) (span : Nat) : Option Nat :=
  ((s.crews.filter fun (p : Nat × Crew) => p.2.span == span && s.eligible p.2 && (s.fit p.2).isNone).filterMap fun p =>
    s.victimFor span p.2).head?

/-- RELIEF: after 2^16 ticks in which every thread of a resident crew was parked; the save region must have room. -/
def execRelief (span : Nat) (s : State) : Out :=
  if s.parkedTicks.get 0 span < 2 ^ 16 then .next s
  else match s.victim span with
    | none => .next s
    | some v =>
      if s.saveRoom span (s.maxRecord (s.crewOf v)) then
        .next (({ s with parkedTicks := s.parkedTicks.put span 0 }).emit (.preemptionRequest v))
      else .next s

/-! ### Closure (R374, R388, R410) -/

/-- The resident crews of a cluster, the one placed first in front. -/
def State.oldestResident (s : State) (cluster : Nat) : Option Nat :=
  ((s.crews.filter fun (p : Nat × Crew) => p.2.placed && p.2.cluster == cluster && p.2.status == .resident).foldl
    (fun (best : Option (Nat × Crew)) p =>
      match best with
      | none => some p
      | some b => if p.2.placedAt < b.2.placedAt then some p else some b) none).map (·.1)

/-- Every thread of a cluster has stopped or ended, and the crews that were asked to leave it have left. -/
def State.clusterDrained (s : State) (cluster : Nat) : Bool :=
  s.threads.all (fun (p : Nat × Thread) =>
    clusterOf (coreOf p.1) != cluster || p.2.state == .free || p.2.state == .stopping) &&
  s.crews.all fun (p : Nat × Crew) => !p.2.placed || p.2.cluster != cluster || p.2.status != .stopping

/-- ROW_REMAP: the cluster's resident crews are pre-empted, oldest first, each as room for it exists; once every thread has
stopped or ended the site is closed, and the row's logical cores follow its open sites. -/
def execRowRemap (site : Nat) (s : State) : Out :=
  let cluster := site / 20
  if !(s.site site).closing then .next s
  else
    let s1 := s.later (s.now + 1) (.rowRemap site)
    match s.oldestResident cluster with
    | some c =>
      if s.saveRoom (s.crewOf c).span (s.maxRecord (s.crewOf c)) then .next (s1.emit (.preemptionRequest c)) else .next s1
    | none =>
      if s.clusterDrained cluster then .next (s.modSite site fun x => { x with closing := false, closed := true, injector := 0 })
      else .next s1

end Sys2Proof.Machine
end

