-- ==== Sys2Proof/Machine/Domain.lean ====
section
/-! DEFINITION. What leaves with a port or a device (R279, R416), and the routes that decide which devices are reached (R415,
R441). -/

namespace Sys2Proof.Machine

/-! ### A device that leaves the domain (R279, R416) -/

/-- The waiters at this device's homes that name a device are removed, and its holds are withdrawn; nothing is answered. -/
def State.dropWaiters (s : State) (dev : Nat) : State :=
  let mine (s : State) (r : Nat) : Bool := match (s.req r).from_ with
    | some p => p.dev.toNat == dev
    | none => false
  let s1 := s.blocks.foldl (fun s (p : Nat × Block) =>
    let holds := p.2.fill.holds ++ (p.2.fill.res.map (·.req)).toList
    (holds.filter (mine s)).foldl (fun s r => s.dropHold p.1 r) (s.keepWaiters p.1 fun w => w.dev.toNat != dev)) s
  { s1 with reqs := s1.reqs.filter fun (p : Nat × Req) => !mine s1 p.1 }

/-- Peer accesses in flight to a device trap POISON with their DVA. -/
def State.failPeers (s : State) (dev : Nat) : State :=
  s.reqs.foldl (fun s (p : Nat × Req) =>
    if p.2.live && p.2.space == .peer && p.2.phys / 2 ^ 48 == dev &&
        (p.2.status == .issued || p.2.status == .parked || p.2.status == .blocked) then s.refuse p.1 .poison p.2.dva.toNat
    else s) s

/-- Messages in flight to a device are dropped with RING. -/
def State.dropMessages (s : State) (dev : Nat) : State :=
  (s.flight.filter fun m => m.dstDev == dev).foldl State.reportLost
    { s with flight := s.flight.filter fun m => m.dstDev != dev }

/-- A device leaves the domain for this one. -/
def State.deviceGone (s : State) (dev : Nat) : State :=
  if s.gone.contains dev || dev == s.dev.toNat then s
  else (({ s with gone := s.gone ++ [dev] }.dropWaiters dev).failPeers dev).dropMessages dev

/-! ### Routes that take effect (R415, R441) -/

/-- A device whose route mask has been written has left the domain where no up port reaches it, and is in it where one does
(DEDUCED, assumption 127). -/
def State.rejoin (s : State) (dev : Nat) : State :=
  if (s.portsTo dev).isEmpty then s.deviceGone dev
  else if s.gone.contains dev then { s with gone := s.gone.filter (· != dev) } else s

/-- The route masks that may take effect do, with what follows for their devices. -/
def State.takeRoutes (s : State) : State :=
  ((s.pendingRoutes.filter fun (q : Nat × BitVec 12) => s.quiet q.1).map (·.1)).foldl State.rejoin s.settleRoutes

/-- ACK: the flits up to the named one leave the replay buffer. -/
def execAck (port seq : Nat) (s : State) : Out :=
  match afterFlit seq (s.port port).replay with
  | none => .next s
  | some fs =>
    let old := (s.port port).replay
    .next ((((s.arrived (old.take (old.length - fs.length))).modPort port fun y =>
      { y with replay := fs }).pushData port 512).takeRoutes)

/-- ROUTE_TABLE_WRITE: the mask takes effect once every flit sent under the old one is acknowledged; an
empty one puts the device outside the domain. -/
def execRouteTableWrite (dev : Nat) (mask : BitVec 12) (s : State) : Out :=
  .next ({ s with pendingRoutes := (s.pendingRoutes.filter fun (q : Nat × BitVec 12) => q.1 != dev) ++ [(dev, mask)] }.takeRoutes)

/-! ### A port that goes down (R416) -/

/-- A flit of a port that is down: over another up port that reaches its device, before what waits there, or lost with the
device. -/
def State.resend (s : State) (f : Flit) : State :=
  match (s.portsTo f.dst).head? with
  | some p => s.modPort p fun x =>
      { x with backlog := x.backlog.takeWhile (·.moved) ++ { f with seq := 0, again := 0, moved := true } :: x.backlog.dropWhile (·.moved) }
  | none => s.deviceGone f.dst

/-- The devices whose route masks name a port. -/
def State.devicesOn (s : State) (port : Nat) : List Nat :=
  (s.routes.filter fun (q : Nat × BitVec 12) => q.2.getLsbD port).map (·.1)

/-- PORT_DOWN: after four failed retrains in a row. -/
def execPortDown (port : Nat) (s : State) : Out :=
  let x := s.port port
  if x.failedTrains < 4 || !x.up then .next s
  else
    let s1 := s.modPort port fun y => { y with up := false, training := false, replay := [], backlog := [], delayed := [] }
    let s2 := (List.range 12).foldl (fun s p => s.pushData p 512) ((x.replay ++ x.backlog).foldl State.resend s1)
    .next ((s2.devicesOn port).foldl (fun s d => if (s.portsTo d).isEmpty then s.deviceGone d else s) s2)

end Sys2Proof.Machine
end

