-- ==== Sys2Proof/Machine/Fence.lean ====
section
/-! DEFINITION. Fences (R145, R146). One value stands for each byte of memory, so an access that has replied is
performed at every scope. -/

namespace Sys2Proof.Machine

/-- A relaxed access of the thread that a fence waits for: loads and atomics, or stores and atomics. -/
def Req.fenced (q : Req) (t : Nat) (loads stores : Bool) : Bool :=
  q.live && q.relaxed && q.thread == t &&
    (match q.kind with
      | .store => stores
      | .amo _ => loads || stores
      | _ => loads)

def State.unfenced (s : State) (t : Nat) (loads stores : Bool) : Bool :=
  s.reqs.any fun (p : Nat × Req) => p.2.fenced t loads stores

/-- The end of a fence: a relaxed fault that is pending is taken at it, otherwise it completes. -/
def State.endFence (s : State) (t : Nat) : State :=
  if (s.thread t).pendingFaults = [] then s.complete t else s.takePending t

/-- A fence issues and waits in WMEM until its conditions hold. -/
def State.unitFence (s : State) (loads stores : Bool) : Out :=
  s.unit [] <| .go <|
    if s.unfenced s.cur loads stores then s.await s.cur .wmem (.fence loads stores) else s.endFence s.cur

def execFenceAcq (_scope : Scope) (s : State) : Out := s.unitFence true false
def execFenceRel (_scope : Scope) (s : State) : Out := s.unitFence false true
def execFenceFull (_scope : Scope) (s : State) : Out := s.unitFence true true

end Sys2Proof.Machine
end

