-- ==== Sys2Proof/Machine/Host.lean ====
section
/-! DEFINITION. The host ports (R299, R337, R351, R424, R429 to R434): interfaces, the control region, the memory aperture,
sectors of a CXL host, function-level reset. Interface i of port p is number 128 · p + i. -/

namespace Sys2Proof.Machine

/-! ### Interfaces and their queues (R432 to R434) -/

/-- Queues of port 0's share, the rest being port 1's. -/
def State.share (s : State) : Nat := (s.active.get 2048 2).toNat % 4097

/-- An interface that nothing has configured: a physical function holds the whole share of its port. -/
def bootIface (share i : Nat) : Iface :=
  if i = 0 then { nq := share, prcap := 0xF00F } else if i = 128 then { nq := 4096 - share, prcap := 0xF00F } else {}

def State.iface (s : State) (i : Nat) : Iface := s.ifaces.get (bootIface s.share i) i
def State.modIface (s : State) (i : Nat) (f : Iface → Iface) : State := { s with ifaces := s.ifaces.put i (f (s.iface i)) }

/-- The package queue that stands at local number j of an interface. -/
def State.packageQueue (s : State) (i j : Nat) : Option Nat :=
  let x := s.iface i
  if j < x.nq then some (x.queues.get ((if i < 128 then 0 else s.share) + j) j) else none

/-- The queues of an interface. -/
def State.ifaceQueues (s : State) (i : Nat) : List Nat := (List.range (s.iface i).nq).filterMap fun j => s.packageQueue i j

/-- The interface that holds a package queue. -/
def State.queueIface (s : State) (q : Nat) : Nat :=
  match s.ifaces.find? fun (p : Nat × Iface) => (s.ifaceQueues p.1).contains q with
  | some p => p.1
  | none => if q < s.share then 0 else 128

/-! ### Refusals (R430) -/

/-- The span in whose health record a refusal of an interface is entered where the address has no home: that of its abutment's
neighbour. -/
def portSpan (i : Nat) : Nat := if i < 128 then 0 else 7

/-- A refused request: counted in the interface's `ecount`, its address entered in the span's log. -/
def State.hostRefuse (s : State) (i span addr : Nat) : State :=
  let s1 := s.modIface i fun x => { x with ecount := min (2 ^ 64 - 1) (x.ecount + 1) }
  { s1 with health := s1.health.put span ((s1.health.get {} span).log addr) }

/-! ### Queue registers (R351, R424, R433) -/

/-- The message of a notify write: kind 00, class 62, sender fields 0, one payload doubleword. -/
def notifyMessage (dev : BitVec 8) (q w : Nat) : Message :=
  { hdr := BitVec.ofNat 64 (2 ^ 8 + 62), payload := [BitVec.ofNat 64 (q * 2 ^ 32 + w)], dstDev := dev.toNat,
    dstCore := 8192 + q % 16 }

/-- A notify write; one that sets a reserved bit is ignored. -/
def State.writeNotify (s : State) (q : Nat) (w : Word) : State :=
  if 2 ^ 32 ≤ w.toNat then s
  else (s.modQueue q fun x => { x with widx := w.toNat }).post (notifyMessage s.dev q w.toNat)

/-- A control word as a queue holds it, with the interface's caps in place of a higher priority or age cap. -/
def Queue.control (x : Queue) (w prcap : Nat) : Queue :=
  { x with pfrac := field w 52 12, phold := bitAt w 51, en := bitAt w 32, agecap := min (field w 12 4) (field prcap 12 4),
           wgt := field w 8 4, prio := min (field w 0 4) (field prcap 0 4) }

def Queue.controlWord (x : Queue) : Nat :=
  x.pfrac * 2 ^ 52 + x.phold.toNat * 2 ^ 51 + x.en.toNat * 2 ^ 32 + x.agecap * 2 ^ 12 + x.wgt * 2 ^ 8 + x.prio

/-- A ring word that a queue takes: while it is not served, lg from 1 to 12, the ring aligned to its size, no other bit. -/
def Queue.takesRing (x : Queue) (w : Nat) : Bool :=
  !x.en && field w 57 7 == 0 && field w 4 4 == 0 && decide (1 ≤ field w 0 4 ∧ field w 0 4 ≤ 12) &&
    field w 8 49 * 256 % (2 ^ field w 0 4 * 256) == 0

def State.writeRing (s : State) (q : Nat) (w : Word) : State :=
  if (s.queue q).takesRing w.toNat then
    s.modQueue q fun x => { x with ring := BitVec.ofNat 57 (field w.toNat 8 49 * 256), lg := field w.toNat 0 4, rdx := 0, widx := 0 }
  else s

/-- The resident crews of a queue's launches. -/
def State.queueCrews (s : State) (q : Nat) : List Nat :=
  (s.crews.filter fun (p : Nat × Crew) =>
    (s.launchOf p.2.launch).live && (s.launchOf p.2.launch).queue == q &&
      (p.2.status == .resident || p.2.status == .stopping)).map (·.1)

/-- `qstop`: writing 1 pre-empts every resident crew of the queue's launches. -/
def State.writeStop (s : State) (q : Nat) (w : Word) : State :=
  if w = 1 then
    (s.queueCrews q).foldl (fun s c =>
      (s.modCrew c fun k => if k.status = .resident then { k with preempt := true } else k).emit (.preemptionRequest c)) s
  else s

/-! ### The control region (R433, R439) -/

/-- What an offset of the control region names. -/
inductive BarReg where
  | notify (q : Nat)
  | qctl (q : Nat)
  | qring (q : Nat)
  | qstop (q : Nat)
  | qinfo (q : Nat)
  | nq | apbase | keyid | ecount | prcap
  | mailbox (k : Nat)
deriving DecidableEq, Repr

/-- The register at an offset; none where the function does not decode it. After an image that failed, only the mailbox is
decoded (R439). -/
def State.barReg (s : State) (i off : Nat) : Option BarReg :=
  let queue (j : Nat) (f : Nat → BarReg) : Option BarReg := (s.packageQueue i j).map f
  if off % 8 ≠ 0 then none
  else if 0xF1000 ≤ off ∧ off < 0xF2000 then (if i % 128 = 0 then some (.mailbox ((off - 0xF1000) / 8)) else none)
  else if s.bootStopped then none
  else if off < 0x80000 then queue (off / 8) .notify
  else if off < 0xA0000 then
    queue ((off - 0x80000) / 32) (match off % 32 with
      | 0 => .qctl
      | 8 => .qring
      | 16 => .qstop
      | _ => .qinfo)
  else match off with
    | 0xF0000 => some .nq
    | 0xF0008 => some .apbase
    | 0xF0010 => some .keyid
    | 0xF0018 => some .ecount
    | 0xF0020 => some .prcap
    | _ => none

/-- A write of a doubleword; a register that only reads ignores it. -/
def State.barWrite (s : State) (i off : Nat) (w : Word) : State :=
  match s.barReg i off with
  | none => s.hostRefuse i (portSpan i) off
  | some (.notify q) => s.writeNotify q w
  | some (.qctl q) => s.modQueue q fun x => x.control w.toNat (s.iface i).prcap.toNat
  | some (.qring q) => s.writeRing q w
  | some (.qstop q) => s.writeStop q w
  | some .apbase => s.modIface i fun x => { x with apbase := BitVec.ofNat 57 (field w.toNat 40 17 * 2 ^ 40) }
  | some (.mailbox k) => s.modIface i fun x => { x with mailbox := x.mailbox.put k w }
  | some _ => s

/-- A read of a doubleword; a register that is only written reads as 0. -/
def State.barRead (s : State) (i : Nat) : BarReg → Nat
  | .notify _ => 0
  | .qctl q => (s.queue q).controlWord
  | .qring q => (s.queue q).ring.toNat + (s.queue q).lg
  | .qstop _ => 0
  | .qinfo q => (s.queue q).rdx + (s.queueCrews q).length * 2 ^ 32
  | .nq => (s.iface i).nq
  | .apbase => (s.iface i).apbase.toNat
  | .keyid => (s.iface i).keyFirst + (s.iface i).keyCount * 2 ^ 16
  | .ecount => (s.iface i).ecount
  | .prcap => (s.iface i).prcap.toNat
  | .mailbox k => ((s.iface i).mailbox.get 0 k).toNat

/-- What a port has received and not yet served. -/
def State.portLine (s : State) (port : Nat) : List Instr := s.hostQueue.get [] port

/-- A request joins the line of its port. -/
def State.enqueueHost (s : State) (port : Nat) (i : Instr) : State :=
  { s with hostQueue := s.hostQueue.put port (s.portLine port ++ [i]) }

/-- A posted write: served after every request that its port received before it (R299); while a checkpoint copies, flow control
holds it back (R442). -/
def State.posted (s : State) (iface : Nat) (i : Instr) (f : State → State) : Out :=
  .next (if s.checkpointTo.isSome || !(s.portLine (iface / 128)).isEmpty then s.enqueueHost (iface / 128) i else f s)

/-- A write to a register of one queue of an interface. -/
def State.queueWrite (s : State) (again : Instr) (i off j size : Nat) (w : Word) : Out :=
  s.posted i again fun s => s.barWrite i (off + size * j) w

/-- NOTIFY (R424). -/
def execNotify (iface j : Nat) (w : Word) (s : State) : Out := s.queueWrite (.notify iface j w) iface 0 j 8 w
/-- QCTL (R351, R433). -/
def execQctl (iface j : Nat) (w : Word) (s : State) : Out := s.queueWrite (.qctl iface j w) iface 0x80000 j 32 w
/-- QRING (R433). -/
def execQring (iface j : Nat) (w : Word) (s : State) : Out := s.queueWrite (.qring iface j w) iface 0x80008 j 32 w
/-- QSTOP (R433). -/
def execQstop (iface j : Nat) (w : Word) (s : State) : Out := s.queueWrite (.qstop iface j w) iface 0x80010 j 32 w
/-- REGISTER_WRITE (R433): a doubleword at an offset of the control region. -/
def execRegisterWrite (iface off : Nat) (w : Word) (s : State) : Out :=
  s.posted iface (.registerWrite iface off w) fun s => s.barWrite iface off w

/-! ### The aperture (R299, R323, R430 to R432) -/

/-- The translation of a host access in its interface's address space, or its refusal; a miss is never reported. -/
def State.hostLeaf (s : State) (i dva : Nat) (writes : Bool) : State × Except Completion Leaf :=
  match (s.iface i).asid with
  | none => (s, .error .unsupported)
  | some a =>
    match s.walkNow a dva with
    | (s1, none) => (s1, .error .unsupported)
    | (s1, some l) =>
      if (if writes then !l.w else !l.rd) || l.dev != s.dev.toNat then (s1, .error .unsupported)
      else if !s.keyLive l dva then (s1, .error .abort)
      else (s1, .ok l)

/-- The aligned 16-byte parts of `n` bytes from `a`: first byte and the one after the last. -/
def partsOf (a n : Nat) : List (Nat × Nat) :=
  (List.range ((a + n + 15) / 16 - a / 16)).map fun k => (max a ((a / 16 + k) * 16), min (a + n) ((a / 16 + k) * 16 + 16))

/-- The port of an interface runs CXL (R429). -/
def State.onCxl (s : State) (i : Nat) : Bool := s.cxl.get false (i / 128)

/-- The agents other than the host's own port that hold a sector. -/
def State.notHost (s : State) (i sec : Nat) : List (Nat × SectorState) := (s.agents sec).filter fun p => p.1 != 8 + i / 128

/-- The owners of a sector other than the host's own port write it back first (R299, R325). -/
def State.disown (s : State) (i sec : Nat) : State :=
  (s.notHost i sec).foldl (fun s p => if ownsSector p.2 then s.recallSector p.1 sec else s) s

/-- What a part of a read comes to: data, its refusal with the span and the address it concerns, or waiting for a pool block
(R274) or for its row (R340). -/
inductive ReadEnd where
  | data (bs : List Byte)
  | refused (c : Completion) (span addr : Nat)
  | wait

/-- One part of a read: it touches the block (R274), and owners write the sector back first. -/
def State.readPart (s : State) (i a b : Nat) : State × ReadEnd :=
  match s.hostLeaf i a false with
  | (s, .error c) => (s, .refused c (portSpan i) a)
  | (s, .ok l) =>
    let phys := l.phys a
    let who := PoolUser.host (i / 128)
    if s.rowHeld phys then (s, .wait)
    else match s.touch (phys / 256) who with
    | none => (s.waitPool (s.spanKey (phys / 256)) who, .wait)
    | some s =>
      let x := s.block (phys / 256)
      if x.pres = .poison ∨ (l.once = true ∧ x.pres ≠ .full) then
        (s, .refused (if s.onCxl i then .poisoned [] else .abort) (homeSpan phys) a)
      else
        let s1 := (s.openRow phys).disown i (phys / 64)
        (s1.redirect (phys / 256), .data (s1.mem.readList phys (b - a)))

/-- The parts of a read, until one is refused or waits. -/
def State.readParts (s : State) (i : Nat) : List (Nat × Nat) → List Byte → State × ReadEnd
  | [], acc => (s, .data acc)
  | (a, b) :: ps, acc =>
    match s.readPart i a b with
    | (s1, .data bs) => s1.readParts i ps (acc ++ bs)
    | r => r

/-- What a host receives. -/
def State.completes (s : State) (c : Completion) : State := { s with hostReplies := s.hostReplies ++ [c] }

/-- Bytes returned with poison set: the spec gives them no value. -/
def State.poisonBytes (s : State) (a n : Nat) : List Byte :=
  (List.range n).map fun k => Config.undefByte s.now (2 ^ 64 + a + k)

/-- What a read of the aperture asks for: over PCI Express its bytes at once, over CXL each 64 bytes for themselves (R430). -/
def State.readPieces (s : State) (i a n : Nat) : List (Nat × Nat) :=
  if s.onCxl i && n != 0 then
    (List.range ((a + n + 63) / 64 - a / 64)).map fun k => (max a ((a / 64 + k) * 64), min (a + n) ((a / 64 + k) * 64 + 64))
  else [(a, a + n)]

/-- The pieces of a read of the aperture, which begins at DVA `base`, in order; one that waits is made again from its first part,
with those behind it. -/
def State.readPieceList (s : State) (iface base stop : Nat) : List (Nat × Nat) → State
  | [] => s
  | (a, b) :: ps =>
    match s.readParts iface (partsOf a (b - a)) [] with
    | (s1, .data bs) => (s1.completes (.data bs)).readPieceList iface base stop ps
    | (s1, .wait) =>
      { s1 with hostQueue :=
          s1.hostQueue.put (iface / 128) (.hostRead iface (a - base) (stop - a) :: s1.portLine (iface / 128)) }
    | (s1, .refused c span d) =>
      let c1 := match c with
        | .poisoned _ => .poisoned (s1.poisonBytes a (b - a))
        | c => c
      ((s1.hostRefuse iface span d).completes c1).readPieceList iface base stop ps

/-- A read served: `off` is an offset of the aperture, or 2^40 and more an offset of the control region. -/
def State.hostRead (s : State) (iface off n : Nat) : State :=
  if 2 ^ 40 ≤ off then
    match s.barReg iface (off - 2 ^ 40), n with
    | some r, 8 => s.completes (.data (toBytesLE (s.barRead iface r) 8))
    | _, _ => (s.hostRefuse iface (portSpan iface) (off - 2 ^ 40)).completes .unsupported
  else if s.bootStopped ∨ 4096 < n ∨ 2 ^ 40 < off + n then (s.hostRefuse iface (portSpan iface) off).completes .unsupported
  else
    let base := (s.iface iface).apbase.toNat
    s.readPieceList iface base (base + off + n) (s.readPieces iface (base + off) n)

/-- HOST_READ: after every posted write that its port received before it (R299). -/
def execHostRead (iface off n : Nat) (s : State) : Out :=
  .next (if (s.portLine (iface / 128)).isEmpty then s.hostRead iface off n
    else s.enqueueHost (iface / 128) (.hostRead iface off n))

/-- What a part of a write comes to: performed, refused (whether on a ONCE page, the span), or waiting for a pool block. -/
inductive PartEnd where
  | done (s : State)
  | refused (once : Bool) (span : Nat)
  | wait (s : State)

/-- A part of bytes with their enables as a block sees it: whether byte j of the block is written, and its value. -/
def enabled (o : Nat) (bs : List (Byte × Bool)) (j : Nat) : Bool := decide (o ≤ j ∧ j < o + bs.length) && (bs.getD (j - o) (0, false)).2
def laid (o : Nat) (bs : List (Byte × Bool)) : List Byte := (List.range 256).map fun j => if j < o then 0 else (bs.getD (j - o) (0, false)).1

/-- The words of a block that a part touches; that it writes whole. -/
def touched (o : Nat) (bs : List (Byte × Bool)) : List Nat :=
  (List.range 64).filter fun w => (List.range 4).any fun k => enabled o bs (4 * w + k)
def whole (o : Nat) (bs : List (Byte × Bool)) : List Nat :=
  (List.range 64).filter fun w => (List.range 4).all fun k => enabled o bs (4 * w + k)
def wordMask (ws : List Nat) : BitVec 64 := ws.foldl (fun m w => m ||| ((1 : BitVec 64) <<< w)) 0

/-- Enabled bytes written in order. -/
def State.putEnabled (s : State) (phys : Nat) : List (Byte × Bool) → State
  | [] => s
  | (b, true) :: bs => (s.memWrite phys [b]).putEnabled (phys + 1) bs
  | (_, false) :: bs => s.putEnabled (phys + 1) bs

/-- A part on an OPEN page, at the home: other holders lose the sector, and windows their clean copies of the words (R332). -/
def State.writeOpen (s : State) (i phys : Nat) (bs : List (Byte × Bool)) : State :=
  let s1 := (s.notHost i (phys / 64)).foldl (fun s p => s.recallSector p.1 (phys / 64)) s
  ((s1.dropWords (phys / 256) (wordMask (touched (phys % 256) bs)) none).putEnabled phys bs).redirect (phys / 256)

/-- One part of a write (R124, R430, R431). -/
def State.writePart (s : State) (i a : Nat) (bs : List (Byte × Bool)) : PartEnd :=
  match s.hostLeaf i a true with
  | (_, .error _) => .refused false (portSpan i)
  | (s, .ok l) =>
    let phys := l.phys a
    let b := phys / 256
    let o := phys % 256
    let x := s.block b
    let ws := whole o bs
    let m := wordMask ws
    if s.rowHeld phys then .wait s
    else if !l.once then (if x.pres = .poison then .refused false (homeSpan phys) else .done ((s.openRow phys).writeOpen i phys bs))
    else if (touched o bs).isEmpty then .done s
    else if touched o bs ≠ ws then .refused true (homeSpan phys)
    else match (s.openRow phys).coverWith b m (fun s => s.putWords (b * 256) m (laid o bs) 64) none (.host (i / 128)) with
      | .ok s1 => .done s1
      | .error (some _) => .refused true (homeSpan phys)
      | .error none => .wait (s.waitPool (s.spanKey b) (.host (i / 128)))

/-- A write meets a packet slot of a queue of the interface that holds valid 1, which its host must not write (R421): the
outcome is the error response of R18. -/
def State.slotHeld (s : State) (i a n : Nat) : Bool :=
  match (s.iface i).asid with
  | none => false
  | some asid => (s.ifaceQueues i).any fun q =>
      let x := s.queue q
      x.lg != 0 && (List.range (2 ^ x.lg)).any fun k =>
        let slot := x.ring.toNat + 256 * k
        decide (slot < a + n ∧ a < slot + 256) && ((s.walk asid slot).map fun l => bitAt (s.memRead (l.phys slot) 1) 0) == some true

/-- The parts of a write in order; a refusal off ONCE pages counts once for the request. What waits for a pool block stays at
the head of its port's line with the rest. -/
def State.writeParts (s : State) (i apbase : Nat) (told : Bool) (a : Nat) (bs : List (Byte × Bool)) : List (Nat × Nat) → State
  | [] => s
  | (p, q) :: ps =>
    match s.writePart i p ((bs.drop (p - a)).take (q - p)) with
    | .done s1 => s1.writeParts i apbase told a bs ps
    | .refused once span =>
      (if once || !told then s.hostRefuse i span p else s).writeParts i apbase (told || !once) a bs ps
    | .wait s1 =>
      let rest := bs.drop (p - a)
      let line := Instr.hostWrite i (p - apbase) (rest.map (·.1)) (rest.map (·.2)) :: s1.portLine (i / 128)
      { s1 with hostQueue := s1.hostQueue.put (i / 128) line }

/-- A write served, to the aperture, or to the control region from offset 2^40 on. -/
def State.hostWrite (s : State) (iface off : Nat) (data : List Byte) (mask : List Bool) : State :=
  if 2 ^ 40 ≤ off then
    (if data.length = 8 ∧ mask = List.replicate 8 true then s.barWrite iface (off - 2 ^ 40) (BitVec.ofNat 64 (ofBytesLE data))
     else s.hostRefuse iface (portSpan iface) (off - 2 ^ 40))
  else if s.bootStopped ∨ 512 < data.length ∨ 2 ^ 40 < off + data.length then s.hostRefuse iface (portSpan iface) off
  else
    let base := (s.iface iface).apbase.toNat
    if s.slotHeld iface (base + off) data.length then s.hostRefuse iface (portSpan iface) (base + off)
    else s.writeParts iface base false (base + off) (data.zip mask) (partsOf (base + off) (min data.length mask.length))

/-- HOST_WRITE: a posted write with byte enables. -/
def execHostWrite (iface off : Nat) (data : List Byte) (mask : List Bool) (s : State) : Out :=
  s.posted iface (.hostWrite iface off data mask) fun s => s.hostWrite iface off data mask

/-- A request at the head of a port's line served. -/
def State.hostDo (s : State) : Instr → State
  | .hostWrite i off data mask => s.hostWrite i off data mask
  | .hostRead i off n => s.hostRead i off n
  | .notify i j w => s.barWrite i (8 * j) w
  | .qctl i j w => s.barWrite i (0x80000 + 32 * j) w
  | .qring i j w => s.barWrite i (0x80008 + 32 * j) w
  | .qstop i j w => s.barWrite i (0x80010 + 32 * j) w
  | .registerWrite i off w => s.barWrite i off w
  | _ => s

/-- The line of a port served in order, until a request has to wait. -/
def State.serveLine (s : State) (port : Nat) : Nat → State
  | 0 => s
  | n + 1 =>
    match s.portLine port with
    | [] => s
    | i :: rest =>
      let s1 := { s with hostQueue := if rest.isEmpty then s.hostQueue.drop port else s.hostQueue.put port rest }.hostDo i
      if rest.length < (s1.portLine port).length then s1 else s1.serveLine port n

/-- The lines of the ports, while no checkpoint copies. -/
def State.settleHosts (s : State) : State :=
  if s.checkpointTo.isSome then s
  else (s.hostQueue.map (·.1)).foldl (fun s p => s.serveLine p (s.portLine p).length) s

/-! ### Sectors of a CXL host (R325, R337, R431) -/

/-- A sector given up, or written back, by a host. -/
def State.hostGives (s : State) (port sec : Nat) : State := (s.recallSector (8 + port) sec).redirect (sec / 4)

/-- HOST_SECTOR_REQUEST: sector `sector` of the physical function's aperture in S, E or M; `invalid` gives it up. A ONCE page's
sector is granted in S while its block is FULL, and a window-held line's in S (R332); an owner keeps its right. No host is given in M
the sector of a packet slot that it must not write (R18, R421). -/
def execHostSectorRequest (port sector : Nat) (kind : SectorState) (s : State) : Out :=
  let i := 128 * port
  let dva := (s.iface i).apbase.toNat + 64 * sector
  if s.cxl.get false port = false ∨ s.bootStopped = true then .next s
  else match s.hostLeaf i dva (ownsSector kind) with
    | (s, .error _) => .next (s.hostRefuse i (portSpan i) dva)
    | (s, .ok l) =>
      let sec := l.phys dva / 64
      let b := sec / 4
      let x := s.block b
      if kind = .invalid then .next (s.hostGives port sec)
      else if x.pres = .poison ∨ (l.once = true ∧ x.pres ≠ .full) then .next (s.hostRefuse i (homeSpan (l.phys dva)) dva)
      else
        let has := s.hostSectors.get .invalid (port * 2 ^ 50 + sec)
        let k := if ownsSector has && kind != .modified then has else if l.once || x.win then SectorState.shared else kind
        if k = .modified ∧ s.slotHeld i dva 64 = true then .next (s.hostRefuse i (homeSpan (l.phys dva)) dva)
        else if s.rowHeld (l.phys dva) then .next (s.later (s.now + 1) (.hostSectorRequest port sector kind))
        else .next (s.inTurn b (.hostSectorRequest port sector kind) fun s =>
          match noticesTo sec (ownsSector k) (s.notHost i sec) with
          | n :: ns => s.serveAfter b (n :: ns) (.hostSectorRequest port sector kind)
          | [] =>
            let s1 := (s.openRow (l.phys dva)).setHostSector port sec k
            (if ownsSector k then s1.bump b else s1).redirect b)

/-! ### Function-level reset (R434) -/

/-- Packets of a queue that have been submitted and not taken are discarded: their stores are answered with status 0x82. -/
def State.dropSubmitted (s : State) (q : Nat) : State :=
  let p := q % 16
  let gone := (s.cps.get {} p).submitted.filter fun x => x.1 == q
  let s1 := s.modCp p fun c => { c with submitted := c.submitted.filter fun x => x.1 != q }
  gone.foldl (fun s x =>
    let s2 := s.modCp p fun c => { c with results := c.results.put x.2.2.2 (0x82, 0) }
    match x.2.2.1 with
    | some r => s2.answer r 0
    | none => s2) s1

/-- A queue of a function that is reset: not served, its untaken packets and notices gone. -/
def State.resetQueue (s : State) (q : Nat) : State :=
  let s1 := (s.modQueue q fun x => { x with en := false }).dropSubmitted q
  { s1 with flight := s1.flight.filter fun m =>
      !(field m.hdr.toNat 0 8 == 62 && field (m.payload.headD 0).toNat 32 12 == q && m.dstCore == 8192 + q % 16) }

/-- A core that a discarded crew leaves: the crew's matrix operations go; where no other crew holds it, everything does. -/
def State.clearEngines (s : State) (c core : Nat) : State :=
  let other := s.sharedWith core c
  let mine (op : MxOp) : Bool := (s.thread op.thread).given == some c
  s.modCore core fun k =>
    let k0 := { k with mxQueue := k.mxQueue.filter fun o => !mine o }
    let k1 := if (k.mxRun.map fun p => mine p.1).getD false then { k0 with mxRun := none, mxNeed := [] } else k0
    if other then k1
    else { k1 with pend := [], entries := [], overflow := [], seq := { k1.seq with running := false, out := [], queue := [] } }

/-- What the crew's accesses and set-aside threads wait for is withdrawn, and its copies end. -/
def State.dropAccesses (s : State) (c : Nat) : State :=
  let s1 := (s.crewThreads c).foldl (fun s p => s.withdraw p.1) s
  let s2 := (s1.reqs.filter fun (p : Nat × Req) => p.2.live && p.2.crewId == c).foldl (fun s p => s.withdrawReq p.1) s1
  let gone := s2.asides.filter fun a => a.saved.crewId == c
  let s3 := (gone.foldl State.withdrawAside s2).saveGive (s2.crewOf c).span (1344 * gone.length)
  let s4 := (s3.crewCopies c).foldl (fun s p => s.leaveMiss (.copy p.1 0)) s3
  { s4 with asides := s4.asides.filter fun a => a.saved.crewId != c,
            copies := s4.copies.filter fun (p : Nat × Copy) => p.2.crewId != c }

/-- The slots of a crew emptied. -/
def State.emptySlots (s : State) (c : Nat) : State :=
  { s with threads := s.threads.map fun (p : Nat × Thread) =>
      if p.2.given = some c then
        (p.1, ({ counters := p.2.counters, park := p.2.park, lastAttempt := p.2.lastAttempt } : Thread)) else p }

/-- A crew stopped and discarded without being saved: nothing of it is written back. -/
def State.discardCrew (s : State) (c : Nat) : State :=
  let k := s.crewOf c
  let cores := s.crewCores c
  let s1 := cores.foldl (fun s core => s.clearEngines c core) (s.dropAccesses c)
  let s2 := (s1.crewWindows c).foldl State.closeWindow s1
  let s3 := cores.foldl State.leaveCore (s2.emptySlots c)
  let saved := match k.save with
    | some r => r.size
    | none => 0
  (((s3.failFills c).freeJournal c).saveGive k.span (k.reserved + saved)).modCrew c fun x =>
    { x with status := .discarded, placed := false, preempt := false, reserved := 0, save := none }

/-- One interface reset. -/
def State.resetIface (s : State) (i : Nat) : State :=
  let qs := s.ifaceQueues i
  let mine := (s.launches.filter fun (p : Nat × Launch) => p.2.live && !p.2.completed && qs.contains p.2.queue).map (·.1)
  let s1 := qs.foldl State.resetQueue s
  let s2 := ((s1.crews.filter fun (p : Nat × Crew) => mine.contains p.2.launch && p.2.status != .retired).map (·.1)).foldl
    State.discardCrew s1
  let s3 := mine.foldl (fun s l => s.modLaunch l fun x => { x with live := false }) s2
  match (s.iface i).asid with
  | some a => s3.dropTlb fun e => e.asid == a
  | none => s3

/-- FUNCTION_LEVEL_RESET: of a physical function, every interface of its port. -/
def execFunctionLevelReset (iface : Nat) (s : State) : Out :=
  .next (if iface % 128 = 0 then ((List.range 128).map (iface + ·)).foldl State.resetIface s else s.resetIface iface)

end Sys2Proof.Machine
end

