-- ==== Sys2Proof/Machine/Firmware.lean ====
section
/-! DEFINITION. Command processors (R350, R352, R396 to R398, R422 to R428, R435): the submission of a slot, the acceptance or
rejection of its packet, the status that firmware reads, and the decrement of completion signals. -/

namespace Sys2Proof.Machine

/-! ### Completion signals (R427, R428) -/

/-- A doubleword at its home less 1, modulo 2^64, indivisibly and at its system point: no holder keeps an older copy. -/
def State.decrement (s : State) (phys : Nat) : State :=
  let s1 := s.bringHome phys 8
  s1.coherentWrite phys (toBytesLE (s1.memRead phys 8 + (2 ^ 64 - 1)) 8)

/-- A leaf through which a completion signal may be decremented: both rights, an OPEN page. -/
def Leaf.signals (l : Leaf) : Bool := l.rd && l.w && !l.once

/-- The decrement of the signal at a DVA, where its page allows it. -/
def State.decrementAt (s : State) (asid dva : Nat) : State :=
  match s.walkNow asid dva with
  | (s1, some l) => if l.signals then s1.decrement (l.phys dva) else s1
  | (s1, none) => s1

/-! ### The packet (R422, R423, R435) -/

/-- A field of a packet: `n` bits from bit `lo` of the doubleword at a byte offset. -/
def pkt (p off lo n : Nat) : Nat := field p (8 * off + lo) n

/-- A segment from the images of `sgbase` and `sglim` (R39). -/
def segOfImages (b l : Nat) : Seg :=
  { base := BitVec.ofNat 57 b, length := BitVec.ofNat 57 l, rd := bitAt l 59, w := bitAt l 60, x := bitAt l 61,
    space := match field l 62 2 with
      | 0 => .tcm
      | 1 => .deck
      | 2 => .global
      | _ => .peer }

/-- The segment that a packet gives for `m2` + i. -/
def packetSeg (p i : Nat) : Seg := segOfImages (pkt p (0xA0 + 16 * i) 0 64) (pkt p (0xA8 + 16 * i) 0 64)

def packetStages (p : Nat) : Nat := pkt p 0 12 4 + 1
def packetCrews (p st : Nat) : Nat := field p (8 * 0x40 + 16 * st) 16
def packetEntry (p st : Nat) : Nat := field p (8 * 0x60 + 32 * st) 32

/-- The error-record length, and `tvec`: revision 1 fixes both. -/
def packetErrLen (p : Nat) : Nat := if pkt p 0 1 3 = 1 then 4096 else pkt p 0x20 0 32

/-- The reserved bits of the header in every revision, and those of earlier revisions. -/
def headerReserved (p : Nat) : Bool :=
  let rev := pkt p 0 1 3
  pkt p 0 48 8 != 0 || pkt p 0 39 1 != 0 || pkt p 0 32 1 != 0 || pkt p 0 4 8 != 0 ||
    (decide (rev < 3) && (pkt p 0 33 1 != 0 || pkt p 0 16 16 != 0)) || (decide (rev < 2) && pkt p 0 35 1 != 0)

/-- DVAs, the error record's length, `tvec` and the join word (R362, R377, R422). -/
def addressesBad (p : Nat) : Bool :=
  let rev := pkt p 0 1 3
  let len := packetErrLen p
  pkt p 0x08 57 7 != 0 || pkt p 0x08 0 3 != 0 || pkt p 0x10 57 7 != 0 || pkt p 0x18 57 7 != 0 || pkt p 0x18 0 6 != 0 ||
    pkt p 0x20 32 32 != 0 || (decide (rev < 2) && pkt p 0x20 0 32 != 0) ||
    len % 64 != 0 || decide (len < 128 ∨ 2 ^ 20 < len) ||
    pkt p 0x28 57 7 != 0 || pkt p 0x28 0 1 != 0 || (decide (rev < 2) && pkt p 0x28 0 64 != 0) ||
    pkt p 0x30 32 32 != 0 || (pkt p 0 33 1 == 0 && pkt p 0x30 0 64 != 0)

/-- The crew shape, the stages' crews and entries, the segments: `m7` must carry right x (R422). -/
def shapeBad (p : Nat) : Bool :=
  let cores := pkt p 0x38 0 5
  let threads := pkt p 0x38 8 5
  let deck := pkt p 0x38 16 14
  let stages := List.range 16
  !([1, 2, 4, 8, 16].contains cores) || decide (threads < 1 ∨ 16 < threads ∨ deck < 1 ∨ 8192 < deck) ||
    pkt p 0x38 5 3 != 0 || pkt p 0x38 13 3 != 0 || pkt p 0x38 30 34 != 0 ||
    stages.all (fun i => packetCrews p i == 0) ||
    stages.any (fun i => packetEntry p i % 2 == 1 || (decide (packetStages p ≤ i) && (packetCrews p i != 0 || packetEntry p i != 0))) ||
    (List.range 6).any (fun i => pkt p (0xA0 + 16 * i) 57 7 != 0 || pkt p (0xA8 + 16 * i) 57 2 != 0) || !(packetSeg p 5).x

/-! ### Bays (R352) -/

/-- The `n` spans of a list with the most free cores, the lower number first among equals. -/
def State.freest (s : State) : Nat → List Nat → List Nat
  | 0, _ => []
  | n + 1, spans =>
    match spans.foldl (fun (best : Option Nat) k =>
      match best with
      | none => some k
      | some b => if s.freeInSpan b < s.freeInSpan k then some k else some b) none with
    | none => []
    | some k => k :: s.freest n (spans.filter (· != k))

/-- The spans that a mask names. -/
def maskSpans (m : Nat) : List Nat := (List.range 8).filter fun k => bitAt m k

/-- The spans of a packet's bays, ascending. -/
def State.packetSpans (s : State) (p : Nat) : List Nat :=
  if pkt p 0 40 8 = 0 then sortNat (s.freest (pkt p 0 36 3 + 1) (List.range 8)) else maskSpans (pkt p 0 40 8)

/-- A cluster that could hold a crew of a packet's shape when empty (R353, R365, R410). -/
def State.clusterHolds (s : State) (p cluster : Nat) : Bool :=
  let cores := pkt p 0x38 0 5
  decide ((pkt p 0x38 16 14 * 256 + 4095) / 4096 * 4096 ≤ s.deckOffer cluster) &&
    (List.range (16 / cores)).any fun j => (blockCores cluster cores j).all fun c => s.coreExists c

def State.shapeFits (s : State) (p : Nat) : Bool :=
  (s.packetSpans p).any fun k => (List.range 64).any fun i => s.clusterHolds p (k * 64 + i)

/-! ### The checks of acceptance (R398, R426) -/

/-- A segment that a hold-mode launch may not have: writable, global or peer, over a page that is not ONCE. -/
def State.openInRange (s : State) (asid : Nat) (g : Seg) : Bool :=
  let first := g.base.toNat / 2 ^ 16
  g.w && (g.space == .global || g.space == .peer) && g.length != 0 &&
    (List.range ((g.base.toNat + g.length.toNat - 1) / 2 ^ 16 - first + 1)).any fun i =>
      match s.walk asid ((first + i) * 2 ^ 16) with
      | some l => !l.once
      | none => false

/-- The base of a segment translates with the rights that the segment grants and to the device its space requires (R342). -/
def State.segBaseBad (s : State) (asid : Nat) (g : Seg) : Bool :=
  (g.space == .global || g.space == .peer) && g.length != 0 &&
    (match s.walk asid g.base.toNat with
      | none => true
      | some l => ((g.rd || g.x) && !l.rd) || (g.w && !l.w) || (decide (l.dev = s.dev.toNat) == (g.space == .peer)))

/-- The completion signal's own translation or rights fail. -/
def State.signalBad (s : State) (asid p : Nat) : Bool :=
  match s.walk asid (pkt p 0x08 0 57) with
  | some l => !l.signals
  | none => true

/-- The status of a packet: the checks in order, the first that fails deciding. -/
def State.packetStatus (s : State) (q asid p : Nat) : Nat :=
  let rev := pkt p 0 1 3
  let x := s.queue q
  if rev < 1 ∨ 3 < rev then 0x81
  else if headerReserved p || addressesBad p || shapeBad p || !s.shapeFits p then 0x82
  else if pkt p 0 40 8 ≠ 0 ∧ (maskSpans (pkt p 0 40 8)).length ≠ pkt p 0 36 3 + 1 then 0x83
  else if x.phold && x.pfrac != 0 && (List.range 6).any (fun i => s.openInRange asid (packetSeg p i)) then 0x84
  else if s.signalBad asid p ||
      (match s.walk asid (pkt p 0x18 0 57) with
        | some l => !(l.rd && l.w)
        | none => true) || (List.range 6).any (fun i => s.segBaseBad asid (packetSeg p i)) then 0x85
  else 0x01

/-! ### The launch (R352, R396, R397) -/

/-- The launch of an accepted packet. -/
def State.newLaunch (s : State) (q slot asid p : Nat) (crews : List Nat) : Launch :=
  let cp := q % 16
  let x := s.queue q
  let seg (m : Tab Seg) (i : Nat) : Tab Seg := m.put (i + 2) (packetSeg p i)
  { live := true, serial := BitVec.ofNat 64 (cp * 2 ^ 56 + 1 + (s.cps.get {} cp).accepted), cp := cp, queue := q, slot := slot,
    asid := asid, signal := BitVec.ofNat 57 (pkt p 0x08 0 57), arg := BitVec.ofNat 57 (pkt p 0x10 0 57),
    errDva := BitVec.ofNat 57 (pkt p 0x18 0 57), errLen := packetErrLen p, tvec := BitVec.ofNat 57 (pkt p 0x28 0 57),
    join := if pkt p 0 33 1 = 1 then some (pkt p 0x30 0 32) else none, cores := pkt p 0x38 0 5, threads := pkt p 0x38 8 5,
    deck := pkt p 0x38 16 14 * 256, stageCrews := (List.range (packetStages p)).map (packetCrews p),
    entries := (List.range (packetStages p)).map (packetEntry p), segs := (List.range 6).foldl seg [],
    nbay := pkt p 0 36 3 + 1, nstage := packetStages p, spans := s.packetSpans p, lend := pkt p 0 35 1 == 1,
    priv := pkt p 0 34 1 == 1 && s.queueIface q % 128 == 0, shared := BitVec.ofNat 16 (pkt p 0 16 16), pfrac := x.pfrac,
    phold := x.phold, order := s.nextLaunch, crews := crews }

/-- The crews of one stage, from number `num` and identifier `id` on; crew c goes to bay c mod nbay. -/
def stageCrews (l : Launch) (lid stage num id : Nat) : Nat → List (Nat × Crew)
  | 0 => []
  | n + 1 =>
    let bay := num % l.nbay
    let k : Crew := { launch := lid, num := num, stage := stage, bay := bay, span := l.spans.getD bay 0 }
    (id, k) :: stageCrews l lid stage (num + 1) (id + 1) n

/-- The crews of the stages from `stage` on. -/
def allCrews (l : Launch) (lid stage num id : Nat) : List Nat → List (Nat × Crew)
  | [] => []
  | n :: ns => stageCrews l lid stage num id n ++ allCrews l lid (stage + 1) (num + n) (id + n) ns

/-- An accepted packet: its launch, its crews pending, its error record's header, with count 0, its capacity and corr 0 (R377), its
processor's serial. -/
def State.createLaunch (s : State) (q slot asid p : Nat) : State :=
  let lid := s.nextLaunch
  let total := ((List.range 16).map (packetCrews p)).foldl (· + ·) 0
  let l := s.newLaunch q slot asid p ((List.range total).map (s.nextCrew + ·))
  let cs := allCrews l lid 0 0 s.nextCrew l.stageCrews
  let s1 := { s with launches := s.launches.put lid l, nextLaunch := lid + 1,
                     crews := cs.foldl (fun (m : Tab Crew) (c : Nat × Crew) => m.put c.1 c.2) s.crews, nextCrew := s.nextCrew + total }
  (s1.putAt asid l.errDva.toNat (toBytesLE ((l.errLen - 64) / 64 * 2 ^ 64) 24)).modCp (q % 16) fun c => { c with accepted := c.accepted + 1 }

/-! ### Taking a packet (R350, R426, R427) -/

/-- The outcome of acceptance for a slot: the state, the status and the handle. A ring that does not translate gives 0x85. -/
def State.accept (s : State) (q slot : Nat) : State × Nat × Nat :=
  let x := s.queue q
  let dva := x.ring.toNat + 256 * (slot % 2 ^ x.lg)
  match (s.iface (s.queueIface q)).asid with
  | none => (s, 0x85, 0)
  | some asid =>
    match s.walkNow asid dva with
    | (s, none) => (s, 0x85, 0)
    | (s, some l) =>
      let s := s.bringHome (l.phys dva) 256
      let p := s.memRead (l.phys dva) 256
      let st := s.packetStatus q asid p
      if st = 0x01 then (s.createLaunch q slot asid p, st, s.nextLaunch)
      else (s.decrementAt asid (pkt p 0x08 0 57), st, 0)

/-- An answer to a store of firmware. -/
def State.answerIf (s : State) (r : Option Nat) : State :=
  match r with
  | some k => s.answer k 0
  | none => s

/-- The result of a submission, and the reply of its store. -/
def State.decided (s : State) (cp slot : Nat) (r : Option Nat) (st handle : Nat) : State :=
  (s.modCp cp fun c => { c with results := c.results.put slot (st, handle) }).answerIf r

/-- A processor may take a packet: none in the last 256 ticks, and acceptance is not stopped (R350, R439, R442). -/
def State.mayTake (s : State) (cp : Nat) : Bool :=
  s.checkpointTo.isNone && !s.bootStopped &&
    (match (s.cps.get {} cp).lastAccept with
      | none => true
      | some t => decide (t + 256 ≤ s.now))

/-- The submission that is taken next: the order of R357 over queues that are served, first come within a queue. -/
def State.nextSubmitted (s : State) (cp : Nat) : Option (Nat × Nat × Option Nat × Nat) × State :=
  let xs := (s.cps.get {} cp).submitted.filter fun x => (s.queue x.1).en
  let qs := sortNat (xs.map (·.1))
  let k := 16 + cp
  let s0 := s.dropTurns k (qs.map fun q => s.eff k q)
  let top := (qs.map fun q => s.eff k q).foldl max 0
  let here := qs.filter fun q => s.eff k q == top
  if here.isEmpty then (none, s0)
  else
    let turn := s.turnAt k top here
    let q := turn.queue.getD 0
    (xs.find? fun x => x.1 == q, { s0 with turns := s0.turns.put (k * 16 + top) { turn with credit := turn.credit - 1 },
                                           qwait := s0.qwait.put (k * 4096 + q) 0 })

/-- One packet taken: accepted or rejected, and its store answered. -/
def State.takePacket (s : State) (cp : Nat) : State :=
  if !s.mayTake cp then s
  else match s.nextSubmitted cp with
    | (none, s1) => s1
    | (some (q, slot, r, th), s1) =>
      let s2 := s1.modCp cp fun c => { c with submitted := dropFirst (· == (q, slot, r, th)) c.submitted, lastAccept := some s.now }
      let (s3, st, handle) := s2.accept q slot
      s3.decided cp th r st handle

/-- PACKET_TAKE: a processor takes the next submitted packet of one of its queues. -/
def execPacketTake (cp : Nat) (s : State) : Out := .next (s.takePacket cp)

/-- The store that a step of the control page stands for, and the list without it. -/
def takeStore (w : Word) (xs : List (Nat × Word)) : Option Nat × List (Nat × Word) :=
  ((xs.find? fun p => p.2 == w).map (·.1), dropFirst (fun p => p.2 == w) xs)

/-- CLAUNCH: a store that sets a reserved bit, or names a queue that this processor does not serve, is ignored with status
0x82; otherwise the slot is submitted, and taken as soon as R350 allows. -/
def execClaunch (cp : Nat) (w : Word) (s : State) : Out :=
  let (r, rest) := takeStore w (s.cps.get {} cp).launchReqs
  let th := match r with
    | some k => slotOf (s.req k).thread
    | none => 0
  let s1 := s.modCp cp fun c => { c with launchReqs := rest }
  let q := field w.toNat 32 12
  if 2 ^ 44 ≤ w.toNat ∨ q % 16 ≠ cp ∨ (s.queue q).lg = 0 then .next (s1.decided cp th r 0x82 0)
  else
    let s2 := s1.modCp cp fun c => { c with submitted := c.submitted ++ [(q, field w.toNat 0 32, r, th)] }
    .next (s2.takePacket cp)

/-- CSTAT: the status of the reading thread's last `claunch` store in [7:0], the launch's handle in [63:32]. -/
def execCstat (cp : Nat) (s : State) : Out :=
  match (s.cps.get {} cp).statReqs with
  | [] => .next s
  | r :: rest =>
    .next ((s.modCp cp fun c => { c with statReqs := rest }).answer r
      (BitVec.ofNat 128 (s.controlWord (s.req r).thread cp 8)))

/-- CDEC: the completion signal of a launch that this processor serves is decremented once, and its handle retired; another
handle is ignored. The reply follows the decrement. The decrement follows every write of the launch (R299): while one of its
windows is still written back, the store waits. -/
def execCdec (cp : Nat) (w : Word) (s : State) : Out :=
  let (r, rest) := takeStore w (s.cps.get {} cp).decReqs
  let s1 := s.modCp cp fun c => { c with decReqs := rest }
  let l := s.launchOf w.toNat
  if l.live && l.cp == cp && !l.signalled && !(s.launchWindows w.toNat).isEmpty then .next (s.later (s.now + 1) (.cdec cp w))
  else if l.live && l.cp == cp && !l.signalled then
    .next (((s1.decrementAt l.asid l.signal.toNat).modLaunch w.toNat fun x => { x with signalled := true }).answerIf r)
  else .next (s1.answerIf r)

end Sys2Proof.Machine
end

