-- ==== Sys2Proof/Machine/Keys.lean ====
section
/-! DEFINITION. Key IDs (R121, R437, R438): loading, destroying, clearing and releasing. -/

namespace Sys2Proof.Machine

def State.keyId (s : State) (id : Nat) : Key := s.keys.get {} id
def State.modKey (s : State) (id : Nat) (f : Key → Key) : State := { s with keys := s.keys.put id (f (s.keyId id)) }

/-- A physical address of this device that lies in one of an ID's ranges. -/
def State.underKey (s : State) (id phys : Nat) : Bool :=
  phys / 2 ^ 48 == s.dev.toNat && (s.keyId id).ranges.any fun r => decide (r.1 ≤ phys % 2 ^ 48 ∧ phys % 2 ^ 48 < r.1 + r.2)

/-- An ID and ranges that a load may name: 1 to 511, up to eight ranges of HBM4. -/
def loadable (id : Nat) (ranges : List (Nat × Nat)) : Bool :=
  decide (1 ≤ id ∧ id ≤ 511) && decide (ranges.length ≤ 8) && ranges.all fun r => decide (r.1 + r.2 ≤ hbmEnd)

/-- KEY_LOAD: a free ID becomes live; a dead one begins to clear under its new key. -/
def execKeyLoad (id : Nat) (key : BitVec 512) (ranges : List (Nat × Nat)) (s : State) : Out :=
  if !loadable id ranges then .next s
  else match (s.keyId id).state with
    | .free => .next (s.modKey id fun _ => { state := .live, key := key, ranges := ranges })
    | .dead => .next (s.modKey id fun _ => { state := .clearing, key := key, ranges := ranges })
    | .live => .next s
    | .clearing => .next s

/-! ### Destruction -/

/-- Cached sectors of the ID, in cluster caches and with hosts, dropped with what they hold modified. -/
def State.dropKeySectors (s : State) (id : Nat) : State :=
  let mine (p : Nat × SectorState) : Bool := s.underKey id (p.1 % 2 ^ 50 * 64)
  { s with cache := s.cache.filter fun p => !mine p, hostSectors := s.hostSectors.filter fun p => !mine p,
           sectorDir := s.sectorDir.filter fun (p : Nat × SectorEntry) => !s.underKey id (p.1 * 256) }

/-- A window's block that maps a page of the ID loses every word and its translation. -/
def WinBlock.lost (b : WinBlock) : WinBlock := { b with state := .u, valid := 0, dirty := 0, mapped := false }

/-- Window words of the ID dropped, those dirty unwritten; write-backs of them that are in flight too. -/
def State.dropKeyWindows (s : State) (id : Nat) : State :=
  let lost (q : Nat × WinBlock) : Bool := q.2.mapped && s.underKey id q.2.phys
  let s1 := s.windows.foldl (fun s (p : Nat × Window) =>
    (p.2.blocks.filter lost).foldl (fun s (q : Nat × WinBlock) =>
      (s.modWinBlock p.1 q.1 WinBlock.lost).failTouching p.1 q.1 .deadkey) s) s
  { s1 with writeBacks := s1.writeBacks.filter fun (p : Nat × WriteBack) => !s.underKey id (p.2.block * 256) }

/-- The accesses in flight to pages of the ID, the parked ones and the queued holds among them, trap DEADKEY. -/
def State.failKeyReqs (s : State) (id : Nat) : State :=
  (s.reqs.filter fun (p : Nat × Req) =>
    p.2.live && (p.2.space == .global || p.2.space == .peer) && s.underKey id p.2.phys &&
      (p.2.status == .issued || p.2.status == .blocked || p.2.status == .awaiting || p.2.status == .parked)).foldl
    (fun s p => s.refuse p.1 .deadkey p.2.dva.toNat) s

/-- What the homes of the ID's blocks keep of park waiters and queued holds ends, and the pool blocks are freed; an arm waiter
stays (R278). A reservation ends with the queue (DESIGN CHOICE, assumption 105). -/
def State.dropKeyWaiters (s : State) (id : Nat) : State :=
  (s.blocks.filter fun (p : Nat × Block) => s.underKey id (p.1 * 256)).foldl (fun s p =>
    let s1 := s.keepWaiters p.1 fun w => w.arm
    if (s1.block p.1).entry.isNone then s1
    else (((s1.setHolds p.1 [] .home).getD s1).modBlock p.1 fun x =>
      { x with entry := some { x.fill with res := none } }).tidy p.1) s

/-- Copies that wait at a block of the ID make their access again, and fail (R199). -/
def State.wakeKeyCopies (s : State) (id : Nat) : State :=
  (s.copies.filter fun (p : Nat × Copy) => match p.2.heldOn with
    | some b => s.underKey id (b * 256)
    | none => false).foldl
    (fun s p => ({ s with copies := s.copies.put p.1 { p.2 with heldOn := none } }).emit (.copyUnitRequest p.2.core)) s

/-- KEY_DESTROY: a live ID dies, and with it everything held under it, in one step. -/
def execKeyDestroy (id : Nat) (s : State) : Out :=
  if (s.keyId id).state ≠ .live then .next s
  else
    let s1 := s.modKey id fun k => { k with state := .dead, key := 0 }
    let s2 := ((s1.dropKeySectors id).dropKeyWindows id).failKeyReqs id
    let s3 := ((s2.dropKeyWaiters id).wakeKeyCopies id).dropTlb fun e => e.toLeaf.key == id && e.toLeaf.dev == s.dev.toNat
    .next s3

/-! ### Clearing and release -/

/-- Every byte of the ID's ranges reads 0, and every block of them is EMPTY at generation 0; the pool blocks of the lists and
entries that end are freed. -/
def State.clearRanges (s : State) (id : Nat) : State :=
  let gone := s.blocks.filter fun (p : Nat × Block) => s.underKey id (p.1 * 256)
  let s1 := gone.foldl (fun s (p : Nat × Block) => s.poolGive (s.spanKey p.1) (p.2.chain ++ p.2.fill.blocks)) s
  { s1 with
    mem := s.mem.filter fun (p : Nat × Byte) => !s.underKey id p.1,
    blocks := s.blocks.filter fun (p : Nat × Block) => !s.underKey id (p.1 * 256) }

/-- KEY_CLEARING_DONE: the ID becomes live once its ranges have been cleared. -/
def execKeyClearingDone (id : Nat) (s : State) : Out :=
  if (s.keyId id).state ≠ .clearing then .next s
  else .next ((s.clearRanges id).modKey id fun k => { k with state := .live })

/-- KEY_RELEASE: a dead or clearing ID becomes free. -/
def execKeyRelease (id : Nat) (s : State) : Out :=
  match (s.keyId id).state with
  | .dead => .next (s.modKey id fun _ => {})
  | .clearing => .next (s.modKey id fun _ => {})
  | .free => .next s
  | .live => .next s

end Sys2Proof.Machine
end

