-- ==== Sys2Proof/Machine/Sha.lean ====
section
/-! DEFINITION. SHA-512 (R439, R440) over bytes. The spec names the hash and takes it from its standard, which derives every
constant from the first primes: the model computes them in the same way. -/

namespace Sys2Proof.Machine

/-- The first 80 primes. -/
def hashPrimes : List Nat :=
  (List.range 410).filter fun n => decide (2 ≤ n) && (List.range n).all fun d => decide (d < 2) || n % d != 0

/-- The first 64 bits after the point of the `k`th root of `n`: the root is found bit by bit from above. -/
def rootBits (k n : Nat) : Word :=
  BitVec.ofNat 64 ((List.range 72).foldl (fun r i =>
    if (r + 2 ^ (71 - i)) ^ k ≤ n * 2 ^ (64 * k) then r + 2 ^ (71 - i) else r) 0)

/-- The exclusive or of a word's rotations. -/
def turned (x : Word) (ns : List Nat) : Word := ns.foldl (fun y n => y ^^^ x.rotateRight n) 0

/-- One round on the eight words of a state, with its constant and its word of the message added together. -/
def hashRound (x : List Word) (kw : Word) : List Word :=
  let v (i : Nat) : Word := x.getD i 0
  let t := kw + v 7 + turned (v 4) [14, 18, 41] + (v 6 ^^^ (v 4 &&& (v 5 ^^^ v 6)))
  (t + turned (v 0) [28, 34, 39] + ((v 0 &&& v 1) ||| (v 2 &&& (v 0 ||| v 1)))) ::
    List.zipWith (· + ·) (x.take 7) [0, 0, 0, t, 0, 0, 0]

/-- The words of a message, the newest in front, with `n` more. -/
def hashWords : Nat → List Word → List Word
  | 0, ws => ws
  | n + 1, ws =>
    let near := ws.getD 1 0
    let far := ws.getD 14 0
    hashWords n ((ws.getD 15 0 + ws.getD 6 0 + (turned far [1, 8] ^^^ far >>> 7) + (turned near [19, 61] ^^^ near >>> 6)) :: ws)

/-- Bytes read most significant first. -/
def ofBytesBE (bs : List Byte) : Nat := bs.foldl (fun n b => n * 256 + b.toNat) 0
/-- The `n` low bytes of a number, most significant first. -/
def toBytesBE (x n : Nat) : List Byte := (toBytesLE x n).reverse

/-- A state after 128 bytes of the padded message. -/
def hashBlock (x : List Word) (bs : List Byte) : List Word :=
  let ws := (List.range 16).map fun i => BitVec.ofNat 64 (ofBytesBE ((bs.drop (8 * i)).take 8))
  let kws := List.zipWith (· + ·) (hashPrimes.map (rootBits 3)) (hashWords 64 ws.reverse).reverse
  List.zipWith (· + ·) x (kws.foldl hashRound x)

/-- A message with its padding: a one, zeros, and its length in bits as 16 bytes. -/
def hashPadded (bs : List Byte) : List Byte :=
  bs ++ 0x80 :: List.replicate ((239 - bs.length % 128) % 128) 0 ++ toBytesBE (8 * bs.length) 16

/-- The digest of a message, as its 64 bytes. -/
def sha512 (bs : List Byte) : List Byte :=
  let p := hashPadded bs
  let start := (hashPrimes.take 8).map (rootBits 2)
  ((List.range (p.length / 128)).foldl (fun x i => hashBlock x ((p.drop (128 * i)).take 128)) start).flatMap fun w =>
    toBytesBE w.toNat 8

end Sys2Proof.Machine
end

