-- ==== Sys2Proof/Machine/Package.lean ====
section
/-! DEFINITION. The package (R429, R434, R439, R440, R442 to R444): Aetheth's boot chain and measurements, attestation, the
signed configuration, checkpoints, power. -/

namespace Sys2Proof.Machine

/-! ### Measurements (R439) -/

/-- MEAS := SHA-512(MEAS ‖ digest). -/
def extend (m digest : BitVec 512) : BitVec 512 :=
  BitVec.ofNat 512 (ofBytesBE (sha512 (toBytesBE m.toNat 64 ++ toBytesBE digest.toNat 64)))

/-- The boot chain from a stage on: each image that passes is measured, the first that fails stops the chain. -/
def State.bootFrom (s : State) (stage : Nat) : Nat → State
  | 0 => s
  | n + 1 =>
    if Config.imageOk s.resets stage then
      ({ s with meas := s.meas.put (stage - 1) (extend (s.meas.get 0 (stage - 1)) (Config.imageDigest s.resets stage)),
                secVersions := s.secVersions.put stage (Config.imageVersion s.resets stage).toNat }).bootFrom (stage + 1) n
    else { s with bootStopped := true }

/-- The bytes of a region that the configuration gives a span, from `lo` to `hi` MiB in steps, or its default; a size that is none
of these counts as not given (DESIGN CHOICE, assumption 116). -/
def regionSizes (config : Tab Word) (first lo hi step dflt : Nat) : Tab Nat :=
  (List.range 8).foldl (fun (m : Tab Nat) k =>
    let n := match config.find (first + k) with
      | some w => if lo * 2 ^ 20 ≤ w.toNat ∧ w.toNat ≤ hi * 2 ^ 20 ∧ w.toNat % step = 0 then w.toNat else dflt * 2 ^ 20
      | none => dflt * 2 ^ 20
    m.put k n) []

/-- The configuration applied: the ports' modes (fields 0 and 1), the queues of port 0 (field 2), the bytes of each span's
pool, journal and save regions (fields from 8, 16 and 24). -/
def State.configure (s : State) : State :=
  { s with active := s.config,
           cxl := (List.range 2).foldl (fun (m : Tab Bool) p => m.put p (s.config.get 0 p == 1)) [],
           pool := (regionSizes s.config 8 1 1024 256 64).map fun (p : Nat × Nat) => (p.1, p.2 / 256),
           journalSize := regionSizes s.config 16 0 4096 (64 * 2 ^ 20) 1024, saveSize := regionSizes s.config 24 64 4096 (64 * 2 ^ 20) 512 }

/-- PACKAGE_RESET: the reset values, new keys (R397), the boot chain, the configuration it verified. Scores, pass counts and
closed sites survive (R409); injectors do not (R369). -/
def execPackageReset (s : State) : Out :=
  let n := s.resets + 1
  let sites := s.sites.map fun (p : Nat × Site) => (p.1, { p.2 with injector := 0, closed := p.2.closed || p.2.closing, closing := false })
  let s0 : State := { dev := s.dev, resets := n, sites := sites, config := s.config, ks := Config.drawnKey n 0,
                      k1 := Config.drawnKey n 1, k2 := Config.drawnKey n 2 }
  let s1 := s0.bootFrom 1 5
  .next (if s1.bootStopped then s1 else s1.configure)

/-- MEASUREMENT_EXTENSION: a signed command extends MEAS5, MEAS6 or MEAS7. -/
def execMeasurementExtension (reg : Nat) (digest : BitVec 512) (signed : Bool) (s : State) : Out :=
  .next (if signed = true ∧ 5 ≤ reg ∧ reg ≤ 7 then { s with meas := s.meas.put reg (extend (s.meas.get 0 reg) digest) } else s)

/-! ### Attestation and configuration (R440) -/

/-- The sites that are closed. -/
def State.closedSites (s : State) : Nat := (s.sites.filter fun (p : Nat × Site) => p.2.closed).length

/-- A report: the nonce, the serial number, MEAS0 to MEAS7, the security versions of stages 1 to 5, the count of closed sites. -/
def State.attestReport (s : State) (nonce : BitVec 512) : List Byte :=
  toBytesLE nonce.toNat 64 ++ toBytesLE Config.deviceSerial.toNat 8 ++
    ((List.range 8).flatMap fun k => toBytesBE (s.meas.get 0 k).toNat 64) ++
    ((List.range 5).flatMap fun k => toBytesLE (s.secVersions.get 0 (k + 1)) 8) ++ toBytesLE s.closedSites 8

/-- ATTESTATION_REQUEST: the report with its signature. -/
def execAttestationRequest (port : Nat) (nonce : BitVec 512) (s : State) : Out :=
  let r := s.attestReport nonce
  .next (if port < 2 then { s with attestations := s.attestations ++ [r ++ Config.signature r] } else s)

/-- CONFIGURATION_CHANGE: only a signed command changes the stored configuration; the next boot applies it (R429). -/
def execConfigurationChange (field : Nat) (value : Word) (signed : Bool) (s : State) : Out :=
  .next (if signed then { s with config := s.config.put field value } else s)

/-! ### Checkpoint (R442) -/

/-- Nothing stands between the device and its HBM4: every crew is saved or pending, no thread but firmware lives, no window is
open, no write-back is in flight. -/
def State.drained (s : State) : Bool :=
  s.crews.all (fun (p : Nat × Crew) => p.2.status != .resident && p.2.status != .stopping && !p.2.placed) &&
    s.threads.all (fun (p : Nat × Thread) => isFirmware p.1 || p.2.state == .free) &&
    s.windows.all (fun (p : Nat × Window) => !p.2.valid) && s.writeBacks.isEmpty

/-- The cells of this device by local address. -/
def State.ownMem (s : State) : Mem :=
  (s.mem.filter fun (p : Nat × Byte) => p.1 / 2 ^ 48 == s.dev.toNat).map fun p => (p.1 % 2 ^ 48, p.2)

/-- The image of a device. -/
def State.image (s : State) : Refuge :=
  { mem := s.ownMem,
    blocks := (s.blocks.filter fun (p : Nat × Block) => p.1 / 2 ^ 40 == s.dev.toNat).map fun p => (p.1 % 2 ^ 40, p.2),
    keys := s.keys.filter fun (p : Nat × Key) => p.2.state == .live, launches := s.launches, crews := s.crews,
    journal := s.journal, journalCopy := s.journalCopy, mapped := s.mapped, pool := s.poolUsed }

/-- Every cached sector recalled and written back, those of hosts too. -/
def State.recallAll (s : State) : State :=
  let bs := ((s.cache ++ s.hostSectors).map fun (p : Nat × SectorState) => p.1 % 2 ^ 50 / 4).eraseDups
  bs.foldl (fun s b => (s.clearSectors b).redirect b) s

/-- CHECKPOINT: acceptance stops and every crew is pre-empted; once the device has drained, its image stands in the buddy's
refuge and acceptance resumes. -/
def execCheckpoint (buddy : Nat) (s : State) : Out :=
  match s.checkpointTo with
  | none =>
    if buddy == s.dev.toNat || !s.reaches buddy then .next s
    else
      let crews := (s.crews.filter fun (p : Nat × Crew) => p.2.status == .resident).map (·.1)
      let s1 := crews.foldl (fun s c => (s.modCrew c fun k => { k with preempt := true }).emit (.preemptionRequest c))
        { s with checkpointTo := some buddy }
      .next (s1.later (s.now + 1) (.checkpoint buddy))
  | some b =>
    if b ≠ buddy then .next s
    else if s.drained then
      let s1 := s.recallAll
      .next { s1 with refuge := s1.refuge.put buddy s1.image, checkpointTo := none }
    else .next (s.later (s.now + 1) (.checkpoint buddy))

/-- CHECKPOINT_RESTORE: a device that runs nothing takes the image and its keys; its pending crews are placed again. -/
def execCheckpointRestore (buddy : Nat) (s : State) : Out :=
  match s.refuge.find buddy with
  | none => .next s
  | some r =>
    if !s.drained then .next s
    else
      let d := s.dev.toNat
      let others := s.mem.filter fun (p : Nat × Byte) => p.1 / 2 ^ 48 != d
      let mem := r.mem.foldl (fun (m : Mem) (c : Nat × Byte) => m.write (d * 2 ^ 48 + c.1) c.2) others
      let away := s.blocks.filter fun (p : Nat × Block) => p.1 / 2 ^ 40 != d
      let blocks := r.blocks.foldl (fun (m : Tab Block) (c : Nat × Block) => m.put (d * 2 ^ 40 + c.1) c.2) away
      .next { s with mem := mem, blocks := blocks, keys := r.keys, launches := r.launches, crews := r.crews, journal := r.journal,
                     journalCopy := r.journalCopy, mapped := r.mapped, poolUsed := r.pool,
                     nextLaunch := r.launches.foldl (fun n (p : Nat × Launch) => max n (p.1 + 1)) s.nextLaunch,
                     nextCrew := r.crews.foldl (fun n (p : Nat × Crew) => max n (p.1 + 1)) s.nextCrew }

/-! ### Power (R443, R444) -/

/-- POWER_LIMIT_WRITE: from 1,200 W to 2,600 W. -/
def execPowerLimitWrite (watts : Nat) (s : State) : Out :=
  .next (if 1200 ≤ watts ∧ watts ≤ 2600 then { s with powerLimit := watts } else s)

def Power.down : Power → Power
  | .p0 => .p1
  | .p1 => .p2
  | .p2 => .p3
  | .p3 => .p3
  | .idle => .idle

def Power.up : Power → Power
  | .p0 => .p0
  | .p1 => .p0
  | .p2 => .p1
  | .p3 => .p2
  | .idle => .idle

/-- POWER_STEP_DOWN: the 10 ms average exceeds the limit. -/
def execPowerStepDown (s : State) : Out := .next { s with power := s.power.down }
/-- POWER_STEP_UP: 100 ms below 90 % of the limit. -/
def execPowerStepUp (s : State) : Out := .next { s with power := s.power.up }

end Sys2Proof.Machine
end

