-- ==== Sys2Proof/Machine/Tick.lean ====
section
/-! DEFINITION. The tick (R14, R21, R26, R38, R250 to R256, R319): the register writes that fall due, the waits whose
condition holds, `h31`, the steps that are due or that an engine, a network or a distributor may make, the counters, and
the selection of the threads that attempt a unit. -/

namespace Sys2Proof.Machine

/-! ### Register writes that fall due (R21, R22, R24) -/

/-- A core holds a thread. -/
def State.occupied (s : State) (core : Nat) : Bool := (List.range 16).any fun i => (s.thread (core * 16 + i)).live

/-- A push onto the queue toward a direction; a core that every thread has left takes none (R22). -/
def State.pushTo (s : State) (core dir : Nat) (f : Core → Core) : State :=
  match neighbour core dir with
  | none => s
  | some c => if s.occupied c then s.modCore c f else s

/-- The latches of a core's threads that record a shared vector register lose their hold bits (R247). -/
def State.clearShared (s : State) (core : Nat) (f : RegField) : State :=
  { s with threads := s.threads.map fun (p : Nat × Thread) => if coreOf p.1 = core then (p.1, p.2.clearLatches f) else p,
           asides := s.asides.map fun a => if coreOf a.thread = core then { a with saved := a.saved.clearLatches f } else a }

/-- An entry released through `h29`: the slot has claimed it (R24). -/
def State.releaseEntry (s : State) (core slot addr : Nat) : State :=
  match ((s.core core).entries.find? fun (p : Nat × RingEntry) =>
      entryAddress p.1 == addr && p.2.state == .claimed slot) with
  | some p => s.freeRingEntry core p.1
  | none => s

/-- A value arrives at a destination of a slot of a core. -/
def State.land (s : State) (core slot : Nat) (d : Dest) (v : VWord) : State :=
  match d with
  | .own _ => s.placeOwn (core * 16 + slot) d v
  | .ownV _ => s.placeOwn (core * 16 + slot) d v
  | .discard _ => s
  | .flags => s.raise (core * 16 + slot) (v.setWidth 5)
  | .shared n => s.modCore core fun c =>
      { c with h := c.h.put n (v.setWidth 64), poisoned := c.poisoned.filter fun p => p != n + 32 }
  | .sharedV n =>
    (s.modCore core fun c =>
      { c with w := c.w.put n v, poisoned := c.poisoned.filter fun p => p != n + 96 }).clearShared core (BitVec.ofNat 6 (32 + n))
  | .port dir => s.pushTo core dir fun c =>
      { c with portQ := c.portQ.put (opposite dir) (c.portQ.get [] (opposite dir) ++ [v.setWidth 64]) }
  | .portV dir => s.pushTo core dir fun c =>
      { c with portVQ := c.portVQ.put (opposite dir) (c.portVQ.get [] (opposite dir) ++ [v]) }
  | .release => s.releaseEntry core slot (v.setWidth 64).toNat

/-- A destination that a check point of a twin pair writes in both members (R245). -/
def Dest.mirrored : Dest → Bool
  | .own _ => true
  | .ownV _ => true
  | .flags => true
  | .shared _ => true
  | .sharedV _ => true
  | _ => false

/-- The flags of a unit written: a CSR write of the unit (R156, R411). -/
def State.performFlags (s : State) (core : Nat) (w : PendWrite) : State :=
  let t := core * 16 + w.slot
  let s1 := s.land core w.slot .flags w.value
  let s2 := if w.both then s1.raise (partner t) (w.value.setWidth 5) else s1
  if w.noted then s2.noteFor t w.both (csrBytes 2 (s2.thread t).fflags.toNat) else s2

/-- The write of a register performed: the site's injector counts it, the fingerprints take it, the value arrives (R21, R369,
R411). -/
def State.performRegister (s : State) (core : Nat) (w : PendWrite) : State :=
  let t := core * 16 + w.slot
  let (v, s1) := s.inject core w.major w.value.toNat w.dest.width
  let s2 := if w.noted then s1.noteFor t w.both (w.dest.bytes v) else s1
  let s3 := s2.land core w.slot w.dest (BitVec.ofNat 128 v)
  if w.both && w.dest.mirrored then s3.land (coreOf (partner t)) w.slot w.dest (BitVec.ofNat 128 v) else s3

/-- One write performed. -/
def State.performWrite (s : State) (core : Nat) (w : PendWrite) : State :=
  if w.dest = .flags then s.performFlags core w else s.performRegister core w

/-- What a wait of the same tick can see: pushes, and entries released (R251). -/
def PendWrite.early (w : PendWrite) : Bool := match w.dest with
  | .port _ => true
  | .portV _ => true
  | .release => true
  | _ => false

/-- The writes of a core that fall due in this tick and fit, in the order of slots: the highest slot's remains (R21). -/
def State.performDue (f : PendWrite → Bool) (s : State) (core : Nat) : State :=
  let now (w : PendWrite) : Bool := f w && decide (w.due ≤ s.now)
  let due := (s.core core).pend.filter now
  let s1 := s.modCore core fun c => { c with pend := c.pend.filter fun w => !now w }
  ((List.range 16).flatMap fun k => due.filter fun w => w.slot == k).foldl (fun s w => s.performWrite core w) s1

/-- The cores with writes that fall due. -/
def State.coresDue (s : State) : List Nat :=
  (s.cores.filter fun (p : Nat × Core) => p.2.pend.any fun w => decide (w.due ≤ s.now)).map (·.1)

def State.performWrites (s : State) (f : PendWrite → Bool) : State := s.coresDue.foldl (State.performDue f) s

/-! ### Waits (R250, R251) -/

/-- A relaxed access of thread `t` whose value it awaits is outstanding. -/
def State.relaxedLoads (s : State) (t : Nat) : Bool :=
  s.reqs.any fun (p : Nat × Req) => p.2.live && p.2.relaxed && p.2.thread == t && p.2.kind.reads

/-- The condition that a unit which has not issued waits for holds. -/
def State.holds (s : State) (t : Nat) (c : Cond) : Bool :=
  let x := s.thread t
  let core := coreOf t
  let k := s.core core
  match c with
  | .portEntry dir vec n => decide (n < s.portLength core dir vec)
  | .portRoom dir vec => if vec then s.roomV core dir else s.roomS core dir
  | .iterRecord => !k.seq.queue.isEmpty || !k.seq.running
  | .ringEntry n => (s.claim t (2 ^ 64 - 1)).isSome && decide (n < s.claimablesOf t)
  | .relaxedSlot => decide (x.rlxn < 8)
  | .register vec reg => !x.awaited.contains (Reg.mk vec reg).key
  | .relaxedDone loadsOnly => if loadsOnly then !s.relaxedLoads t else x.rlxn == 0
  | .deckRange a n => !s.deckBusy (clusterOf core) a n
  | .copyEntry => s.entryFree t
  | .ringSlot n =>
    let r := s.ring core n
    r.cnt != r.nslot + 1 && (r.slot r.tail).state == .free
  | .ringTile n => (s.ring core n).cnt != 0
  | .ringIdle n => !s.ringBusy core n
  | .stores rs => rs.all fun r => !(s.req r).live
  | .network _ => s.networkRoom core
  | .windowFetch _ _ _ => false
  | .streamUnit _ => false
  | .twinCompare => false

/-- A thread whose wait before issue has ended attempts its unit again. -/
def State.readyAgain (s : State) (t : Nat) : State := s.modThread t fun x => { x with state := .ready, wait := .none }

/-- A wait before issue. -/
def State.settleHeld (s : State) (t : Nat) (c : Cond) : State :=
  match c with
  | .streamUnit v => s.streamDemand t v
  | .windowFetch cluster win blk => s.touchFor t cluster win blk
  | .network _ => s.emit (.flowControlRelease t)
  | c => if s.holds t c then s.readyAgain t else s

/-- The walk of a fetch that no miss-buffer entry took is tried again. -/
def State.settleFetch (s : State) (t : Nat) : State :=
  if s.misses.any fun (p : Nat × Miss) => p.2.joined.contains (s.fetchJoin t) then s else s.readyAgain t

/-- What a thread in WMEM, WMX or WSYNC waits for. -/
def State.settleWait (s : State) (t : Nat) : State :=
  match (s.thread t).wait with
  | .retry c => s.settleHeld t c
  | .barHold _ _ _ => s.settleBar t
  | .barrier _ _ => s.settleBar t
  | .park _ _ => s.settlePark t
  | .recv _ _ => s.settleRecv t
  | .fuse _ _ => s.settleMeeting t
  | .twinOn _ => s.settleMeeting t
  | .tbInit _ _ => s.settleBarrier t
  | .tbArrive _ _ _ => s.settleBarrier t
  | .tbWait _ _ _ => s.settleBarrier t
  | .tbTest _ _ _ _ => s
  | .banks => s
  | .scrub _ _ _ _ _ => s.settleScrub t
  | .timed _ => s.settleTimed t
  | .fence loads stores => if s.unfenced t loads stores then s else s.endFence t
  | .fetch _ => s.settleFetch t
  | .none => s
  | .division _ _ _ => s
  | .special _ _ _ _ => s
  | .reply _ => s
  | .wfe => s
  | .engine _ => s
  | .flush _ => s

/-- A thread that a fault ends does so once its relaxed accesses have completed (R140). -/
def State.settleDying (s : State) (t : Nat) : State :=
  let x := s.thread t
  match x.dying with
  | some (c, a, pc) => if x.rlxn = 0 then s.endFaulted t c a pc else s
  | none => s

/-- YIELDED ends in the tick after the thread's next own turn (R226, R250). -/
def State.settleYield (s : State) (t : Nat) : State :=
  let x := s.thread t
  if s.now % 16 = slotOf t ∧ x.lastAttempt ≠ some s.now then s.setThread t { x with state := .ready } else s

def State.settleThread (s : State) (t : Nat) : State :=
  let x := s.thread t
  if x.dying.isSome then s.settleDying t
  else match x.state with
    | .wmem => s.settleWait t
    | .wmx => s.settleWait t
    | .wsync => s.settleWait t
    | .yielded => s.settleYield t
    | .free => s
    | .ready => s
    | .wsfu => s
    | .pblk => s
    | .pfault => s
    | .stopping => s
    | .killed => s.settleKilled t

/-- A thread that waits for a port's entry finds one that a wait of this tick has pushed (R251, R448). -/
def State.settlePort (s : State) (t : Nat) : State :=
  match (s.thread t).wait with
  | .retry (.portEntry dir vec n) => s.settleHeld t (.portEntry dir vec n)
  | _ => s

def State.settlePorts (s : State) : State := (s.threads.map (·.1)).foldl State.settlePort s

/-- The windows whose write-backs go on. -/
def State.flushing (s : State) : List Nat :=
  (s.windows.filter fun (p : Nat × Window) => !p.2.flushes.isEmpty).map (·.1)

def State.settleAll (s : State) : State :=
  let s1 := (s.threads.map (·.1)).foldl State.settleThread s
  s1.flushing.foldl State.flushStep s1

/-! ### Steps that are due, and steps that agents may make now -/

/-- `h31` advances, and the steps due by then join the events (R26). -/
def State.advance (s : State) : State :=
  let s1 := { s with tick := s.tick + 1 }
  { s1 with events := s1.events ++ (s1.timers.filter fun p => decide (p.1 ≤ s1.now)).map (·.2),
            timers := s1.timers.filter fun p => decide (s1.now < p.1) }

/-- The steps of a core's engines, ring and network that may be made in this tick. -/
def State.coreSteps (_s : State) (core : Nat) (c : Core) : List Instr :=
  (if !c.mxQueue.isEmpty && c.mxRun.isNone then [.matrixOperationStart core] else []) ++
    (if c.seq.running then [.sequencerEmit core] else []) ++
    (if c.overflow.isEmpty then [] else [.overflowMove core]) ++
    (if c.rtabEn then [.routineSpawn core] else [])

/-- The steps of the copy engine of a core (R304, R305). -/
def State.copySteps (core : Nat) : List Instr := [.copyAcceptance core, .copyUnitRequest core]

/-- The refills of a thread's bindings, its stop, its setting aside. -/
def State.threadSteps (s : State) (t : Nat) (x : Thread) : List Instr :=
  ((x.bindings.filter fun b => s.mayPeek t b).map fun b => .streamRefill t b.reg) ++
    (if s.wantsStop t then [.threadStop t] else []) ++ (if s.mayAside t then [.setAside t] else [])

/-- The steps of a crew. -/
def State.crewSteps (s : State) (c : Nat) (k : Crew) : List Instr :=
  (if k.status = .resident ∧ k.preempt = true then [.preemptionRequest c] else []) ++
    (if k.status = .stopping then [.contextSave c] else []) ++
    (if s.mayRetire c || ((k.status == .retired || k.status == .pending) && k.placed && (s.crewWindows c).isEmpty) then
      [.crewRetirement c] else [])

/-- The spans whose distributor has something to decide on: an eligible crew is pending, or a level holds a turn (R357). -/
def State.pendingSpans (s : State) : List Nat :=
  let waiting := s.crews.filter fun (p : Nat × Crew) => s.eligible p.2
  let turning := s.turns.filter fun (p : Nat × Turn) => p.2.queue.isSome
  ((waiting.map fun (p : Nat × Crew) => p.2.span) ++ turning.map fun (p : Nat × Turn) => p.1 / 16).eraseDups

/-- The steps of the distributors, which come before every other of the tick: a decision, and relief, see nothing that another
step of their tick does (R351, R357, R358, R360, R368). -/
def State.placeSteps (s : State) : List Instr :=
  (if s.now % 32 = 0 then s.pendingSpans.map fun n => .placementDecision n else []) ++
    ((s.parkedTicks.filter fun (p : Nat × Nat) => decide (2 ^ 16 ≤ p.2)).map fun p => .relief p.1)

/-- The spans whose pool has a free block that a request waits for (R276). -/
def State.poolSteps (s : State) : List Instr :=
  (s.poolWait.filter fun (p : Nat × List PoolUser) =>
    !(s.poolLine p.1).isEmpty && decide ((s.poolBusy p.1).length < s.poolSize p.1)).map fun p => .poolBlockFreed p.1

/-- The packets that command processors may take (R350). -/
def State.takeSteps (s : State) : List Instr :=
  (s.cps.filter fun (p : Nat × CmdProc) => !p.2.submitted.isEmpty).map fun p => .packetTake p.1

/-- The accesses that wait at the cluster port, at the deck or for room in a port queue are tried again; one that its
thread makes again at its next turn is not (R251). -/
def State.reqSteps (s : State) : List Instr :=
  (s.reqs.filter fun (p : Nat × Req) =>
    p.2.live && (p.2.status == .blocked || p.2.arrived) &&
      (p.2.relaxed || (s.thread p.2.thread).state != .ready)).map fun p => p.2.reply p.1

/-- The cores for which the network holds a message. -/
def State.bound (s : State) : List Nat :=
  ((s.flight.filter fun m => m.dstDev == s.dev.toNat).map (·.dstCore)).eraseDups

/-- The end of a window of 32 ms, in ticks of the power state (R419, R443). -/
def State.windowSteps (s : State) : List Instr :=
  if s.now % s.power.ticks 80000000 = 0 then s.channels.map fun p => .refreshWindowEnd p.1 else []

/-- The steps held for accesses that are performed now leave the list (R227, R236). -/
def State.releaseSteps (s : State) : State :=
  let free (p : List Nat × Instr) : Bool := p.1.all fun r => !(s.req r).live
  { s with events := s.events ++ (s.heldSteps.filter free).map (·.2), heldSteps := s.heldSteps.filter fun p => !free p }

/-- Every step that may be made in this tick: set-aside threads return before other threads start (R382). -/
def State.steps (s : State) : List Instr :=
  s.reqSteps ++
    ((s.asides.filter fun a => a.woken).map fun a => .setAsideReturn a.thread) ++
    (s.bound.map fun c => .messageDelivery c) ++
    (s.cores.flatMap fun (p : Nat × Core) => s.coreSteps p.1 p.2) ++
    (s.threads.flatMap fun (p : Nat × Thread) => s.threadSteps p.1 p.2) ++
    ((s.copies.map fun (p : Nat × Copy) => p.2.core).eraseDups.flatMap State.copySteps) ++
    (s.crews.flatMap fun (p : Nat × Crew) => s.crewSteps p.1 p.2) ++ s.takeSteps ++ s.poolSteps ++ s.windowSteps

/-! ### The deck's banks (R263, R315, R316) -/

/-- What follows an access once every bank that it needs has served it. -/
def State.served (s : State) : Asker → State
  | .access r => s.emit ((s.req r).reply r)
  | .unit t => s.serveUnit t
  | .copyUnit id u => s.emit (.copyUnitDone id u)
  | .decrement id => s.unitCounted id
  | .copyFail id c a => if (s.copies.find id).isSome then s.endFailed id c a else s
  | .records core => s.emit (.copyAcceptance core)
  | .refill t v => s.emit (.streamRefill t v)
  | .fetch key blk => s.emit (.windowFetchReply (key / 8) (key % 8) blk)
  | .leaving => s

/-- Accesses that have been served leave the banks. -/
def State.finishAsks (s : State) (f : Ask → Bool) : State :=
  let fed (x : Ask) : Bool := f x && x.banks.isEmpty && decide (x.since ≤ s.now)
  (s.asks.filter fed).foldl (fun s x => s.served x.asker) { s with asks := s.asks.filter fun x => !fed x }

/-- The access of a unit that its thread waits for. -/
def Ask.isUnit (x : Ask) : Bool := match x.asker with
  | .unit _ => true
  | _ => false

/-- A thread whose unit the banks have served in this tick has waited in it, and is ready from the next (R251, R254). -/
def State.finishUnits (s : State) : State := s.finishAsks Ask.isUnit

/-- Counters of a core that advance at the end of this tick (R238). -/
def Core.willCount (c : Core) (ks : List Nat) : Core := { c with counting := c.counting ++ ks }

/-- What this tick's service means for the counters of a core's engines (R319): `ct_mxbusy` or `ct_mxbank`, `ct_cpbusy` or
`ct_cpbank`. -/
def State.countService (before after : State) (core : Nat) (c : Core) : Core :=
  let mx := if (before.core core).mxNeed.isEmpty then [] else if c.mxNeed.isEmpty then [16] else [18]
  let cp := if before.copyDebt core = 0 then [] else if after.copyDebt core < before.copyDebt core then [19] else [21]
  c.willCount (mx ++ cp)

/-- The banks' part of a tick: every bank serves one access, matrix operations advance, what has been served goes on. -/
def State.bankTick (s : State) : State :=
  let s1 := s.serveBanks
  let s2 := { s1 with cores := s1.cores.map fun (p : Nat × Core) => (p.1, s.countService s1 p.1 p.2) }
  (((s.cores.filter fun (p : Nat × Core) => !p.2.mxNeed.isEmpty).map (·.1)).foldl State.advanceMx s2).finishAsks fun x => !x.isUnit

/-! ### Counters (R38, R254, R319, R356, R360) -/

def Thread.count (x : Thread) (k : Nat) : Thread := { x with counters := x.counters.put k (x.counters.get 0 k + 1) }
def Core.count (c : Core) (k : Nat) : Core := { c with counters := c.counters.put k (c.counters.get 0 k + 1) }

/-- A member of a gang stands ready while another member waits (R258). -/
def State.awaitsGang (s : State) (t : Nat) : Bool :=
  let g := (s.thread t).gangSize
  g != 1 && (members t g).any fun m => (s.thread m).state != .ready

/-- The counter that a slot's state is charged to, from 0x800 (R250). -/
def State.charged (s : State) (t : Nat) (x : Thread) : Option Nat :=
  match x.state with
  | .wmem => some 1
  | .wmx => some 2
  | .wsfu => some 3
  | .pblk => some 4
  | .wsync => some 5
  | .pfault => some 6
  | .ready => if s.awaitsGang t then some 5 else none
  | .free => none
  | .yielded => none
  | .stopping => none
  | .killed => none

/-- Threads whose block request a channel holds back (R340, R419). -/
def State.heldByRow (s : State) (t : Nat) : Bool :=
  s.rowWaits.contains t || s.channels.any fun (p : Nat × Channel) => p.2.queue.any fun w => w.thread == some t && decide (w.due < s.now)

/-- `ct_row` counts beside `ct_mem` (R254). -/
def State.chargeRow (s : State) (t : Nat) (x : Thread) : Thread :=
  if x.state = .wmem && s.heldByRow t then x.count 9 else x

def State.chargeThreads (s : State) : State :=
  { s with threads := s.threads.map fun (p : Nat × Thread) =>
      match s.charged p.1 p.2 with
      | some k => (p.1, s.chargeRow p.1 (p.2.count k))
      | none => p }

/-- The rings that an operation reads, with how many tiles of each (R190). -/
def MxKind.tiles : MxKind → List (Nat × Nat)
  | .mma _ ra rb _ _ => [(ra, 1), (rb, 1)]
  | .mma4 ra rb _ _ => [(ra, 1), (rb, 4)]
  | .zero _ _ => []
  | .load _ _ _ _ => []
  | .drain _ _ _ _ => []

/-- The head of the engine's queue waits for a tile: one that is not READY, or that cnt does not cover (R182, R319). -/
def State.awaitsTile (s : State) (core : Nat) (c : Core) : Bool :=
  c.mxRun.isNone && (match c.mxQueue with
    | op :: _ => op.kind.tiles.any fun p =>
        let r := s.ring core p.1
        decide (r.cnt < p.2) || (r.heads p.2).any fun i => !s.slotReady (clusterOf core) (r.slot i)
    | [] => false)

/-- A thread of a core waits before issue for a condition. -/
def State.coreWaits (s : State) (core : Nat) (f : Cond → Bool) : Bool :=
  (List.range 16).any fun i =>
    match (s.thread (core * 16 + i)).wait with
    | .retry c => f c
    | _ => false

/-- The engine counters that advance in this tick by what a core's engines wait for or do, from 0x810; those of the banks'
service are there already. -/
def State.chargeCore (s : State) (core : Nat) (c : Core) : Core :=
  let add (b : Bool) (k : Nat) (c : Core) : Core := if b && !c.counting.contains k then c.willCount [k] else c
  let held := s.misses.any fun (p : Nat × Miss) => p.2.joined.any fun j => j.same (.drain core 0)
  let smwait := s.coreWaits core fun
    | .streamUnit _ => true
    | _ => false
  add smwait 23 (add c.seq.starved 22 (add (s.coreWaits core fun k => k == .copyEntry) 20
    (add (s.copyActive core) 19 (add (s.awaitsTile core c) 17 (add (c.mxRun.isSome && !held && c.mxNeed.isEmpty &&
      !c.counting.contains 18) 16 c)))))

/-- The counters of the tick that ends (R38, R238). -/
def Core.endTick (c : Core) : Core := { c.counting.foldl Core.count c with counting := [] }

def State.endCounts (s : State) : State :=
  { s with cores := s.cores.map fun (p : Nat × Core) => (p.1, if p.2.counting.isEmpty then p.2 else p.2.endTick) }

def State.chargeCores (s : State) : State :=
  { s with cores := s.cores.map fun (p : Nat × Core) => (p.1, s.chargeCore p.1 p.2) }

/-- A wait count advances. -/
def State.waitMore (s : State) (k : Nat) : State := { s with qwait := s.qwait.put k (s.qwait.get 0 k + 1) }

/-- The queues with an eligible pending crew, by distributor, and with a submitted packet, by command processor. -/
def State.waitingQueues (s : State) : List Nat :=
  (((s.crews.filter fun (p : Nat × Crew) => s.eligible p.2).map fun p => p.2.span * 4096 + s.queueOf p.2) ++
    s.cps.flatMap fun (p : Nat × CmdProc) => p.2.submitted.map fun x => (16 + p.1) * 4096 + x.1).eraseDups

/-- Every slot that holds a thread of a resident crew of a span is in PBLK. -/
def State.spanParked (s : State) (span : Nat) : Bool :=
  let here := s.crews.filter fun (p : Nat × Crew) => p.2.span == span && p.2.status == .resident
  !here.isEmpty && s.threads.all fun (p : Nat × Thread) =>
    !(p.2.live && here.any fun k => k.1 == p.2.crewId) || p.2.state == .pblk

/-- The spans that stood parked in the tick before count it; those that do now are noted (R360). -/
def State.countParked (s : State) : State :=
  { s with parkedTicks := s.parkedNow.map fun n => (n, s.parkedTicks.get 0 n + 1), parkedNow := (List.range 8).filter s.spanParked }

/-- Everything that counts ticks; what waited for a row is counted. -/
def State.charge (s : State) : State :=
  let s1 := { s.chargeThreads.chargeCores with rowWaits := [] }
  s1.waitingQueues.foldl State.waitMore s1

/-! ### Selection (R252, R253, R256) -/

/-- A thread that has made no attempt in the last 7 ticks, and that pre-emption does not hold at its boundary: a gang goes on to
the boundary that all its members reach (R258). -/
def State.spaced (s : State) (t : Nat) (x : Thread) : Bool :=
  x.state == .ready && (match x.lastAttempt with
    | none => true
    | some u => decide (u + 8 ≤ s.now)) && (!s.wantsStop t || (x.twin && x.pair.units != 0) || !s.even (s.stopGroup t))

/-- Eligible: a gang is, when every member is. -/
def State.mayAttempt (s : State) (t : Nat) : Bool :=
  let g := (s.thread t).gangSize
  if g = 1 then s.spaced t (s.thread t) else (members t g).all fun m => s.spaced m (s.thread m)

/-- The scan of a core from the owner upward, past the threads excluded. -/
def State.choose (s : State) (excluded : List Nat) (core : Nat) : Option Nat :=
  ((List.range 16).map fun k => core * 16 + (s.now + k) % 16).find? fun t => s.mayAttempt t && !excluded.contains t

/-- The choice of every core. -/
def State.choices (s : State) (cores excluded : List Nat) : List Nat := cores.filterMap fun c => s.choose excluded c

/-- The chosen members of gangs that not every member's core has chosen. -/
def State.unmatched (s : State) (chosen : List Nat) : List Nat :=
  chosen.filter fun t =>
    let g := (s.thread t).gangSize
    g != 1 && !(members t g).all fun m => chosen.contains m

/-- Cores whose choice is not matched scan on (R256). -/
def State.selectFrom (s : State) (cores excluded : List Nat) : Nat → List Nat
  | 0 => (s.choices cores excluded).filter fun t => !(s.unmatched (s.choices cores excluded)).contains t
  | n + 1 =>
    let chosen := s.choices cores excluded
    match s.unmatched chosen with
    | [] => chosen
    | bad => s.selectFrom cores (excluded ++ bad) n

/-- The slots selected in this tick. -/
def State.selected (s : State) : List Nat :=
  s.selectFrom ((s.threads.filter fun (p : Nat × Thread) => p.2.state == .ready).map fun p => coreOf p.1).eraseDups [] 64

/-- The owner of a turn that another slot uses has lent it (R253). -/
def State.lend (s : State) (t : Nat) : State :=
  let o := coreOf t * 16 + s.now % 16
  if t = o then s else s.modThread o fun x => x.count 8

/-- The member of a group that attempts for all: its lowest core. -/
def State.headOf (s : State) (t : Nat) : Nat := (members t (s.thread t).gangSize).headD t

def State.select (s : State) : State :=
  let chosen := s.selected
  { (chosen.foldl State.lend s) with sels := chosen.filter fun t => s.headOf t == t }

/-! ### The tick -/

/-- What the networks and the copy engines do before the steps of a tick. -/
def State.tickNets (s : State) : State := (s.departMessages s.flight []).deliverNotices.resumeMisses

/-- TICK: the tick ends with the writes and the waits that fall due in it; the next one begins with its steps, its counts
and its selection. -/
def execTick (s : State) : Out :=
  let s0 := ((s.performWrites PendWrite.early).settleAll.performWrites fun _ => true).settlePorts
  let s1 := s0.countCorrections.endCounts.settleHosts.advance.releaseSteps.tryLines.tickNets.bankTick
  let s3 := s1.countParked
  let s2 := { s3 with events := s3.placeSteps ++ s3.events ++ s3.steps }
  .next s2.charge.select.finishUnits

end Sys2Proof.Machine
end

