-- ==== Sys2Proof/Machine/Vector.lean ====
section
/-! DEFINITION. The vector instructions of majors 0x2C to 0x2F, 0x33 and 0x34 on integers and bits (R163 to R166,
R173, R175): what each lane receives, and the shapes of unit that read and write vector registers (R158 to R160). -/

namespace Sys2Proof.Machine

/-! ### Shapes of unit -/

/-- The old value of a vector destination that the unit also reads (R158, R159). -/
def State.oldVAgain (s : State) (d : RegField) (earlier : List (RegField × VWord)) : Gate (VWord × State) :=
  if 60 ≤ d.toNat then .go (0, s) else s.readVAgain s.cur d earlier

/-- Vector sources `a` before `b` (R158). -/
def State.readV2 (s : State) (a b : RegField) : Gate (VWord × VWord × State) :=
  (s.readV s.cur a).next fun (x, s1) => (s1.readVAgain s.cur b [(a, x)]).next fun (y, s2) => .go (x, y, s2)

/-- The end of a vector unit: a vector register write with its flags, and a scalar one. -/
def State.finishV (s : State) (d : RegField) (delay : Nat) (r : VWord × BitVec 5) : Gate State :=
  (s.putV s.cur d r.1 delay).next fun s1 => .go ((s1.raiseAt s.cur r.2 delay).complete s.cur)
def State.finishS (s : State) (d : RegField) (delay : Nat) (r : Word × BitVec 5) : Gate State :=
  (s.putS s.cur d r.1 delay).next fun s1 => .go ((s1.raiseAt s.cur r.2 delay).complete s.cur)

/-- Units that write a vector register, with flags, from one and from two vector registers. -/
def State.unitV1 (s : State) (d a : RegField) (delay : Nat) (f : VWord → VWord × BitVec 5) : Out :=
  s.unit [vreg a, vreg d] <| (s.readV s.cur a).next fun (x, s1) => s1.finishV d delay (f x)
def State.unitV2 (s : State) (d a b : RegField) (delay : Nat) (f : VWord → VWord → VWord × BitVec 5) : Out :=
  s.unit [vreg a, vreg b, vreg d] <| (s.readV2 a b).next fun (x, y, s1) => s1.finishV d delay (f x y)

/-- A unit that also reads `d` (R158). -/
def State.unitV3 (s : State) (d a b : RegField) (delay : Nat) (f : VWord → VWord → VWord → VWord × BitVec 5) : Out :=
  s.unit [vreg a, vreg b, vreg d] <| (s.readV2 a b).next fun (x, y, s1) =>
    (s1.oldVAgain d [(a, x), (b, y)]).next fun (z, s2) => s2.finishV d delay (f z x y)

/-- Units that write a scalar register from one and from two vector registers. -/
def State.unitVS1 (s : State) (d a : RegField) (delay : Nat) (f : VWord → Word × BitVec 5) : Out :=
  s.unit [vreg a, sreg d] <| (s.readV s.cur a).next fun (x, s1) => s1.finishS d delay (f x)
def State.unitVS2 (s : State) (d a b : RegField) (delay : Nat) (f : VWord → VWord → Word × BitVec 5) : Out :=
  s.unit [vreg a, vreg b, sreg d] <| (s.readV2 a b).next fun (x, y, s1) => s1.finishS d delay (f x y)

/-- A unit that writes a vector register from a scalar one. -/
def State.unitSV1 (s : State) (d a : RegField) (delay : Nat) (f : Word → VWord) : Out :=
  s.unit [sreg a, vreg d] <| (s.readS s.cur a).next fun (x, s1) => s1.finishV d delay (f x, 0)

/-- The lane-wise integer units (R163). -/
def State.unitLanes (s : State) (d a b : RegField) (w : Width) (delay : Nat) (f : Nat → Nat → Nat) : Out :=
  s.unitV2 d a b delay fun x y => (lanes2 w.bits f x y, 0)
/-- The same with each lane taken as signed (R163). -/
def State.unitSigned (s : State) (d a b : RegField) (w : Width) (f : Int → Int → Nat) : Out :=
  s.unitLanes d a b w 4 fun x y => f (signed w.bits x) (signed w.bits y)

/-! ### VINT (R163) -/

def execVadd (d a b : RegField) (w : Width) (s : State) : Out := s.unitLanes d a b w 4 fun x y => x + y
def execVsub (d a b : RegField) (w : Width) (s : State) : Out := s.unitLanes d a b w 4 fun x y => wrap w.bits ((x : Int) - y)
def execVadds (d a b : RegField) (w : Width) (s : State) : Out := s.unitSigned d a b w fun x y => satSigned w.bits (x + y)
def execVaddsu (d a b : RegField) (w : Width) (s : State) : Out := s.unitLanes d a b w 4 fun x y => satUnsigned w.bits ((x : Int) + y)
def execVsubs (d a b : RegField) (w : Width) (s : State) : Out := s.unitSigned d a b w fun x y => satSigned w.bits (x - y)
def execVsubsu (d a b : RegField) (w : Width) (s : State) : Out := s.unitLanes d a b w 4 fun x y => satUnsigned w.bits ((x : Int) - y)
def execVmul (d a b : RegField) (w : Width) (s : State) : Out := s.unitLanes d a b w 6 fun x y => x * y
def execVmulh (d a b : RegField) (w : Width) (s : State) : Out := s.unitLanes d a b w 6 fun x y => laneMulh w.bits x y
def execVmulhu (d a b : RegField) (w : Width) (s : State) : Out := s.unitLanes d a b w 6 fun x y => x * y / 2 ^ w.bits
def execVmin (d a b : RegField) (w : Width) (s : State) : Out := s.unitLanes d a b w 4 fun x y => laneMin w.bits x y
def execVminu (d a b : RegField) (w : Width) (s : State) : Out := s.unitLanes d a b w 4 fun x y => if y < x then y else x
def execVmax (d a b : RegField) (w : Width) (s : State) : Out := s.unitLanes d a b w 4 fun x y => laneMax w.bits x y
def execVmaxu (d a b : RegField) (w : Width) (s : State) : Out := s.unitLanes d a b w 4 fun x y => if x < y then y else x
def execVabsd (d a b : RegField) (w : Width) (s : State) : Out := s.unitLanes d a b w 4 fun x y => laneAbsd w.bits x y
def execVavgu (d a b : RegField) (w : Width) (s : State) : Out := s.unitLanes d a b w 4 fun x y => (x + y + 1) / 2

/-! ### VLOG (R164) -/

def execVand (d a b : RegField) (s : State) : Out := s.unitV2 d a b 4 fun x y => (x &&& y, 0)
def execVor (d a b : RegField) (s : State) : Out := s.unitV2 d a b 4 fun x y => (x ||| y, 0)
def execVxor (d a b : RegField) (s : State) : Out := s.unitV2 d a b 4 fun x y => (x ^^^ y, 0)
def execVandn (d a b : RegField) (s : State) : Out := s.unitV2 d a b 4 fun x y => (x &&& ~~~y, 0)
def execVbsl (d a b : RegField) (s : State) : Out := s.unitV3 d a b 4 fun z x y => ((x &&& z) ||| (y &&& ~~~z), 0)
def execVsll (d a b : RegField) (w : Width) (s : State) : Out := s.unitLanes d a b w 4 fun x y => laneSll w.bits x (y % w.bits)
def execVsrl (d a b : RegField) (w : Width) (s : State) : Out := s.unitLanes d a b w 4 fun x y => laneSrl x (y % w.bits)
def execVsra (d a b : RegField) (w : Width) (s : State) : Out := s.unitLanes d a b w 4 fun x y => laneSra w.bits x (y % w.bits)
def execVslli (d a : RegField) (k : BitVec 6) (w : Width) (s : State) : Out :=
  s.unitV1 d a 4 fun v => (lanes1 w.bits (fun x => laneSll w.bits x k.toNat) v, 0)
def execVsrli (d a : RegField) (k : BitVec 6) (w : Width) (s : State) : Out :=
  s.unitV1 d a 4 fun v => (lanes1 w.bits (fun x => laneSrl x k.toNat) v, 0)
def execVsrai (d a : RegField) (k : BitVec 6) (w : Width) (s : State) : Out :=
  s.unitV1 d a 4 fun v => (lanes1 w.bits (fun x => laneSra w.bits x k.toNat) v, 0)

/-! ### VCMP on integers (R165) -/

/-- A comparison that writes a mask. -/
def State.unitCompare (s : State) (d a b : RegField) (w : Width) (c : Nat → Nat → Bool) : Out :=
  s.unitVS2 d a b 4 fun x y => (compareLanes w.bits c x y, 0)
def execVceq (d a b : RegField) (w : Width) (s : State) : Out := s.unitCompare d a b w fun x y => decide (x = y)
def execVcne (d a b : RegField) (w : Width) (s : State) : Out := s.unitCompare d a b w fun x y => decide (x ≠ y)
def execVclt (d a b : RegField) (w : Width) (s : State) : Out := s.unitCompare d a b w fun x y => decide (signed w.bits x < signed w.bits y)
def execVcltu (d a b : RegField) (w : Width) (s : State) : Out := s.unitCompare d a b w fun x y => decide (x < y)
def execVcle (d a b : RegField) (w : Width) (s : State) : Out := s.unitCompare d a b w fun x y => decide (signed w.bits x ≤ signed w.bits y)
def execVcleu (d a b : RegField) (w : Width) (s : State) : Out := s.unitCompare d a b w fun x y => decide (x ≤ y)

/-! ### VPERM (R166) -/

def execVshuf (d a b : RegField) (w : Width) (s : State) : Out := s.unitV2 d a b 4 fun x y => (shuffle w.bits x y, 0)
def execVzipl (d a b : RegField) (w : Width) (s : State) : Out := s.unitV2 d a b 4 fun x y => (zipHalf w.bits false x y, 0)
def execVziph (d a b : RegField) (w : Width) (s : State) : Out := s.unitV2 d a b 4 fun x y => (zipHalf w.bits true x y, 0)
def execVunzipe (d a b : RegField) (w : Width) (s : State) : Out := s.unitV2 d a b 4 fun x y => (unzipHalf w.bits false x y, 0)
def execVunzipo (d a b : RegField) (w : Width) (s : State) : Out := s.unitV2 d a b 4 fun x y => (unzipHalf w.bits true x y, 0)
def execVpacks (d a b : RegField) (w : Width) (s : State) : Out := s.unitV2 d a b 4 fun x y => (packLanes w.bits satSigned x y, 0)
def execVpacksu (d a b : RegField) (w : Width) (s : State) : Out := s.unitV2 d a b 4 fun x y => (packLanes w.bits satUnsigned x y, 0)
def execVrev (d a : RegField) (w : Width) (s : State) : Out := s.unitV1 d a 4 fun x => (ofLanes w.bits (lanes w.bits x).reverse, 0)
def execVwidenl (d a : RegField) (w : Width) (s : State) : Out := s.unitV1 d a 4 fun x => (widenLanes w.bits false true x, 0)
def execVwidenh (d a : RegField) (w : Width) (s : State) : Out := s.unitV1 d a 4 fun x => (widenLanes w.bits true true x, 0)
def execVwidenlu (d a : RegField) (w : Width) (s : State) : Out := s.unitV1 d a 4 fun x => (widenLanes w.bits false false x, 0)
def execVwidenhu (d a : RegField) (w : Width) (s : State) : Out := s.unitV1 d a 4 fun x => (widenLanes w.bits true false x, 0)

/-! ### VRED on integers (R173) -/

def execVrsum (d a : RegField) (w : Width) (s : State) : Out := s.unitVS1 d a 7 fun x => (sumLanes w.bits true x, 0)
def execVrsumu (d a : RegField) (w : Width) (s : State) : Out := s.unitVS1 d a 7 fun x => (sumLanes w.bits false x, 0)
def execVrmin (d a : RegField) (w : Width) (s : State) : Out := s.unitVS1 d a 7 fun x => (extremeLane w.bits true (laneMin w.bits) x, 0)
def execVrminu (d a : RegField) (w : Width) (s : State) : Out := s.unitVS1 d a 7 fun x => (extremeLane w.bits false min x, 0)
def execVrmax (d a : RegField) (w : Width) (s : State) : Out := s.unitVS1 d a 7 fun x => (extremeLane w.bits true (laneMax w.bits) x, 0)
def execVrmaxu (d a : RegField) (w : Width) (s : State) : Out := s.unitVS1 d a 7 fun x => (extremeLane w.bits false max x, 0)

/-! ### VMOV (R175) -/

def execVmv (d a : RegField) (s : State) : Out := s.unitV1 d a 4 fun x => (x, 0)
def execVbcst (d a : RegField) (w : Width) (s : State) : Out := s.unitSV1 d a 4 fun x => broadcast w.bits x
def execVmexp (d a : RegField) (w : Width) (s : State) : Out := s.unitSV1 d a 4 fun x => expandMask w.bits x

/-- `vins` also reads d (R175). -/
def execVins (d a : RegField) (l : BitVec 5) (w : Width) (s : State) : Out :=
  s.unit [sreg a, vreg d] <| (s.readS s.cur a).next fun (x, s1) =>
    (s1.oldVAgain d []).next fun (z, s2) => s2.finishV d 4 (insertLane w.bits l.toNat z x, 0)

def execVextr (d a : RegField) (l : BitVec 5) (w : Width) (s : State) : Out :=
  s.unitVS1 d a 4 fun x => (BitVec.ofInt 64 (signed w.bits (lane w.bits x l.toNat)), 0)
def execVextru (d a : RegField) (l : BitVec 5) (w : Width) (s : State) : Out :=
  s.unitVS1 d a 4 fun x => (BitVec.ofNat 64 (lane w.bits x l.toNat), 0)

end Sys2Proof.Machine
end

