-- ==== Sys2Proof/Machine/VectorFloat.lean ====
section
/-! DEFINITION. The vector instructions on floating-point lanes (R165, R167 to R177): comparisons, arithmetic,
fused multiply-add, conversions, reductions and the special functions with their write. -/

namespace Sys2Proof.Machine

/-- The rounding mode of the thread whose unit executes (R35). -/
def State.rounding (s : State) : Nat := s.me.fmode.toNat

/-! ### VCMP (R165) -/

def execVfceq (d a b : RegField) (t : FType) (s : State) : Out :=
  s.unitVS2 d a b 4 fun x y => fpCompare t false (fun p q => fpEqual p q) x y
def execVfcne (d a b : RegField) (t : FType) (s : State) : Out :=
  s.unitVS2 d a b 4 fun x y => fpCompare t false (fun p q => !fpEqual p q) x y
def execVfclt (d a b : RegField) (t : FType) (s : State) : Out :=
  s.unitVS2 d a b 4 fun x y => fpCompare t true (fun p q => !p.isNan && !q.isNan && fpLess p q) x y
def execVfcle (d a b : RegField) (t : FType) (s : State) : Out :=
  s.unitVS2 d a b 4 fun x y => fpCompare t true (fun p q => !p.isNan && !q.isNan && !fpLess q p) x y
def execVfcun (d a b : RegField) (t : FType) (s : State) : Out :=
  s.unitVS2 d a b 4 fun x y => fpCompare t false (fun p q => p.isNan || q.isNan) x y

/-! ### VFP (R167) -/

def execVfadd (d a b : RegField) (t : FType) (s : State) : Out :=
  s.unitV2 d a b 6 fun x y => fpLanes2 t (fun g p q => fpAdd g s.rounding p q) x y
def execVfsub (d a b : RegField) (t : FType) (s : State) : Out :=
  s.unitV2 d a b 6 fun x y => fpLanes2 t (fun g p q => fpSub g s.rounding p q) x y
def execVfmul (d a b : RegField) (t : FType) (s : State) : Out :=
  s.unitV2 d a b 6 fun x y => fpLanes2 t (fun g p q => fpMul g s.rounding p q) x y
def execVfmin (d a b : RegField) (t : FType) (s : State) : Out :=
  s.unitV2 d a b 6 fun x y => fpLanes2 t (fun g p q => (fpMin g false p q, 0)) x y
def execVfmax (d a b : RegField) (t : FType) (s : State) : Out :=
  s.unitV2 d a b 6 fun x y => fpLanes2 t (fun g p q => (fpMin g true p q, 0)) x y
def execVfabs (d a : RegField) (t : FType) (s : State) : Out :=
  s.unitV1 d a 6 fun x => fpLanes1 t (fun g p => (p % g.signBit, 0)) x
def execVfneg (d a : RegField) (t : FType) (s : State) : Out :=
  s.unitV1 d a 6 fun x => fpLanes1 t (fun g p => (p ^^^ g.signBit, 0)) x
def execVfround (d a : RegField) (t : FType) (s : State) : Out :=
  s.unitV1 d a 6 fun x => fpLanes1 t (fun g p => fpRound g s.rounding p) x

/-! ### VFMA (R168) -/

def execVfma (d a b : RegField) (l : BitVec 3) (bc : Bool) (t : FType) (s : State) : Out :=
  s.unitV3 d a b 6 fun z x y => fmaLanes t s.rounding false bc l.toNat z x y
def execVfms (d a b : RegField) (l : BitVec 3) (bc : Bool) (t : FType) (s : State) : Out :=
  s.unitV3 d a b 6 fun z x y => fmaLanes t s.rounding true bc l.toNat z x y

/-! ### VCVT (R169 to R172) -/

/-- A narrowing conversion: reads a and the old d, and the scale register where it has one. -/
def State.unitNarrow (s : State) (d a : RegField) (scale : Option RegField) (p : BitVec 3) (f : Format) (sat : Bool) :
    Out :=
  match scale with
  | none =>
    s.unit [vreg a, vreg d] <| (s.readV s.cur a).next fun (x, s1) =>
      (s1.oldVAgain d [(a, x)]).next fun (z, s2) => s2.finishV d 6 (narrowLanes f s.rounding sat none p.toNat z x)
  | some b =>
    s.unit [vreg a, sreg b, vreg d] <| (s.readV s.cur a).next fun (x, s1) =>
      (s1.readS s.cur b).next fun (e, s2) => (s2.oldVAgain d [(a, x)]).next fun (z, s3) =>
        s3.finishV d 6 (narrowLanes f s.rounding sat (some (field e.toNat 0 8)) p.toNat z x)

/-- A widening conversion. -/
def State.unitWiden (s : State) (d a : RegField) (scale : Option RegField) (p : BitVec 3) (f : Format) : Out :=
  match scale with
  | none => s.unitV1 d a 6 fun x => widenPart f s.rounding none p.toNat x
  | some b =>
    s.unit [vreg a, sreg b, vreg d] <| (s.readV s.cur a).next fun (x, s1) =>
      (s1.readS s.cur b).next fun (e, s2) =>
        s2.finishV d 6 (widenPart f s.rounding (some (field e.toNat 0 8)) p.toNat x)

def execVcvtF16F32 (d a : RegField) (p : BitVec 3) (s : State) : Out := s.unitNarrow d a none p fp16 false
def execVcvtF16F32Sat (d a : RegField) (p : BitVec 3) (s : State) : Out := s.unitNarrow d a none p fp16 true
def execVcvtF32F16 (d a : RegField) (p : BitVec 3) (s : State) : Out := s.unitWiden d a none p fp16
def execVcvtBf16F32 (d a : RegField) (p : BitVec 3) (s : State) : Out := s.unitNarrow d a none p bf16 false
def execVcvtBf16F32Sat (d a : RegField) (p : BitVec 3) (s : State) : Out := s.unitNarrow d a none p bf16 true
def execVcvtF32Bf16 (d a : RegField) (p : BitVec 3) (s : State) : Out := s.unitWiden d a none p bf16
def execVcvtE4m3F32 (d a b : RegField) (p : BitVec 3) (s : State) : Out := s.unitNarrow d a (some b) p e4m3 false
def execVcvtE4m3F32Sat (d a b : RegField) (p : BitVec 3) (s : State) : Out := s.unitNarrow d a (some b) p e4m3 true
def execVcvtF32E4m3 (d a b : RegField) (p : BitVec 3) (s : State) : Out := s.unitWiden d a (some b) p e4m3
def execVcvtE5m2F32 (d a b : RegField) (p : BitVec 3) (s : State) : Out := s.unitNarrow d a (some b) p e5m2 false
def execVcvtE5m2F32Sat (d a b : RegField) (p : BitVec 3) (s : State) : Out := s.unitNarrow d a (some b) p e5m2 true
def execVcvtF32E5m2 (d a b : RegField) (p : BitVec 3) (s : State) : Out := s.unitWiden d a (some b) p e5m2
def execVcvtE2m1F32 (d a b : RegField) (p : BitVec 3) (s : State) : Out := s.unitNarrow d a (some b) p e2m1 false
def execVcvtE2m1F32Sat (d a b : RegField) (p : BitVec 3) (s : State) : Out := s.unitNarrow d a (some b) p e2m1 true
def execVcvtF32E2m1 (d a b : RegField) (p : BitVec 3) (s : State) : Out := s.unitWiden d a (some b) p e2m1
def execVcvtI32F32 (d a : RegField) (s : State) : Out :=
  s.unitV1 d a 6 fun x => gather 32 ((lanes 32 x).map (fpToInt s.rounding))
def execVcvtF32I32 (d a : RegField) (s : State) : Out :=
  s.unitV1 d a 6 fun x => gather 32 ((lanes 32 x).map (intToFp s.rounding))

/-! ### VRED (R173, R174) -/

def execVfrsum (d a : RegField) (t : FType) (s : State) : Out := s.unitVS1 d a 7 fun x => fpSumLanes t s.rounding x
def execVfrmin (d a : RegField) (t : FType) (s : State) : Out := s.unitVS1 d a 7 fun x => (fpExtreme t false x, 0)
def execVfrmax (d a : RegField) (t : FType) (s : State) : Out := s.unitVS1 d a 7 fun x => (fpExtreme t true x, 0)

/-! ### VSPEC (R176, R177) -/

/-- A special function has issued: its thread leaves the rotation until its write at issue plus `delay`. -/
def State.startSpecial (s : State) (d : RegField) (delay : Nat) (r : VWord × BitVec 5) : Gate State :=
  (s.destV s.cur d).next fun _ =>
    .go ((s.await s.cur .wsfu (.special d r.1 r.2 (s.now + delay))).later (s.now + delay)
      (.specialFunctionWrite s.cur))

def State.unitSpecial (s : State) (d a : RegField) (delay : Nat) (f : Nat → Nat → Nat × BitVec 5) : Out :=
  s.unit [vreg a, vreg d] <| (s.readV s.cur a).next fun (x, s1) =>
    s1.startSpecial d delay (gather 32 ((lanes 32 x).map (f s.rounding)))

def execVfrcp (d a : RegField) (s : State) : Out := s.unitSpecial d a 32 specRcp
def execVfrsq (d a : RegField) (s : State) : Out := s.unitSpecial d a 32 specRsq
def execVfexp2 (d a : RegField) (s : State) : Out := s.unitSpecial d a 48 specExp2
def execVflog2 (d a : RegField) (s : State) : Out := s.unitSpecial d a 48 specLog2
def execVfsqrt (d a : RegField) (s : State) : Out := s.unitSpecial d a 48 specSqrt
def execVfdiv (d a b : RegField) (s : State) : Out :=
  s.unit [vreg a, vreg b, vreg d] <| (s.readV2 a b).next fun (x, y, s1) =>
    s1.startSpecial d 48 (fpLanes2 .f32 (fun _ p q => specDiv s.rounding p q) x y)

/-- SPECIAL_FUNCTION_WRITE: the write and the flags are performed and the thread is ready again (R176); room for a push has been
kept since the issue. -/
def execSpecialFunctionWrite (t : Nat) (s : State) : Out :=
  match (s.thread t).wait with
  | .special d v fl due =>
    if s.now < due then .next s
    else
      let s1 := (s.writeV t d v 0).raise t fl
      .next ((if fl = 0 then s1 else s1.note t (csrBytes 2 (s1.thread t).fflags.toNat)).complete t)
  | _ => .next s

end Sys2Proof.Machine
end

