-- ==== Sys2Proof/Machine/Dispatch.lean ====
section
/-! DEFINITION. The dispatch: one arm per constructor of `Instr`, each one call of the meaning of that
instruction or step. -/

namespace Sys2Proof.Machine

/-- What an instruction does to the state (the meaning of each is in the file of its family). -/
def exec (i : Instr) (s : State) : Host.Outcome State Fault Refusal :=
  match i with
  | .divisionWrite t => Sys2Proof.Machine.execDivisionWrite t s
  | .loadReply r => Sys2Proof.Machine.execLoadReply r s
  | .illegalUnit raw => Sys2Proof.Machine.execIllegalUnit raw s
  | .specialFunctionWrite t => Sys2Proof.Machine.execSpecialFunctionWrite t s
  | .matrixOperationStart core => Sys2Proof.Machine.execMatrixOperationStart core s
  | .matrixOperationEnd core => Sys2Proof.Machine.execMatrixOperationEnd core s
  | .copyAcceptance core => Sys2Proof.Machine.execCopyAcceptance core s
  | .copyUnitRequest core => Sys2Proof.Machine.execCopyUnitRequest core s
  | .copyUnitDone copy u => Sys2Proof.Machine.execCopyUnitDone copy u s
  | .streamRefill t v => Sys2Proof.Machine.execStreamRefill t v s
  | .streamUnitArrival t v => Sys2Proof.Machine.execStreamUnitArrival t v s
  | .windowFetchReply cluster win blk => Sys2Proof.Machine.execWindowFetchReply cluster win blk s
  | .sequencerEmit core => Sys2Proof.Machine.execSequencerEmit core s
  | .parkTimeout t => Sys2Proof.Machine.execParkTimeout t s
  | .wakeArrival t launch => Sys2Proof.Machine.execWakeArrival t launch s
  | .messageDelivery core => Sys2Proof.Machine.execMessageDelivery core s
  | .routineSpawn core => Sys2Proof.Machine.execRoutineSpawn core s
  | .overflowMove core => Sys2Proof.Machine.execOverflowMove core s
  | .flowControlRelease t => Sys2Proof.Machine.execFlowControlRelease t s
  | .eventArrival t launch => Sys2Proof.Machine.execEventArrival t launch s
  | .twinCompare t => Sys2Proof.Machine.execTwinCompare t s
  | .translationWalk span entry => Sys2Proof.Machine.execTranslationWalk span entry s
  | .faultServe span entry => Sys2Proof.Machine.execFaultServe span entry s
  | .faultReject span entry => Sys2Proof.Machine.execFaultReject span entry s
  | .pageFaultWake t park reject => Sys2Proof.Machine.execPageFaultWake t park reject s
  | .setAside t => Sys2Proof.Machine.execSetAside t s
  | .setAsideReturn t => Sys2Proof.Machine.execSetAsideReturn t s
  | .homeLoad r => Sys2Proof.Machine.execHomeLoad r s
  | .homeCoveringStore r => Sys2Proof.Machine.execHomeCoveringStore r s
  | .homeBfin r => Sys2Proof.Machine.execHomeBfin r s
  | .homeBhold r => Sys2Proof.Machine.execHomeBhold r s
  | .homeBarm r => Sys2Proof.Machine.execHomeBarm r s
  | .homeClear r => Sys2Proof.Machine.execHomeClear r s
  | .waiterWithdrawal blk waiter => Sys2Proof.Machine.execWaiterWithdrawal blk waiter s
  | .holdWithdrawal blk r => Sys2Proof.Machine.execHoldWithdrawal blk r s
  | .poolBlockFreed span => Sys2Proof.Machine.execPoolBlockFreed span s
  | .blockPoisoning blk => Sys2Proof.Machine.execBlockPoisoning blk s
  | .gets cluster sector => Sys2Proof.Machine.execGets cluster sector s
  | .getm cluster sector => Sys2Proof.Machine.execGetm cluster sector s
  | .upg cluster sector => Sys2Proof.Machine.execUpg cluster sector s
  | .wb cluster sector => Sys2Proof.Machine.execWb cluster sector s
  | .rcl span sector => Sys2Proof.Machine.execRcl span sector s
  | .inv span sector => Sys2Proof.Machine.execInv span sector s
  | .wrw r => Sys2Proof.Machine.execWrw r s
  | .writebackArrival w => Sys2Proof.Machine.execWritebackArrival w s
  | .recallReply w => Sys2Proof.Machine.execRecallReply w s
  | .recallTimeout w => Sys2Proof.Machine.execRecallTimeout w s
  | .holderFailure holder => Sys2Proof.Machine.execHolderFailure holder s
  | .rowActivation channel row => Sys2Proof.Machine.execRowActivation channel row s
  | .refreshWindowEnd channel => Sys2Proof.Machine.execRefreshWindowEnd channel s
  | .placementDecision span => Sys2Proof.Machine.execPlacementDecision span s
  | .crewRetirement crew => Sys2Proof.Machine.execCrewRetirement crew s
  | .relief span => Sys2Proof.Machine.execRelief span s
  | .preemptionRequest crew => Sys2Proof.Machine.execPreemptionRequest crew s
  | .threadStop t => Sys2Proof.Machine.execThreadStop t s
  | .contextSave crew => Sys2Proof.Machine.execContextSave crew s
  | .killScrubEnd t => Sys2Proof.Machine.execKillScrubEnd t s
  | .joinNotice group home stage dev retired => Sys2Proof.Machine.execJoinNotice group home stage dev retired s
  | .packetTake cp => Sys2Proof.Machine.execPacketTake cp s
  | .proofRunRetirement crew => Sys2Proof.Machine.execProofRunRetirement crew s
  | .journalSpaceFreed span => Sys2Proof.Machine.execJournalSpaceFreed span s
  | .rowRemap site => Sys2Proof.Machine.execRowRemap site s
  | .siteInjectorWrite site w => Sys2Proof.Machine.execSiteInjectorWrite site w s
  | .strainLimitWrite limit => Sys2Proof.Machine.execStrainLimitWrite limit s
  | .siteReopen site auth => Sys2Proof.Machine.execSiteReopen site auth s
  | .flitReceive port seq typ crcOk payload => Sys2Proof.Machine.execFlitReceive port seq typ crcOk payload s
  | .ack port seq => Sys2Proof.Machine.execAck port seq s
  | .nak port seq => Sys2Proof.Machine.execNak port seq s
  | .ackTimer port => Sys2Proof.Machine.execAckTimer port s
  | .retrain port => Sys2Proof.Machine.execRetrain port s
  | .portDown port => Sys2Proof.Machine.execPortDown port s
  | .laneInjectorWrite port lane w => Sys2Proof.Machine.execLaneInjectorWrite port lane w s
  | .routeTableWrite dev mask => Sys2Proof.Machine.execRouteTableWrite dev mask s
  | .notify iface j w => Sys2Proof.Machine.execNotify iface j w s
  | .qctl iface j w => Sys2Proof.Machine.execQctl iface j w s
  | .qring iface j w => Sys2Proof.Machine.execQring iface j w s
  | .qstop iface j w => Sys2Proof.Machine.execQstop iface j w s
  | .registerWrite iface off w => Sys2Proof.Machine.execRegisterWrite iface off w s
  | .hostRead iface off n => Sys2Proof.Machine.execHostRead iface off n s
  | .hostWrite iface off data mask => Sys2Proof.Machine.execHostWrite iface off data mask s
  | .hostSectorRequest port sector kind => Sys2Proof.Machine.execHostSectorRequest port sector kind s
  | .functionLevelReset iface => Sys2Proof.Machine.execFunctionLevelReset iface s
  | .claunch cp w => Sys2Proof.Machine.execClaunch cp w s
  | .cstat cp => Sys2Proof.Machine.execCstat cp s
  | .cdec cp w => Sys2Proof.Machine.execCdec cp w s
  | .attestationRequest port nonce => Sys2Proof.Machine.execAttestationRequest port nonce s
  | .keyLoad id key ranges => Sys2Proof.Machine.execKeyLoad id key ranges s
  | .keyDestroy id => Sys2Proof.Machine.execKeyDestroy id s
  | .keyClearingDone id => Sys2Proof.Machine.execKeyClearingDone id s
  | .keyRelease id => Sys2Proof.Machine.execKeyRelease id s
  | .packageReset => Sys2Proof.Machine.execPackageReset s
  | .checkpoint buddy => Sys2Proof.Machine.execCheckpoint buddy s
  | .powerLimitWrite watts => Sys2Proof.Machine.execPowerLimitWrite watts s
  | .powerStepDown => Sys2Proof.Machine.execPowerStepDown s
  | .powerStepUp => Sys2Proof.Machine.execPowerStepUp s
  | .memoryReply r => Sys2Proof.Machine.execMemoryReply r s
  | .tick => Sys2Proof.Machine.execTick s
  | .retrainCompletion port ok => Sys2Proof.Machine.execRetrainCompletion port ok s
  | .injectedDelayExpiry port => Sys2Proof.Machine.execInjectedDelayExpiry port s
  | .checkpointRestore buddy => Sys2Proof.Machine.execCheckpointRestore buddy s
  | .measurementExtension reg digest signed => Sys2Proof.Machine.execMeasurementExtension reg digest signed s
  | .configurationChange field value signed => Sys2Proof.Machine.execConfigurationChange field value signed s
  | .add d a b => Sys2Proof.Machine.execAdd d a b s
  | .sub d a b => Sys2Proof.Machine.execSub d a b s
  | .and d a b => Sys2Proof.Machine.execAnd d a b s
  | .or d a b => Sys2Proof.Machine.execOr d a b s
  | .xor d a b => Sys2Proof.Machine.execXor d a b s
  | .andn d a b => Sys2Proof.Machine.execAndn d a b s
  | .orn d a b => Sys2Proof.Machine.execOrn d a b s
  | .sll d a b => Sys2Proof.Machine.execSll d a b s
  | .srl d a b => Sys2Proof.Machine.execSrl d a b s
  | .sra d a b => Sys2Proof.Machine.execSra d a b s
  | .rol d a b => Sys2Proof.Machine.execRol d a b s
  | .ror d a b => Sys2Proof.Machine.execRor d a b s
  | .slt d a b => Sys2Proof.Machine.execSlt d a b s
  | .sltu d a b => Sys2Proof.Machine.execSltu d a b s
  | .min d a b => Sys2Proof.Machine.execMin d a b s
  | .max d a b => Sys2Proof.Machine.execMax d a b s
  | .minu d a b => Sys2Proof.Machine.execMinu d a b s
  | .maxu d a b => Sys2Proof.Machine.execMaxu d a b s
  | .cmov d a b => Sys2Proof.Machine.execCmov d a b s
  | .addw d a b => Sys2Proof.Machine.execAddw d a b s
  | .subw d a b => Sys2Proof.Machine.execSubw d a b s
  | .sllw d a b => Sys2Proof.Machine.execSllw d a b s
  | .srlw d a b => Sys2Proof.Machine.execSrlw d a b s
  | .sraw d a b => Sys2Proof.Machine.execSraw d a b s
  | .mul d a b => Sys2Proof.Machine.execMul d a b s
  | .mulh d a b => Sys2Proof.Machine.execMulh d a b s
  | .mulhu d a b => Sys2Proof.Machine.execMulhu d a b s
  | .mulhsu d a b => Sys2Proof.Machine.execMulhsu d a b s
  | .div d a b => Sys2Proof.Machine.execDiv d a b s
  | .divu d a b => Sys2Proof.Machine.execDivu d a b s
  | .rem d a b => Sys2Proof.Machine.execRem d a b s
  | .remu d a b => Sys2Proof.Machine.execRemu d a b s
  | .mulw d a b => Sys2Proof.Machine.execMulw d a b s
  | .divw d a b => Sys2Proof.Machine.execDivw d a b s
  | .remw d a b => Sys2Proof.Machine.execRemw d a b s
  | .popc d a => Sys2Proof.Machine.execPopc d a s
  | .clz d a => Sys2Proof.Machine.execClz d a s
  | .ctz d a => Sys2Proof.Machine.execCtz d a s
  | .brev d a => Sys2Proof.Machine.execBrev d a s
  | .bswap d a => Sys2Proof.Machine.execBswap d a s
  | .bext d a b => Sys2Proof.Machine.execBext d a b s
  | .bins d a b => Sys2Proof.Machine.execBins d a b s
  | .sextB d a => Sys2Proof.Machine.execSextB d a s
  | .sextH d a => Sys2Proof.Machine.execSextH d a s
  | .sextW d a => Sys2Proof.Machine.execSextW d a s
  | .zextB d a => Sys2Proof.Machine.execZextB d a s
  | .zextH d a => Sys2Proof.Machine.execZextH d a s
  | .zextW d a => Sys2Proof.Machine.execZextW d a s
  | .lsb d a => Sys2Proof.Machine.execLsb d a s
  | .msk d a => Sys2Proof.Machine.execMsk d a s
  | .addi d a imm => Sys2Proof.Machine.execAddi d a imm s
  | .andi d a imm => Sys2Proof.Machine.execAndi d a imm s
  | .ori d a imm => Sys2Proof.Machine.execOri d a imm s
  | .xori d a imm => Sys2Proof.Machine.execXori d a imm s
  | .slti d a imm => Sys2Proof.Machine.execSlti d a imm s
  | .sltiu d a imm => Sys2Proof.Machine.execSltiu d a imm s
  | .addiw d a imm => Sys2Proof.Machine.execAddiw d a imm s
  | .slli d a n => Sys2Proof.Machine.execSlli d a n s
  | .srli d a n => Sys2Proof.Machine.execSrli d a n s
  | .srai d a n => Sys2Proof.Machine.execSrai d a n s
  | .slliw d a n => Sys2Proof.Machine.execSlliw d a n s
  | .srliw d a n => Sys2Proof.Machine.execSrliw d a n s
  | .sraiw d a n => Sys2Proof.Machine.execSraiw d a n s
  | .lui d imm => Sys2Proof.Machine.execLui d imm s
  | .lpc d imm => Sys2Proof.Machine.execLpc d imm s
  | .jal d imm => Sys2Proof.Machine.execJal d imm s
  | .jalr d a imm => Sys2Proof.Machine.execJalr d a imm s
  | .beq a b imm => Sys2Proof.Machine.execBeq a b imm s
  | .bne a b imm => Sys2Proof.Machine.execBne a b imm s
  | .blt a b imm => Sys2Proof.Machine.execBlt a b imm s
  | .bge a b imm => Sys2Proof.Machine.execBge a b imm s
  | .bltu a b imm => Sys2Proof.Machine.execBltu a b imm s
  | .bgeu a b imm => Sys2Proof.Machine.execBgeu a b imm s
  | .bany a b imm => Sys2Proof.Machine.execBany a b imm s
  | .ball a b imm => Sys2Proof.Machine.execBall a b imm s
  | .bnone a b imm => Sys2Proof.Machine.execBnone a b imm s
  | .bbs a n imm => Sys2Proof.Machine.execBbs a n imm s
  | .bbc a n imm => Sys2Proof.Machine.execBbc a n imm s
  | .ldB d base seg imm => Sys2Proof.Machine.execLdB d base seg imm s
  | .ldBu d base seg imm => Sys2Proof.Machine.execLdBu d base seg imm s
  | .ldH d base seg imm => Sys2Proof.Machine.execLdH d base seg imm s
  | .ldHu d base seg imm => Sys2Proof.Machine.execLdHu d base seg imm s
  | .ldW d base seg imm => Sys2Proof.Machine.execLdW d base seg imm s
  | .ldWu d base seg imm => Sys2Proof.Machine.execLdWu d base seg imm s
  | .ldD d base seg imm => Sys2Proof.Machine.execLdD d base seg imm s
  | .stB d base seg imm => Sys2Proof.Machine.execStB d base seg imm s
  | .stH d base seg imm => Sys2Proof.Machine.execStH d base seg imm s
  | .stW d base seg imm => Sys2Proof.Machine.execStW d base seg imm s
  | .stD d base seg imm => Sys2Proof.Machine.execStD d base seg imm s
  | .vld d base seg imm => Sys2Proof.Machine.execVld d base seg imm s
  | .vst d base seg imm => Sys2Proof.Machine.execVst d base seg imm s
  | .ldBIndexed d base idx seg => Sys2Proof.Machine.execLdBIndexed d base idx seg s
  | .ldBuIndexed d base idx seg => Sys2Proof.Machine.execLdBuIndexed d base idx seg s
  | .ldHIndexed d base idx seg => Sys2Proof.Machine.execLdHIndexed d base idx seg s
  | .ldHuIndexed d base idx seg => Sys2Proof.Machine.execLdHuIndexed d base idx seg s
  | .ldWIndexed d base idx seg => Sys2Proof.Machine.execLdWIndexed d base idx seg s
  | .ldWuIndexed d base idx seg => Sys2Proof.Machine.execLdWuIndexed d base idx seg s
  | .ldDIndexed d base idx seg => Sys2Proof.Machine.execLdDIndexed d base idx seg s
  | .stBIndexed d base idx seg => Sys2Proof.Machine.execStBIndexed d base idx seg s
  | .stHIndexed d base idx seg => Sys2Proof.Machine.execStHIndexed d base idx seg s
  | .stWIndexed d base idx seg => Sys2Proof.Machine.execStWIndexed d base idx seg s
  | .stDIndexed d base idx seg => Sys2Proof.Machine.execStDIndexed d base idx seg s
  | .vldIndexed d base idx seg => Sys2Proof.Machine.execVldIndexed d base idx seg s
  | .vstIndexed d base idx seg => Sys2Proof.Machine.execVstIndexed d base idx seg s
  | .bwait base seg => Sys2Proof.Machine.execBwait base seg s
  | .bhold d base seg => Sys2Proof.Machine.execBhold d base seg s
  | .barm base idx seg => Sys2Proof.Machine.execBarm base idx seg s
  | .bpoll d base seg => Sys2Proof.Machine.execBpoll d base seg s
  | .bgen d base seg => Sys2Proof.Machine.execBgen d base seg s
  | .bclr base seg => Sys2Proof.Machine.execBclr base seg s
  | .bclrG base idx seg => Sys2Proof.Machine.execBclrG base idx seg s
  | .bfin base seg => Sys2Proof.Machine.execBfin base seg s
  | .amoAddW d base idx seg => Sys2Proof.Machine.execAmoAddW d base idx seg s
  | .amoAndW d base idx seg => Sys2Proof.Machine.execAmoAndW d base idx seg s
  | .amoOrW d base idx seg => Sys2Proof.Machine.execAmoOrW d base idx seg s
  | .amoXorW d base idx seg => Sys2Proof.Machine.execAmoXorW d base idx seg s
  | .amoMinW d base idx seg => Sys2Proof.Machine.execAmoMinW d base idx seg s
  | .amoMaxW d base idx seg => Sys2Proof.Machine.execAmoMaxW d base idx seg s
  | .amoMinuW d base idx seg => Sys2Proof.Machine.execAmoMinuW d base idx seg s
  | .amoMaxuW d base idx seg => Sys2Proof.Machine.execAmoMaxuW d base idx seg s
  | .amoSwapW d base idx seg => Sys2Proof.Machine.execAmoSwapW d base idx seg s
  | .amoCasW d base idx seg => Sys2Proof.Machine.execAmoCasW d base idx seg s
  | .amoFaddW d base idx seg => Sys2Proof.Machine.execAmoFaddW d base idx seg s
  | .amoIncW d base idx seg => Sys2Proof.Machine.execAmoIncW d base idx seg s
  | .amoAddD d base idx seg => Sys2Proof.Machine.execAmoAddD d base idx seg s
  | .amoAndD d base idx seg => Sys2Proof.Machine.execAmoAndD d base idx seg s
  | .amoOrD d base idx seg => Sys2Proof.Machine.execAmoOrD d base idx seg s
  | .amoXorD d base idx seg => Sys2Proof.Machine.execAmoXorD d base idx seg s
  | .amoMinD d base idx seg => Sys2Proof.Machine.execAmoMinD d base idx seg s
  | .amoMaxD d base idx seg => Sys2Proof.Machine.execAmoMaxD d base idx seg s
  | .amoMinuD d base idx seg => Sys2Proof.Machine.execAmoMinuD d base idx seg s
  | .amoMaxuD d base idx seg => Sys2Proof.Machine.execAmoMaxuD d base idx seg s
  | .amoSwapD d base idx seg => Sys2Proof.Machine.execAmoSwapD d base idx seg s
  | .amoCasD d base idx seg => Sys2Proof.Machine.execAmoCasD d base idx seg s
  | .amoIncD d base idx seg => Sys2Proof.Machine.execAmoIncD d base idx seg s
  | .fenceAcq n => Sys2Proof.Machine.execFenceAcq n s
  | .fenceRel n => Sys2Proof.Machine.execFenceRel n s
  | .fenceFull n => Sys2Proof.Machine.execFenceFull n s
  | .rlx => Sys2Proof.Machine.execRlx s
  | .rep count stride => Sys2Proof.Machine.execRep count stride s
  | .cAddi d a imm => Sys2Proof.Machine.execCAddi d a imm s
  | .cLi d imm => Sys2Proof.Machine.execCLi d imm s
  | .cMv d a => Sys2Proof.Machine.execCMv d a s
  | .cAdd d a => Sys2Proof.Machine.execCAdd d a s
  | .cSub d a => Sys2Proof.Machine.execCSub d a s
  | .cAnd d a => Sys2Proof.Machine.execCAnd d a s
  | .cSlli d n => Sys2Proof.Machine.execCSlli d n s
  | .cSrli d n => Sys2Proof.Machine.execCSrli d n s
  | .cBeqz a o => Sys2Proof.Machine.execCBeqz a o s
  | .cBnez a o => Sys2Proof.Machine.execCBnez a o s
  | .cLdD d a imm => Sys2Proof.Machine.execCLdD d a imm s
  | .cStD d a imm => Sys2Proof.Machine.execCStD d a imm s
  | .cVld d a imm => Sys2Proof.Machine.execCVld d a imm s
  | .cVst d a imm => Sys2Proof.Machine.execCVst d a imm s
  | .cJ o => Sys2Proof.Machine.execCJ o s
  | .vadd d a b w => Sys2Proof.Machine.execVadd d a b w s
  | .vsub d a b w => Sys2Proof.Machine.execVsub d a b w s
  | .vadds d a b w => Sys2Proof.Machine.execVadds d a b w s
  | .vaddsu d a b w => Sys2Proof.Machine.execVaddsu d a b w s
  | .vsubs d a b w => Sys2Proof.Machine.execVsubs d a b w s
  | .vsubsu d a b w => Sys2Proof.Machine.execVsubsu d a b w s
  | .vmul d a b w => Sys2Proof.Machine.execVmul d a b w s
  | .vmulh d a b w => Sys2Proof.Machine.execVmulh d a b w s
  | .vmulhu d a b w => Sys2Proof.Machine.execVmulhu d a b w s
  | .vmin d a b w => Sys2Proof.Machine.execVmin d a b w s
  | .vminu d a b w => Sys2Proof.Machine.execVminu d a b w s
  | .vmax d a b w => Sys2Proof.Machine.execVmax d a b w s
  | .vmaxu d a b w => Sys2Proof.Machine.execVmaxu d a b w s
  | .vabsd d a b w => Sys2Proof.Machine.execVabsd d a b w s
  | .vavgu d a b w => Sys2Proof.Machine.execVavgu d a b w s
  | .vand d a b => Sys2Proof.Machine.execVand d a b s
  | .vor d a b => Sys2Proof.Machine.execVor d a b s
  | .vxor d a b => Sys2Proof.Machine.execVxor d a b s
  | .vandn d a b => Sys2Proof.Machine.execVandn d a b s
  | .vbsl d a b => Sys2Proof.Machine.execVbsl d a b s
  | .vsll d a b w => Sys2Proof.Machine.execVsll d a b w s
  | .vsrl d a b w => Sys2Proof.Machine.execVsrl d a b w s
  | .vsra d a b w => Sys2Proof.Machine.execVsra d a b w s
  | .vslli d a k w => Sys2Proof.Machine.execVslli d a k w s
  | .vsrli d a k w => Sys2Proof.Machine.execVsrli d a k w s
  | .vsrai d a k w => Sys2Proof.Machine.execVsrai d a k w s
  | .vceq d a b w => Sys2Proof.Machine.execVceq d a b w s
  | .vcne d a b w => Sys2Proof.Machine.execVcne d a b w s
  | .vclt d a b w => Sys2Proof.Machine.execVclt d a b w s
  | .vcltu d a b w => Sys2Proof.Machine.execVcltu d a b w s
  | .vcle d a b w => Sys2Proof.Machine.execVcle d a b w s
  | .vcleu d a b w => Sys2Proof.Machine.execVcleu d a b w s
  | .vfceq d a b t => Sys2Proof.Machine.execVfceq d a b t s
  | .vfcne d a b t => Sys2Proof.Machine.execVfcne d a b t s
  | .vfclt d a b t => Sys2Proof.Machine.execVfclt d a b t s
  | .vfcle d a b t => Sys2Proof.Machine.execVfcle d a b t s
  | .vfcun d a b t => Sys2Proof.Machine.execVfcun d a b t s
  | .vshuf d a b w => Sys2Proof.Machine.execVshuf d a b w s
  | .vzipl d a b w => Sys2Proof.Machine.execVzipl d a b w s
  | .vziph d a b w => Sys2Proof.Machine.execVziph d a b w s
  | .vunzipe d a b w => Sys2Proof.Machine.execVunzipe d a b w s
  | .vunzipo d a b w => Sys2Proof.Machine.execVunzipo d a b w s
  | .vrev d a w => Sys2Proof.Machine.execVrev d a w s
  | .vpacks d a b w => Sys2Proof.Machine.execVpacks d a b w s
  | .vpacksu d a b w => Sys2Proof.Machine.execVpacksu d a b w s
  | .vwidenl d a w => Sys2Proof.Machine.execVwidenl d a w s
  | .vwidenh d a w => Sys2Proof.Machine.execVwidenh d a w s
  | .vwidenlu d a w => Sys2Proof.Machine.execVwidenlu d a w s
  | .vwidenhu d a w => Sys2Proof.Machine.execVwidenhu d a w s
  | .vfadd d a b t => Sys2Proof.Machine.execVfadd d a b t s
  | .vfsub d a b t => Sys2Proof.Machine.execVfsub d a b t s
  | .vfmul d a b t => Sys2Proof.Machine.execVfmul d a b t s
  | .vfmin d a b t => Sys2Proof.Machine.execVfmin d a b t s
  | .vfmax d a b t => Sys2Proof.Machine.execVfmax d a b t s
  | .vfabs d a t => Sys2Proof.Machine.execVfabs d a t s
  | .vfneg d a t => Sys2Proof.Machine.execVfneg d a t s
  | .vfround d a t => Sys2Proof.Machine.execVfround d a t s
  | .vfma d a b l bc t => Sys2Proof.Machine.execVfma d a b l bc t s
  | .vfms d a b l bc t => Sys2Proof.Machine.execVfms d a b l bc t s
  | .vcvtF16F32 d a p => Sys2Proof.Machine.execVcvtF16F32 d a p s
  | .vcvtBf16F32 d a p => Sys2Proof.Machine.execVcvtBf16F32 d a p s
  | .vcvtE4m3F32 d a b p => Sys2Proof.Machine.execVcvtE4m3F32 d a b p s
  | .vcvtE5m2F32 d a b p => Sys2Proof.Machine.execVcvtE5m2F32 d a b p s
  | .vcvtE2m1F32 d a b p => Sys2Proof.Machine.execVcvtE2m1F32 d a b p s
  | .vcvtF16F32Sat d a p => Sys2Proof.Machine.execVcvtF16F32Sat d a p s
  | .vcvtBf16F32Sat d a p => Sys2Proof.Machine.execVcvtBf16F32Sat d a p s
  | .vcvtE4m3F32Sat d a b p => Sys2Proof.Machine.execVcvtE4m3F32Sat d a b p s
  | .vcvtE5m2F32Sat d a b p => Sys2Proof.Machine.execVcvtE5m2F32Sat d a b p s
  | .vcvtE2m1F32Sat d a b p => Sys2Proof.Machine.execVcvtE2m1F32Sat d a b p s
  | .vcvtF32F16 d a p => Sys2Proof.Machine.execVcvtF32F16 d a p s
  | .vcvtF32Bf16 d a p => Sys2Proof.Machine.execVcvtF32Bf16 d a p s
  | .vcvtF32E4m3 d a b p => Sys2Proof.Machine.execVcvtF32E4m3 d a b p s
  | .vcvtF32E5m2 d a b p => Sys2Proof.Machine.execVcvtF32E5m2 d a b p s
  | .vcvtF32E2m1 d a b p => Sys2Proof.Machine.execVcvtF32E2m1 d a b p s
  | .vcvtI32F32 d a => Sys2Proof.Machine.execVcvtI32F32 d a s
  | .vcvtF32I32 d a => Sys2Proof.Machine.execVcvtF32I32 d a s
  | .vrsum d a w => Sys2Proof.Machine.execVrsum d a w s
  | .vrsumu d a w => Sys2Proof.Machine.execVrsumu d a w s
  | .vrmin d a w => Sys2Proof.Machine.execVrmin d a w s
  | .vrminu d a w => Sys2Proof.Machine.execVrminu d a w s
  | .vrmax d a w => Sys2Proof.Machine.execVrmax d a w s
  | .vrmaxu d a w => Sys2Proof.Machine.execVrmaxu d a w s
  | .vfrsum d a t => Sys2Proof.Machine.execVfrsum d a t s
  | .vfrmin d a t => Sys2Proof.Machine.execVfrmin d a t s
  | .vfrmax d a t => Sys2Proof.Machine.execVfrmax d a t s
  | .vmv d a => Sys2Proof.Machine.execVmv d a s
  | .vbcst d a w => Sys2Proof.Machine.execVbcst d a w s
  | .vins d a l w => Sys2Proof.Machine.execVins d a l w s
  | .vextr d a l w => Sys2Proof.Machine.execVextr d a l w s
  | .vextru d a l w => Sys2Proof.Machine.execVextru d a l w s
  | .vmexp d a w => Sys2Proof.Machine.execVmexp d a w s
  | .vfrcp d a => Sys2Proof.Machine.execVfrcp d a s
  | .vfrsq d a => Sys2Proof.Machine.execVfrsq d a s
  | .vfexp2 d a => Sys2Proof.Machine.execVfexp2 d a s
  | .vflog2 d a => Sys2Proof.Machine.execVflog2 d a s
  | .vfdiv d a b => Sys2Proof.Machine.execVfdiv d a b s
  | .vfsqrt d a => Sys2Proof.Machine.execVfsqrt d a s
  | .mxCfg a => Sys2Proof.Machine.execMxCfg a s
  | .mxRing a n => Sys2Proof.Machine.execMxRing a n s
  | .mxZero acc int => Sys2Proof.Machine.execMxZero acc int s
  | .mxMma acc ra rb ka kb ret => Sys2Proof.Machine.execMxMma acc ra rb ka kb ret s
  | .mxMma4 ra rb ka kb ret => Sys2Proof.Machine.execMxMma4 ra rb ka kb ret s
  | .mxScale a b => Sys2Proof.Machine.execMxScale a b s
  | .mxDrain acc a b clr ret => Sys2Proof.Machine.execMxDrain acc a b clr ret s
  | .mxLoad acc a b int => Sys2Proof.Machine.execMxLoad acc a b int s
  | .mxPush n => Sys2Proof.Machine.execMxPush n s
  | .mxPop n => Sys2Proof.Machine.execMxPop n s
  | .cpIn d a b ring ret => Sys2Proof.Machine.execCpIn d a b ring ret s
  | .cpOut d a b sys ret => Sys2Proof.Machine.execCpOut d a b sys ret s
  | .cpDd d a b ret => Sys2Proof.Machine.execCpDd d a b ret s
  | .cpGather d a b ring ret => Sys2Proof.Machine.execCpGather d a b ring ret s
  | .cpPf a b => Sys2Proof.Machine.execCpPf a b s
  | .smBind d a => Sys2Proof.Machine.execSmBind d a s
  | .smFree d => Sys2Proof.Machine.execSmFree d s
  | .smSkip d a => Sys2Proof.Machine.execSmSkip d a s
  | .tbInit a b => Sys2Proof.Machine.execTbInit a b s
  | .tbArrive d a => Sys2Proof.Machine.execTbArrive d a s
  | .tbWait a b => Sys2Proof.Machine.execTbWait a b s
  | .tbTest d a b => Sys2Proof.Machine.execTbTest d a b s
  | .winOpen a b w seg => Sys2Proof.Machine.execWinOpen a b w seg s
  | .winFlush w => Sys2Proof.Machine.execWinFlush w s
  | .winClose w => Sys2Proof.Machine.execWinClose w s
  | .winDrop w => Sys2Proof.Machine.execWinDrop w s
  | .seqCfg a => Sys2Proof.Machine.execSeqCfg a s
  | .seqStart a => Sys2Proof.Machine.execSeqStart a s
  | .seqStop => Sys2Proof.Machine.execSeqStop s
  | .seqRet => Sys2Proof.Machine.execSeqRet s
  | .spawn d a b => Sys2Proof.Machine.execSpawn d a b s
  | .exit => Sys2Proof.Machine.execExit s
  | .yield => Sys2Proof.Machine.execYield s
  | .park d a => Sys2Proof.Machine.execPark d a s
  | .wake a => Sys2Proof.Machine.execWake a s
  | .fuse d a => Sys2Proof.Machine.execFuse d a s
  | .split => Sys2Proof.Machine.execSplit s
  | .send a b => Sys2Proof.Machine.execSend a b s
  | .recv d a => Sys2Proof.Machine.execRecv d a s
  | .recvp d a => Sys2Proof.Machine.execRecvp d a s
  | .mig a => Sys2Proof.Machine.execMig a s
  | .barInit a n => Sys2Proof.Machine.execBarInit a n s
  | .barArrive d n => Sys2Proof.Machine.execBarArrive d n s
  | .barWait a n => Sys2Proof.Machine.execBarWait a n s
  | .barSync n => Sys2Proof.Machine.execBarSync n s
  | .wfe => Sys2Proof.Machine.execWfe s
  | .sev a => Sys2Proof.Machine.execSev a s
  | .csrr d csr => Sys2Proof.Machine.execCsrr d csr s
  | .csrw x csr => Sys2Proof.Machine.execCsrw x csr s
  | .csrs x csr => Sys2Proof.Machine.execCsrs x csr s
  | .csrc x csr => Sys2Proof.Machine.execCsrc x csr s
  | .trap k => Sys2Proof.Machine.execTrap k s
  | .brk => Sys2Proof.Machine.execBrk s
  | .eret => Sys2Proof.Machine.execEret s
  | .segw a b c seg => Sys2Proof.Machine.execSegw a b c seg s
  | .tlbinv a b => Sys2Proof.Machine.execTlbinv a b s
  | .scrub a b seg => Sys2Proof.Machine.execScrub a b seg s
  | .twinOn d => Sys2Proof.Machine.execTwinOn d s
  | .twinOff => Sys2Proof.Machine.execTwinOff s

end Sys2Proof.Machine
end

