-- ==== Sys2Proof/Machine/Fields.lean ====
section
/-! DEFINITION. The register fields of an instruction with their classes (R62, R157), and the vector-class fields that it
reads, by the latch that serves each (R158, R159, R247); the parts of a unit. -/

namespace Sys2Proof

open Machine

/-- The registers that an instruction's fields name; none for the compact forms, whose fields name `s8` to `s15`. -/
def Instr.regs : Instr → List Reg
  | .add d a b | .sub d a b | .and d a b | .or d a b | .xor d a b | .andn d a b | .orn d a b | .sll d a b
  | .srl d a b | .sra d a b | .rol d a b | .ror d a b | .slt d a b | .sltu d a b | .min d a b | .max d a b
  | .minu d a b | .maxu d a b | .cmov d a b | .addw d a b | .subw d a b | .sllw d a b | .srlw d a b
  | .sraw d a b | .mul d a b | .mulh d a b | .mulhu d a b | .mulhsu d a b | .div d a b | .divu d a b
  | .rem d a b | .remu d a b | .mulw d a b | .divw d a b | .remw d a b | .bext d a b | .bins d a b
  | .cpDd d a b _ | .cpGather d a b _ _ | .tbTest d a b | .spawn d a b => [sreg d, sreg a, sreg b]
  | .popc d a | .clz d a | .ctz d a | .brev d a | .bswap d a | .sextB d a | .sextH d a | .sextW d a
  | .zextB d a | .zextH d a | .zextW d a | .lsb d a | .msk d a | .addi d a _ | .andi d a _ | .ori d a _
  | .xori d a _ | .slti d a _ | .sltiu d a _ | .addiw d a _ | .slli d a _ | .srli d a _ | .srai d a _
  | .slliw d a _ | .srliw d a _ | .sraiw d a _ | .jalr d a _ | .tbArrive d a | .park d a | .fuse d a
  | .recv d a | .recvp d a => [sreg d, sreg a]
  | .lui d _ | .lpc d _ | .jal d _ | .barArrive d _ | .csrr d _ | .twinOn d => [sreg d]
  | .beq a b _ | .bne a b _ | .blt a b _ | .bge a b _ | .bltu a b _ | .bgeu a b _ | .bany a b _ | .ball a b _
  | .bnone a b _ | .mxScale a b | .mxDrain _ a b _ _ | .mxLoad _ a b _ | .tbInit a b | .tbWait a b
  | .winOpen a b _ _ | .send a b | .tlbinv a b | .scrub a b _ => [sreg a, sreg b]
  | .bbs a _ _ | .bbc a _ _ | .mxCfg a | .mxRing a _ | .smBind _ a | .smSkip _ a | .seqCfg a | .seqStart a
  | .wake a | .mig a | .barInit a _ | .barWait a _ | .sev a => [sreg a]
  | .ldB d base _ _ | .ldBu d base _ _ | .ldH d base _ _ | .ldHu d base _ _ | .ldW d base _ _
  | .ldWu d base _ _ | .ldD d base _ _ | .stB d base _ _ | .stH d base _ _ | .stW d base _ _ | .stD d base _ _
  | .bhold d base _ | .bpoll d base _ | .bgen d base _ => [sreg d, sreg base]
  | .vld d base _ _ | .vst d base _ _ => [vreg d, sreg base]
  | .ldBIndexed d base idx _ | .ldBuIndexed d base idx _ | .ldHIndexed d base idx _ | .ldHuIndexed d base idx _
  | .ldWIndexed d base idx _ | .ldWuIndexed d base idx _ | .ldDIndexed d base idx _ | .stBIndexed d base idx _
  | .stHIndexed d base idx _ | .stWIndexed d base idx _ | .stDIndexed d base idx _ | .amoAddW d base idx _
  | .amoAndW d base idx _ | .amoOrW d base idx _ | .amoXorW d base idx _ | .amoMinW d base idx _
  | .amoMaxW d base idx _ | .amoMinuW d base idx _ | .amoMaxuW d base idx _ | .amoSwapW d base idx _
  | .amoCasW d base idx _ | .amoFaddW d base idx _ | .amoIncW d base idx _ | .amoAddD d base idx _
  | .amoAndD d base idx _ | .amoOrD d base idx _ | .amoXorD d base idx _ | .amoMinD d base idx _
  | .amoMaxD d base idx _ | .amoMinuD d base idx _ | .amoMaxuD d base idx _ | .amoSwapD d base idx _
  | .amoCasD d base idx _ | .amoIncD d base idx _ => [sreg d, sreg base, sreg idx]
  | .vldIndexed d base idx _ | .vstIndexed d base idx _ => [vreg d, sreg base, sreg idx]
  | .bwait base _ | .bclr base _ | .bfin base _ => [sreg base]
  | .barm base idx _ | .bclrG base idx _ => [sreg base, sreg idx]
  | .vadd d a b _ | .vsub d a b _ | .vadds d a b _ | .vaddsu d a b _ | .vsubs d a b _ | .vsubsu d a b _
  | .vmul d a b _ | .vmulh d a b _ | .vmulhu d a b _ | .vmin d a b _ | .vminu d a b _ | .vmax d a b _
  | .vmaxu d a b _ | .vabsd d a b _ | .vavgu d a b _ | .vand d a b | .vor d a b | .vxor d a b | .vandn d a b
  | .vbsl d a b | .vsll d a b _ | .vsrl d a b _ | .vsra d a b _ | .vshuf d a b _ | .vzipl d a b _
  | .vziph d a b _ | .vunzipe d a b _ | .vunzipo d a b _ | .vpacks d a b _ | .vpacksu d a b _ | .vfadd d a b _
  | .vfsub d a b _ | .vfmul d a b _ | .vfmin d a b _ | .vfmax d a b _ | .vfma d a b _ _ _ | .vfms d a b _ _ _
  | .vfdiv d a b => [vreg d, vreg a, vreg b]
  | .vslli d a _ _ | .vsrli d a _ _ | .vsrai d a _ _ | .vrev d a _ | .vwidenl d a _ | .vwidenh d a _
  | .vwidenlu d a _ | .vwidenhu d a _ | .vfabs d a _ | .vfneg d a _ | .vfround d a _ | .vcvtF16F32 d a _
  | .vcvtBf16F32 d a _ | .vcvtF16F32Sat d a _ | .vcvtBf16F32Sat d a _ | .vcvtF32F16 d a _ | .vcvtF32Bf16 d a _
  | .vcvtI32F32 d a | .vcvtF32I32 d a | .vmv d a | .vfrcp d a | .vfrsq d a | .vfexp2 d a | .vflog2 d a
  | .vfsqrt d a => [vreg d, vreg a]
  | .vceq d a b _ | .vcne d a b _ | .vclt d a b _ | .vcltu d a b _ | .vcle d a b _ | .vcleu d a b _
  | .vfceq d a b _ | .vfcne d a b _ | .vfclt d a b _ | .vfcle d a b _ | .vfcun d a b _ => [sreg d, vreg a, vreg b]
  | .vcvtE4m3F32 d a b _ | .vcvtE5m2F32 d a b _ | .vcvtE2m1F32 d a b _ | .vcvtE4m3F32Sat d a b _
  | .vcvtE5m2F32Sat d a b _ | .vcvtE2m1F32Sat d a b _ | .vcvtF32E4m3 d a b _ | .vcvtF32E5m2 d a b _
  | .vcvtF32E2m1 d a b _ => [vreg d, vreg a, sreg b]
  | .vrsum d a _ | .vrsumu d a _ | .vrmin d a _ | .vrminu d a _ | .vrmax d a _ | .vrmaxu d a _ | .vfrsum d a _
  | .vfrmin d a _ | .vfrmax d a _ | .vextr d a _ _ | .vextru d a _ _ => [sreg d, vreg a]
  | .vbcst d a _ | .vins d a _ _ | .vmexp d a _ => [vreg d, sreg a]
  | .cpIn d a b _ _ | .cpOut d a b _ _ => [sreg d, sreg a, vreg b]
  | .cpPf a b => [sreg a, vreg b]
  | .csrw x _ | .csrs x _ | .csrc x _ => [sreg x]
  | .segw a b c _ => [sreg a, sreg b, sreg c]
  | _ => []

/-- The vector registers that a unit reads: sources, and the old value of d where it is read. -/
def Instr.vreads : Instr → VReads
  | .vst d _ _ _ | .vstIndexed d _ _ _ => { d := some d }
  | .cVst d _ _ => { d := some (creg d) }
  | .vadd _ a b _ | .vsub _ a b _ | .vadds _ a b _ | .vaddsu _ a b _ | .vsubs _ a b _ | .vsubsu _ a b _
  | .vmul _ a b _ | .vmulh _ a b _ | .vmulhu _ a b _ | .vmin _ a b _ | .vminu _ a b _ | .vmax _ a b _
  | .vmaxu _ a b _ | .vabsd _ a b _ | .vavgu _ a b _ | .vand _ a b | .vor _ a b | .vxor _ a b
  | .vandn _ a b => { a := some a, b := some b }
  | .vbsl d a b => { d := some d, a := some a, b := some b }
  | .vsll _ a b _ | .vsrl _ a b _ | .vsra _ a b _ => { a := some a, b := some b }
  | .vslli _ a _ _ | .vsrli _ a _ _ | .vsrai _ a _ _ => { a := some a }
  | .vceq _ a b _ | .vcne _ a b _ | .vclt _ a b _ | .vcltu _ a b _ | .vcle _ a b _ | .vcleu _ a b _
  | .vfceq _ a b _ | .vfcne _ a b _ | .vfclt _ a b _ | .vfcle _ a b _ | .vfcun _ a b _ | .vshuf _ a b _
  | .vzipl _ a b _ | .vziph _ a b _ | .vunzipe _ a b _ | .vunzipo _ a b _ => { a := some a, b := some b }
  | .vrev _ a _ => { a := some a }
  | .vpacks _ a b _ | .vpacksu _ a b _ => { a := some a, b := some b }
  | .vwidenl _ a _ | .vwidenh _ a _ | .vwidenlu _ a _ | .vwidenhu _ a _ => { a := some a }
  | .vfadd _ a b _ | .vfsub _ a b _ | .vfmul _ a b _ | .vfmin _ a b _ | .vfmax _ a b _ => { a := some a, b := some b }
  | .vfabs _ a _ | .vfneg _ a _ | .vfround _ a _ => { a := some a }
  | .vfma d a b _ _ _ | .vfms d a b _ _ _ => { d := some d, a := some a, b := some b }
  | .vcvtF16F32 d a _ | .vcvtBf16F32 d a _ | .vcvtE4m3F32 d a _ _ | .vcvtE5m2F32 d a _ _ | .vcvtE2m1F32 d a _ _
  | .vcvtF16F32Sat d a _ | .vcvtBf16F32Sat d a _ | .vcvtE4m3F32Sat d a _ _ | .vcvtE5m2F32Sat d a _ _
  | .vcvtE2m1F32Sat d a _ _ => { d := some d, a := some a }
  | .vcvtF32F16 _ a _ | .vcvtF32Bf16 _ a _ | .vcvtF32E4m3 _ a _ _ | .vcvtF32E5m2 _ a _ _ | .vcvtF32E2m1 _ a _ _
  | .vcvtI32F32 _ a | .vcvtF32I32 _ a | .vrsum _ a _ | .vrsumu _ a _ | .vrmin _ a _ | .vrminu _ a _ | .vrmax _ a _
  | .vrmaxu _ a _ | .vfrsum _ a _ | .vfrmin _ a _ | .vfrmax _ a _ | .vmv _ a => { a := some a }
  | .vins d _ _ _ => { d := some d }
  | .vextr _ a _ _ | .vextru _ a _ _ | .vfrcp _ a | .vfrsq _ a | .vfexp2 _ a | .vflog2 _ a => { a := some a }
  | .vfdiv _ a b => { a := some a, b := some b }
  | .vfsqrt _ a => { a := some a }
  | .cpIn _ _ b _ _ | .cpOut _ _ b _ _ | .cpPf _ b => { b := some b }
  | _ => {}

/-- A field names a port: `h24` to `h29`, or `w28` to `w31` (R20, R245). -/
def Instr.namesPort (i : Instr) : Bool :=
  i.regs.any fun r => if r.vec then decide (60 ≤ r.field.toNat) else decide (56 ≤ r.field.toNat ∧ r.field.toNat ≤ 61)

-- Lean compiles no code that builds the constructors of Instr past the 245th: what decodes is left uncompiled.
noncomputable section

/-! ### Units (R66, R84) -/

/-- The halfwords of prefixes that a unit begins with. -/
def Unit16.prefixes (u : Unit16) : Nat := (if u.rep.isSome then 1 else 0) + (if u.rlx then 1 else 0)

/-- The instruction's own halfwords. -/
def Unit16.word (u : Unit16) (w : Nat) : Nat := w / 2 ^ (16 * u.prefixes)

/-- The halfwords of a unit as `taddr` receives them (R84). -/
def Unit16.raw (u : Unit16) (w : Nat) : Word := BitVec.ofNat 64 (w % 2 ^ (16 * u.size))

/-- The issue of the unit at `pc`. -/
def Unit16.issue (u : Unit16) (pc : BitVec 57) (w : Nat) (alone : Bool) : Issue :=
  { ipc := pc + BitVec.ofNat 57 (2 * u.prefixes), npc := pc + BitVec.ofNat 57 (2 * u.size), raw := u.raw w,
    major := if u.word w % 2 = 1 then field (u.word w) 1 6 else 64, alone := alone }

/-- A unit that is a check point (R245). -/
def Instr.checkPoint (i : Instr) : Bool :=
  let m := i.major
  let apart := match i with
    | .csrr _ _ => true
    | .trap _ => true
    | .brk => true
    | _ => false
  (0x26 ≤ m && m ≤ 0x29) || (0x36 ≤ m && m ≤ 0x3E && !apart) || i.namesPort

end

end Sys2Proof
end

