-- ==== Sys2Proof/Machine/Attempt.lean ====
section
/-! DEFINITION. An attempt (R41, R66 to R68, R84 to R86, R141 to R144, R245 to R251, R257 to R260): the fetch of a unit, its
prefixes, the reads that a turn serves, and its execution by one thread, by a gang, by a twin pair. -/

namespace Sys2Proof.Machine

-- Lean compiles no code that builds the constructors of Instr past the 245th: what decodes is left uncompiled.
noncomputable section

/-! ### Fetch (R41, R86, R120, R384) -/

/-- What the fetch of one halfword finds. -/
inductive Half where
  | got (h : Nat)
  /-- the translation has missed -/
  | wait (s : State)
  | trap (c : Cause) (addr : Word)
  /-- an error response at the cluster port or the home (R376) -/
  | refused (c : Cause) (dva : Nat)
  /-- firmware's PC names no memory (R436) -/
  | nothing (addr : Nat)

/-- The checks of a fetch through a global or peer segment, and its bytes as they stand (R86, R342). -/
def State.fetchLeaf (s : State) (sp : Space) (dva : Nat) (l : Leaf) : Half :=
  if !l.rd || decide (l.dev = s.dev.toNat) == (sp == .peer) then .refused .page dva
  else if sp == .peer && !s.reaches l.dev then .refused .poison dva
  else if !s.keyLive l dva then .refused .deadkey dva
  else if sp = .peer then
    (if peerPresence (l.phys dva / 256) s.now = .poison then .refused .poison dva
    else .got (ofBytesLE (peerBytes (l.phys dva) 2 s.now)))
  else if (s.block (l.phys dva / 256)).pres = .poison then .refused .poison dva
  else .got (s.memRead (l.phys dva) 2)

/-- Words of the block that a window holds dirty, or a host's modified sector, come home before a fetch (R86, R294). -/
def State.fetchRecall (s : State) (dva : Nat) (l : Leaf) : Option State :=
  if l.once || l.dev != s.dev.toNat then none else s.comeHome (l.phys dva) 2 []

/-- A thread whose fetch has missed waits, or is parked already. -/
def State.fetchWaits (s : State) (t dva : Nat) : State :=
  s.modThread t fun x =>
    { x with wait := .fetch dva, lineAt := none, state := if x.state = .pfault then .pfault else .wmem, iss := { x.iss with ended := .held } }

/-- The bytes of a fetch once its translation is known: after the words that stand elsewhere, and a throttled row (R340). -/
def State.fetchAt (s : State) (t : Nat) (sp : Space) (dva : Nat) (l : Leaf) : Half :=
  match s.fetchRecall dva l with
  | some s1 => .wait (s1.fetchWaits t dva)
  | none =>
    if s.rowHeld (l.phys dva) then .wait ((s.rowWaiting [t]).fetchWaits t dva) else s.fetchLeaf sp dva l

/-- A halfword through a global or peer segment. -/
def State.fetchFar (s : State) (t : Nat) (sp : Space) (dva : Nat) : Half :=
  if fixedMapped t dva then
    let a := field dva 0 48
    if field dva 48 8 ≠ 0 then .refused .page dva
    else if managementEnd ≤ a then .nothing a
    else if hbmEnd ≤ a then .got (s.managedRead a 2)
    else s.fetchAt t sp dva (s.fixedLeaf dva)
  else
    let k := clusterOf (coreOf t)
    let asid := s.asidOf (s.thread t).launch
    match s.tlbFind k asid dva with
    | some l => s.fetchAt t sp dva l
    | none =>
      match s.joinMiss k asid dva 2 (s.fetchJoin t) with
      | some s1 => .wait (s1.fetchWaits t dva)
      | none => .wait (s.fetchWaits t dva)

/-- A halfword at an address of a space; `pc` is what a granule in error records. -/
def State.fetchHalf (s : State) (t : Nat) (sp : Space) (a : Nat) (pc : Word) : Half :=
  let c := coreOf t
  match sp with
  | .tcm => if (s.core c).tcmErrors.contains (a / 8) then .trap .poison pc else .got (s.tcmRead c a 2)
  | .deck =>
    if s.deckErrors.contains (clusterOf c * 2 ^ 18 + a / 8) then .trap .poison pc
    else .got (s.deckRead (clusterOf c) a 2)
  | .global => s.fetchFar t .global a
  | .peer => s.fetchFar t .peer a

/-- What the fetch of a unit finds: its halfwords, the first in the low bits. -/
inductive Fetched where
  | unit (w : Nat)
  | wait (s : State)
  | trap (s : State) (c : Cause) (addr : Word)
  | nothing (addr : Nat)

/-- The halfwords of a unit, one after another until it is whole: at most four (R66). -/
def State.fetchFrom (s : State) (t : Nat) (g : Seg) (pc : BitVec 57) (w k : Nat) : Nat → Fetched
  | 0 => .unit w
  | n + 1 =>
    let off : Word := pc.setWidth 64
    if !g.admits .x pc.toNat (2 * (k + 1)) then .trap s .seg off
    else match s.fetchHalf t g.space (g.base.toNat + pc.toNat + 2 * k) off with
      | .got h =>
        let w1 := w + h * 2 ^ (16 * k)
        if (unitOf w1).size ≤ k + 1 then .unit w1 else s.fetchFrom t g pc w1 (k + 1) n
      | .wait s1 => .wait s1
      | .trap c a => .trap (s.foundBy c t) c a
      | .refused c dva => .trap (s.reportThread t 7 c dva pc.toNat 0) c (BitVec.ofNat 64 dva)
      | .nothing a => .nothing a

/-- The unit at a thread's PC, through the segment that `tstat.cseg` names. -/
def State.fetch (s : State) (t : Nat) : Fetched :=
  let x := s.thread t
  s.fetchFrom t (x.seg.get {} x.cseg.toNat) x.pc 0 0 4

/-- The unit that a thread attempts: a further iteration of a `rep` unit is not fetched again (R141). -/
def State.nextUnit (s : State) (t : Nat) : Fetched :=
  let x := s.thread t
  if x.repAt.isSome ∧ x.iss.raw ≠ 0 then .unit x.iss.raw.toNat else s.fetch t

/-! ### A unit (R66 to R68, R141 to R144) -/

/-- The instruction's word with its stepped field moved by `n`: bits [12:7], or bits [7:5] of a compact form; none where the
register number leaves its bank, or 8 to 15 (R68). -/
def stepWord (w : Nat) (n : Int) : Option Nat :=
  let lo := if w % 2 = 1 then 7 else 5
  let bits := if w % 2 = 1 then 5 else 3
  let r := (field w lo bits : Int) + n
  if 0 ≤ r ∧ r < 2 ^ bits then some (w - field w lo bits * 2 ^ lo + r.toNat * 2 ^ lo) else none

/-- What an attempt executes: an instruction, nothing (a `rep` unit with no iteration left), a trap. -/
inductive Todo where
  | run (i : Instr)
  | done
  | trap (c : Cause) (addr : Word)

/-- The state after a step that has one; `s` after one that stops the machine. -/
def stateAfter (o : Out) (s : State) : State :=
  match o with
  | .next s1 => s1
  | .fault _ => s
  | .refused _ => s

/-- The iteration of a `rep` unit that comes next. -/
def State.iteration (s : State) (t : Nat) (u : Unit16) (w : Nat) (stride : BitVec 5) : Todo :=
  let x := s.thread t
  if !x.iss.rep then .done
  else match stepWord (u.word w) (x.iss.iter * stride.toInt) with
    | none => .trap .rep (BitVec.ofNat 64 x.iss.iter)
    | some w1 => match decodeWord w1 with
      | some i => if u.rlx && relaxedToPort i then .run (.illegalUnit (u.raw w)) else .run i
      | none => .run (.illegalUnit (u.raw w))

/-- Thread `t` at a unit: what it executes, its prefixes having taken effect. -/
def State.prepare (s : State) (t : Nat) (u : Unit16) (w : Nat) (iss : Issue) : State × Todo :=
  let s0 := ({ s with cur := t }).modThread t fun x => { x with iss := iss }
  match u.instr with
  | none => (s0, .run (.illegalUnit (u.raw w)))
  | some i =>
    let s1 := if u.rlx then stateAfter (exec .rlx s0) s0 else s0
    match u.rep with
    | none => (s1, .run i)
    | some (stride, count) =>
      let s2 := stateAfter (exec (.rep count stride) s1) s1
      (s2, s2.iteration t u w stride)

/-- What an attempt executes, executed by the current thread. -/
def State.execute (s : State) (d : Todo) : Out :=
  match d with
  | .run i => exec i s
  | .done => .next s
  | .trap c a => .next (s.trap s.cur c a)

/-- The unit executed by thread `t`. -/
def State.runUnit (s : State) (t : Nat) (u : Unit16) (w : Nat) (iss : Issue) : Out :=
  let p := s.prepare t u w iss
  p.1.execute p.2

/-- The reads that a turn serves for thread `t`, and whether they are all it needs (R248). -/
def State.turnReads (s : State) (t : Nat) (u : Unit16) (w : Nat) (iss : Issue) : State × Bool :=
  match (s.prepare t u w iss).2 with
  | .run i => s.attemptReads t i.vreads
  | .done => (s, true)
  | .trap _ _ => (s, true)

/-! ### One attempt -/

/-- How thread `t`'s attempt ended. -/
def State.ended (s : State) (t : Nat) : IssueEnd := (s.thread t).iss.ended

def IssueEnd.stops : IssueEnd → Bool
  | .issued => false
  | .both => false
  | .held => false
  | .trapped => true
  | .poisoned _ => true

/-- The site that a run has used (R406). -/
def State.useSite (s : State) (t crew : Nat) : State :=
  match s.siteKey (coreOf t) with
  | none => s
  | some k =>
    if 1 ≤ (s.crewOf crew).run ∧ !(s.crewOf crew).usedSites.contains k then
      s.modCrew crew fun c => { c with usedSites := c.usedSites ++ [k] }
    else s

/-- The count of an issue (R254); the kill of a thread that has read a register in error (R385). -/
def State.account (s s0 : State) (t : Nat) : State :=
  match s.ended t with
  | .issued => (s.modThread t fun x => x.count 0).useSite t (s0.thread t).crewId
  | .both => (s.modThread t fun x => x.count 0).useSite t (s0.thread t).crewId
  | .poisoned n => s.kill t n
  | .held => s
  | .trapped => s

/-- An attempt's tick (R252). -/
def State.attempted (s : State) (t : Nat) : State := s.modThread t fun x => { x with lastAttempt := some s.now }

/-- A thread as the member of its gang that it was when the unit began: what another member's fault has ended is ended for all
once every member has executed the unit (R259). -/
def State.asMember (s s0 : State) (t : Nat) : State :=
  if (s0.thread t).gangSize = 1 then s
  else s.modThread t fun x => { x with gang := (s0.thread t).gang, leader := (s0.thread t).leader, split := (s0.thread t).split }

/-- The unit of members one after another; `s0` is the state before the first. -/
def State.runAll (s s0 : State) (u : Unit16) (w : Nat) (iss : Issue) : List Nat → Out
  | [] => .next s
  | t :: ts =>
    match (s.asMember s0 t).runUnit t u w iss with
    | .next s1 => s1.runAll s0 u w iss ts
    | .fault f => .fault f
    | .refused r => .refused r

/-- The members' next PCs differ, all of them being ready (R259). -/
def State.parted (s : State) (ms : List Nat) : Bool :=
  ms.all (fun m => (s.thread m).state == .ready && (s.thread m).wait == .none) &&
    ms.any fun m => (s.thread m).pc != (s.thread (ms.headD m)).pc

/-- The members whose reads are incomplete lose the turn (R248, R257). -/
def State.loseTurn (s : State) (ms : List Nat) : State :=
  ms.foldl (fun s m => s.modThread m fun x => x.count 7) s

/-- The reads of every member, and the members whose reads are incomplete. -/
def State.readsOf (s : State) (u : Unit16) (w : Nat) (iss : Issue) : List Nat → State × List Nat
  | [] => (s, [])
  | t :: ts =>
    let p := s.turnReads t u w iss
    let q := p.1.readsOf u w iss ts
    (q.1, if p.2 then q.2 else t :: q.2)

/-- A fault of one member splits the gang for all (R259). -/
def State.splitAll (s : State) (ms : List Nat) : State :=
  ms.foldl (fun s m => s.modThread m fun x => { x with gang := 0, leader := false, split := true }) s

/-- The end of an attempt in which no member waits before issue. -/
def State.concludeAttempt (s s0 : State) (ms : List Nat) : State :=
  let s2 := if 1 < ms.length ∧ (ms.any fun m => s.ended m == .trapped) then s.splitAll ms else s
  let s1 := if s2.parted ms then s2.endGang (ms.headD 0) true else s2
  ms.foldl (fun s m => s.account s0 m) s1

/-- The attempt of a unit by a thread, or by a gang as one thread: a fault found before issue comes first, then the turn is
lost where a read is not served, then a member that has to wait keeps every member from issuing (R248, R257, R258). In a gang the
reads of the members that meet no fault are served first, and a turn that one of them loses is lost for the faults too, which the
next attempt finds again (DESIGN CHOICE, assumption 20). -/
def State.attemptUnit (s : State) (ms : List Nat) (u : Unit16) (w : Nat) (iss : Issue) : Out :=
  match s.runAll s u w iss ms with
  | .fault f => .fault f
  | .refused r => .refused r
  | .next dry =>
    let p := s.readsOf u w iss (ms.filter fun m => !(dry.ended m).stops)
    let held := ms.filter fun m => dry.ended m == .held
    if p.2 ≠ [] then .next (p.1.loseTurn p.2)
    else if (ms.any fun m => (dry.ended m).stops) || held.isEmpty then
      match p.1.runAll s u w iss ms with
      | .next s1 => .next (s1.concludeAttempt s ms)
      | .fault f => .fault f
      | .refused r => .refused r
    else p.1.runAll s u w iss held

/-! ### Twins (R244, R245, R260, R411, R412) -/

/-- A unit that is a check point (R245). -/
def Todo.checkPoint : Todo → Bool
  | .run i => i.checkPoint
  | .done => false
  | .trap _ _ => false

/-- One more unit since the agreed point, in both members. -/
def State.countUnit (s : State) (l : Nat) : State :=
  let more (x : Thread) : Thread := { x with pair := { x.pair with units := x.pair.units + 1 } }
  let s1 := if (s.thread l).twin then s.modThread l more else s
  if (s1.thread (partner l)).twin then s1.modThread (partner l) more else s1

/-- The pair has parted: a disagreement, which the comparison that begins now finds (R260, R412). -/
def State.diverge (s : State) (l : Nat) : State :=
  (s.modThread l fun x => { x with pair := { x.pair with diverged := true } }).compareTwins l

/-- A check point executed by the leader alone (R245). -/
def State.attemptAlone (s : State) (l : Nat) (u : Unit16) (w : Nat) (pc : BitVec 57) : Out :=
  match s.runUnit l u w (u.issue pc w true) with
  | .fault f => .fault f
  | .refused r => .refused r
  | .next s1 =>
    match s1.ended l with
    | .issued => .next (((s1.countUnit l).account s l).modThread (partner l) fun x => x.count 0)
    | .both => .next ((s1.account s l).modThread (partner l) fun x => x.count 0)
    | .held => .next s1
    | .trapped => .next s1
    | .poisoned _ => .next (s.diverge l)

/-- A unit executed by both members: a fault or a wait of the leader holds for the pair; a follower that ends otherwise, and
next PCs that differ, are a disagreement. -/
def State.attemptBoth (s : State) (l : Nat) (u : Unit16) (w : Nat) (iss : Issue) : Out :=
  let f := partner l
  match s.runUnit l u w iss with
  | .fault e => .fault e
  | .refused r => .refused r
  | .next s1 =>
    match s1.ended l with
    | .held => .next s1
    | .trapped => .next s1
    | .poisoned _ => .next (s.diverge l)
    | .both => .next ((s1.account s l).modThread f fun x => x.count 0)
    | .issued =>
      match s1.runUnit f u w iss with
      | .fault e => .fault e
      | .refused r => .refused r
      | .next s2 =>
        if s2.ended f != .issued then .next (s.diverge l)
        else
          let s3 := ((s2.countUnit l).account s l).account s f
          .next (if s3.parted [l, f] then s3.diverge l else s3)

/-- The attempt of a twin pair: a comparison first, before a check point, before the 257th unit and where pre-emption has
been requested; a fault found before issue comes before the reads that the turn serves (R85, R248). A check point's unit, which
the leader executes alone (R245), serves the follower's reads too: the model's choice (log entry 140). -/
def State.attemptTwins (s : State) (l : Nat) (u : Unit16) (w : Nat) : Out :=
  let x := s.thread l
  let iss := u.issue x.pc w false
  let point := (s.prepare l u w iss).2.checkPoint
  if (point && x.pair.units != 0) || decide (256 ≤ x.pair.units) || s.wantsStop l then .next (s.compareTwins l)
  else
    let go (s : State) : Out := if point then s.attemptAlone l u w x.pc else s.attemptBoth l u w iss
    match go s with
    | .fault e => .fault e
    | .refused r => .refused r
    | .next dry =>
      if (dry.ended l).stops then .next dry
      else
        let p := s.readsOf u w iss [l, partner l]
        if p.2 ≠ [] then .next (p.1.loseTurn p.2) else go p.1

/-! ### The attempt of a selected slot -/

/-- An access that was parked is made again, at the thread's turn, and counts as an issue (R120, R123, R251). -/
def State.reissue (s : State) (t : Nat) : State :=
  match (s.thread t).wait with
  | .reply r =>
    let q := s.req r
    let s1 := (s.modThread t fun x => { x with state := .wmem }).modThread t fun x => x.count 0
    if q.thread = t then
      (if q.status = .missed then s1.modReq r fun q => { q with status := .blocked } else s1).emit (q.reply r)
    else s1
  | _ => s

/-- The threads that attempt together: a gang's or a pair's members, the lowest core first. -/
def State.group (s : State) (t : Nat) : List Nat := members t (s.thread t).gangSize

/-- The members that make a parked access again. -/
def State.again (s : State) (ms : List Nat) : List Nat :=
  ms.filter fun m => match (s.thread m).wait with
    | .reply _ => true
    | _ => false

/-- The attempt of a selected slot: a thread that is no longer ready makes none. -/
def State.attempt (s : State) (t : Nat) : Out :=
  let ms := s.group t
  if !ms.all fun m => (s.thread m).state == .ready then .next s
  else
    let s1 := ms.foldl State.attempted { s with cur := t }
    match s1.again ms with
    | m :: rest => .next ((m :: rest).foldl State.reissue s1)
    | [] =>
      if s1.parted ms then .next (if (s1.thread t).twin then s1.diverge t else s1.endGang t true)
      else match s1.nextUnit t with
        | .wait s2 => .next s2
        | .trap s2 c a => .next ((s2.modThread t fun x => { x with iss := {} }).trap t c a)
        | .nothing a => .fault (.addressNamesNothing a)
        | .unit w =>
          let u := unitOf w
          if (s1.thread t).twin then s1.attemptTwins t u w
          else s1.attemptUnit ms u w (u.issue (s1.thread t).pc w false)

end

end Sys2Proof.Machine
end

