-- ==== Sys2Proof/Machine/Step.lean ====
section
/-! DEFINITION. One step of the machine: the attempt of the slot selected first, otherwise the step that is due first,
otherwise the tick. -/

namespace Sys2Proof.Machine

noncomputable section

/-- The attempts of this tick come first: what another step of the tick does, a unit meets from the next tick on (R21, R251, R349);
then the events that are due, in order; then the tick. -/
def step (s : State) : Host.Outcome State Fault Refusal :=
  match s.sels with
  | t :: rest => ({ s with sels := rest }).attempt t
  | [] =>
    match s.events with
    | i :: rest => exec i { s with events := rest }
    | [] => exec .tick s

/-- The state with an instruction of `nbits` bits stored where the next step fetches: the thread in slot 0 of core 0 is
selected, its code segment is the core's TCM, its PC is 0, and its latches hold the vector registers that the instruction
reads. This stands for what a launch brings about (assumption 3). -/
def State.withFetchWord (s : State) (nbits w : Nat) : State :=
  let x := s.thread 0
  let code : Seg := { base := 0, length := 65536, space := .tcm, x := true, w := true, rd := true }
  let hold (f : Option RegField) (l : Latch) : Latch := match f with
    | some r => { reg := r, hold := true, value := s.latchValue 0 r }
    | none => l
  let v : VReads := match (unitOf w).instr with
    | some i => i.vreads
    | none => {}
  let y : Thread := { x with state := .ready, wait := .none, twin := false, gang := 0, repAt := none, lastAttempt := none,
                             seg := x.seg.put 7 code, cseg := 7, pc := 0,
                             latchD := hold v.d x.latchD, latchA := hold v.a x.latchA, latchB := hold v.b x.latchB }
  { (s.setThread 0 y).tcmWrite 0 0 (toBytesLE w (nbits / 8) ++ toBytesLE 0 (8 - nbits / 8)) with
      events := [], sels := [0], cur := 0 }

end

end Sys2Proof.Machine
end

