-- ==== Sys2Proof/Safety.lean ====
section
/-! DEFINITION. What counts as a safe run, and the words the statements are made in: when the fields of a unit can be used,
an ordinary thread, what a unit leaves, what a state keeps of another. -/

namespace Sys2Proof.Machine

/-- A run of `n` steps that meets no fault and no refusal. -/
def State.safeFor (s : State) : Nat → Prop
  | 0 => True
  | n + 1 => ∃ t, step s = .next t ∧ t.safeFor n

/-! ### The conditions a unit meets before it issues -/

/-- The register fields of a unit can be used by the current thread: no relaxed fault of theirs is pending (R139), a
port among them has a neighbour of the launch (R22), and none awaits a relaxed access (R138). -/
def State.usable (s : State) (rs : List Reg) : Prop :=
  ∀ r ∈ rs, (∀ p ∈ s.me.pendingFaults, p.key ≠ some r.key) ∧
    (∀ dir, r.port = some dir → s.portUsable s.cur dir = true) ∧ r.key ∉ s.me.awaited

/-- A destination takes a scalar value now: room behind a port (R22), an entry of the thread's own for `h29` (R24). -/
def State.takes (s : State) (d : RegField) (v : Word) : Prop :=
  (∀ dir, (sreg d).port = some dir → s.roomS (coreOf s.cur) dir = true) ∧
    (d.toNat = 61 → s.mayRelease s.cur v = true)

/-- A destination takes a vector value now. -/
def State.takesV (s : State) (d : RegField) : Prop :=
  ∀ dir, (vreg d).port = some dir → s.roomV (coreOf s.cur) dir = true

/-- No injector of the thread's site is armed (R369). -/
def State.noInjector (s : State) (t : Nat) : Prop :=
  ∀ k, s.siteKey (coreOf t) = some k → (s.site k).injector.toNat < 2 ^ 63

/-- A thread outside twin mode on a site whose injector is not armed. -/
def State.plain (s : State) (t : Nat) : Prop :=
  (s.thread t).twin = false ∧ (s.thread t).iss.alone = false ∧ s.noInjector t

/-! ### What a unit leaves -/

/-- The current thread's unit has completed. -/
def State.done (s : State) : State := s.modThread s.cur Thread.completed

/-- The current thread's unit has completed, and `d` receives a scalar value. -/
def State.wrote (s : State) (d : RegField) (v : Word) (delay : Nat) : State := (s.placeS s.cur d v delay).done

/-- The current thread's unit has completed; `d` receives a vector value, and `fflags` the flags in the same tick. -/
def State.wroteV (s : State) (d : RegField) (v : VWord) (fl : BitVec 5) (delay : Nat) : State :=
  ((s.placeV s.cur d v delay).raiseAt s.cur fl delay).done

/-- The same with a scalar destination. -/
def State.wroteS (s : State) (d : RegField) (v : Word) (fl : BitVec 5) (delay : Nat) : State :=
  ((s.placeS s.cur d v delay).raiseAt s.cur fl delay).done

/-- The current thread goes on at an offset. -/
def State.wentTo (s : State) (pc : BitVec 57) : State := s.modThread s.cur fun x => x.goOn pc

/-! ### What a state keeps of another -/

/-- `t` has every byte of memory that `s` has: global memory, TCM and deck. -/
def State.sameBytes (s t : State) : Prop :=
  (∀ a, t.mem.read a = s.mem.read a) ∧ (∀ c a, t.tcmByte c a = s.tcmByte c a) ∧ ∀ k a, t.deckByte k a = s.deckByte k a

/-- `t` is `s` but for threads and cores. -/
def State.sameRest (s t : State) : Prop := t = { s with threads := t.threads, cores := t.cores }

/-- The threads other than `u` are the same. -/
def State.sameOthers (s t : State) (u : Nat) : Prop := ∀ v, v ≠ u → t.thread v = s.thread v

/-- The cores are the same but for the writes that core `c` has still to perform. -/
def State.samePorts (s t : State) (c : Nat) : Prop :=
  ∀ k, t.core k = if k = c then { s.core k with pend := (t.core k).pend } else s.core k

/-! ### Values -/

/-- A number and an integer modulo 2^64; an integer modulo 2^32 with bit 31 copied upward, `sext32` of R99. -/
def ofNat64 (n : Nat) : Word := BitVec.ofNat 64 n
def ofInt64 (z : Int) : Word := BitVec.ofInt 64 z
def ofWord (z : Int) : Word := (BitVec.ofInt 32 z).signExtend 64

/-- A unit of two scalar sources completes: `d` receives `f` of their values. -/
def completes2 (i : Instr) (d a b : RegField) (delay : Nat) (f : Word → Word → Word) : Prop :=
  ∀ (s s1 : State) (x y : Word), s.usable [sreg a, sreg b, sreg d] → s.read2 a b = .go (x, y, s1) →
    s1.cur = s.cur → s1.plain s.cur → s1.takes d (f x y) → exec i s = .next (s1.wrote d (f x y) delay)

/-- A unit of one scalar source completes. -/
def completes1 (i : Instr) (d a : RegField) (delay : Nat) (f : Word → Word) : Prop :=
  ∀ (s s1 : State) (x : Word), s.usable [sreg a, sreg d] → s.readS s.cur a = .go (x, s1) →
    s1.cur = s.cur → s1.plain s.cur → s1.takes d (f x) → exec i s = .next (s1.wrote d (f x) delay)

/-- A unit without a source completes. -/
def completes0 (i : Instr) (d : RegField) (f : State → Word) : Prop :=
  ∀ s : State, s.usable [sreg d] → s.plain s.cur → s.takes d (f s) → exec i s = .next (s.wrote d (f s) 2)

/-- A unit of vector sources completes: `d` receives a register of which `p` holds. -/
def completesV1 (i : Instr) (d a : RegField) (delay : Nat) (p : State → VWord → VWord → BitVec 5 → Prop) : Prop :=
  ∀ (s s1 : State) (x r : VWord) (fl : BitVec 5), s.usable [vreg a, vreg d] → s.readV s.cur a = .go (x, s1) →
    s1.cur = s.cur → s1.plain s.cur → s1.takesV d → p s x r fl → exec i s = .next (s1.wroteV d r fl delay)
def completesV2 (i : Instr) (d a b : RegField) (delay : Nat) (p : State → VWord → VWord → VWord → BitVec 5 → Prop) : Prop :=
  ∀ (s s1 : State) (x y r : VWord) (fl : BitVec 5), s.usable [vreg a, vreg b, vreg d] → s.readV2 a b = .go (x, y, s1) →
    s1.cur = s.cur → s1.plain s.cur → s1.takesV d → p s x y r fl → exec i s = .next (s1.wroteV d r fl delay)

/-- The same for a unit that also reads the old value of `d`. -/
def completesV3 (i : Instr) (d a b : RegField) (delay : Nat)
    (p : State → VWord → VWord → VWord → VWord → BitVec 5 → Prop) : Prop :=
  ∀ (s s1 s2 : State) (x y z r : VWord) (fl : BitVec 5), s.usable [vreg a, vreg b, vreg d] →
    s.readV2 a b = .go (x, y, s1) → s1.oldVAgain d [(a, x), (b, y)] = .go (z, s2) → s1.cur = s.cur → s2.cur = s.cur →
    s2.plain s.cur → s2.takesV d → p s z x y r fl → exec i s = .next (s2.wroteV d r fl delay)

/-- Units that write a scalar register from vector registers. -/
def completesVS1 (i : Instr) (d a : RegField) (delay : Nat) (p : State → VWord → Word → BitVec 5 → Prop) : Prop :=
  ∀ (s s1 : State) (x : VWord) (r : Word) (fl : BitVec 5), s.usable [vreg a, sreg d] → s.readV s.cur a = .go (x, s1) →
    s1.cur = s.cur → s1.plain s.cur → s1.takes d r → p s x r fl → exec i s = .next (s1.wroteS d r fl delay)
def completesVS2 (i : Instr) (d a b : RegField) (delay : Nat) (p : State → VWord → VWord → Word → BitVec 5 → Prop) : Prop :=
  ∀ (s s1 : State) (x y : VWord) (r : Word) (fl : BitVec 5), s.usable [vreg a, vreg b, sreg d] →
    s.readV2 a b = .go (x, y, s1) → s1.cur = s.cur → s1.plain s.cur → s1.takes d r → p s x y r fl →
    exec i s = .next (s1.wroteS d r fl delay)

/-- A unit that writes a vector register from a scalar one. -/
def completesSV (i : Instr) (d a : RegField) (delay : Nat) (p : Word → VWord → Prop) : Prop :=
  ∀ (s s1 : State) (x : Word) (r : VWord), s.usable [sreg a, vreg d] → s.readS s.cur a = .go (x, s1) →
    s1.cur = s.cur → s1.plain s.cur → s1.takesV d → p x r → exec i s = .next (s1.wroteV d r 0 delay)

/-- An integer brought into the range of signed, and of unsigned, `w` bits (R163). -/
def clampSigned (w : Nat) (z : Int) : Int := max (-2 ^ (w - 1)) (min z (2 ^ (w - 1) - 1))
def clampUnsigned (w : Nat) (z : Int) : Int := max 0 (min z (2 ^ w - 1))

/-- What the lane-wise units of two registers receive: each lane is `f` of the lanes, modulo 2^w. -/
def lanewise (w : Width) (f : Nat → Nat → Int) : State → VWord → VWord → VWord → BitVec 5 → Prop :=
  fun _ x y r fl => fl = 0 ∧ ∀ i, i < 128 / w.bits →
    (lane w.bits r i : Int) = f (lane w.bits x i) (lane w.bits y i) % 2 ^ w.bits
/-- The same of one register. -/
def lanewise1 (w : Width) (f : Nat → Int) : State → VWord → VWord → BitVec 5 → Prop :=
  fun _ x r fl => fl = 0 ∧ ∀ i, i < 128 / w.bits → (lane w.bits r i : Int) = f (lane w.bits x i) % 2 ^ w.bits

/-- The mask that a comparison of lanes writes (R165). -/
def maskWhere (w : Width) (c : Nat → Nat → Prop) : State → VWord → VWord → Word → BitVec 5 → Prop :=
  fun _ x y r fl => fl = 0 ∧ ∀ i, r.getLsbD i = true ↔ i < 128 / w.bits ∧ c (lane w.bits x i) (lane w.bits y i)

/-- Every lane of `x` is at most, or at least, the one that `r` holds, which is one of them (R173). -/
def extreme (w : Width) (key : Nat → Int) (le : Int → Int → Prop) : State → VWord → Word → BitVec 5 → Prop :=
  fun _ x r fl => fl = 0 ∧ ∃ k, k < 128 / w.bits ∧ r = ofInt64 (key (lane w.bits x k)) ∧
    ∀ i, i < 128 / w.bits → le (key (lane w.bits x k)) (key (lane w.bits x i))

/-- The 32-bit patterns of a major opcode for which `p` holds are no instruction (R60, R63). -/
def illegalWhere (major : Nat) (p : Nat → Prop) : Prop :=
  ∀ w, w % 2 = 1 → field w 1 6 = major → p w → decodeWord w = none

/-- A division issues: its thread leaves the rotation, and the write of `v`, of which `p` holds, falls at issue plus `delay`
(R98). -/
def startsDivision (i : Instr) (d a b : RegField) (delay : Nat) (p : Word → Word → Word → Prop) : Prop :=
  ∀ (s s1 : State) (x y v : Word), s.usable [sreg a, sreg b, sreg d] → s.read2 a b = .go (x, y, s1) → s1.cur = s.cur →
    p x y v → s1.takes d v →
    exec i s = .next ((s1.await s.cur .wsfu (.division d v (s.now + delay))).later (s.now + delay) (.divisionWrite s.cur))

/-- `q` is the quotient of `x` by `y` rounded toward zero, and `r` the remainder with the sign of the dividend (R101). -/
def isQuotient (x y q r : Int) : Prop := x = q * y + r ∧ r.natAbs < y.natAbs ∧ (r = 0 ∨ (0 < r ↔ 0 < x))

/-- A branch on two registers, and on one, completes at its target or after itself (R109). -/
def branches2 (i : Instr) (a b : RegField) (off : Int) (c : Word → Word → Prop) : Prop :=
  ∀ (s s1 : State) (x y : Word), s.usable [sreg a, sreg b] → s.read2 a b = .go (x, y, s1) → s1.cur = s.cur →
    s1.plain s.cur →
    (c x y → exec i s = .next (s1.wentTo (BitVec.ofInt 57 (s1.me.iss.ipc.toNat + off * 2)))) ∧
    (¬ c x y → exec i s = .next s1.done)
def branches1 (i : Instr) (a : RegField) (off : Int) (c : Word → Prop) : Prop :=
  ∀ (s s1 : State) (x : Word), s.usable [sreg a] → s.readS s.cur a = .go (x, s1) → s1.cur = s.cur →
    s1.plain s.cur →
    (c x → exec i s = .next (s1.wentTo (BitVec.ofInt 57 (s1.me.iss.ipc.toNat + off * 2)))) ∧
    (¬ c x → exec i s = .next s1.done)

/-! ### Exceptions -/

/-- A thread alone, outside twin mode, whose synchronous faults vector (R34). -/
def State.hasHandler (s : State) (u : Nat) : Prop :=
  (s.thread u).tvec ≠ 0 ∧ (s.thread u).intrap = false ∧ (s.thread u).twin = false ∧ (s.thread u).gangSize = 1

/-- `t` is `s` with thread `u` at its handler: the trap CSRs hold the cause, the address and the offset (R34, R375); `repc`
changes in or between the iterations of a `rep` unit alone (R143). -/
def State.vectored (s t : State) (u code : Nat) (addr : Word) (pc : BitVec 57) : Prop :=
  s.sameRest t ∧ t.cores = s.cores ∧ s.sameOthers t u ∧
    ((s.thread u).iss.rep = false → (s.thread u).repAt = none → (t.thread u).repc = (s.thread u).repc) ∧
    t.thread u = { s.thread u with
      tcause := BitVec.ofNat 8 code, taddr := addr, tepc := pc, intrap := true, pc := (s.thread u).tvec, state := .ready,
      wait := .none, lineAt := none, repAt := none, repc := (t.thread u).repc, iss := (t.thread u).iss }

/-! ### Conversions and special functions -/

/-- A narrowing conversion completes (R169, R170): part `p` of the register holds the four results, the rest the old lanes;
`b` is the scale register of the forms that have one. -/
def completesNarrow (i : Instr) (d a : RegField) (b : Option RegField) (p : BitVec 3) (f : Format) (sat : Bool) : Prop :=
  ∀ (s s1 s2 s3 : State) (x z r : VWord) (e : Word) (fl : BitVec 5),
    s.usable ([vreg a] ++ b.toList.map sreg ++ [vreg d]) → s.readV s.cur a = .go (x, s1) →
    (match b with
      | none => s2 = s1
      | some k => s1.readS s.cur k = .go (e, s2)) →
    s2.oldVAgain d [(a, x)] = .go (z, s3) → s1.cur = s.cur → s2.cur = s.cur → s3.cur = s.cur → s3.plain s.cur → s3.takesV d →
    p.toNat < 32 / f.width →
    (∀ g : Nat → Nat × BitVec 5,
      (∀ j, g j = narrow f s.me.fmode.toNat sat (b.map fun _ => field e.toNat 0 8) (lane 32 x j)) →
      (∀ j, j < 128 / f.width → lane f.width r j =
        if j / 4 = p.toNat then (g (j % 4)).1 % 2 ^ f.width else lane f.width z j) ∧
      ∀ k, fl.getLsbD k = true ↔ ∃ j, j < 4 ∧ (g j).2.getLsbD k = true) →
    exec i s = .next (s3.wroteV d r fl 6)

/-- A widening conversion completes (R169, R171). -/
def completesWiden (i : Instr) (d a : RegField) (b : Option RegField) (p : BitVec 3) (f : Format) : Prop :=
  ∀ (s s1 s2 : State) (x r : VWord) (e : Word) (fl : BitVec 5),
    s.usable ([vreg a] ++ b.toList.map sreg ++ [vreg d]) → s.readV s.cur a = .go (x, s1) →
    (match b with
      | none => s2 = s1
      | some k => s1.readS s.cur k = .go (e, s2)) →
    s1.cur = s.cur → s2.cur = s.cur → s2.plain s.cur → s2.takesV d →
    (∀ g : Nat → Nat × BitVec 5,
      (∀ j, g j = widen f s.me.fmode.toNat (b.map fun _ => field e.toNat 0 8) (lane f.width x (4 * p.toNat + j))) →
      (∀ j, j < 4 → lane 32 r j = (g j).1 % 2 ^ 32) ∧
      ∀ k, fl.getLsbD k = true ↔ ∃ j, j < 4 ∧ (g j).2.getLsbD k = true) →
    exec i s = .next (s2.wroteV d r fl 6)

/-- A special function issues: its thread leaves the rotation, and the write of `r` with its flags falls at issue plus
`delay` (R176). -/
def startsSpecial (i : Instr) (d a : RegField) (delay : Nat) (f : Nat → Nat → Nat × BitVec 5) : Prop :=
  ∀ (s s1 : State) (x r : VWord) (fl : BitVec 5), s.usable [vreg a, vreg d] → s.readV s.cur a = .go (x, s1) →
    s1.cur = s.cur → s1.takesV d →
    (∀ j, j < 4 → lane 32 r j = (f s.me.fmode.toNat (lane 32 x j)).1 % 2 ^ 32) →
    (∀ k, fl.getLsbD k = true ↔ ∃ j, j < 4 ∧ (f s.me.fmode.toNat (lane 32 x j)).2.getLsbD k = true) →
    exec i s = .next ((s1.await s.cur .wsfu (.special d r fl (s1.now + delay))).later (s1.now + delay)
      (.specialFunctionWrite s.cur))

/-! ### Memory -/

/-- The bound of a space (R40). -/
def Space.bound : Space → Nat
  | .tcm => 2 ^ 16
  | .deck => 2 ^ 21
  | .global => 2 ^ 57
  | .peer => 2 ^ 57

/-- A segment covers `n` bytes at an offset: its bounds, its space, an address that is a multiple of `n` (R40, R115). -/
def Seg.covers (g : Seg) (sp : Space) (off : Word) (n addr : Nat) : Prop :=
  g.space = sp ∧ addr = g.base.toNat + off.toNat ∧ off.toNat + n ≤ g.length.toNat ∧ addr + n ≤ sp.bound ∧ addr % n = 0

/-- The offset of a memory operand (R65, R68): base, plus displacement or index times the size, plus what `rep` adds. -/
def State.operandOffset (s : State) (x y : Word) (imm : Int) (n : Nat) : Word :=
  ofInt64 (x.toInt + (imm + y.toInt) * n + if s.me.iss.rep then (s.me.iss.iter * n : Nat) else 0)

/-- An access may leave its unit: one to TCM or deck meets no granule in error that it must read, and no rule of a window that
stops it (R114, R119, R384); no local address of firmware that is no memory (R436). -/
def State.leavesUnit (s : State) (sp : Space) (addr n : Nat) (kind : ReqKind) (off : Word) : Prop :=
  (sp = .tcm ∨ sp = .deck → s.localCheck sp addr n kind off = .go ()) ∧
    (sp = .global ∨ sp = .peer → fixedMapped s.cur addr = false ∨ field addr 48 8 ≠ 0 ∨ field addr 0 48 < hbmEnd)

/-- A relaxed access has room among the eight of its thread (R137). -/
def State.hasRelaxedRoom (s : State) : Prop := s.me.iss.rlx = true → s.me.rlxn < 8

/-- A byte of the TCM of core `c`, or of its cluster's deck. -/
def State.byteOf (s : State) (c : Nat) (sp : Space) (a : Nat) : Byte :=
  if sp = .tcm then s.tcmByte c a else s.deckByte (clusterOf c) a

/-- `n` bytes read little-endian (R12, R116). -/
def State.bytesAt (s : State) (c : Nat) (sp : Space) (a n : Nat) : Nat :=
  ((List.range n).map fun i => (s.byteOf c sp (a + i)).toNat * 256 ^ i).sum

/-- The operands of an access: the base register, then the index register of the forms that have one. -/
def State.operands (s s2 : State) (base : RegField) (idx : Option RegField) (x y : Word) : Prop :=
  ∃ s1, s.readS s.cur base = .go (x, s1) ∧ s2.cur = s.cur ∧
    match idx with
    | none => s2 = s1 ∧ y = 0
    | some k => s1.readS s.cur k = .go (y, s2)

/-- What a store of `n` bytes of `v` at a TCM or deck address of a thread on core `c` leaves: those bytes, and every other
byte as it was; the errors of whole granules end (R384). Of the rings only slots linked to a barrier that the store touches may
change: a new phase makes them ready (R313). -/
def State.stored (s t : State) (sp : Space) (c addr n : Nat) (v : Nat) : Prop :=
  (∀ i, i < n → t.byteOf c sp (addr + i) = BitVec.ofNat 8 (v / 256 ^ i)) ∧
    (∀ k a, a < 2 ^ 16 → ¬ (sp = .tcm ∧ k = c ∧ addr ≤ a ∧ a < addr + n) → t.tcmByte k a = s.tcmByte k a) ∧
    (∀ k a, a < 2 ^ 21 → ¬ (sp = .deck ∧ k = clusterOf c ∧ addr ≤ a ∧ a < addr + n) → t.deckByte k a = s.deckByte k a) ∧
    t = { s with cores := t.cores, tcm := t.tcm, deck := t.deck, deckErrors := t.deckErrors, ringDirty := t.ringDirty } ∧
    (∀ k, t.core k = { s.core k with tcmErrors := (t.core k).tcmErrors, rings := (t.core k).rings }) ∧
    ∀ k m r, r = (s.core k).rings.get {} m → ∃ ss, (t.core k).rings.get {} m = { r with slots := ss } ∧
      ∀ i x, x = r.slots.get {} i → ss.get {} i = x ∨ (sp = .deck ∧ clusterOf k = clusterOf c ∧ x.linkedIn addr n = true ∧
        ss.get {} i = x.latch (t.barrier (clusterOf c) x.bar))

/-- A unit sends a request: relaxed, its thread goes on; otherwise it waits for the reply (R118). -/
def State.sends (s s2 : State) (i : Instr) (q : Req) (kind : ReqKind) (n : Nat) (seg : SegField) (sp : Space) (off : Word)
    (addr : Nat) (vec : Bool) (dest : Option RegField) (data : VWord) : Prop :=
  exec i s = .next (s2.sendAccess q) ∧ q.live = true ∧ q.thread = s.cur ∧ q.kind = kind ∧ q.n = n ∧ q.seg = seg ∧
    q.space = sp ∧ q.off = off ∧ q.dva.toNat = addr ∧ q.phys = addr ∧ q.cluster = clusterOf (coreOf s.cur) ∧ q.vec = vec ∧
    q.dest = dest ∧ q.data = data ∧ q.relaxed = s2.me.iss.rlx ∧ q.pc = s2.me.pc ∧ q.priv = s2.me.priv ∧
    q.launch = s2.me.launch ∧ q.crewId = s2.me.crewId ∧ q.from_ = none ∧ q.status = .issued

/-- A load sends its request, with the address of its operands. -/
def loads (i : Instr) (vec sg : Bool) (n : Nat) (d base : RegField) (idx : Option RegField) (seg : SegField)
    (imm : Int) : Prop :=
  ∀ (s s2 : State) (x y : Word) (sp : Space) (addr : Nat),
    s.usable ([sreg base, ⟨vec, d⟩] ++ idx.toList.map sreg) → s.operands s2 base idx x y → s2.plain s.cur →
    (s.me.seg.get {} seg.toNat).covers sp (s.operandOffset x y imm n) n addr → (s.me.seg.get {} seg.toNat).rd = true →
    s2.leavesUnit sp addr n (.load sg) (s.operandOffset x y imm n) → s2.hasRelaxedRoom →
    (∀ dir, (Reg.mk vec d).port = some dir →
      (if vec then s2.roomV (coreOf s.cur) dir else s2.roomS (coreOf s.cur) dir) = true) →
    ∃ q, s.sends s2 i q (.load sg) n seg sp (s.operandOffset x y imm n) addr vec (some d) 0

/-- A store sends its request, with the address of its operands and the data that its register holds. -/
def stores (i : Instr) (vec : Bool) (n : Nat) (d base : RegField) (idx : Option RegField) (seg : SegField)
    (imm : Int) : Prop :=
  ∀ (s s2 s3 : State) (x y : Word) (v : VWord) (sp : Space) (addr : Nat),
    s.usable ([sreg base, ⟨vec, d⟩] ++ idx.toList.map sreg) → s.operands s2 base idx x y → s3.cur = s.cur →
    (if vec then s2.readV s.cur d = .go (v, s3) else ∃ w : Word, s2.readS s.cur d = .go (w, s3) ∧ v = w.setWidth 128) →
    s3.plain s.cur → s2.plain s.cur →
    (s.me.seg.get {} seg.toNat).covers sp (s.operandOffset x y imm n) n addr → (s.me.seg.get {} seg.toNat).w = true →
    s2.leavesUnit sp addr n .store (s.operandOffset x y imm n) → s2.hasRelaxedRoom →
    ∃ q, s.sends s3 i q .store n seg sp (s.operandOffset x y imm n) addr vec none v

/-- What an atomic makes of the old value and its operand; `e` is the value compared (R134). -/
def atomicNew (op : AmoOp) (w : Nat) (old x e : Nat) : Nat :=
  match op with
  | .add => (old + x) % 2 ^ w
  | .and => old &&& x
  | .or => old ||| x
  | .xor => old ^^^ x
  | .min => if signed w old ≤ signed w x then old else x
  | .max => if signed w x ≤ signed w old then old else x
  | .minu => min old x
  | .maxu => max old x
  | .swap => x
  | .cas => if old = e then x else old
  | .fadd => atomicFadd old x
  | .inc => if x ≤ old then 0 else old + 1

/-- An atomic sends its request, with its operand and, for `cas`, the value that `d` holds at issue (R134, R135). -/
def atomics (i : Instr) (op : AmoOp) (n : Nat) (d base idx : RegField) (seg : SegField) : Prop :=
  ∀ (s s1 s2 s3 : State) (x y e : Word) (sp : Space) (addr : Nat),
    s.usable [sreg base, sreg idx, sreg d] → s.readS s.cur base = .go (x, s1) → s1.readS s.cur idx = .go (y, s2) →
    (if op = .cas then s2.readS s.cur d = .go (e, s3) else e = 0 ∧ s3 = s2) → s1.cur = s.cur → s2.cur = s.cur →
    s3.cur = s.cur → s1.plain s.cur → s3.plain s.cur →
    (s.me.seg.get {} seg.toNat).covers sp (s.operandOffset x 0 0 n) n addr → (s.me.seg.get {} seg.toNat).rd = true →
    (s.me.seg.get {} seg.toNat).w = true → s1.leavesUnit sp addr n (.amo op) (s.operandOffset x 0 0 n) →
    s1.hasRelaxedRoom → (∀ dir, (sreg d).port = some dir → s3.roomS (coreOf s.cur) dir = true) →
    ∃ q, s.sends s3 i q (.amo op) n seg sp (s.operandOffset x 0 0 n) addr false (some d) (y.setWidth 128) ∧ q.expect = e

/-- A block instruction sends its request for a block of a global or peer segment (R127). -/
def blockSends (i : Instr) (kind : ReqKind) (wr : Bool) (base : RegField) (idx d : Option RegField) (seg : SegField) : Prop :=
  ∀ (s s1 s2 : State) (x y : Word) (sp : Space) (addr : Nat),
    s.usable ([sreg base] ++ idx.toList.map sreg ++ d.toList.map sreg) → s.readS s.cur base = .go (x, s1) →
    (match idx with
      | none => s2 = s1 ∧ y = 0
      | some k => s1.readS s.cur k = .go (y, s2)) →
    s1.cur = s.cur → s2.cur = s.cur → s2.plain s.cur → (sp = .global ∨ sp = .peer) →
    (s.me.seg.get {} seg.toNat).covers sp x 256 addr → addr < 2 ^ 57 →
    (if wr then (s.me.seg.get {} seg.toNat).w else (s.me.seg.get {} seg.toNat).rd) = true → s.leavesUnit sp addr 256 kind x →
    (∀ k dir, d = some k → (sreg k).port = some dir → s2.roomS (coreOf s.cur) dir = true) →
    ∃ q, s.sends s2 i q kind 256 seg sp x addr false d (y.setWidth 128)

/-! ### Ends of threads, control and status registers -/

/-- A thread alone whose synchronous faults end it (R34): no handler, or in one already; no relaxed access outstanding. -/
def State.noHandler (s : State) (u : Nat) : Prop :=
  ((s.thread u).tvec = 0 ∨ (s.thread u).intrap = true) ∧ (s.thread u).twin = false ∧ (s.thread u).gangSize = 1 ∧
    (s.thread u).rlxn = 0 ∧ (s.thread u).pendingFaults = []

/-- `t` is `s` after the thread in slot `u` has ended by a fault: the slot is FREE, and the error record of its launch has
received the cause, the address, the offset `own` of the unit at fault and `tepc` (R34, R377 to R379); no other byte of memory has
changed. -/
def State.endedBy (s t : State) (u : Nat) (c : Cause) (addr : Word) (own tepc : BitVec 57) : Prop :=
  (t.thread u).state = .free ∧ s.sameOthers t u ∧ t.tcm = s.tcm ∧ t.deck = s.deck ∧
    t.mem = (s.report (s.thread u).launch (s.errorEntry (s.concerned u) 0 c addr.toNat own.toNat tepc.toNat)).mem

/-- The right that a thread's level has to a CSR (R31, R32); none where the map does not list it. -/
def State.csrLevel (s : State) (u : Nat) (csr : BitVec 12) : Option CsrRight :=
  (csrRights csr.toNat).map fun p => if (s.thread u).priv then p.2 else p.1

/-- The bits of a CSR that a write changes (R33, R35, R36, R39); `tstat` has its own rule. -/
def csrMask (n : Nat) : Nat :=
  if n = 1 then 0x3
  else if n = 2 then 0x1F
  else if n = 3 then 0x1FFF
  else if n = 4 then 0x1
  else if n = 8 then 0xFF
  else if n = 0xA ∨ n = 0xB then 0x1FFFFFFFFFFFFFE
  else if n = 0x18 then 0xFE01
  else if 0x20 ≤ n ∧ n ≤ 0x27 then 0x1FFFFFFFFFFFFFF
  else if 0x28 ≤ n ∧ n ≤ 0x2F then 0xF9FFFFFFFFFFFFFF
  else 0xFFFFFFFFFFFFFFFF

/-- A message of the current thread for a core: its header, and the relaxed accesses that it follows (R53, R231). -/
def State.messageOf (s : State) (kind : Nat) (w : Word) (p : List Word) (dev core : Nat) : Message :=
  { hdr := s.headerOf s.cur kind p.length w, payload := p, dstDev := dev, dstCore := core, launch := s.me.launch,
    crew := s.me.crewId, after := s.relaxedEarlier s.cur s.nextReq }

/-! ### Engines -/

/-- An operand in the deck through `m1` (R179): its bounds, its rights, its alignment. -/
def State.inDeck (s : State) (off : Word) (n align addr : Nat) : Prop :=
  let g := s.me.seg.get {} 1
  g.space = .deck ∧ g.rd = true ∧ g.w = true ∧ addr = g.base.toNat + off.toNat ∧ off.toNat + n ≤ g.length.toNat ∧
    addr + n ≤ 2 ^ 21 ∧ off.toNat % align = 0

/-- A deck range of the current thread's cluster that no copy in flight, no window and no error meets. -/
def State.deckFree (s : State) (addr n : Nat) : Prop :=
  s.deckBusy (clusterOf (coreOf s.cur)) addr n = false ∧
    (∀ i, i < n → s.windowAt (clusterOf (coreOf s.cur)) (addr + i) = none) ∧
    s.badDeck (clusterOf (coreOf s.cur)) addr n = none

/-- What a unit of the current thread leaves that reads the deck: it waits in WMEM until the banks of its bytes have served it,
which they may from the tick of an uncontended reply on (R118, R250, R263). -/
def State.asksDeck (s : State) (w : Wait) (engine : Bool) (number : Nat) (banks : List Nat) : State :=
  { s.await s.cur .wmem w with
    asks := s.asks ++ [{ cluster := clusterOf (coreOf s.cur), engine := engine, number := number, since := s.now + 6,
                         banks := banks, asker := .unit s.cur }] }

/-- The same of a transaction-barrier unit: it acts when the bank of its barrier serves it (R207). -/
def State.asksBarrier (s : State) (addr : Nat) (w : Wait) : State := s.asksDeck w false (requester s.cur) (banksOf addr 8)

/-- A matrix operation of the current thread issues: it stands at the end of its core's queue with what it captured, and its
thread waits for it in WMX (R181, R183, R188, R221). -/
def State.queued (s : State) (kind : MxKind) (ret : Bool) (seg : Seg) : State :=
  let op : MxOp := { id := s.nextOp, thread := s.cur, kind := kind, cfg := (s.core (coreOf s.cur)).mxCfg,
                     scale := (s.core (coreOf s.cur)).mxScale, permit := if ret then s.me.permit else none, seg := seg,
                     pc := s.me.pc }
  ((({ s.modCore (coreOf s.cur) fun c => { c with mxQueue := c.mxQueue ++ [op] } with nextOp := s.nextOp + 1 }).modThread s.cur
    fun x => { x with permit := if ret then none else x.permit }).await s.cur .wmx (.engine s.nextOp)).emit
      (.matrixOperationStart (coreOf s.cur))

/-- A copy of the current thread that its unit issues (R196, R205, R304): psect of its barrier counts one more, and nothing
else of the deck changes; it stands among the copies with the permit that a `.ret` form gives it. -/
def State.issued (s t : State) (c : Copy) (bar : Nat) (ret : Bool) : Prop :=
  t.copies.get {} s.nextCopy = c ∧ t.nextCopy = s.nextCopy + 1 ∧ c.stage = .issued ∧ c.core = coreOf s.cur ∧
    c.thread = s.cur ∧ c.bar = bar ∧ c.pc = s.me.pc ∧ c.segs = s.me.seg ∧ c.outstanding = 1 ∧
    c.permit = (if ret then s.me.permit else none) ∧ t.me.copiesIssued = s.me.copiesIssued + 1 ∧
    (∀ k a, a < 2 ^ 21 → ¬ (k = clusterOf (coreOf s.cur) ∧ bar ≤ a ∧ a < bar + 16) → t.deckByte k a = s.deckByte k a) ∧
    t.mem = s.mem ∧ t.tcm = s.tcm ∧ s.sameOthers t s.cur ∧ t.me.state = .ready ∧ t.me.pc = s.me.completed.pc

/-- The copies of the current thread's core and of its cluster leave room for one more (R205). -/
def State.hasCopyRoom (s : State) : Prop := s.copyRoom = .go ()

/-! ### Accesses at their homes -/

/-- Memory `m'` is `m` with the `n` low bytes of `v` at `a`, little-endian (R12). -/
def Mem.written (m m' : Mem) (a n v : Nat) : Prop :=
  ∀ x, m'.read x = if a ≤ x ∧ x < a + n then BitVec.ofNat 8 (v / 256 ^ (x - a)) else m.read x

/-- The thread of a request takes its reply: an ordinary one of this device that is not killed, of a crew whose run writes no
digest and no journal. -/
def State.answers (s : State) (q : Req) : Prop :=
  q.live = true ∧ q.from_ = none ∧ q.twin = false ∧ s.plain q.thread ∧ (s.thread q.thread).state ≠ .killed ∧ (s.thread q.thread).wait ≠ .retry .twinCompare ∧
    q.jslot = none ∧ (s.crewOf q.crewId).run = 0

/-- A value delivered to the destination of a request, which counts as a write of the unit that made the access. -/
def State.placedFor (s : State) (q : Req) (d : RegField) (v : Word) : State :=
  ((s.modThread q.thread fun x => { x with iss := { x.iss with major := q.major } }).placeS q.thread d v 0).modThread q.thread
    fun x => { x with iss := { x.iss with major := (s.thread q.thread).iss.major } }
def State.placedForV (s : State) (q : Req) (d : RegField) (v : VWord) : State :=
  ((s.modThread q.thread fun x => { x with iss := { x.iss with major := q.major } }).placeV q.thread d v 0).modThread q.thread
    fun x => { x with iss := { x.iss with major := (s.thread q.thread).iss.major } }

/-- The state after the reply of request `r`, of thread `u`: the request is gone and the thread goes on behind its unit. -/
def State.closed (s : State) (r u : Nat) : State := (s.dropReq r).modThread u Thread.completed

/-- The state after the reply of request `r`, `q`, whose register has been written: the thread goes on behind its unit, or,
where the access is relaxed, counts it off and awaits its register no longer (R117, R137). -/
def State.returned (s : State) (r : Nat) (q : Req) : State :=
  if q.relaxed = true then
    (s.dropReq r).modThread q.thread fun x =>
      { x with rlxn := x.rlxn - 1,
               awaited := match q.dest with
                 | none => x.awaited
                 | some d => if q.vec = true then x.awaited.erase (d.toNat + 64)
                   else if d = 0 then x.awaited else x.awaited.erase d.toNat }
  else s.closed r q.thread

/-- The thread of a request takes a value into its scalar destination: room behind a port, an entry of its own for `h29`; a
relaxed access needs no entry. -/
def State.takesAt (s : State) (q : Req) (d : RegField) (v : Word) : Prop :=
  (∀ dir, (sreg d).port = some dir → s.roomS (coreOf q.thread) dir = true) ∧
    (d.toNat = 61 → q.relaxed = false → s.mayRelease q.thread v = true)

/-- The home has answered request `r` with a value, and changed nothing else. -/
def State.answered (s : State) (r : Nat) (v : VWord) : State :=
  { s with reqs := s.reqs.put r { s.req r with status := .replied, result := v }, events := s.events ++ [(s.req r).reply r] }

/-- A block that a request has reached at a tick: its entry, if it has one, counts as touched (R274). -/
def Block.touchedAt (x : Block) (now : Nat) : Block :=
  match x.entry with
  | none => x
  | some e => { x with entry := some { e with touched := now } }

/-- Request `r` is refused: its reply carries the cause and the address, and an entry of kind 7 names its thread (R376); of the
blocks only what a directory keeps changes, where the entry is written. -/
def State.refuses (s t : State) (r : Nat) (c : Cause) (addr : Nat) : Prop :=
  (t.req r).status = .refused c (BitVec.ofNat 64 addr) ∧ (s.req r).reply r ∈ t.events ∧
    ((s.req r).from_ = none → t.mem = (s.reportThread (s.req r).thread 7 c addr (s.req r).pc.toNat 0).mem) ∧
    (∀ k, ∃ x, (x = s.block k ∨ x = (s.block k).touchedAt s.now) ∧ t.block k = { x with
      dir := (t.block k).dir, spans := (t.block k).spans, hosts := (t.block k).hosts, win := (t.block k).win,
      version := (t.block k).version }) ∧ t.threads = s.threads ∧ t.cores = s.cores

/-- A request that its home takes now: on its way, of a thread whose earlier relaxed writes are performed (R290). -/
def State.arrives (s : State) (r : Nat) (k : ReqKind) : Prop :=
  (s.req r).live = true ∧ (s.req r).status = .issued ∧ (s.req r).kind = k ∧ s.relaxedEarlier (s.req r).thread r = []

/-- A block whose entry, if it has one, is not spilled. -/
def Block.unspilled (x : Block) : Prop := ∀ e, x.entry = some e → e.spill = []

/-- The 32 doublewords of a block of a list: an entry for each waiter, then zeros; no further block (R44, R45). -/
def State.listAt (t : State) (a : Nat) (ws : List Waiter) : Prop :=
  ∀ i, i < 32 → t.mem.readLE (a + 8 * i) 8 = ((ws[i]?.map Waiter.word).getD 0).toNat

/-- Nothing but block `b` has changed among the blocks, and nothing outside its 256 bytes in memory. -/
def State.onlyBlock (s t : State) (b : Nat) : Prop :=
  (∀ k, k ≠ b → t.block k = s.block k) ∧ ∀ a, ¬ (256 * b ≤ a ∧ a < 256 * b + 256) → t.mem.read a = s.mem.read a

/-- A block of which an entry of the fill-assembly buffer is resident. -/
def Block.resident (x : Block) (e : FillEntry) : Prop := x.entry = some e ∧ e.spill = []

/-- A tick in which no register write, no wait and no write-back falls due, nothing is on its way, no error is corrected and no
request waits for its turn at a home. -/
def State.still (s : State) : Prop :=
  (∀ p ∈ s.cores, (∀ w ∈ p.2.pend, s.now < w.due) ∧ p.2.mxNeed = []) ∧ (∀ p ∈ s.windows, p.2.flushes = []) ∧
    (∀ p ∈ s.threads, p.2.dying = none ∧ p.2.state ∉ [.wmem, .wmx, .wsync, .yielded, .killed] ∧
      ∀ dir vec n, p.2.wait ≠ .retry (.portEntry dir vec n)) ∧
    s.heldSteps = [] ∧ s.flight = [] ∧ s.spanNet = [] ∧ s.hostQueue = [] ∧ s.copies = [] ∧ s.corrections = [] ∧
    s.homeLine = []

/-- An access `r` waits at bank `b` of a deck, and has done so long enough that the bank may serve it in this tick. -/
def State.atBank (s : State) (x : Ask) (k b r : Nat) : Prop :=
  x.cluster = k ∧ x.banks = [b] ∧ b < 128 ∧ x.since ≤ s.now + 1 ∧ x.asker = .access r

/-! ### What a register-only unit keeps -/

/-- `t` is `s` but for what a unit that only reads and writes registers may change: the current thread's registers, latches,
flags and place, and in its core the writes to come and what its source fields consume; `fs` are its source fields. -/
def State.keeps (s t : State) (fs : List Reg) : Prop :=
  t.mem = s.mem ∧ t.tcm = s.tcm ∧ t.deck = s.deck ∧ s.sameOthers t s.cur ∧
    (∀ k, k ≠ coreOf s.cur → t.core k = s.core k) ∧
    (∀ c, c = t.core (coreOf s.cur) → c = { s.core (coreOf s.cur) with
        pend := c.pend, portQ := c.portQ, portVQ := c.portVQ, seq := c.seq, entries := c.entries } ∧
      ((∀ f ∈ fs, f.field.toNat < 56) → c = { s.core (coreOf s.cur) with pend := c.pend })) ∧
    ∀ x, x = t.me → x = { s.me with
        s := x.s, v := x.v, errors := x.errors, bindings := x.bindings, latchD := x.latchD, latchA := x.latchA,
        latchB := x.latchB, fflags := x.fflags, half := x.half, permit := x.permit, state := x.state, wait := x.wait,
        pc := x.pc, lineAt := x.lineAt, repAt := x.repAt, repc := x.repc, iss := x.iss } ∧
      (s.me.iss.rep = false → x.repc = s.me.repc) ∧
      ((∀ f ∈ fs, f.vec = true ∨ f.field.toNat ≠ 60) → x.half = s.me.half ∧ x.permit = s.me.permit)

/-- The writes that a unit of the current thread leaves to its core go to its destination `d` and to its flags alone. -/
def State.pendsOnly (s t : State) (d : Option Dest) : Prop :=
  ∃ ws, (t.core (coreOf s.cur)).pend = (s.core (coreOf s.cur)).pend ++ ws ∧
    ∀ w ∈ ws, w.slot = slotOf s.cur ∧ (some w.dest = d ∨ w.dest = .flags)

/-- A unit that writes one scalar register, or none, keeps everything else: every other scalar register, every vector
register that is not bound to a stream; with scalar sources alone every binding, latch and flag. -/
def framesS (i : Instr) (d : Option RegField) (fs : List Reg) : Prop :=
  ∀ s t : State, s.plain s.cur → s.replaying s.cur = false → exec i s = .next t → t.me.iss.ended = .issued →
    s.keeps t fs ∧ s.pendsOnly t (d.map destOf) ∧ (∀ r, (∀ k, d = some k → k.toNat ≠ r) → t.me.s.get 0 r = s.me.s.get 0 r) ∧
      (∀ r, (∀ b ∈ s.me.bindings, b.reg ≠ r) → t.me.v.get 0 r = s.me.v.get 0 r) ∧
      ((∀ f ∈ fs, f.vec = false) → t.me.v = s.me.v ∧ t.me.bindings = s.me.bindings ∧ t.me.latchD = s.me.latchD ∧
        t.me.latchA = s.me.latchA ∧ t.me.latchB = s.me.latchB ∧ t.me.fflags = s.me.fflags)

/-- A unit that writes one vector register keeps every other register; a register that it reads through a stream binding
receives the unit that it takes. -/
def framesV (i : Instr) (d : RegField) (fs : List Reg) : Prop :=
  ∀ s t : State, s.plain s.cur → s.replaying s.cur = false → exec i s = .next t → t.me.iss.ended = .issued →
    s.keeps t fs ∧ s.pendsOnly t (some (destOfV d)) ∧ t.me.s = s.me.s ∧
      ∀ r, d.toNat ≠ r → (∀ b ∈ s.me.bindings, b.reg ≠ r) → t.me.v.get 0 r = s.me.v.get 0 r

end Sys2Proof.Machine
end

