-- ==== Sys2Proof/Certificates/Slice0/Obligations.lean ====
section
/-! DEFINITION. The statements about the model, for the provers. -/

open Sys2Proof Sys2Proof.Machine

/-! ### Scalar units -/

/-- R100, R101: the register-register units and the products deliver these values; the compact ones of R83 too. `cmov`
and `bins` stand in statements of their own. -/
def Obligations.ScalarTwoSources : Prop :=
  (∀ d a b : RegField, ∀ e ∈ ([
    (.add d a b, 2, fun x y => ofNat64 (x.toNat + y.toNat)),
    (.sub d a b, 2, fun x y => ofInt64 ((x.toNat : Int) - y.toNat)),
    (.and d a b, 2, fun x y => x &&& y),
    (.or d a b, 2, fun x y => x ||| y),
    (.xor d a b, 2, fun x y => x ^^^ y),
    (.andn d a b, 2, fun x y => x &&& ~~~y),
    (.orn d a b, 2, fun x y => x ||| ~~~y),
    (.sll d a b, 2, fun x y => ofNat64 (x.toNat * 2 ^ (y.toNat % 64))),
    (.srl d a b, 2, fun x y => ofNat64 (x.toNat / 2 ^ (y.toNat % 64))),
    (.sra d a b, 2, fun x y => ofInt64 (x.toInt / 2 ^ (y.toNat % 64))),
    (.rol d a b, 2, fun x y => (x <<< (y.toNat % 64)) ||| (x >>> (64 - y.toNat % 64))),
    (.ror d a b, 2, fun x y => (x >>> (y.toNat % 64)) ||| (x <<< (64 - y.toNat % 64))),
    (.slt d a b, 2, fun x y => if x.toInt < y.toInt then 1 else 0),
    (.sltu d a b, 2, fun x y => if x.toNat < y.toNat then 1 else 0),
    (.min d a b, 2, fun x y => ofInt64 (min x.toInt y.toInt)),
    (.max d a b, 2, fun x y => ofInt64 (max x.toInt y.toInt)),
    (.minu d a b, 2, fun x y => ofNat64 (min x.toNat y.toNat)),
    (.maxu d a b, 2, fun x y => ofNat64 (max x.toNat y.toNat))] : List (Instr × Nat × (Word → Word → Word))),
    completes2 e.1 d a b e.2.1 e.2.2) ∧
  (∀ d a b : RegField, ∀ e ∈ ([
    (.addw d a b, 2, fun x y => ofWord (x.toNat + y.toNat)),
    (.subw d a b, 2, fun x y => ofWord ((x.toNat : Int) - y.toNat)),
    (.sllw d a b, 2, fun x y => ofWord (x.toNat * 2 ^ (y.toNat % 32))),
    (.srlw d a b, 2, fun x y => ofWord (x.toNat % 2 ^ 32 / 2 ^ (y.toNat % 32))),
    (.sraw d a b, 2, fun x y => ofWord ((x.setWidth 32).toInt / 2 ^ (y.toNat % 32))),
    (.mul d a b, 6, fun x y => ofNat64 (x.toNat * y.toNat % 2 ^ 64)),
    (.mulh d a b, 6, fun x y => ofInt64 (x.toInt * y.toInt / 2 ^ 64)),
    (.mulhu d a b, 6, fun x y => ofNat64 (x.toNat * y.toNat / 2 ^ 64)),
    (.mulhsu d a b, 6, fun x y => ofInt64 (x.toInt * y.toNat / 2 ^ 64)),
    (.mulw d a b, 6, fun x y => ofWord (x.toNat * y.toNat))] : List (Instr × Nat × (Word → Word → Word))),
    completes2 e.1 d a b e.2.1 e.2.2) ∧
  ∀ d a : CReg,
    completes2 (.cAdd d a) (creg d) (creg d) (creg a) 2 (fun x y => ofNat64 (x.toNat + y.toNat)) ∧
    completes2 (.cSub d a) (creg d) (creg d) (creg a) 2 (fun x y => ofInt64 ((x.toNat : Int) - y.toNat)) ∧
    completes2 (.cAnd d a) (creg d) (creg d) (creg a) 2 (fun x y => x &&& y)

/-- R105: the immediate forms, `lui` and `lpc` (R106), and the compact ones of R83. A word shift with shift bit 5 set is
ILLEGAL. -/
def Obligations.ScalarImmediates : Prop :=
  ((∀ (d a : RegField) (i : BitVec 13), ∀ e ∈ ([
    (.addi d a i, fun x => ofInt64 (x.toInt + i.toInt)),
    (.andi d a i, fun x => x &&& ofInt64 i.toInt),
    (.ori d a i, fun x => x ||| ofInt64 i.toInt),
    (.xori d a i, fun x => x ^^^ ofInt64 i.toInt),
    (.slti d a i, fun x => if x.toInt < i.toInt then 1 else 0),
    (.sltiu d a i, fun x => if x.toNat < (ofInt64 i.toInt).toNat then 1 else 0),
    (.addiw d a i, fun x => ofWord (x.toInt + i.toInt))] : List (Instr × (Word → Word))), completes1 e.1 d a 2 e.2) ∧
  (∀ (d a : RegField) (n : BitVec 6), ∀ e ∈ ([
    (.slli d a n, fun x => ofNat64 (x.toNat * 2 ^ n.toNat)),
    (.srli d a n, fun x => ofNat64 (x.toNat / 2 ^ n.toNat)),
    (.srai d a n, fun x => ofInt64 (x.toInt / 2 ^ n.toNat))] : List (Instr × (Word → Word))), completes1 e.1 d a 2 e.2) ∧
  (∀ (d a : RegField) (n : BitVec 5), ∀ e ∈ ([
    (.slliw d a n, fun x => ofWord (x.toNat * 2 ^ n.toNat)),
    (.srliw d a n, fun x => ofWord (x.toNat % 2 ^ 32 / 2 ^ n.toNat)),
    (.sraiw d a n, fun x => ofWord ((x.setWidth 32).toInt / 2 ^ n.toNat))] : List (Instr × (Word → Word))),
    completes1 e.1 d a 2 e.2) ∧
  (∀ d a : CReg, (∀ i : BitVec 5, completes1 (.cAddi d a i) (creg d) (creg a) 2 (fun x => ofInt64 (x.toInt + i.toInt))) ∧
    completes1 (.cMv d a) (creg d) (creg a) 2 (fun x => x)) ∧
  (∀ (d : CReg) (n : BitVec 6),
    completes1 (.cSlli d n) (creg d) (creg d) 2 (fun x => ofNat64 (x.toNat * 2 ^ n.toNat)) ∧
    completes1 (.cSrli d n) (creg d) (creg d) 2 (fun x => ofNat64 (x.toNat / 2 ^ n.toNat))) ∧
  (∀ (d : RegField) (i : BitVec 19),
    completes0 (.lui d i) d (fun _ => ofInt64 (i.toInt * 2 ^ 13)) ∧
    completes0 (.lpc d i) d (fun s => ofInt64 (s.me.iss.ipc.toNat + i.toInt * 2 ^ 13))) ∧
  ∀ (d : CReg) (i : BitVec 8), completes0 (.cLi d i) (creg d) (fun _ => ofInt64 i.toInt)) ∧
  illegalWhere 0x09 fun w => 3 ≤ field w 26 6 ∧ field w 26 6 ≤ 5 ∧ bitAt w 24 = true

/-- R103, R104: the bit operations. Bit `i` of a value is `bitAt`.
R100, R446: `cmov` delivers A where B is not 0; otherwise it writes and pushes nothing and completes. Both read the old `d`, which
holds no error. -/
def Obligations.BitOperations : Prop :=
  ((∀ d a : RegField, ∀ e ∈ ([
    (.popc d a, fun x => ofNat64 ((List.range 64).countP fun i => bitAt x.toNat i)),
    (.clz d a, fun x => ofNat64 (if x = 0 then 64 else 63 - x.toNat.log2)),
    (.ctz d a, fun x => ofNat64 (((List.range 64).find? fun i => bitAt x.toNat i).getD 64)),
    (.brev d a, fun x => ofNat64 (((List.range 64).map fun i => if bitAt x.toNat (63 - i) then 2 ^ i else 0).sum)),
    (.bswap d a, fun x => ofNat64 (((List.range 8).map fun k => field x.toNat (8 * (7 - k)) 8 * 2 ^ (8 * k)).sum)),
    (.sextB d a, fun x => ofInt64 (signed 8 (x.toNat % 2 ^ 8))),
    (.sextH d a, fun x => ofInt64 (signed 16 (x.toNat % 2 ^ 16))),
    (.sextW d a, fun x => ofInt64 (signed 32 (x.toNat % 2 ^ 32))),
    (.zextB d a, fun x => ofNat64 (x.toNat % 2 ^ 8)),
    (.zextH d a, fun x => ofNat64 (x.toNat % 2 ^ 16)),
    (.zextW d a, fun x => ofNat64 (x.toNat % 2 ^ 32)),
    (.lsb d a, fun x => x &&& ofInt64 (-(x.toNat : Int))),
    (.msk d a, fun x => if x.toNat < 64 then ofNat64 (2 ^ x.toNat - 1) else BitVec.allOnes 64)] :
      List (Instr × (Word → Word))), completes1 e.1 d a 2 e.2) ∧
  (∀ d a b : RegField,
    completes2 (.bext d a b) d a b 2 (fun x y => ofNat64 (x.toNat / 2 ^ field y.toNat 0 6 % 2 ^ (field y.toNat 6 6 + 1)))) ∧
  ∀ (d a b : RegField) (s s1 : State) (x y r : Word), s.usable [sreg a, sreg b, sreg d] → s.read2 a b = .go (x, y, s1) →
    s.sound s.cur (sreg d) = .go () → s1.cur = s.cur → s1.plain s.cur → s1.takes d r →
    (∀ i, i < 64 → r.getLsbD i =
      if field y.toNat 0 6 ≤ i ∧ i ≤ field y.toNat 0 6 + field y.toNat 6 6 then x.getLsbD (i - field y.toNat 0 6)
      else (s.oldS s.cur d).getLsbD i) →
    exec (.bins d a b) s = .next (s1.wrote d r 2)) ∧
  (∀ (d a b : RegField) (s s1 : State) (x y : Word), s.usable [sreg a, sreg b, sreg d] → s.read2 a b = .go (x, y, s1) →
    s.sound s.cur (sreg d) = .go () → s1.cur = s.cur → s1.plain s.cur →
    (y ≠ 0 → s1.takes d x → exec (.cmov d a b) s = .next (s1.wrote d x 2)) ∧
    (y = 0 → exec (.cmov d a b) s = .next s1.done)) ∧
  field 712 0 6 = 8 ∧ field 712 6 6 + 1 = 12 ∧ ∀ pos len : Nat, pos < 64 → 1 ≤ len → len ≤ 64 →
    field (pos + 64 * (len - 1)) 0 6 = pos ∧ field (pos + 64 * (len - 1)) 6 6 + 1 = len

/-- R98, R101: a division issues and its thread leaves the rotation; the value that falls due is the quotient or the
remainder. -/
def Obligations.DivisionsIssue : Prop :=
  ∀ d a b : RegField, ∀ e ∈ ([
    (.div d a b, 48, fun x y v =>
      (y = 0 ∧ v = BitVec.allOnes 64) ∨ (y ≠ 0 ∧ ∃ q r, isQuotient x.toInt y.toInt q r ∧ v = ofInt64 q)),
    (.divu d a b, 48, fun x y v =>
      (y = 0 ∧ v = BitVec.allOnes 64) ∨ (y ≠ 0 ∧ ∃ q r, isQuotient x.toNat y.toNat q r ∧ v = ofInt64 q)),
    (.rem d a b, 48, fun x y v => (y = 0 ∧ v = x) ∨ (y ≠ 0 ∧ ∃ q r, isQuotient x.toInt y.toInt q r ∧ v = ofInt64 r)),
    (.remu d a b, 48, fun x y v => (y = 0 ∧ v = x) ∨ (y ≠ 0 ∧ ∃ q r, isQuotient x.toNat y.toNat q r ∧ v = ofInt64 r)),
    (.divw d a b, 24, fun x y v => (y.toNat % 2 ^ 32 = 0 ∧ v = BitVec.allOnes 64) ∨ (y.toNat % 2 ^ 32 ≠ 0 ∧
      ∃ q r, isQuotient (x.setWidth 32).toInt (y.setWidth 32).toInt q r ∧ v = ofWord q)),
    (.remw d a b, 24, fun x y v => (y.toNat % 2 ^ 32 = 0 ∧ v = ofWord x.toNat) ∨ (y.toNat % 2 ^ 32 ≠ 0 ∧
      ∃ q r, isQuotient (x.setWidth 32).toInt (y.setWidth 32).toInt q r ∧ v = ofWord r))] :
      List (Instr × Nat × (Word → Word → Word → Prop))), startsDivision e.1 d a b e.2.1 e.2.2

/-- R102: what a division by zero and a signed overflow give, and no other outcome: the instruction issues, the value that
falls due is the table's, and its destination receives that value. The rule's example: -7 by 2, and 7 by -2. -/
def Obligations.DivisionCorners : Prop :=
  (∀ d a b : RegField,
    startsDivision (.div d a b) d a b 48 (fun x y v => (y = 0 ∧ v = BitVec.allOnes 64) ∨
      (x.toInt = -2 ^ 63 ∧ y.toInt = -1 ∧ v.toInt = -2 ^ 63) ∨
      (x.toInt = -7 ∧ y.toInt = 2 ∧ v.toInt = -3) ∨ (x.toInt = 7 ∧ y.toInt = -2 ∧ v.toInt = -3)) ∧
    startsDivision (.divu d a b) d a b 48 (fun _ y v => y = 0 ∧ v = BitVec.allOnes 64) ∧
    startsDivision (.rem d a b) d a b 48 (fun x y v => (y = 0 ∧ v = x) ∨
      (x.toInt = -2 ^ 63 ∧ y.toInt = -1 ∧ v = 0) ∨
      (x.toInt = -7 ∧ y.toInt = 2 ∧ v.toInt = -1) ∨ (x.toInt = 7 ∧ y.toInt = -2 ∧ v.toInt = 1)) ∧
    startsDivision (.remu d a b) d a b 48 (fun x y v => y = 0 ∧ v = x) ∧
    startsDivision (.divw d a b) d a b 24 (fun x y v => (y.setWidth 32 = (0 : BitVec 32) ∧ v = BitVec.allOnes 64) ∨
      ((x.setWidth 32).toInt = -2 ^ 31 ∧ (y.setWidth 32).toInt = -1 ∧ v = 0xFFFFFFFF80000000)) ∧
    startsDivision (.remw d a b) d a b 24 (fun x y v =>
      (y.setWidth 32 = (0 : BitVec 32) ∧ v = (x.setWidth 32).signExtend 64) ∨
      ((x.setWidth 32).toInt = -2 ^ 31 ∧ (y.setWidth 32).toInt = -1 ∧ v = 0))) ∧
  ∀ (s : State) (u due : Nat) (d : RegField) (v : Word), s.plain u → (s.thread u).wait = .division d v due → due ≤ s.now →
    exec (.divisionWrite u) s = .next ((s.placeS u d v 0).modThread u Thread.completed)

/-! ### Registers -/

/-- R20, R22, R25, R26, R95: what a scalar field reads, by the register that it names; a port pops its oldest entry, and an
empty one keeps the thread out of the rotation. -/
def Obligations.ScalarSources : Prop :=
  ∀ (s : State) (u : Nat) (f : RegField), s.sound u (sreg f) = .go () →
    (f.toNat = 0 → s.readS u f = .go (0, s)) ∧
    (0 < f.toNat → f.toNat < 32 → s.readS u f = .go ((s.thread u).s.get 0 f.toNat, s)) ∧
    (32 ≤ f.toNat → f.toNat < 56 → s.readS u f = .go ((s.core (coreOf u)).h.get 0 (f.toNat - 32), s)) ∧
    (56 ≤ f.toNat → f.toNat < 60 →
      (∀ v rest, (s.core (coreOf u)).portQ.get [] (f.toNat - 56) = v :: rest →
        s.readS u f = .go (v, s.modCore (coreOf u) fun c => { c with portQ := c.portQ.put (f.toNat - 56) rest })) ∧
      ((s.core (coreOf u)).portQ.get [] (f.toNat - 56) = [] →
        s.readS u f = .wait .wsync (.portEntry (f.toNat - 56) false))) ∧
    (f.toNat = 60 → ∀ q, q = (s.core (coreOf u)).seq →
      (∀ h, (s.thread u).half = some h → s.readS u f = .go (h, s.setThread u { s.thread u with half := none })) ∧
      ((s.thread u).half = none → q.queue = [] →
        s.readS u f = if q.running then .wait .wsync .iterRecord else .go (BitVec.allOnes 64, s)) ∧
      ∀ r tok rest, (s.thread u).half = none → q.queue = (r, tok) :: rest → ∃ s1,
        s.readS u f = .go (r.setWidth 64, s1) ∧ (s1.thread u).half = some (ofNat64 (r.toNat / 2 ^ 64)) ∧
        (s1.thread u).permit = some tok ∧ (s1.core (coreOf u)).seq.queue = rest) ∧
    (f.toNat = 61 → (s.claim u (2 ^ 64 - 1) = none → s.readS u f = .wait .wsync .ringEntry) ∧
      ∀ i s1, s.claim u (2 ^ 64 - 1) = some (i, s1) → s.readS u f = .go (ofNat64 (0xF000 + 128 * i), s1)) ∧
    (f.toNat = 62 → ∀ c n, c = s.core (coreOf u) →
      n = (s.copies.filter fun p => p.2.core == coreOf u && p.2.stage != .retired).length →
      n ≤ 32 → c.seq.out.length ≤ 255 →
      ∃ x : Word, s.readS u f = .go (x, s) ∧ field x.toNat 0 2 = min 2 c.mxQueue.length ∧ bitAt x.toNat 2 = c.mxRun.isSome ∧
        bitAt x.toNat 3 = c.mxCan ∧ field x.toNat 4 6 = n ∧
        (bitAt x.toNat 10 = true ↔ s.copyActive (coreOf u) = true ∨ ∃ k ∈ s.asks, k.engine = true ∧
          k.number = copyNumber (coreOf u) ∧ k.cluster = clusterOf (coreOf u)) ∧ bitAt x.toNat 11 = c.seq.running ∧
        bitAt x.toNat 12 = c.seq.done ∧ field x.toNat 13 8 = c.seq.out.length ∧ field x.toNat 21 43 = 0) ∧
    (f.toNat = 63 → s.readS u f = .go (s.tick, s))

/-- R20, R21, R96, R98, R160: where a scalar value goes, by the register that the destination names: the core performs its
write `delay` ticks later; with no delay an own register holds it at once and nothing else changes, and `s0`, `h28`, `h30` and
`h31` discard it. R158, R160: where a vector value goes.
R21, R22, R24, R156, R211, R247: the writes that a core performs, outside twin mode on a site whose injector is not armed: an own
register holds the value and nothing else changes, but that the stream binding of a vector register ends and the latches that
recorded it lose their hold bits; flags are ORed into `fflags`; a shared register holds the value, a push stands at the end of the
neighbour's queue from the opposite side, a release frees the entry. R21: of the writes to one register that fall due in a tick,
that of the highest slot remains. -/
def Obligations.Destinations : Prop :=
  (∀ (s : State) (u : Nat) (d : RegField) (v : Word),
    (d.toNat = 0 ∨ d.toNat = 60 ∨ d.toNat = 62 ∨ d.toNat = 63 → s.placeS u d v 0 = s) ∧
    (0 < d.toNat → d.toNat < 32 →
      s.sameRest (s.placeS u d v 0) ∧ (s.placeS u d v 0).cores = s.cores ∧ s.sameOthers (s.placeS u d v 0) u ∧
      (s.placeS u d v 0).thread u = { s.thread u with
        s := ((s.placeS u d v 0).thread u).s, errors := ((s.placeS u d v 0).thread u).errors } ∧
      ∀ n, ((s.placeS u d v 0).thread u).s.get 0 n = if n = d.toNat then v else (s.thread u).s.get 0 n) ∧
    ∀ delay, 0 < delay ∨ (32 ≤ d.toNat ∧ (d.toNat < 60 ∨ d.toNat = 61)) →
      s.sameRest (s.placeS u d v delay) ∧ (s.placeS u d v delay).threads = s.threads ∧
      s.samePorts (s.placeS u d v delay) (coreOf u) ∧
      ((s.placeS u d v delay).core (coreOf u)).pend = (s.core (coreOf u)).pend ++ [{
        due := s.now + delay, slot := slotOf u, value := v.setWidth 128, major := (s.thread u).iss.major,
        noted := (s.thread u).twin, both := (s.thread u).iss.alone,
        dest := if d.toNat = 0 ∨ d.toNat = 60 ∨ 62 ≤ d.toNat then .discard d.toNat else if d.toNat < 32 then .own d.toNat
          else if d.toNat = 61 then .release else if 56 ≤ d.toNat then .port (d.toNat - 56) else .shared (d.toNat - 32) }]) ∧
  (∀ (s : State) (u : Nat) (d : RegField) (v : VWord) (delay : Nat), 0 < delay ∨ 32 ≤ d.toNat →
    s.sameRest (s.placeV u d v delay) ∧ (s.placeV u d v delay).threads = s.threads ∧
    s.samePorts (s.placeV u d v delay) (coreOf u) ∧
    ((s.placeV u d v delay).core (coreOf u)).pend = (s.core (coreOf u)).pend ++ [{
      due := s.now + delay, slot := slotOf u, value := v, major := (s.thread u).iss.major, noted := (s.thread u).twin,
      both := (s.thread u).iss.alone,
      dest := if d.toNat < 32 then .ownV d.toNat else if 60 ≤ d.toNat then .portV (d.toNat - 60)
        else .sharedV (d.toNat - 32) }]) ∧
  (∀ (s : State) (u : Nat) (d : RegField) (v : VWord), d.toNat < 32 →
    s.sameRest (s.placeV u d v 0) ∧ (s.placeV u d v 0).cores = s.cores ∧ s.sameOthers (s.placeV u d v 0) u ∧
    (∀ n, ((s.placeV u d v 0).thread u).v.get 0 n = if n = d.toNat then v else (s.thread u).v.get 0 n) ∧
    ((s.placeV u d v 0).thread u).s = (s.thread u).s ∧ (∀ b ∈ ((s.placeV u d v 0).thread u).bindings, b.reg ≠ d.toNat) ∧
    ∀ l ∈ [((s.placeV u d v 0).thread u).latchD, ((s.placeV u d v 0).thread u).latchA, ((s.placeV u d v 0).thread u).latchB],
      l.hold = true → l.reg ≠ d) ∧
  (∀ (s : State) (c u : Nat) (w : PendWrite), u = 16 * c + w.slot → w.slot < 16 → w.noted = false → w.both = false →
    s.noInjector u →
    (∀ n, w.dest = .discard n → s.performWrite c w = s) ∧
    (∀ n, w.dest = .own n → s.sameRest (s.performWrite c w) ∧ (s.performWrite c w).cores = s.cores ∧
      s.sameOthers (s.performWrite c w) u ∧ (s.performWrite c w).thread u = { s.thread u with
        s := ((s.performWrite c w).thread u).s, errors := ((s.performWrite c w).thread u).errors } ∧
      ∀ k, ((s.performWrite c w).thread u).s.get 0 k = if k = n then w.value.setWidth 64 else (s.thread u).s.get 0 k) ∧
    (∀ n, w.dest = .ownV n → n < 32 → s.sameRest (s.performWrite c w) ∧ (s.performWrite c w).cores = s.cores ∧
      s.sameOthers (s.performWrite c w) u ∧ (∀ x, x = (s.performWrite c w).thread u → x = { s.thread u with
        v := x.v, errors := x.errors, bindings := x.bindings, latchD := x.latchD, latchA := x.latchA, latchB := x.latchB } ∧
        (∀ k, x.v.get 0 k = if k = n then w.value else (s.thread u).v.get 0 k) ∧ (∀ b ∈ x.bindings, b.reg ≠ n) ∧
        ∀ l ∈ [x.latchD, x.latchA, x.latchB], l.hold = true → l.reg.toNat ≠ n)) ∧
    (w.dest = .flags → s.performWrite c w =
      s.modThread u fun x => { x with fflags := x.fflags ||| w.value.setWidth 5 }) ∧
    (∀ n, w.dest = .shared n →
      s.sameRest (s.performWrite c w) ∧ (s.performWrite c w).threads = s.threads ∧
      (∀ k, k ≠ c → (s.performWrite c w).core k = s.core k) ∧
      ∀ m, ((s.performWrite c w).core c).h.get 0 m = if m = n then w.value.setWidth 64 else (s.core c).h.get 0 m) ∧
    (∀ dir k, w.dest = .port dir → neighbour c dir = some k → s.occupied k = true →
      s.sameRest (s.performWrite c w) ∧ (s.performWrite c w).threads = s.threads ∧
      (∀ m, m ≠ k → (s.performWrite c w).core m = s.core m) ∧
      ((s.performWrite c w).core k).portQ.get [] (opposite dir) =
        (s.core k).portQ.get [] (opposite dir) ++ [w.value.setWidth 64]) ∧
    (∀ i, w.dest = .release → i < 32 → (w.value.setWidth 64).toNat = entryAddress i →
      ((s.core c).entries.get {} i).state = .claimed w.slot → (s.core c).entries.rising = true →
      (((s.performWrite c w).core c).entries.get {} i).state = .free)) ∧
  ∀ (s : State) (c : Nat) (x y : PendWrite) (n : Nat), (s.core c).pend = [x, y] ∨ (s.core c).pend = [y, x] →
    x.dest = .shared n → y.dest = .shared n → x.slot < y.slot → y.slot < 16 → x.due ≤ s.now → y.due ≤ s.now →
    x.noted = false → y.noted = false → x.both = false → y.both = false → s.noInjector (16 * c) →
    ((s.performDue (fun _ => true) c).core c).pend = [] ∧
    ((s.performDue (fun _ => true) c).core c).h.get 0 n = y.value.setWidth 64

/-! ### Control flow -/

/-- R107, R108: the jumps write the link and continue at their targets; a target of `jalr` with one of bits 63 to 57 set
traps SEG with the target in `taddr`, and writes no link. -/
def Obligations.Jumps : Prop :=
  (∀ (d : RegField) (i : BitVec 19) (s : State), s.usable [sreg d] → s.plain s.cur →
    s.takes d (ofNat64 (s.me.iss.ipc.toNat + 4)) →
    exec (.jal d i) s = .next ((s.placeS s.cur d (ofNat64 (s.me.iss.ipc.toNat + 4)) 2).wentTo
      (BitVec.ofInt 57 (s.me.iss.ipc.toNat + i.toInt * 2)))) ∧
  (∀ (d a : RegField) (i : BitVec 13) (s s1 : State) (x : Word), s.usable [sreg a, sreg d] →
    s.readS s.cur a = .go (x, s1) → s1.cur = s.cur → s1.plain s.cur →
    ((ofInt64 (x.toInt + i.toInt)).toNat < 2 ^ 57 → s1.takes d (ofNat64 (s.me.iss.ipc.toNat + 4)) →
      exec (.jalr d a i) s = .next ((s1.placeS s.cur d (ofNat64 (s.me.iss.ipc.toNat + 4)) 2).wentTo
        (BitVec.ofNat 57 ((ofInt64 (x.toInt + i.toInt)).toNat / 2 * 2)))) ∧
    (2 ^ 57 ≤ (ofInt64 (x.toInt + i.toInt)).toNat → s.hasHandler s.cur →
      ∃ t, exec (.jalr d a i) s = .next t ∧ s.vectored t s.cur 0x04 (ofInt64 (x.toInt + i.toInt)) s.me.pc)) ∧
  ∀ (o : BitVec 11) (s : State), s.plain s.cur →
    exec (.cJ o) s = .next (s.wentTo (BitVec.ofInt 57 (s.me.iss.ipc.toNat + o.toInt * 2)))

/-- R109, R110: the branches and the mask tests read their registers, taken or not, and continue at the target when the
condition holds. -/
def Obligations.Branches : Prop :=
  (∀ (a b : RegField) (i : BitVec 13), ∀ e ∈ ([
    (.beq a b i, fun x y => x = y), (.bne a b i, fun x y => x ≠ y), (.blt a b i, fun x y => x.toInt < y.toInt),
    (.bge a b i, fun x y => y.toInt ≤ x.toInt), (.bltu a b i, fun x y => x.toNat < y.toNat),
    (.bgeu a b i, fun x y => y.toNat ≤ x.toNat)] : List (Instr × (Word → Word → Prop))), branches2 e.1 a b i.toInt e.2) ∧
  (∀ (a b : RegField) (i : BitVec 10), ∀ e ∈ ([
    (.bany a b i, fun x y => ∃ n, x.getLsbD n = true ∧ y.getLsbD n = true),
    (.ball a b i, fun x y => ∀ n, y.getLsbD n = true → x.getLsbD n = true),
    (.bnone a b i, fun x y => ∀ n, ¬ (x.getLsbD n = true ∧ y.getLsbD n = true))] : List (Instr × (Word → Word → Prop))),
    branches2 e.1 a b i.toInt e.2) ∧
  (∀ (a : RegField) (n : BitVec 6) (i : BitVec 10),
    branches1 (.bbs a n i) a i.toInt (fun x => x.getLsbD n.toNat = true) ∧
    branches1 (.bbc a n i) a i.toInt (fun x => x.getLsbD n.toNat = false)) ∧
  ∀ (a : CReg) (o : BitVec 7),
    branches1 (.cBeqz a o) (creg a) o.toInt (fun x => x = 0) ∧ branches1 (.cBnez a o) (creg a) o.toInt (fun x => x ≠ 0)

/-- R142, R144: `rep` starts the iterations at 0 with its count, or at `repc.done` with `repc.left` when `repc.act` is 1;
with none to run the unit completes without a further effect and `repc` is 0. `rlx` makes the access relaxed (R137).
R141, R143: a unit that completes goes on behind itself; under `rep` it stands at its own offset for the next iteration,
and after the last one `repc` is 0. A unit without `rep` leaves `repc` alone. -/
def Obligations.PrefixesAndCompletion : Prop :=
  ((∀ (count : BitVec 6) (stride : BitVec 5) (s : State) (i n : Nat), s.plain s.cur →
    (i, n) = (match s.me.repAt with
      | some p => p
      | none => if s.me.repc.act then (s.me.repc.done.toNat, s.me.repc.left.toNat) else (0, count.toNat)) →
    (n = 0 → ∃ t, exec (.rep count stride) s = .next t ∧ s.sameRest t ∧ t.cores = s.cores ∧ s.sameOthers t s.cur ∧
      t.me = { s.me with
        pc := s.me.iss.npc, state := .ready, wait := .none, lineAt := none, repAt := none, repc := {}, iss := t.me.iss }) ∧
    (0 < n → ∃ t, exec (.rep count stride) s = .next t ∧ s.sameRest t ∧ t.cores = s.cores ∧ s.sameOthers t s.cur ∧
      t.me = { s.me with repAt := some (i, n), iss := { s.me.iss with rep := true, iter := i, left := n } })) ∧
  ∀ s : State, ∃ t, exec .rlx s = .next t ∧ s.sameRest t ∧ t.cores = s.cores ∧ s.sameOthers t s.cur ∧
    t.me = { s.me with iss := { s.me.iss with rlx := true } }) ∧
  ∀ x : Thread,
    (x.iss.rep = false → x.completed =
      { x with state := .ready, wait := .none, lineAt := none, pc := x.iss.npc, iss := x.completed.iss }) ∧
    (x.iss.rep = true → 1 < x.iss.left → x.completed =
      { x with
        state := .ready, wait := .none, lineAt := none, repAt := some (x.iss.iter + 1, x.iss.left - 1),
        iss := x.completed.iss }) ∧
    (x.iss.rep = true → x.iss.left ≤ 1 → x.completed =
      { x with
        state := .ready, wait := .none, lineAt := none, pc := x.iss.npc, repAt := none, repc := {}, iss := x.completed.iss })

/-! ### Vector units -/

/-- R163: the integer units on lanes, with their times (R160); minors 15 to 31 are ILLEGAL.
R164: the bitwise units, and the shifts of lanes; minors 11 to 31, a width with a bitwise minor and an immediate count of
the width or more are ILLEGAL. -/
def Obligations.VectorIntegers : Prop :=
  (((∀ (d a b : RegField) (w : Width), ∀ e ∈ ([
    (.vadd d a b w, 4, fun x y => (x : Int) + y),
    (.vsub d a b w, 4, fun x y => (x : Int) - y),
    (.vadds d a b w, 4, fun x y => clampSigned w.bits (signed w.bits x + signed w.bits y)),
    (.vaddsu d a b w, 4, fun x y => clampUnsigned w.bits (x + y)),
    (.vsubs d a b w, 4, fun x y => clampSigned w.bits (signed w.bits x - signed w.bits y)),
    (.vsubsu d a b w, 4, fun x y => clampUnsigned w.bits (x - y)),
    (.vmul d a b w, 6, fun x y => (x : Int) * y),
    (.vmulh d a b w, 6, fun x y => signed w.bits x * signed w.bits y / 2 ^ w.bits)] :
      List (Instr × Nat × (Nat → Nat → Int))), completesV2 e.1 d a b e.2.1 (lanewise w e.2.2)) ∧
  ∀ (d a b : RegField) (w : Width), ∀ e ∈ ([
    (.vmulhu d a b w, 6, fun x y => (x : Int) * y / 2 ^ w.bits),
    (.vmin d a b w, 4, fun x y => min (signed w.bits x) (signed w.bits y)),
    (.vminu d a b w, 4, fun x y => (min x y : Nat)),
    (.vmax d a b w, 4, fun x y => max (signed w.bits x) (signed w.bits y)),
    (.vmaxu d a b w, 4, fun x y => (max x y : Nat)),
    (.vabsd d a b w, 4, fun x y => ((signed w.bits x - signed w.bits y).natAbs : Int)),
    (.vavgu d a b w, 4, fun x y => ((x : Int) + y + 1) / 2)] :
      List (Instr × Nat × (Nat → Nat → Int))), completesV2 e.1 d a b e.2.1 (lanewise w e.2.2)) ∧
  (∀ d a b : RegField, ∀ e ∈ ([
    (.vand d a b, fun x y => x && y), (.vor d a b, fun x y => x || y), (.vxor d a b, fun x y => x ^^ y),
    (.vandn d a b, fun x y => x && !y)] : List (Instr × (Bool → Bool → Bool))),
    completesV2 e.1 d a b 4 (fun _ x y r fl => fl = 0 ∧ ∀ i, i < 128 → r.getLsbD i = e.2 (x.getLsbD i) (y.getLsbD i))) ∧
  (∀ d a b : RegField, completesV3 (.vbsl d a b) d a b 4 (fun _ z x y r fl =>
    fl = 0 ∧ ∀ i, i < 128 → r.getLsbD i = if z.getLsbD i then x.getLsbD i else y.getLsbD i)) ∧
  (∀ (d a b : RegField) (w : Width),
    completesV2 (.vsll d a b w) d a b 4 (lanewise w fun x y => (x : Int) * 2 ^ (y % w.bits)) ∧
    completesV2 (.vsrl d a b w) d a b 4 (lanewise w fun x y => (x : Int) / 2 ^ (y % w.bits)) ∧
    completesV2 (.vsra d a b w) d a b 4 (lanewise w fun x y => signed w.bits x / 2 ^ (y % w.bits))) ∧
  ∀ (d a : RegField) (k : BitVec 6) (w : Width),
    completesV1 (.vslli d a k w) d a 4 (lanewise1 w fun x => (x : Int) * 2 ^ k.toNat) ∧
    completesV1 (.vsrli d a k w) d a 4 (lanewise1 w fun x => (x : Int) / 2 ^ k.toNat) ∧
    completesV1 (.vsrai d a k w) d a 4 (lanewise1 w fun x => signed w.bits x / 2 ^ k.toNat)) ∧
  illegalWhere 0x2C (fun w => 15 ≤ field w 27 5) ∧
  illegalWhere 0x2D fun w => 11 ≤ field w 27 5 ∨ (field w 27 5 ≤ 4 ∧ field w 25 2 ≠ 0) ∨
    (8 ≤ field w 27 5 ∧ 8 * 2 ^ field w 25 2 ≤ field w 19 6)

/-- R165: the comparisons write a mask of the lanes for which the condition holds; the ordered ones of floating-point lanes
raise NV for a NaN. -/
def Obligations.VectorCompares : Prop :=
  (∀ (d a b : RegField) (w : Width), ∀ e ∈ ([
    (.vceq d a b w, fun x y => x = y), (.vcne d a b w, fun x y => x ≠ y),
    (.vclt d a b w, fun x y => signed w.bits x < signed w.bits y), (.vcltu d a b w, fun x y => x < y),
    (.vcle d a b w, fun x y => signed w.bits x ≤ signed w.bits y), (.vcleu d a b w, fun x y => x ≤ y)] :
      List (Instr × (Nat → Nat → Prop))), completesVS2 e.1 d a b 4 (maskWhere w e.2)) ∧
  ∀ (d a b : RegField) (t : FType), ∀ e ∈ ([
    (.vfceq d a b t, false, fun p q => fpEqual p q), (.vfcne d a b t, false, fun p q => !fpEqual p q),
    (.vfclt d a b t, true, fun p q => !p.isNan && !q.isNan && fpLess p q),
    (.vfcle d a b t, true, fun p q => !p.isNan && !q.isNan && !fpLess q p),
    (.vfcun d a b t, false, fun p q => p.isNan || q.isNan)] : List (Instr × Bool × (Fp → Fp → Bool))),
    completesVS2 e.1 d a b 4 (fun _ x y r fl =>
      (∀ i, r.getLsbD i = true ↔ i < 128 / (formatOf t).width ∧
        e.2.2 ((formatOf t).value (lane (formatOf t).width x i)) ((formatOf t).value (lane (formatOf t).width y i)) = true) ∧
      fl = if e.2.1 = true ∧ ∃ i, i < 128 / (formatOf t).width ∧
          (((formatOf t).value (lane (formatOf t).width x i)).isNan = true ∨
            ((formatOf t).value (lane (formatOf t).width y i)).isNan = true) then flagNV else 0)

/-- R166: the permutations, by lanes. Minors 12 to 31, width code 00 with minors 6 to 11 and a field b where it is reserved
are ILLEGAL. -/
def Obligations.VectorPermutations : Prop :=
  (∀ (d a b : RegField) (w : Width) (n : Nat), n = 128 / w.bits →
    completesV2 (.vshuf d a b w) d a b 4 (fun _ x y r fl => fl = 0 ∧
      ∀ i, i < n → lane w.bits r i = lane w.bits x (lane w.bits y i % n)) ∧
    completesV2 (.vzipl d a b w) d a b 4 (fun _ x y r fl => fl = 0 ∧ ∀ k, k < n / 2 →
      lane w.bits r (2 * k) = lane w.bits x k ∧ lane w.bits r (2 * k + 1) = lane w.bits y k) ∧
    completesV2 (.vziph d a b w) d a b 4 (fun _ x y r fl => fl = 0 ∧ ∀ k, k < n / 2 →
      lane w.bits r (2 * k) = lane w.bits x (n / 2 + k) ∧ lane w.bits r (2 * k + 1) = lane w.bits y (n / 2 + k)) ∧
    completesV2 (.vunzipe d a b w) d a b 4 (fun _ x y r fl => fl = 0 ∧ ∀ k, k < n / 2 →
      lane w.bits r k = lane w.bits x (2 * k) ∧ lane w.bits r (n / 2 + k) = lane w.bits y (2 * k)) ∧
    completesV2 (.vunzipo d a b w) d a b 4 (fun _ x y r fl => fl = 0 ∧ ∀ k, k < n / 2 →
      lane w.bits r k = lane w.bits x (2 * k + 1) ∧ lane w.bits r (n / 2 + k) = lane w.bits y (2 * k + 1)) ∧
    completesV1 (.vrev d a w) d a 4 (fun _ x r fl => fl = 0 ∧ ∀ i, i < n → lane w.bits r i = lane w.bits x (n - 1 - i)) ∧
    (w ≠ .b8 →
      completesV2 (.vpacks d a b w) d a b 4 (fun _ x y r fl => fl = 0 ∧ ∀ k, k < n →
        (lane (w.bits / 2) r k : Int) = clampSigned (w.bits / 2) (signed w.bits (lane w.bits x k)) % 2 ^ (w.bits / 2) ∧
        (lane (w.bits / 2) r (n + k) : Int) =
          clampSigned (w.bits / 2) (signed w.bits (lane w.bits y k)) % 2 ^ (w.bits / 2)) ∧
      completesV2 (.vpacksu d a b w) d a b 4 (fun _ x y r fl => fl = 0 ∧ ∀ k, k < n →
        (lane (w.bits / 2) r k : Int) = clampUnsigned (w.bits / 2) (signed w.bits (lane w.bits x k)) ∧
        (lane (w.bits / 2) r (n + k) : Int) = clampUnsigned (w.bits / 2) (signed w.bits (lane w.bits y k))) ∧
      completesV1 (.vwidenl d a w) d a 4 (fun _ x r fl => fl = 0 ∧ ∀ i, i < n →
        (lane w.bits r i : Int) = signed (w.bits / 2) (lane (w.bits / 2) x i) % 2 ^ w.bits) ∧
      completesV1 (.vwidenh d a w) d a 4 (fun _ x r fl => fl = 0 ∧ ∀ i, i < n →
        (lane w.bits r i : Int) = signed (w.bits / 2) (lane (w.bits / 2) x (n + i)) % 2 ^ w.bits) ∧
      completesV1 (.vwidenlu d a w) d a 4 (fun _ x r fl => fl = 0 ∧ ∀ i, i < n →
        lane w.bits r i = lane (w.bits / 2) x i) ∧
      completesV1 (.vwidenhu d a w) d a 4 (fun _ x r fl => fl = 0 ∧ ∀ i, i < n →
        lane w.bits r i = lane (w.bits / 2) x (n + i)))) ∧
  illegalWhere 0x2F fun w => 12 ≤ field w 27 5 ∨ (6 ≤ field w 27 5 ∧ field w 25 2 = 0) ∨
    ((field w 27 5 = 5 ∨ 8 ≤ field w 27 5) ∧ field w 19 6 ≠ 0)

/-- R175: the moves; minors 6 to 31, a reserved field and a lane immediate of the number of lanes or more are ILLEGAL. R173:
the integer reductions. -/
def Obligations.VectorReductionsAndMoves : Prop :=
  ((∀ (d a : RegField) (w : Width),
    completesVS1 (.vrsum d a w) d a 7 (fun _ x r fl => fl = 0 ∧
      r = ofInt64 ((List.range (128 / w.bits)).map fun i => signed w.bits (lane w.bits x i)).sum) ∧
    completesVS1 (.vrsumu d a w) d a 7 (fun _ x r fl => fl = 0 ∧
      r = ofNat64 ((List.range (128 / w.bits)).map fun i => lane w.bits x i).sum) ∧
    completesVS1 (.vrmin d a w) d a 7 (extreme w (signed w.bits) (· ≤ ·)) ∧
    completesVS1 (.vrminu d a w) d a 7 (extreme w (fun x => x) (· ≤ ·)) ∧
    completesVS1 (.vrmax d a w) d a 7 (extreme w (signed w.bits) (· ≥ ·)) ∧
    completesVS1 (.vrmaxu d a w) d a 7 (extreme w (fun x => x) (· ≥ ·))) ∧
  ∀ (d a : RegField) (w : Width),
    completesV1 (.vmv d a) d a 4 (fun _ x r fl => fl = 0 ∧ r = x) ∧
    completesSV (.vbcst d a w) d a 4 (fun x r => ∀ i, i < 128 / w.bits → lane w.bits r i = x.toNat % 2 ^ w.bits) ∧
    completesSV (.vmexp d a w) d a 4 (fun x r => ∀ i, i < 128 / w.bits →
      lane w.bits r i = if x.getLsbD i then 2 ^ w.bits - 1 else 0) ∧
    ∀ l : BitVec 5, l.toNat < 128 / w.bits →
      completesVS1 (.vextr d a l w) d a 4 (fun _ x r fl => fl = 0 ∧ r = ofInt64 (signed w.bits (lane w.bits x l.toNat))) ∧
      completesVS1 (.vextru d a l w) d a 4 (fun _ x r fl => fl = 0 ∧ r = ofNat64 (lane w.bits x l.toNat)) ∧
      ∀ (s s1 s2 : State) (x : Word) (z r : VWord), s.usable [sreg a, vreg d] → s.readS s.cur a = .go (x, s1) →
        s1.oldVAgain d [] = .go (z, s2) → s1.cur = s.cur → s2.cur = s.cur → s2.plain s.cur → s2.takesV d →
        (∀ i, i < 128 / w.bits → lane w.bits r i = if i = l.toNat then x.toNat % 2 ^ w.bits else lane w.bits z i) →
        exec (.vins d a l w) s = .next (s2.wroteV d r 0 4)) ∧
  illegalWhere 0x34 fun w => 6 ≤ field w 27 5 ∨ (field w 27 5 = 0 ∧ field w 25 2 ≠ 0) ∨
    ((field w 27 5 ≤ 1 ∨ field w 27 5 = 5) ∧ field w 19 6 ≠ 0) ∨
    (2 ≤ field w 27 5 ∧ field w 27 5 ≤ 4 ∧ 128 / (8 * 2 ^ field w 25 2) ≤ field w 19 6)

/-- R156, R167, R168, R173, R174: the floating-point arithmetic of lanes, with the rounding of `fmode` and the flags of all
lanes together; `fpAdd` and its kin are the operations on one lane. -/
def Obligations.VectorFloats : Prop :=
  (∀ (d a b : RegField) (t : FType), ∀ e ∈ ([
    (.vfadd d a b t, fun g rm x y => fpAdd g rm x y), (.vfsub d a b t, fun g rm x y => fpSub g rm x y),
    (.vfmul d a b t, fun g rm x y => fpMul g rm x y), (.vfmin d a b t, fun g _ x y => (fpMin g false x y, 0)),
    (.vfmax d a b t, fun g _ x y => (fpMin g true x y, 0))] :
      List (Instr × (Format → Nat → Nat → Nat → Nat × BitVec 5))),
    completesV2 e.1 d a b 6 (fun s x y r fl => ∀ w, w = (formatOf t).width →
      (∀ i, i < 128 / w →
        lane w r i = (e.2 (formatOf t) s.me.fmode.toNat (lane w x i) (lane w y i)).1 % 2 ^ w) ∧
      ∀ k, fl.getLsbD k = true ↔ ∃ i, i < 128 / w ∧
        (e.2 (formatOf t) s.me.fmode.toNat (lane w x i) (lane w y i)).2.getLsbD k = true)) ∧
  (∀ (d a : RegField) (t : FType),
    completesV1 (.vfabs d a t) d a 6 (fun _ x r fl => fl = 0 ∧ ∀ w, w = (formatOf t).width → ∀ i, i < 128 / w →
      lane w r i = lane w x i % 2 ^ (w - 1)) ∧
    completesV1 (.vfneg d a t) d a 6 (fun _ x r fl => fl = 0 ∧ ∀ w, w = (formatOf t).width → ∀ i, i < 128 / w →
      lane w r i % 2 ^ (w - 1) = lane w x i % 2 ^ (w - 1) ∧ lane w r i / 2 ^ (w - 1) = 1 - lane w x i / 2 ^ (w - 1)) ∧
    completesV1 (.vfround d a t) d a 6 (fun s x r fl =>
      (r, fl) = fpLanes1 t (fun g p => fpRound g s.me.fmode.toNat p) x) ∧
    completesVS1 (.vfrsum d a t) d a 7 (fun s x r fl => (r, fl) = fpSumLanes t s.me.fmode.toNat x) ∧
    completesVS1 (.vfrmin d a t) d a 7 (fun _ x r fl => fl = 0 ∧ r = fpExtreme t false x) ∧
    completesVS1 (.vfrmax d a t) d a 7 (fun _ x r fl => fl = 0 ∧ r = fpExtreme t true x)) ∧
  ∀ (d a b : RegField) (l : BitVec 3) (bc : Bool) (t : FType) (sub : Bool),
    completesV3 (if sub then .vfms d a b l bc t else .vfma d a b l bc t) d a b 6 (fun s z x y r fl =>
      ∀ w, w = (formatOf t).width → ∀ f : Nat → Nat × BitVec 5,
        (∀ i, f i = fpFma (formatOf t) s.me.fmode.toNat sub (lane w z i) (lane w x i)
          (lane w y (if bc then l.toNat else i))) →
        (∀ i, i < 128 / w → lane w r i = (f i).1 % 2 ^ w) ∧
        ∀ k, fl.getLsbD k = true ↔ ∃ i, i < 128 / w ∧ (f i).2.getLsbD k = true)

/-- R169 to R172: the conversions, by part of the narrow register. -/
def Obligations.VectorConversions : Prop :=
  (∀ (d a : RegField) (p : BitVec 3),
    completesNarrow (.vcvtF16F32 d a p) d a none p fp16 false ∧ completesNarrow (.vcvtF16F32Sat d a p) d a none p fp16 true ∧
    completesNarrow (.vcvtBf16F32 d a p) d a none p bf16 false ∧ completesNarrow (.vcvtBf16F32Sat d a p) d a none p bf16 true ∧
    completesWiden (.vcvtF32F16 d a p) d a none p fp16 ∧ completesWiden (.vcvtF32Bf16 d a p) d a none p bf16) ∧
  (∀ (d a b : RegField) (p : BitVec 3),
    completesNarrow (.vcvtE4m3F32 d a b p) d a (some b) p e4m3 false ∧
    completesNarrow (.vcvtE4m3F32Sat d a b p) d a (some b) p e4m3 true ∧
    completesNarrow (.vcvtE5m2F32 d a b p) d a (some b) p e5m2 false ∧
    completesNarrow (.vcvtE5m2F32Sat d a b p) d a (some b) p e5m2 true ∧
    completesNarrow (.vcvtE2m1F32 d a b p) d a (some b) p e2m1 false ∧
    completesNarrow (.vcvtE2m1F32Sat d a b p) d a (some b) p e2m1 true ∧
    completesWiden (.vcvtF32E4m3 d a b p) d a (some b) p e4m3 ∧ completesWiden (.vcvtF32E5m2 d a b p) d a (some b) p e5m2 ∧
    completesWiden (.vcvtF32E2m1 d a b p) d a (some b) p e2m1) ∧
  ∀ d a : RegField,
    completesV1 (.vcvtI32F32 d a) d a 6 (fun s x r fl => (∀ i, i < 4 → lane 32 r i =
        (fpToInt s.me.fmode.toNat (lane 32 x i)).1 % 2 ^ 32) ∧
      ∀ k, fl.getLsbD k = true ↔ ∃ i, i < 4 ∧ (fpToInt s.me.fmode.toNat (lane 32 x i)).2.getLsbD k = true) ∧
    completesV1 (.vcvtF32I32 d a) d a 6 (fun s x r fl => (∀ i, i < 4 → lane 32 r i =
        (intToFp s.me.fmode.toNat (lane 32 x i)).1 % 2 ^ 32) ∧
      ∀ k, fl.getLsbD k = true ↔ ∃ i, i < 4 ∧ (intToFp s.me.fmode.toNat (lane 32 x i)).2.getLsbD k = true)

/-- R176, R177: the special functions issue, and their threads leave the rotation.
R98, R176: in its tick the write of a division, and of a special function with its flags, is performed and the thread is ready
again. -/
def Obligations.SpecialFunctions : Prop :=
  (∀ d a b : RegField,
    startsSpecial (.vfrcp d a) d a 32 specRcp ∧ startsSpecial (.vfrsq d a) d a 32 specRsq ∧
    startsSpecial (.vfexp2 d a) d a 48 specExp2 ∧ startsSpecial (.vflog2 d a) d a 48 specLog2 ∧
    startsSpecial (.vfsqrt d a) d a 48 specSqrt ∧
    ∀ (s s1 : State) (x y r : VWord) (fl : BitVec 5), s.usable [vreg a, vreg b, vreg d] →
      s.readV2 a b = .go (x, y, s1) → s1.cur = s.cur → s1.takesV d →
      (∀ j, j < 4 → lane 32 r j = (specDiv s.me.fmode.toNat (lane 32 x j) (lane 32 y j)).1 % 2 ^ 32) →
      (∀ k, fl.getLsbD k = true ↔ ∃ j, j < 4 ∧
        (specDiv s.me.fmode.toNat (lane 32 x j) (lane 32 y j)).2.getLsbD k = true) →
      exec (.vfdiv d a b) s = .next ((s1.await s.cur .wsfu (.special d r fl (s1.now + 48))).later (s1.now + 48)
        (.specialFunctionWrite s.cur))) ∧
  ∀ (s : State) (u due : Nat) (d : RegField), s.plain u → due ≤ s.now →
    (∀ v, (s.thread u).wait = .division d v due →
      exec (.divisionWrite u) s = .next ((s.placeS u d v 0).modThread u Thread.completed)) ∧
    ∀ v fl, (s.thread u).wait = .special d v fl due →
      exec (.specialFunctionWrite u) s = .next (((s.placeV u d v 0).raise u fl).modThread u Thread.completed)

/-! ### Memory -/

/-- R116, R117, R118: the loads, in their three forms: each issues its request, with the address of its operands, and waits for
the reply or, relaxed, goes on. What the reply does stands in `RepliesPerformed`. -/
def Obligations.Loads : Prop :=
  (∀ (d base : RegField) (seg : SegField) (imm : BitVec 10),
    loads (.ldB d base seg imm) false true 1 d base none seg imm.toInt ∧
    loads (.ldBu d base seg imm) false false 1 d base none seg imm.toInt ∧
    loads (.ldH d base seg imm) false true 2 d base none seg imm.toInt ∧
    loads (.ldHu d base seg imm) false false 2 d base none seg imm.toInt ∧
    loads (.ldW d base seg imm) false true 4 d base none seg imm.toInt ∧
    loads (.ldWu d base seg imm) false false 4 d base none seg imm.toInt ∧
    loads (.ldD d base seg imm) false false 8 d base none seg imm.toInt ∧
    loads (.vld d base seg imm) true false 16 d base none seg imm.toInt) ∧
  (∀ (d base idx : RegField) (seg : SegField),
    loads (.ldBIndexed d base idx seg) false true 1 d base (some idx) seg 0 ∧
    loads (.ldBuIndexed d base idx seg) false false 1 d base (some idx) seg 0 ∧
    loads (.ldHIndexed d base idx seg) false true 2 d base (some idx) seg 0 ∧
    loads (.ldHuIndexed d base idx seg) false false 2 d base (some idx) seg 0 ∧
    loads (.ldWIndexed d base idx seg) false true 4 d base (some idx) seg 0 ∧
    loads (.ldWuIndexed d base idx seg) false false 4 d base (some idx) seg 0 ∧
    loads (.ldDIndexed d base idx seg) false false 8 d base (some idx) seg 0 ∧
    loads (.vldIndexed d base idx seg) true false 16 d base (some idx) seg 0) ∧
  ∀ (d a : CReg) (i : BitVec 5),
    loads (.cLdD d a i) false false 8 (creg d) (creg a) none 1 i.toNat ∧
    loads (.cVld d a i) true false 16 (creg d) (creg a) none 1 i.toNat

/-- R116, R117, R118: the stores, in their three forms: each issues its request, with the address of its operands and the data
read at issue. What they store, and what they leave alone, stands in `RepliesPerformed`. -/
def Obligations.Stores : Prop :=
  (∀ (d base : RegField) (seg : SegField) (imm : BitVec 10),
    stores (.stB d base seg imm) false 1 d base none seg imm.toInt ∧
    stores (.stH d base seg imm) false 2 d base none seg imm.toInt ∧
    stores (.stW d base seg imm) false 4 d base none seg imm.toInt ∧
    stores (.stD d base seg imm) false 8 d base none seg imm.toInt ∧
    stores (.vst d base seg imm) true 16 d base none seg imm.toInt) ∧
  (∀ (d base idx : RegField) (seg : SegField),
    stores (.stBIndexed d base idx seg) false 1 d base (some idx) seg 0 ∧
    stores (.stHIndexed d base idx seg) false 2 d base (some idx) seg 0 ∧
    stores (.stWIndexed d base idx seg) false 4 d base (some idx) seg 0 ∧
    stores (.stDIndexed d base idx seg) false 8 d base (some idx) seg 0 ∧
    stores (.vstIndexed d base idx seg) true 16 d base (some idx) seg 0) ∧
  ∀ (d a : CReg) (i : BitVec 5),
    stores (.cStD d a i) false 8 (creg d) (creg a) none 1 i.toNat ∧
    stores (.cVst d a i) true 16 (creg d) (creg a) none 1 i.toNat

/-- R134, R135: the atomics issue their requests. -/
def Obligations.Atomics : Prop :=
  ∀ (d base idx : RegField) (seg : SegField),
    (∀ e ∈ ([(.amoAddW d base idx seg, .add), (.amoAndW d base idx seg, .and), (.amoOrW d base idx seg, .or),
      (.amoXorW d base idx seg, .xor), (.amoMinW d base idx seg, .min), (.amoMaxW d base idx seg, .max),
      (.amoMinuW d base idx seg, .minu), (.amoMaxuW d base idx seg, .maxu), (.amoSwapW d base idx seg, .swap),
      (.amoCasW d base idx seg, .cas), (.amoFaddW d base idx seg, .fadd), (.amoIncW d base idx seg, .inc)] :
        List (Instr × AmoOp)), atomics e.1 e.2 4 d base idx seg) ∧
    ∀ e ∈ ([(.amoAddD d base idx seg, .add), (.amoAndD d base idx seg, .and), (.amoOrD d base idx seg, .or),
      (.amoXorD d base idx seg, .xor), (.amoMinD d base idx seg, .min), (.amoMaxD d base idx seg, .max),
      (.amoMinuD d base idx seg, .minu), (.amoMaxuD d base idx seg, .maxu), (.amoSwapD d base idx seg, .swap),
      (.amoCasD d base idx seg, .cas), (.amoIncD d base idx seg, .inc)] :
        List (Instr × AmoOp)), atomics e.1 e.2 8 d base idx seg

/-- R127 to R132: the block instructions send their requests.
R145: a fence completes once no relaxed access that it orders is outstanding, and waits until then. -/
def Obligations.BlocksAndFences : Prop :=
  (∀ (d base idx : RegField) (seg : SegField),
    blockSends (.bwait base seg) .bwait false base none none seg ∧
    blockSends (.bhold d base seg) .bhold true base none (some d) seg ∧
    blockSends (.barm base idx seg) .barm false base (some idx) none seg ∧
    blockSends (.bpoll d base seg) .bpoll false base none (some d) seg ∧
    blockSends (.bgen d base seg) .bgen false base none (some d) seg ∧
    blockSends (.bclr base seg) .bclr true base none none seg ∧
    blockSends (.bclrG base idx seg) .bclrG true base (some idx) none seg ∧
    blockSends (.bfin base seg) .bfin true base none none seg) ∧
  ∀ (sc : Scope) (s : State), ∀ e ∈ ([(.fenceAcq sc, true, false), (.fenceRel sc, false, true), (.fenceFull sc, true, true)] :
      List (Instr × Bool × Bool)),
    ((∀ p ∈ s.reqs, p.2.live = true → p.2.relaxed = true → p.2.thread = s.cur → (match p.2.kind with
        | .store => e.2.2
        | .amo _ => e.2.1 || e.2.2
        | _ => e.2.1) = false) → s.me.pendingFaults = [] → s.plain s.cur → exec e.1 s = .next s.done) ∧
    ∀ p ∈ s.reqs, p.2.live = true → p.2.relaxed = true → p.2.thread = s.cur →
      (match p.2.kind with
        | .store => e.2.2
        | .amo _ => e.2.1 || e.2.2
        | _ => e.2.1) = true →
      ∃ t, exec e.1 s = .next t ∧ s.sameRest t ∧ t.cores = s.cores ∧ s.sameOthers t s.cur ∧
        t.me = { s.me with state := .wmem, wait := .fence e.2.1 e.2.2, lineAt := none, iss := t.me.iss }

/-! ### System units and exceptions -/

/-- R34, R375: a synchronous fault vectors to `tvec`, with the cause, the address and the offset of the unit in the trap CSRs
and `intrap` set; with `tvec` 0, or in a handler, it ends the thread and writes its launch's error record.
R375: the codes of the causes. -/
def Obligations.SynchronousFaults : Prop :=
  (∀ (s : State) (u : Nat) (c : Cause) (addr : Word),
    (s.hasHandler u → s.vectored (s.trap u c addr) u c.code addr (s.thread u).pc) ∧
    (s.noHandler u → s.endedBy (s.trap u c addr) u c addr (s.thread u).pc (s.thread u).pc)) ∧
  [Cause.illegal, .priv, .align, .seg, .page, .once2, .clear, .poison, .rep, .port, .async, .deadkey, .twin, .verify, .regpoison,
    .brk, .syscall, .ring].map Cause.code = (List.range 18).map (· + 1) ∧
  ∀ (raw : Word) (s : State), (s.hasHandler s.cur → ∃ t, exec (.illegalUnit raw) s = .next t ∧
    s.vectored t s.cur 0x01 raw s.me.pc) ∧
    (s.noHandler s.cur → ∃ t, exec (.illegalUnit raw) s = .next t ∧ s.endedBy t s.cur .illegal raw s.me.pc s.me.pc)

/-- R239: `trap` and `brk` complete and raise their faults at the unit after them. -/
def Obligations.SoftwareTraps : Prop :=
  ∀ s : State, s.usable [] →
    (∀ k : BitVec 12, (s.hasHandler s.cur → ∃ t, exec (.trap k) s = .next t ∧
        s.vectored t s.cur 0x11 (ofNat64 k.toNat) s.me.iss.npc) ∧
      (s.noHandler s.cur → ∃ t, exec (.trap k) s = .next t ∧
        s.endedBy t s.cur .syscall (ofNat64 k.toNat) s.me.pc s.me.iss.npc)) ∧
    (s.hasHandler s.cur → ∃ t, exec .brk s = .next t ∧ s.vectored t s.cur 0x10 0 s.me.iss.npc) ∧
    (s.noHandler s.cur → ∃ t, exec .brk s = .next t ∧ s.endedBy t s.cur .brk 0 s.me.pc s.me.iss.npc)

/-- R240: `eret` outside a handler traps ILLEGAL; in one it leaves it and continues at `tepc`, and `tcause`, `taddr`, `tepc`
and `repc` stay. -/
def Obligations.ExceptionReturn : Prop :=
  ∀ s : State, s.usable [] →
    (s.me.intrap = true → s.plain s.cur → ∃ t, exec .eret s = .next t ∧ s.sameRest t ∧ t.cores = s.cores ∧
      s.sameOthers t s.cur ∧
      t.me = { s.me with
        intrap := false, pc := s.me.tepc, state := .ready, wait := .none, lineAt := none, iss := t.me.iss }) ∧
    (s.hasHandler s.cur → ∃ t, exec .eret s = .next t ∧ s.vectored t s.cur 0x01 s.me.iss.raw s.me.pc)

/-- R31, R238: the CSR units, where the level of the thread grants the access; `tstat.split` is cleared by a 1 that `csrw` or
`csrs` writes, and `csrc` leaves it.
R31, R33, R35, R39: a CSR that is written reads back the bits that can be written, and every other CSR of the thread
reads as before. -/
def Obligations.ControlRegisters : Prop :=
  (∀ (x : RegField) (csr : BitVec 12) (s : State), s.usable [sreg x] →
    (∀ r, s.csrLevel s.cur csr = some r → r ≠ .none → s.plain s.cur → s.takes x (ofNat64 (s.csrValue s.cur csr.toNat)) →
      exec (.csrr x csr) s = .next (s.wrote x (ofNat64 (s.csrValue s.cur csr.toNat)) 2)) ∧
    (s.csrLevel s.cur csr = some .rw → ∀ (v : Word) (s1 : State), s.readS s.cur x = .go (v, s1) → s1.cur = s.cur →
      s1.plain s.cur →
      exec (.csrw x csr) s = .next (s1.writeCsr s.cur csr.toNat v.toNat true).done ∧
      (csr ≠ 0 →
        exec (.csrs x csr) s = .next (s1.writeCsr s.cur csr.toNat (s1.csrValue s.cur csr.toNat ||| v.toNat) true).done ∧
        exec (.csrc x csr) s =
          .next (s1.writeCsr s.cur csr.toNat (s1.csrValue s.cur csr.toNat &&& (~~~v).toNat) false).done) ∧
      (csr = 0 →
        exec (.csrs x csr) s = .next (s1.modThread s.cur fun t =>
          { t with cseg := t.cseg ||| BitVec.ofNat 3 (field v.toNat 16 3), split := t.split && !v.getLsbD 14 }).done ∧
        exec (.csrc x csr) s = .next (s1.modThread s.cur fun t =>
          { t with cseg := t.cseg &&& ~~~BitVec.ofNat 3 (field v.toNat 16 3) }).done))) ∧
  ∀ (s : State) (u n v : Nat), v < 2 ^ 64 → n ≠ 0 →
    (csrRights n = some (.rw, .rw) ∨ csrRights n = some (.r, .rw)) →
    (s.writeCsr u n v true).csrValue u n = v &&& csrMask n ∧
    (∀ m, m ≠ n → (s.writeCsr u n v true).csrValue u m = s.csrValue u m) ∧
    s.sameBytes (s.writeCsr u n v true) ∧ s.sameOthers (s.writeCsr u n v true) u ∧
    (∀ k, k ≠ coreOf u → (s.writeCsr u n v true).core k = s.core k)

/-- R31, R85: the accesses to CSRs that trap, and the privileged units in a thread that is not privileged. -/
def Obligations.PrivilegeTraps : Prop :=
  ∀ s : State, s.hasHandler s.cur →
    (∀ (x : RegField) (csr : BitVec 12), s.csrLevel s.cur csr = none →
      ∀ i ∈ [Instr.csrr x csr, .csrw x csr, .csrs x csr, .csrc x csr],
        ∃ t, exec i s = .next t ∧ s.vectored t s.cur 0x01 s.me.iss.raw s.me.pc) ∧
    (∀ (x : RegField) (csr : BitVec 12), s.csrLevel s.cur csr = some .none →
      ∀ i ∈ [Instr.csrr x csr, .csrw x csr, .csrs x csr, .csrc x csr],
        ∃ t, exec i s = .next t ∧ s.vectored t s.cur 0x02 s.me.iss.raw s.me.pc) ∧
    (∀ (x : RegField) (csr : BitVec 12), s.csrLevel s.cur csr = some .r →
      ∀ i ∈ [Instr.csrw x csr, .csrs x csr, .csrc x csr], ∃ t, exec i s = .next t ∧
        s.vectored t s.cur (if csrRights csr.toNat = some (.r, .rw) then 0x02 else 0x01) s.me.iss.raw s.me.pc) ∧
    (s.me.priv = false → ∀ (a b : RegField) (seg : SegField), ∀ i ∈ [Instr.tlbinv a b, .scrub a b seg],
      ∃ t, exec i s = .next t ∧ s.vectored t s.cur 0x02 s.me.iss.raw s.me.pc)

/-- R241: `segw` narrows a segment: rights can only be lost. -/
def Obligations.SegmentsNarrow : Prop :=
  ∀ (a b c : RegField) (seg : SegField) (s s1 s2 : State) (off len r : Word) (g : Seg), s.usable [sreg a, sreg b, sreg c] →
    s.read2 a b = .go (off, len, s1) → s1.readS s.cur c = .go (r, s2) → s1.cur = s.cur → s2.cur = s.cur → s2.plain s.cur →
    g = s.me.seg.get {} seg.toNat → r.toNat < 8 → seg ≠ s.me.cseg → off.toNat + len.toNat ≤ g.length.toNat →
    exec (.segw a b c seg) s = .next (s2.modThread s.cur fun t => { t with seg := t.seg.put seg.toNat {
      base := BitVec.ofNat 57 (g.base.toNat + off.toNat), length := BitVec.ofNat 57 len.toNat, space := g.space,
      x := g.x && r.getLsbD 2, w := g.w && r.getLsbD 1, rd := g.rd && r.getLsbD 0 } }).done

/-- R242, R243: the privileged units: `tlbinv` removes the translations that its mode names from every TLB, and its thread waits
for 24 ticks (the model's figure, assumption 100); `scrub` waits, and treats the doublewords of its range one after another: a
corrected error ends, an uncorrectable one stays. -/
def Obligations.PrivilegedUnits : Prop :=
  (∀ (a b : RegField) (s s1 : State) (dva mode : Word), s.usable [sreg a, sreg b] → s.me.priv = true →
    s.read2 a b = .go (dva, mode, s1) → s1.cur = s.cur → mode.toNat < 3 → s.relaxedEarlier s.cur s.nextReq = [] →
    ∃ t, exec (.tlbinv a b) s = .next t ∧
      t.me = { s1.me with state := .wmem, wait := .timed (s.now + 24), lineAt := none, iss := t.me.iss } ∧
      s1.sameOthers t s.cur ∧ t.mem = s1.mem ∧ t.cores = s1.cores ∧
      ∀ e : TlbEntry, ∀ gone : Bool,
        gone = (if mode = 0 then e.covers (s.asidOf s.me.launch) (dva.toNat % 2 ^ 57)
          else if mode = 1 then e.asid == s.asidOf s.me.launch else true) →
        (∀ p ∈ t.l1, e ∈ p.2 → gone = false) ∧ (∀ p ∈ t.lltlb, e ∈ p.2 → gone = false) ∧
        (gone = false → (∀ p ∈ s1.l1, e ∈ p.2 → ∃ q ∈ t.l1, q.1 = p.1 ∧ e ∈ q.2) ∧
          ∀ p ∈ s1.lltlb, e ∈ p.2 → ∃ q ∈ t.lltlb, q.1 = p.1 ∧ e ∈ q.2)) ∧
  (∀ (a b : RegField) (seg : SegField) (s s1 : State) (off len : Word) (addr : Nat), s.usable [sreg a, sreg b] →
    s.me.priv = true → s.read2 a b = .go (off, len, s1) → s1.cur = s.cur → 1 ≤ len.toNat → len.toNat ≤ 0x200000 →
    len.toNat % 256 = 0 → off.toNat % 256 = 0 → (s.me.seg.get {} seg.toNat).rd = true →
    (s.me.seg.get {} seg.toNat).w = true → addr = (s.me.seg.get {} seg.toNat).base.toNat + off.toNat →
    (s.me.seg.get {} seg.toNat).space = .tcm → off.toNat + len.toNat ≤ (s.me.seg.get {} seg.toNat).length.toNat →
    addr + len.toNat ≤ 2 ^ 16 →
    exec (.scrub a b seg) s = .next (s1.await s.cur .wmem
      (.scrub true (s.me.seg.get {} seg.toNat).base.toNat addr (len.toNat / 8) (s.now + 5)))) ∧
  ∀ (s : State) (u base a n since : Nat), s.plain u → (s.thread u).wait = .scrub true base a n since →
    (s.settleScrub u).tcm = s.tcm ∧ s.sameOthers (s.settleScrub u) u ∧
    (s.now < since → s.settleScrub u = s) ∧
    (since ≤ s.now →
      (∀ g, g ∈ ((s.settleScrub u).core (coreOf u)).tcmSoft ↔ g ∈ (s.core (coreOf u)).tcmSoft ∧ g ≠ a / 8) ∧
      ((s.settleScrub u).core (coreOf u)).tcmErrors = (s.core (coreOf u)).tcmErrors ∧
      (s.settleScrub u).thread u =
        if n ≤ 1 then (s.thread u).completed else { s.thread u with wait := .scrub true base (a + 8) (n - 1) since })

/-! ### Threads, messages, barriers -/

/-- R10, R30, R223: `spawn` starts a thread in the lowest free slot given to the crew, with the parent's segments but `m0`,
its handler, rounding and coordinates, and its argument in `s1`; without a slot its destination receives all ones.
R224, R226, R229: `exit` frees the slot; `yield` completes and takes its thread out for a turn; `split` ends the gang of
every member. -/
def Obligations.ThreadsStartAndEnd : Prop :=
  (∀ (d a b : RegField) (s s1 : State) (target arg : Word), s.usable [sreg a, sreg b, sreg d] →
    s.read2 a b = .go (target, arg, s1) → s1.cur = s.cur → s1.plain s.cur → target.toNat < 2 ^ 57 →
    (s.freeSlotOf (coreOf s.cur) s.me.crewId = none → s1.takes d (BitVec.allOnes 64) →
      exec (.spawn d a b) s = .next (s1.wrote d (BitVec.allOnes 64) 2)) ∧
    ∀ k, s.freeSlotOf (coreOf s.cur) s.me.crewId = some k → s1.takes d (ofNat64 k) →
      s.relaxedEarlier s.cur s.nextReq = [] → coreOf s.cur * 16 + k ≠ s.cur →
      ∃ t y, exec (.spawn d a b) s = .next t ∧ y = t.thread (coreOf s.cur * 16 + k) ∧ y.state = .ready ∧
        y.pc.toNat = target.toNat / 2 * 2 ∧ y.s.get 0 1 = arg ∧ (∀ n, n ≠ 1 → y.s.get 0 n = 0) ∧ y.v = [] ∧
        y.seg.get {} 0 = { base := 0, length := 65536, space := .tcm, x := false, w := true, rd := true } ∧
        (∀ n, n ≠ 0 → y.seg.get {} n = s.me.seg.get {} n) ∧ y.tvec = s.me.tvec ∧ y.fmode = s.me.fmode ∧ y.priv = s.me.priv ∧
        y.cseg = s.me.cseg ∧ y.crew = s.me.crew ∧ y.launch = s.me.launch ∧ y.crewId = s.me.crewId ∧
        y.tid.toNat = s.me.tid.toNat / 16 * 16 + k % 16 ∧ y.intrap = false ∧ y.gang = 0 ∧
        t.me = ((s1.placeS s.cur d (ofNat64 k) 2).thread s.cur).completed ∧ t.mem = s1.mem) ∧
  ∀ s : State, s.usable [] → s.plain s.cur →
    (s.me.rlxn = 0 → s.me.pendingFaults = [] → ∃ t, exec .exit s = .next t ∧ (t.thread s.cur).state = .free ∧
      (t.thread s.cur).s = [] ∧ (t.thread s.cur).seg = [] ∧ s.sameBytes t ∧ s.sameOthers t s.cur ∧
      ∀ i, ((t.core (coreOf s.cur)).entries.get {} i).state ≠ .claimed (slotOf s.cur)) ∧
    (∃ t, exec .yield s = .next t ∧ s.sameRest t ∧ t.cores = s.cores ∧ s.sameOthers t s.cur ∧
      t.me = { s.me.completed with state := .yielded }) ∧
    ∃ t, exec .split s = .next t ∧ s.sameRest t ∧ t.cores = s.cores ∧
      (s.me.gangSize = 1 → s.sameOthers t s.cur ∧ t.me = s.me.completed) ∧
      (s.me.gangSize ≠ 1 → ∀ m, t.thread m =
        (fun x : Thread => if m ∈ members s.cur s.me.gangSize then { x with gang := 0, leader := false } else x)
          (if m = s.cur then s.me.completed else s.thread m))

/-- R227: `park` with a token goes on at once with 1; without one it waits, until its timeout if it has one; `wake` completes at
once and its wake leaves, after the waker's relaxed accesses, to set the token of the launch's thread, which a parked thread
consumes; a timeout delivers 0. -/
def Obligations.ParkAndWake : Prop :=
  (∀ (d a : RegField) (s s1 : State) (x : Word), s.usable [sreg a, sreg d] → s.readS s.cur a = .go (x, s1) →
    s1.cur = s.cur → s1.plain s.cur → x.toNat < 2 ^ 32 → s1.takes d 1 →
    (s.me.token = true →
      exec (.park d a) s = .next ((s1.modThread s.cur fun y => { y with token := false }).wrote d 1 2)) ∧
    (s.me.token = false → x = 0 → exec (.park d a) s = .next (s1.await s.cur .wsync (.park d none))) ∧
    (s.me.token = false → x ≠ 0 → exec (.park d a) s =
      .next ((s1.await s.cur .wsync (.park d (some (s.now + x.toNat)))).later (s.now + x.toNat) (.parkTimeout s.cur)))) ∧
  (∀ (a : RegField) (s s1 : State) (x : Word), s.usable [sreg a] → s.readS s.cur a = .go (x, s1) → s1.cur = s.cur →
    s1.plain s.cur → x.toNat < 2 ^ 29 → field x.toNat 0 12 = 0 → ∀ i,
    i = Instr.wakeArrival (field x.toNat 16 13 * 16 + field x.toNat 12 4) s.me.launch →
    (s.relaxedEarlier s.cur s.nextReq = [] → exec (.wake a) s = .next (s1.later (s.now + 1) i).done) ∧
    (s.relaxedEarlier s.cur s.nextReq ≠ [] → exec (.wake a) s =
      .next { s1 with heldSteps := s1.heldSteps ++ [(s.relaxedEarlier s.cur s.nextReq, i)] }.done)) ∧
  (∀ (u : Nat) (s : State) (d : RegField) (due : Option Nat), s.plain u → (s.thread u).live = true →
    (s.thread u).wait = .park d due → d.toNat < 32 →
    exec (.wakeArrival u (s.thread u).launch) s =
      .next ((((s.modThread u fun y => { y with token := true }).modThread u fun y => { y with token := false }).placeS u d 1
        0).modThread u Thread.completed)) ∧
  (∀ (u : Nat) (s : State), (s.thread u).live = true → (∀ d due, (s.thread u).wait ≠ .park d due) →
    exec (.wakeArrival u (s.thread u).launch) s = .next (s.modThread u fun y => { y with token := true })) ∧
  ∀ (u due : Nat) (s : State) (d : RegField), s.plain u → (s.thread u).wait = .park d (some due) → due ≤ s.now →
    d.toNat < 32 → (s.thread u).token = false → (∀ i ∈ s.events, wakes u i = false) →
    exec (.parkTimeout u) s = .next ((s.placeS u d 0 0).modThread u Thread.completed)

/-- R36, R228: the last member of a rendezvous completes it: every member is READY behind the leader's unit, and the lowest
core leads. `twin.on` makes a pair of the two (R244). -/
def Obligations.GangsForm : Prop :=
  ∀ (d a : RegField) (s s1 : State) (x : Word), s1.cur = s.cur → s1.plain s.cur → s.me.gangSize = 1 →
    (s.usable [sreg a, sreg d] → s.readS s.cur a = .go (x, s1) → x = 2 ∨ x = 4 → s1.takes d 0 →
      s.groupFits s.cur x.toNat = true → s.groupPresent s.cur x.toNat = true → s.me.twin = false →
      s1.groupPresent s.cur x.toNat = true →
      (∀ m ∈ members s.cur x.toNat, m ≠ s.cur → (∃ e, (s.thread m).wait = .fuse e x.toNat) ∧
        ∃ e, (s1.thread m).wait = .fuse e x.toNat) →
      ∃ t, exec (.fuse d a) s = .next t ∧ ∀ m ∈ members s.cur x.toNat, (t.thread m).state = .ready ∧
        (t.thread m).gang = (if x = 2 then 1 else 2) ∧ (t.thread m).leader = (m == (members s.cur x.toNat).headD 0) ∧
        (t.thread m).pc = (s1.thread ((members s.cur x.toNat).headD 0)).pc + 4) ∧
    (s1 = s → s.usable [sreg d] → s.takes d 0 → s.groupFits s.cur 2 = true → s.groupPresent s.cur 2 = true →
      (∀ m ∈ members s.cur 2, m ≠ s.cur → ∃ e, (s.thread m).wait = .twinOn e) →
      ∃ t, exec (.twinOn d) s = .next t ∧ ∀ m ∈ members s.cur 2, (t.thread m).state = .ready ∧ (t.thread m).twin = true ∧
        (t.thread m).gang = 1 ∧ (t.thread m).seg = (s.thread ((members s.cur 2).headD 0)).seg ∧
        (t.thread m).pc = (s.thread ((members s.cur 2).headD 0)).pc + 4)

/-- R53, R58, R231, R233: `send` hands its message to a network that has room, with the doublewords of its payload, and goes on;
`mig` hands its thread to it, the offset behind it and `s1` to `s8`, and ends. -/
def Obligations.MessagesSent : Prop :=
  (∀ (a b : RegField) (s s1 s2 : State) (w off : Word) (p : List Word) (g : Seg) (n addr : Nat), s.usable [sreg a, sreg b] →
    s.readS s.cur a = .go (w, s1) → s1.cur = s.cur → s2.cur = s.cur → s2.plain s.cur →
    field w.toNat 29 3 = 0 → field w.toNat 12 4 = 0 → field w.toNat 6 2 = 0 → n = field w.toNat 8 4 →
    g = s.me.seg.get {} 0 → addr = g.base.toNat + off.toNat →
    (n = 0 → s2 = s1 ∧ p = []) →
    (n ≠ 0 → s1.readS s.cur b = .go (off, s2) ∧ g.space = .tcm ∧ g.rd = true ∧ off.toNat + 8 * n ≤ g.length.toNat ∧
      addr + 8 * n ≤ 2 ^ 16 ∧ off.toNat % 8 = 0 ∧ (∀ i, i < n → addr / 8 + i ∉ (s.core (coreOf s.cur)).tcmErrors) ∧
      p = (List.range n).map fun i => ofNat64 (s.tcmRead (coreOf s.cur) (addr + 8 * i) 8)) →
    (s.me.proofHold = true → s.leavesCrew s.cur w = false) → s.unsent (coreOf s.cur) < s.netRoom →
    ∃ t, exec (.send a b) s = .next t ∧ t.me = s2.me.completed ∧ s2.sameOthers t s.cur ∧ t.tcm = s2.tcm ∧ t.deck = s2.deck ∧
      (s2.routeOf s.cur w = none → t.flight = s2.flight ∧ t.mem = s2.mem) ∧
      (∀ dev core, s2.routeOf s.cur w = some (dev, core) →
        t.flight = s2.flight ++ [s2.messageOf 0 w p dev core] ∧
        (dev = s2.dev.toNat ∨ s2.reaches dev = true → t.mem = s2.mem)) ∧
      (s2.replaying s.cur = false → s2.routeOf s.cur w = some (field w.toNat 32 8, field w.toNat 16 13))) ∧
  ∀ (a : RegField) (s s1 : State) (w : Word), s.usable [sreg a] → s.readS s.cur a = .go (w, s1) → s1.cur = s.cur →
    s1.plain s.cur → s.me.twin = false → s.me.gangSize = 1 → field w.toNat 29 3 = 0 → field w.toNat 12 4 = 0 →
    field w.toNat 6 2 = 0 → field w.toNat 8 4 = 0 → s.me.rlxn = 0 → s.me.pendingFaults = [] →
    (∀ e ∈ s.me.errors, ¬ (1 ≤ e ∧ e ≤ 8)) → (s.me.proofHold = true → s.leavesCrew s.cur w = false) →
    s.unsent (coreOf s.cur) < s.netRoom →
    ∃ t, exec (.mig a) s = .next t ∧ (t.thread s.cur).state = .free ∧ s1.sameOthers t s.cur ∧ t.tcm = s1.tcm ∧
      t.deck = s1.deck ∧ (s1.routeOf s.cur w = none → t.flight = s1.flight) ∧
      ∀ dev core, s1.routeOf s.cur w = some (dev, core) → t.flight = s1.flight ++ [s1.messageOf 1 w
        (s.me.iss.npc.setWidth 64 :: (List.range 8).map fun i => s.me.s.get 0 (i + 1)) dev core]

/-- R24, R55, R232: `recv` and `recvp` claim the oldest claimable entry whose class the mask names, and deliver its address;
without one `recvp` delivers 0 and `recv` waits. -/
def Obligations.MessagesClaimed : Prop :=
  ∀ (d a : RegField) (s s1 : State) (mask : Word), s.usable [sreg a, sreg d] → s.readS s.cur a = .go (mask, s1) →
    s1.cur = s.cur → s1.plain s.cur → mask ≠ 0 → ∀ f ∈ [Instr.recv d a, .recvp d a],
    (∀ (i : Nat) (e : RingEntry) (s2 : State) (c : Nat), c = coreOf s.cur → (s1.core c).entries.rising = true →
      (s1.core c).entries.find i = some e → s1.claimable c e = true → bitAt mask.toNat (field e.hdr.toNat 0 6) = true →
      (∀ j g, j ≠ i → (s1.core c).entries.find j = some g → s1.claimable c g = true →
        bitAt mask.toNat (field g.hdr.toNat 0 6) = true → e.order < g.order) →
      s1.replaying s.cur = false → s1.recording s.cur = false →
      s2 = s1.modCore c (fun x => { x with entries := x.entries.put i { e with state := .claimed (slotOf s.cur) } }) →
      s2.takes d (ofNat64 (0xF000 + 128 * i)) → exec f s = .next (s2.wrote d (ofNat64 (0xF000 + 128 * i)) 2)) ∧
    (∀ i s2, s1.claim s.cur mask.toNat = some (i, s2) → s2.cur = s.cur → s2.plain s.cur →
      s2.takes d (ofNat64 (0xF000 + 128 * i)) → exec f s = .next (s2.wrote d (ofNat64 (0xF000 + 128 * i)) 2)) ∧
    (s1.claim s.cur mask.toNat = none →
      (f = .recv d a → exec f s = .next (s1.await s.cur .wsync (.recv d mask))) ∧
      (f = .recvp d a → s1.takes d 0 → exec f s = .next (s1.wrote d 0 2)))

/-- R52, R234, R235: the named barriers: an initialisation, an arrival, the arrival that completes a phase, a wait.
R236, R245: `wfe` consumes a pending event or waits, `sev` completes at once and sends one, after its thread's relaxed accesses,
to the slots of its mask, an event that arrives is consumed or kept; `twin.off` ends the twin mode of both members. -/
def Obligations.BarriersEventsTwins : Prop :=
  (∀ (n : BitVec 8) (s : State) (b : NamedBarrier), b = s.namedBar (coreOf s.cur) n.toNat → s.plain s.cur →
    (∀ (a : RegField) (s1 : State) (x : Word), s.usable [sreg a] → s.readS s.cur a = .go (x, s1) → s1.cur = s.cur →
      s1.plain s.cur → 1 ≤ x.toNat → x.toNat ≤ 16 → b.arr = 0 →
      exec (.barInit a n) s = .next (s1.putBar (coreOf s.cur) n.toNat { phase := b.phase, arr := 0, exp := x.toNat }).done) ∧
    (b.exp ≠ 0 → s.relaxedEarlier s.cur s.nextReq = [] → ∀ c : NamedBarrier,
      c = (if b.arr + 1 = b.exp then { phase := !b.phase, arr := 0, exp := b.exp }
        else { phase := b.phase, arr := b.arr + 1, exp := b.exp }) →
      (∀ d : RegField, s.usable [sreg d] → s.takes d 0 → d.toNat ≠ 61 →
        exec (.barArrive d n) s = .next ((s.putBar (coreOf s.cur) n.toNat c).wrote d (if b.phase then 1 else 0) 2)) ∧
      (s.usable [] → exec (.barSync n) s = .next (
        if b.arr + 1 = b.exp then (s.putBar (coreOf s.cur) n.toNat c).done
        else (s.putBar (coreOf s.cur) n.toNat c).await s.cur .wsync (.barrier n.toNat b.phase)))) ∧
    ∀ (a : RegField) (s1 : State) (x : Word), s.usable [sreg a] → s.readS s.cur a = .go (x, s1) → s1.cur = s.cur →
      s1.plain s.cur → b.exp ≠ 0 →
      (b.phase ≠ x.getLsbD 0 → exec (.barWait a n) s = .next s1.done) ∧
      (b.phase = x.getLsbD 0 → exec (.barWait a n) s = .next (s1.await s.cur .wsync (.barrier n.toNat b.phase)))) ∧
  (∀ s : State, s.usable [] → s.plain s.cur →
    (s.me.evt = true → exec .wfe s = .next (s.modThread s.cur fun x => { x with evt := false }).done) ∧
    (s.me.evt = false → exec .wfe s = .next (s.await s.cur .wsync .wfe)) ∧
    exec .twinOff s = .next s.done) ∧
  (∀ (a : RegField) (s s1 : State) (x : Word), s.usable [sreg a] → s.readS s.cur a = .go (x, s1) → s1.cur = s.cur →
    s1.plain s.cur → x.toNat < 2 ^ 29 → ∀ rs, rs = s.relaxedEarlier s.cur s.nextReq →
    ∃ t, exec (.sev a) s = .next t ∧ t.me = s1.me.completed ∧ t.cores = s1.cores ∧ s1.sameOthers t s.cur ∧
      (rs = [] → t.heldSteps = s1.heldSteps ∧
        t.timers = s1.timers ++ ((List.range 16).filter fun i => x.getLsbD i).map fun i =>
          (s.now + 1, Instr.eventArrival (field x.toNat 16 13 * 16 + i) s.me.launch)) ∧
      (rs ≠ [] → t.timers = s1.timers ∧
        t.heldSteps = s1.heldSteps ++ ((List.range 16).filter fun i => x.getLsbD i).map fun i =>
          (rs, Instr.eventArrival (field x.toNat 16 13 * 16 + i) s.me.launch))) ∧
  (∀ (u : Nat) (s : State), (s.thread u).live = true →
    ((s.thread u).wait = .wfe → (s.thread u).state = .wsync → (s.thread u).twin = false →
      exec (.eventArrival u (s.thread u).launch) s = .next (s.modThread u Thread.completed)) ∧
    ((s.thread u).wait ≠ .wfe →
      exec (.eventArrival u (s.thread u).launch) s = .next (s.modThread u fun x => { x with evt := true }))) ∧
  ∀ s : State, s.usable [] → s.me.twin = true → s.me.iss.alone = true → partner s.cur ≠ s.cur →
    ∃ t, exec .twinOff s = .next t ∧ t.me.twin = false ∧ (t.thread (partner s.cur)).twin = false ∧
      t.me.gang = 0 ∧ (t.thread (partner s.cur)).gang = 0 ∧ (t.thread (partner s.cur)).s = t.me.s ∧
      (t.thread (partner s.cur)).v = t.me.v ∧ (t.thread (partner s.cur)).pc = t.me.pc

/-! ### Engines, streams, windows, sequencers, transaction barriers -/

/-- R181, R183 to R188: the units that set up the matrix engine: its configuration, its rings, a tile pushed, a tile popped,
the scale buffer, whose unit then waits for the banks of the bytes that it read.
R181, R189, R194, R314: the matrix operations issue, each behind those that came before it, also where the two entries of the queue
are held, and the threads wait for them. -/
def Obligations.MatrixUnits : Prop :=
  ((∀ (a : RegField) (s s1 : State) (x : Word), s.usable [sreg a] → s.readS s.cur a = .go (x, s1) → s1.cur = s.cur →
    s1.plain s.cur → x.toNat < 2 ^ 9 → (cfgRow x.toNat).isSome = true →
    exec (.mxCfg a) s = .next (s1.modCore (coreOf s.cur) fun c => { c with mxCfg := BitVec.ofNat 9 x.toNat }).done) ∧
  (∀ (a : RegField) (n : BitVec 2) (s s1 : State) (x : Word) (addr : Nat) (r : Ring), s.usable [sreg a] →
    s.readS s.cur a = .go (x, s1) → s1.cur = s.cur → s1.plain s.cur →
    r = { swzen := bitAt x.toNat 48, swz := BitVec.ofNat 3 (field x.toNat 45 3), tsz := field x.toNat 28 4,
          nslot := field x.toNat 24 4, base := addr } →
    field x.toNat 49 15 = 0 → field x.toNat 32 13 = 0 → field x.toNat 21 3 = 0 → r.tsz ≤ 4 → r.nslot ≠ 0 →
    s.inDeck (ofNat64 (field x.toNat 0 21)) r.size 1 addr → addr % 256 = 0 →
    s.meetsWindow (clusterOf (coreOf s.cur)) addr r.size = false → s.ringBusy (coreOf s.cur) n.toNat = false →
    exec (.mxRing a n) s = .next (s1.modRing (coreOf s.cur) n.toNat fun _ => r).done) ∧
  (∀ (n : BitVec 2) (s : State) (r : Ring), s.usable [] → s.plain s.cur → r = s.ring (coreOf s.cur) n.toNat →
    (r.nslot ≠ 0 → r.cnt ≠ r.nslot + 1 → (r.slot r.tail).state = .free → s.relaxedEarlier s.cur s.nextReq = [] →
      ∃ t, exec (.mxPush n) s = .next t ∧ t.me = s.me.completed ∧ t.mem = s.mem ∧
        (t.ring (coreOf s.cur) n.toNat).cnt = r.cnt + 1 ∧
        ((t.ring (coreOf s.cur) n.toNat).slot r.tail).state = .ready) ∧
    (r.nslot ≠ 0 → r.cnt ≠ 0 →
      ∃ t, exec (.mxPop n) s = .next t ∧ t.me = s.me.completed ∧ t.mem = s.mem ∧
        (t.ring (coreOf s.cur) n.toNat).cnt = r.cnt - 1)) ∧
  ∀ (a b : RegField) (s s1 : State) (x y : Word) (pa pb : Nat), s.usable [sreg a, sreg b] → s.read2 a b = .go (x, y, s1) →
    s1.cur = s.cur → s1.plain s.cur → s.inDeck x 64 64 pa → s.inDeck y 256 64 pb → s.deckFree pa 64 → s.deckFree pb 256 →
    ∃ t m, exec (.mxScale a b) s = .next t ∧
      t = (s1.modCore (coreOf s.cur) fun c => { c with mxScale := m }).asksDeck .banks true (mxNumber (coreOf s.cur))
        (banksOf pa 64 ++ banksOf pb 256) ∧
      (∀ i, i < 64 → (t.core (coreOf s.cur)).mxScale.get 0 i = s.deckByte (clusterOf (coreOf s.cur)) (pa + i)) ∧
      ∀ i, i < 256 → (t.core (coreOf s.cur)).mxScale.get 0 (64 + i) = s.deckByte (clusterOf (coreOf s.cur)) (pb + i)) ∧
  (∀ (acc ra rb : BitVec 2) (int ka kb ret : Bool) (s : State), s.usable [] →
    exec (.mxZero acc int) s = .next (s.queued (.zero acc.toNat int) false {}) ∧
    exec (.mxMma acc ra rb ka kb ret) s = .next (s.queued (.mma acc.toNat ra.toNat rb.toNat ka kb) ret {}) ∧
    exec (.mxMma4 ra rb ka kb ret) s = .next (s.queued (.mma4 ra.toNat rb.toNat ka kb) ret {})) ∧
  ∀ (acc : BitVec 2) (a b : RegField) (int clr ret : Bool) (s s1 : State) (x y : Word), s.usable [sreg a, sreg b] →
    s.read2 a b = .go (x, y, s1) → s1.cur = s.cur → ∀ g,
    g = s.me.seg.get {} (field y.toNat 5 3) →
    exec (.mxDrain acc a b clr ret) s = .next (s1.queued (.drain acc.toNat x y clr) ret g) ∧
    (field y.toNat 32 32 = 0 → field y.toNat 8 8 = 0 → field y.toNat 0 5 = 0 → field y.toNat 16 16 % 4 = 0 →
      64 ≤ field y.toNat 16 16 → g.space = .tcm ∨ g.space = .deck → x.toNat % 4 = 0 →
      (∀ i, i < 16 → g.admits .rd (x.toNat + i * field y.toNat 16 16) 64 = true) →
      exec (.mxLoad acc a b int) s = .next (s1.queued (.load acc.toNat int x y) false g))

/-- R200: the swizzle of a byte offset: for span code `c`, with S = 16 * 2^c, it is x XOR (((x div S) mod (S / 16)) * 16); off,
it is x. Bit `i` changes only where 4 ≤ i ≤ c + 3, by a bit above the span, and applying it twice gives `x` back. -/
def Obligations.Swizzles : Prop :=
  ∀ x : Nat, swizzle none x = x ∧ ∀ c S : Nat, S = 16 * 2 ^ c →
    swizzle (some c) x = x ^^^ (x / S % (S / 16) * 16) ∧
    (∀ i, (swizzle (some c) x).testBit i =
      if 4 ≤ i ∧ i ≤ c + 3 then x.testBit i ^^ x.testBit (i + c) else x.testBit i) ∧
    swizzle (some c) (swizzle (some c) x) = x

/-- R195, R196, R201, R203, R205: the copies issue, at the deck or into a ring's next slot.
R204: `cp.pf` reads its record and changes no byte of TCM or deck, no register, no copy and no barrier: it may only bring sectors
into its cluster's cache; its walks bring home what windows hold dirty of the tables, and hosts (R294, R299), and otherwise change
no byte of memory. -/
def Obligations.Copies : Prop :=
  ((∀ (d a b : RegField) (sys ret : Bool) (s s1 s2 s3 : State) (w x : Word) (v : VWord) (bar addr doff : Nat),
    s.usable [sreg d, sreg a, vreg b] → s.readS s.cur d = .go (w, s1) → s1.readS s.cur a = .go (x, s2) →
    s2.readV s.cur b = .go (v, s3) → s1.cur = s.cur → s2.cur = s.cur → s3.cur = s.cur → s3.plain s.cur →
    s3.hasCopyRoom → (s3.barrier (clusterOf (coreOf s.cur)) bar).psect < 2 ^ 24 - 1 →
    field x.toNat 21 11 = 0 → field w.toNat 53 11 = 0 → field w.toNat 21 15 = 0 →
    s.inDeck (ofNat64 (field w.toNat 36 17 * 16)) 16 1 bar → s.inDeck (ofNat64 (field x.toNat 0 21)) 64 64 addr →
    (s.barrier (clusterOf (coreOf s.cur)) bar).init ≠ 0 →
    (s3.inDeck (ofNat64 (field w.toNat 0 21)) 1 1 doff → ∀ e ∈ [(Instr.cpIn d a b false ret, CopyKind.cpIn, false),
        (.cpOut d a b sys ret, .cpOut, sys)],
      ∃ t c, exec e.1 s = .next t ∧ s3.issued t c bar ret ∧ c.kind = e.2.1 ∧ c.sys = e.2.2 ∧ c.doff = doff ∧
        c.recOff = field x.toNat 0 21 ∧ c.ring = none ∧
        c.origin = (List.range 4).map (fun i => signed 32 (lane 32 v i)) ++ [signed 32 (field x.toNat 32 32)]) ∧
    (field w.toNat 2 19 = 0 → ∀ n r, n = field w.toNat 0 2 → r = s3.ring (coreOf s.cur) n → r.nslot ≠ 0 →
      ¬ (r.base + r.tail * r.tile ≤ bar ∧ bar + 16 ≤ r.base + r.tail * r.tile + r.tile) → r.cnt ≠ r.nslot + 1 →
      (r.slot r.tail).state = .free →
      ∃ t c, exec (.cpIn d a b true ret) s = .next t ∧ s3.issued t c bar ret ∧ c.kind = .cpIn ∧
        c.ring = some (n, r.tail) ∧ c.doff = r.base + r.tail * r.tile ∧ (t.ring (coreOf s.cur) n).cnt = r.cnt + 1 ∧
        ((t.ring (coreOf s.cur) n).slot r.tail).state = .linked)) ∧
  ∀ (d a b : RegField) (ret : Bool) (s s1 s2 s3 : State) (w x y : Word) (bar doff : Nat),
    s.usable [sreg d, sreg a, sreg b] → s.readS s.cur d = .go (w, s1) → s1.readS s.cur a = .go (x, s2) →
    s2.readS s.cur b = .go (y, s3) → s1.cur = s.cur → s2.cur = s.cur → s3.cur = s.cur → s3.plain s.cur →
    s.hasCopyRoom → s3.hasCopyRoom → (s3.barrier (clusterOf (coreOf s.cur)) bar).psect < 2 ^ 24 - 1 →
    field w.toNat 53 11 = 0 → field w.toNat 21 15 = 0 → s.inDeck (ofNat64 (field w.toNat 36 17 * 16)) 16 1 bar →
    (s.barrier (clusterOf (coreOf s.cur)) bar).init ≠ 0 →
    (∀ addr list, field x.toNat 21 11 = 0 → field x.toNat 53 11 = 0 → 1 ≤ y.toNat → y.toNat ≤ 65535 →
      s.inDeck (ofNat64 (field x.toNat 0 21)) 64 64 addr → s.inDeck (ofNat64 (field x.toNat 32 21)) (4 * y.toNat) 4 list →
      s3.inDeck (ofNat64 (field w.toNat 0 21)) 1 1 doff →
      ∃ t c, exec (.cpGather d a b false ret) s = .next t ∧ s3.issued t c bar ret ∧ c.kind = .cpGather ∧ c.doff = doff ∧
        c.recOff = field x.toNat 0 21 ∧ c.listOff = field x.toNat 32 21 ∧ c.rows = y.toNat) ∧
    ∀ src, y.toNat % 16 = 0 → 16 ≤ y.toNat → y.toNat ≤ 2 ^ 21 → s.inDeck x y.toNat 16 src →
      s.inDeck (ofNat64 (field w.toNat 0 21)) y.toNat 16 doff → src + y.toNat ≤ doff ∨ doff + y.toNat ≤ src →
      s.meetsWindow (clusterOf (coreOf s.cur)) doff y.toNat = false → ¬ (doff ≤ bar ∧ bar + 16 ≤ doff + y.toNat) →
      ∃ t c, exec (.cpDd d a b ret) s = .next t ∧ s3.issued t c bar ret ∧ c.kind = .cpDd ∧ c.doff = doff ∧ c.src = src ∧
        c.bytes = some y.toNat) ∧
  ∀ (a b : RegField) (s s1 s2 : State) (x : Word) (v : VWord) (addr : Nat), s.usable [sreg a, vreg b] →
    s.readS s.cur a = .go (x, s1) → s1.readV s.cur b = .go (v, s2) → s1.cur = s.cur → s2.cur = s.cur → s2.plain s.cur →
    field x.toNat 21 11 = 0 → s.inDeck (ofNat64 (field x.toNat 0 21)) 64 64 addr →
    ∃ t, exec (.cpPf a b) s = .next t ∧ t.copies = s2.copies ∧ s2.sameOthers t s.cur ∧ t.me = s2.me.completed ∧
      t.cores = s2.cores ∧ t.tcm = s2.tcm ∧ t.deck = s2.deck ∧
      ((∀ k m, s2.dirtyElsewhere k m none = false) → s2.hostSectors = [] → t.mem = s2.mem)

/-- R210 to R213: the streams: a register is bound to a record's nest, whose refills follow the thread's relaxed accesses,
released, moved on. `sm.bind` and `seq.cfg` wait for the banks of the record that they read.
R218 to R221: the loop sequencer: a nest is read, started with its permits, stopped; a permit is returned. -/
def Obligations.StreamsAndSequencers : Prop :=
  ((∀ (d : BitVec 5) (a : RegField) (s s1 : State) (x : Word) (addr : Nat) (g : Binding), s.usable [sreg a] →
    s.readS s.cur a = .go (x, s1) → s1.cur = s.cur → s1.plain s.cur → s.inDeck x 32 32 addr → s.deckFree addr 32 →
    s.bindGate d.toNat x (s.deckRead (clusterOf (coreOf s.cur)) addr 32) = .go g →
    ∃ rs, (∀ r, r ∈ rs ↔ ∃ q, (r, q) ∈ s.reqs ∧ q.live = true ∧ q.relaxed = true ∧ q.thread = s.cur) ∧
      exec (.smBind d a) s = .next (((s1.modThread s.cur fun y =>
        { y with bindings := (y.bindings.filter fun b => b.reg != d.toNat) ++ [{ g with after := rs }] }).emit
          (.streamRefill s.cur d.toNat)).asksDeck .banks false (requester s.cur) (banksOf addr 32))) ∧
  (∀ (d : BitVec 5) (s : State), s.usable [] → s.plain s.cur →
    exec (.smFree d) s =
      .next (s.modThread s.cur fun y => { y with bindings := y.bindings.filter fun b => b.reg != d.toNat }).done) ∧
  ∀ (d : BitVec 5) (a : RegField) (s s1 : State) (n : Word), s.usable [sreg a] → s.readS s.cur a = .go (n, s1) →
    s1.cur = s.cur → s1.plain s.cur →
    ((s1.me.bindings.find? fun b => b.reg == d.toNat) = none → exec (.smSkip d a) s = .next s1.done) ∧
    ∀ b, (s1.me.bindings.find? fun b => b.reg == d.toNat) = some b →
      (b.cnt.foldl (· * ·) 1 ≤ b.next + n.toNat → exec (.smSkip d a) s =
        .next (s1.modThread s.cur fun y => { y with bindings := y.bindings.filter fun b => b.reg != d.toNat }).done) ∧
      (b.next + n.toNat < b.cnt.foldl (· * ·) 1 → ∃ t, exec (.smSkip d a) s = .next t ∧
        t.me.pc = s1.me.completed.pc ∧ t.me.state = .ready ∧ t.me.v = s1.me.v ∧
        ∀ c, (t.me.bindings.find? fun b => b.reg == d.toNat) = some c → c.next = b.next + n.toNat)) ∧
  (∀ (a : RegField) (s s1 : State) (x : Word) (addr : Nat) (n : Nest), s.usable [sreg a] → s.readS s.cur a = .go (x, s1) →
    s1.cur = s.cur → s1.plain s.cur → s.inDeck x 64 64 addr → (s.core (coreOf s.cur)).seq.running = false →
    s.deckFree addr 64 → nestOf (s.deckRead (clusterOf (coreOf s.cur)) addr 64) = some n →
    exec (.seqCfg a) s =
      .next ((s1.modCore (coreOf s.cur) fun c => { c with seq := { c.seq with nest := some n } }).asksDeck .banks false
        (requester s.cur) (banksOf addr 64))) ∧
  (∀ (a : RegField) (s s1 : State) (x : Word), s.usable [sreg a] → s.readS s.cur a = .go (x, s1) → s1.cur = s.cur →
    s1.plain s.cur → (s.core (coreOf s.cur)).seq.running = false → (s.core (coreOf s.cur)).seq.nest ≠ none → 1 ≤ x.toNat →
    x.toNat ≤ 255 →
    exec (.seqStart a) s = .next ((s1.modCore (coreOf s.cur) fun c => { c with seq := { c.seq with
      permits := x.toNat, running := true, done := false, emitted := 0, out := [], queue := [] } }).emit
        (.sequencerEmit (coreOf s.cur))).done) ∧
  ∀ s : State, s.usable [] → s.plain s.cur →
    exec .seqStop s = .next (s.modCore (coreOf s.cur) fun c =>
      { c with seq := { c.seq with running := false, out := [], queue := [] } }).done ∧
    ∃ t, exec .seqRet s = .next t ∧ t.me = { s.me.completed with permit := none } ∧ s.sameBytes t ∧
      (∀ k, s.me.permit = some k → (t.core (coreOf s.cur)).seq.out = (s.core (coreOf s.cur)).seq.out.erase k) ∧
      (s.me.permit = none → t.cores = s.cores)

/-- R207, R208, R263: the transaction barriers: a unit issues and waits for the bank of its barrier; once the bank has served it,
an initialisation, an arrival and the phase that it completes, a wait, a test. A wait and a test of a poisoned phase trap ASYNC. -/
def Obligations.TransactionBarriers : Prop :=
  (∀ (k addr : Nat) (s : State), k = clusterOf (coreOf s.cur) →
    (∀ (a b : RegField) (s1 : State) (x y : Word), s.usable [sreg a, sreg b] → s.read2 a b = .go (x, y, s1) →
      s1.cur = s.cur → s.inDeck x 16 16 addr → s.deckFree addr 16 →
      (1 ≤ y.toNat → y.toNat < 2 ^ 12 →
        exec (.tbInit a b) s = .next (s1.asksBarrier addr (.tbInit addr y.toNat))) ∧
      ((s.barrier k addr).init ≠ 0 →
        exec (.tbWait a b) s = .next (s1.asksBarrier addr (.tbWait addr x (field y.toNat 0 4))) ∧
        ∀ d : RegField, s.usable [sreg a, sreg b, sreg d] → s1.takes d 0 →
          exec (.tbTest d a b) s = .next (s1.asksBarrier addr (.tbTest d addr x (field y.toNat 0 4))))) ∧
    ∀ (d a : RegField) (s1 : State) (x : Word) (c : Barrier), s.usable [sreg a, sreg d] → s.readS s.cur a = .go (x, s1) →
      s1.cur = s.cur → s.inDeck x 16 16 addr → s.deckFree addr 16 → c = s.barrier k addr → c.init ≠ 0 →
      s.relaxedEarlier s.cur s.nextReq = [] → s1.takes d (ofNat64 c.phase) →
      exec (.tbArrive d a) s = .next (s1.asksBarrier addr (.tbArrive d addr c.phase))) ∧
  ∀ (s : State) (u k addr : Nat) (c : Barrier), s.plain u → k = clusterOf (coreOf u) → c = s.barrier k addr →
    (∀ n, (s.thread u).wait = .tbInit addr n →
      (c.psect = 0 → s.serveUnit u =
        (s.setBarrier k addr { phase := 0, parr := n, init := n, psect := 0 }).modThread u Thread.completed) ∧
      (c.psect ≠ 0 → s.serveUnit u = s.await u .wsync (.tbInit addr n))) ∧
    (∀ d p, (s.thread u).wait = .tbArrive d addr p →
      (c.parr = 0 → s.serveUnit u = s.await u .wsync (.tbArrive d addr c.phase)) ∧
      (c.parr ≠ 0 → (∀ dir, (sreg d).port = some dir → s.roomS (coreOf u) dir = true) → s.serveUnit u =
        ((s.setBarrier k addr (if c.parr = 1 ∧ c.psect = 0 then { c with phase := (c.phase + 1) % 16, parr := c.init }
          else { c with parr := c.parr - 1 })).placeS u d (ofNat64 c.phase) 0).modThread u Thread.completed)) ∧
    (∀ off token, (s.thread u).wait = .tbWait addr off token →
      (c.phase = token → s.serveUnit u = s.await u .wsync (.tbWait addr off token)) ∧
      (c.phase ≠ token → c.poison = false → s.serveUnit u = s.modThread u Thread.completed) ∧
      (c.phase ≠ token → c.poison = true → s.hasHandler u → s.vectored (s.serveUnit u) u 0x0B off (s.thread u).pc)) ∧
    ∀ d off token, (s.thread u).wait = .tbTest d addr off token →
      ((∀ dir, (sreg d).port = some dir → s.roomS (coreOf u) dir = true) → c.phase = token ∨ c.poison = false →
        s.serveUnit u = (s.placeS u d (if c.phase = token then 0 else 1) 0).modThread u Thread.completed) ∧
      (c.phase ≠ token → c.poison = true → s.hasHandler u → s.vectored (s.serveUnit u) u 0x0B off (s.thread u).pc)

/-- R214 to R217, R321: a window opens over a range of its `m1` and of a global segment; without dirty words it is flushed and
closed at once; the dirty words of a block of an OPEN page go home in write-backs, and the thread waits for them; a drop closes
the window and writes nothing back. -/
def Obligations.WindowUnits : Prop :=
  (∀ (a b : RegField) (w : BitVec 3) (seg : SegField) (s s1 : State) (x y : Word) (k n dbase dva : Nat) (g : Seg),
    s.usable [sreg a, sreg b] → s.read2 a b = .go (x, y, s1) → s1.cur = s.cur → s1.plain s.cur →
    k = clusterOf (coreOf s.cur) → n = field x.toNat 32 12 → field x.toNat 44 20 = 0 → field x.toNat 21 11 = 0 → 1 ≤ n →
    n ≤ 2048 → s.inDeck (ofNat64 (field x.toNat 0 21)) (256 * n) 256 dbase → g = s.me.seg.get {} seg.toNat →
    g.space = .global → g.rd = true → y.toNat + 256 * n ≤ g.length.toNat → dva = g.base.toNat + y.toNat →
    dva + 256 * n ≤ 2 ^ 57 → dva % 256 = 0 → (s.window (k * 8 + w.toNat)).valid = false →
    s.meetsWindow k dbase (256 * n) = false → s.meetsRing k dbase (256 * n) = false →
    s.meetsGlobal k (s.asidOf s.me.launch) dva (256 * n) = false →
    exec (.winOpen a b w seg) s = .next (s1.putWindow (k * 8 + w.toNat) {
      valid := true, core := coreOf s.cur, gbase := BitVec.ofNat 57 dva, nblk := n, dbase := dbase, writable := g.w,
      launch := s.me.launch, crewId := s.me.crewId, asid := s.asidOf s.me.launch,
      flushes := (s.window (k * 8 + w.toNat)).flushes }).done) ∧
  ∀ (w : BitVec 3) (s : State) (key : Nat), key = clusterOf (coreOf s.cur) * 8 + w.toNat → s.usable [] → s.plain s.cur →
    ((s.window key).valid = false → exec (.winDrop w) s = .next s.done) ∧
    ((s.window key).valid = true →
      ∃ t, exec (.winDrop w) s = .next t ∧ (t.window key).valid = false ∧ t.mem = s.mem ∧ t.deck = s.deck ∧
        t.writeBacks = s.writeBacks ∧ ((s.window key).blocks = [] → t.me = s.me.completed)) ∧
    (s.relaxedEarlier s.cur s.nextReq = [] → ∀ i ∈ [Instr.winFlush w, .winClose w],
      ((s.window key).valid = false → exec i s = .next s.done) ∧
      ((s.window key).valid = true → (s.window key).flushes = [] →
        ((s.window key).dirtyWords = [] →
          ∃ t, exec i s = .next t ∧ t.mem = s.mem ∧ t.deck = s.deck ∧ t.writeBacks = s.writeBacks ∧
            (t.window key).valid = (i == .winFlush w) ∧
            (i = .winFlush w ∨ (s.window key).blocks = [] → t.me = s.me.completed)) ∧
        ∀ (blk dva : Nat) (m : BitVec 64) (l : Leaf), (s.window key).dirtyWords = [(blk, m)] →
          ((s.window key).blocks.get {} blk).dirty = m → dva = (s.window key).gbase.toNat + 256 * blk →
          (s.crewOf (s.window key).crewId).run < 2 → s.tlbFind (key / 8) (s.window key).asid dva = some l → l.w = true →
          l.dev = s.dev.toNat → s.keyLive l dva = true → s.deckWordBad key blk m = false → l.once = false →
          s.windowHold (s.window key) = none → (s.block (l.phys dva / 256)).pres ≠ .poison →
          s.inFlight key (l.phys dva / 256) = [] →
          ∃ t, exec i s = .next t ∧ t.me.state = .wmem ∧ t.me.wait = .flush key ∧ t.mem = s.mem ∧ t.deck = s.deck ∧
            (t.window key).valid = true ∧ ((t.window key).blocks.get {} blk).dirty = 0 ∧
            ∀ j, m.getLsbD j = true → ∃ p wb, t.writeBacks.find p = some wb ∧ wb.mask.getLsbD j = true ∧
              wb.mask &&& ~~~m = 0 ∧ wb.block = l.phys dva / 256 ∧ wb.holder = key ∧ wb.isRecall = false ∧
              wb.version = ((s.window key).blocks.get {} blk).version ∧ wb.data = s.windowBytes key blk))

/-! ### Steps of the other agents -/

/-- R117, R118, R122, R134, R137, R263: an access to TCM replies four ticks later, one to the deck once its banks have served
it, and then reads or writes its bytes; an OPEN access is performed at the cache that has the right to its sector, at its home
otherwise, where a write takes the clean copies of its words from the windows that hold them; a reply writes its register and its
thread goes on behind its unit, or, relaxed, is counted off. The trips' ticks are assumption 120's. -/
def Obligations.RepliesPerformed : Prop :=
  (∀ (s : State) (r u : Nat) (q : Req) (d : RegField) (sg : Bool), q = s.req r → u = q.thread → s.answers q →
    q.kind = .load sg → q.dest = some d → ∀ v,
    (q.status = .replied ∧ v = q.result) ∨
      (q.status = .issued ∧ v = BitVec.ofNat 128 (s.memRead q.phys q.n) ∧ q.once = false ∧ q.space ≠ .peer ∧
        managed q.phys = false ∧ s.onControl q = none ∧ s.homeLine.get [] (q.phys / 256) = [] ∧
        (s.block (q.phys / 256)).pres ≠ .poison ∧ (s.block (q.phys / 256)).win = false ∧ s.windowsOn (q.phys / 256) = [] ∧
        s.agents (q.phys / 64) = []) ∨
      (q.status = .banked ∧ s.bankFree r = true ∧ v = BitVec.ofNat 128 (s.bytesAt (coreOf u) q.space q.phys q.n) ∧
        (q.space = .tcm ∨ (q.space = .deck ∧ q.cluster = clusterOf (coreOf u) ∧ s.deckBusy q.cluster q.phys q.n = false ∧
          s.windowAt q.cluster q.phys = none))) →
    (q.vec = false → ∀ w, w = (if sg then ofInt64 (signed (8 * q.n) v.toNat) else ofNat64 v.toNat) → s.takesAt q d w →
      exec (.loadReply r) s = .next ((s.placedFor q d w).returned r q)) ∧
    (q.vec = true → (∀ dir, (vreg d).port = some dir → s.roomV (coreOf u) dir = true) →
      exec (.loadReply r) s = .next ((s.placedForV q d v).returned r q))) ∧
  (∀ (s : State) (r u : Nat) (q : Req), q = s.req r → u = q.thread → s.answers q → q.status = .banked → s.bankFree r = true →
    (q.space = .tcm ∧ q.phys + q.n ≤ 2 ^ 16) ∨ (q.space = .deck ∧ q.phys + q.n ≤ 2 ^ 21 ∧ q.cluster = clusterOf (coreOf u) ∧
      s.deckBusy q.cluster q.phys q.n = false ∧ s.windowAt q.cluster q.phys = none) →
    (q.kind = .store → q.dest = none → ∃ m : State, s.stored m q.space (coreOf u) q.phys q.n q.data.toNat ∧
      exec (.memoryReply r) s = .next (m.returned r q)) ∧
    ∀ op d old w, q.kind = .amo op → q.dest = some d → q.vec = false → old = s.bytesAt (coreOf u) q.space q.phys q.n →
      w = (if q.n = 4 then ofWord old else ofNat64 old) → s.takesAt q d w →
      ∃ m : State, s.stored m q.space (coreOf u) q.phys q.n (atomicNew op (8 * q.n) old (q.data.toNat % 2 ^ (8 * q.n))
          (q.expect.toNat % 2 ^ (8 * q.n))) ∧
        exec (.memoryReply r) s = .next ((m.placedFor q d w).returned r q)) ∧
  (∀ (s : State) (r u b : Nat) (q : Req) (i : Instr) (m : BitVec 64), q = s.req r → u = q.thread → b = q.phys / 256 →
    s.answers q → q.status = .issued → q.once = false → q.phys % 256 + q.n ≤ 256 → m = wordsOf q.phys q.n →
    (s.block b).pres ≠ .poison → s.homeLine.get [] b = [] → s.dirtyElsewhere b m none = false → s.agents (q.phys / 64) = [] →
    s.sectorDir.length < 65535 →
    i = .wrw r ∨ (i = .memoryReply r ∧ q.space ≠ .peer ∧ managed q.phys = false ∧ s.onControl q = none) →
    (q.kind = .store → q.dest = none → ∃ t, exec i s = .next t ∧ s.mem.written t.mem q.phys q.n q.data.toNat ∧
      t = { s.returned r q with mem := t.mem, blocks := t.blocks, sectorDir := t.sectorDir, windows := t.windows } ∧
      s.onlyBlock t b ∧
      ((t.block b).pres, (t.block b).gen, (t.block b).version) = ((s.block b).pres, (s.block b).gen, (s.block b).version) ∧
      (s.openWindows b = [] → t.windows = s.windows ∧
        ((s.block b).win = false ∨ s.lateWrites b = [] → (t.block b).win = false)) ∧
      ∀ key blk x, s.openWindows b = [(key, blk, x)] → (s.window key).blocks.get {} blk = x →
        (t.window key).blocks.get {} blk = x.without (m &&& ~~~x.dirty)) ∧
    ∀ op d old w, q.kind = .amo op → q.dest = some d → q.vec = false → old = s.memRead q.phys q.n →
      w = (if q.n = 4 then ofWord old else ofNat64 old) → s.takesAt q d w →
      ∃ t, exec i s = .next t ∧
        s.mem.written t.mem q.phys q.n (atomicNew op (8 * q.n) old (q.data.toNat % 2 ^ (8 * q.n))
          (q.expect.toNat % 2 ^ (8 * q.n))) ∧
        t = { (s.placedFor q d w).returned r q with
          mem := t.mem, blocks := t.blocks, sectorDir := t.sectorDir, windows := t.windows }) ∧
  ∀ (s : State) (r : Nat) (q : Req), q = s.req r → s.answers q →
    (q.status = .blocked → s.overlapped r = false →
      (q.space = .tcm → (∀ v i, q.kind ≠ .stream v i) → exec (q.reply r) s = .next ({ s with
        reqs := s.reqs.put r { q with status := .banked } }.later (s.now + 4) (q.reply r))) ∧
      (q.space = .deck → s.deckBusy q.cluster q.phys q.n = false → s.windowAt q.cluster q.phys = none →
        (∀ v i, q.kind ≠ .stream v i) → exec (q.reply r) s = .next { s with
          reqs := s.reqs.put r { q with status := .banked }
          asks := s.asks ++ [{ cluster := q.cluster, number := requester q.thread, since := s.now + 6,
                               banks := banksOf q.phys q.n, asker := .access r }] })) ∧
    (q.status = .awaiting → q.kind = .store → s.sector q.cluster (q.phys / 64) = .modified ∨
      s.sector q.cluster (q.phys / 64) = .exclusive → (s.block (q.phys / 256)).pres ≠ .poison →
      ∃ m, s.mem.written m q.phys q.n q.data.toNat ∧ exec (.memoryReply r) s = .next ({ s with
        mem := m, reqs := s.reqs.put r { q with status := .replied, result := 0 } }.viaChannel q.phys (s.now + 374)
          (some q.thread) (.memoryReply r))) ∧
    (q.status = .awaiting → (∃ sg, q.kind = .load sg) → s.sector q.cluster (q.phys / 64) ≠ .invalid →
      (s.block (q.phys / 256)).pres ≠ .poison → s.windowsOn (q.phys / 256) = [] → (s.block (q.phys / 256)).win = false →
      exec (.loadReply r) s = .next ({ s with
        reqs := s.reqs.put r { q with status := .replied, result := BitVec.ofNat 128 (s.memRead q.phys q.n) }
        }.viaChannel q.phys (s.now + 374) (some q.thread) (.loadReply r)))

/-- R123, R124, R128, R271, R274, R275: at the home of a ONCE block: a load of a FULL block is answered with its bytes and the
cluster holds a shared copy; of a block that is not FULL it parks as a waiter, in the block's own bytes; of a POISON one it is
refused; the queries answer; a covering store writes its words and covers them, the first one moves the waiters to the entry's
area, and the store that completes the coverage makes the block FULL. -/
def Obligations.LoadsAndStoresAtHome : Prop :=
  (∀ (s : State) (r b : Nat) (q : Req) (x : Block), q = s.req r → b = q.phys / 256 → x = s.block b → q.live = true →
    q.status = .issued → q.once = true → x.unspilled →
    (∀ v, (q.kind = .bgen ∧ v = x.gen.setWidth 128) ∨ (q.kind = .bwait ∧ x.pres = .full ∧ v = 0) ∨
        (q.kind = .bpoll ∧ v = if x.pres = .full then 1 else if x.pres = .poison then 3
          else if x.held = true ∨ x.waiters ≠ [] then 2 else 0) →
      ∃ t, exec (.homeLoad r) s = .next t ∧ t = { s.answered r v with blocks := t.blocks } ∧
        ∀ k, t.block k = if k = b then x.touchedAt s.now else s.block k) ∧
    (q.kind = .bwait ∨ (∃ sg, q.kind = .load sg) →
      (x.pres = .poison → ∃ t, exec (.homeLoad r) s = .next t ∧ s.refuses t r .poison q.dva.toNat) ∧
      (x.pres = .empty ∨ x.pres = .deferred → x.waiters.length < 31 → x.chain = [] → q.from_ = none →
        ∃ t ws, exec (.homeLoad r) s = .next t ∧ ws = x.waiters ++ [s.waiterOf r] ∧ (t.block b).pres = .deferred ∧
          (t.block b).waiters = ws ∧ (t.block b).gen = x.gen ∧ (x.inArea = false → t.listAt (256 * b) ws) ∧
          s.onlyBlock t b ∧ t.req r = { q with status := .parked } ∧ t.events = s.events ∧ s.sameOthers t q.thread ∧
          t.thread q.thread =
            if q.relaxed = true then s.thread q.thread else { s.thread q.thread with state := .pblk })) ∧
    ((∃ sg, q.kind = .load sg) → x.pres = .full → ∃ t, exec (.homeLoad r) s = .next t ∧
      t.req r = { q with
        status := .replied, result := BitVec.ofNat 128 (s.memRead q.phys q.n)
        ref := if s.recording q.thread && q.from_.isNone then some (b, x.gen) else q.ref } ∧
      (s.sectorDir.length < 65535 → t.mem = s.mem) ∧ t.threads = s.threads ∧ t.cores = s.cores ∧ .loadReply r ∈ t.events ∧
      (q.space ≠ .peer → q.from_ = none → q.cluster < 512 → s.sector q.cluster (q.phys / 64) = .invalid →
        s.sectorDir.length < 65535 → t.sector q.cluster (q.phys / 64) = .shared))) ∧
  ∀ (s : State) (r b : Nat) (q : Req) (x : Block) (e : FillEntry) (m : BitVec 64), q = s.req r → b = q.phys / 256 →
    x = s.block b → s.arrives r .store → q.once = true → m = wordsOf q.phys q.n → x.unspilled →
    (x.pres = .poison → ∃ t, exec (.homeCoveringStore r) s = .next t ∧ s.refuses t r .poison q.dva.toNat) ∧
    (x.pres = .full ∨ (x.pres ≠ .poison ∧ (x.held = true ∨ (x.resident e ∧ e.cov &&& m ≠ 0))) →
      ∃ t, exec (.homeCoveringStore r) s = .next t ∧ s.refuses t r .once2 q.dva.toNat) ∧
    (x.pres = .empty ∨ x.pres = .deferred → x.held = false → x.resident e → e.cov &&& m = 0 → q.hold = false →
      (e.cov ||| m ≠ BitVec.allOnes 64 → ∃ t, exec (.homeCoveringStore r) s = .next t ∧
        s.mem.written t.mem q.phys q.n q.data.toNat ∧ t = { s.answered r 0 with mem := t.mem, blocks := t.blocks } ∧
        ∀ k, t.block k = if k = b then { x with
          entry := some { e with
            cov := e.cov ||| m
            touched := s.now
            area := if e.cov = 0 ∧ x.waiters ≠ [] then s.mem.readList (b * 256) 256 else e.area } } else s.block k) ∧
      (e.cov ||| m = BitVec.allOnes 64 → e.verdicts = [] → x.waiters = [] → x.chain = [] → (e.holds = [] → e.queue = []) →
        (∀ p ∈ s.copies, p.2.heldOn ≠ some b) → ∃ t, exec (.homeCoveringStore r) s = .next t ∧
          s.mem.written t.mem q.phys q.n q.data.toNat ∧ t = { s.answered r 0 with mem := t.mem, blocks := t.blocks } ∧
          (∀ k, k ≠ b → t.block k = s.block k) ∧ (t.block b).pres = .full ∧ (t.block b).gen = x.gen ∧
          (t.block b).cov = 0 ∧ (e.holds = [] → (t.block b).entry = none)))

/-- R128 to R132, R269, R272, R276, R278, R282, R283: the other steps of a home: the end of a fill, a hold, an arm, a clear,
the withdrawals, a pool block freed, a block poisoned. -/
def Obligations.BlockHome : Prop :=
  (∀ (s : State) (r b : Nat) (q : Req) (x : Block) (e : FillEntry), q = s.req r → b = q.phys / 256 → x = s.block b →
    s.arrives r .bfin →
    (x.pres = .poison → ∃ t, exec (.homeBfin r) s = .next t ∧ s.refuses t r .poison q.dva.toNat) ∧
    (x.unspilled → x.pres = .full ∨ (x.pres ≠ .poison ∧ x.held = true) → ∃ t, exec (.homeBfin r) s = .next t ∧
      t = { s.answered r 0 with blocks := t.blocks } ∧ ∀ k, t.block k = if k = b then x.touchedAt s.now else s.block k) ∧
    (x.pres = .empty ∨ x.pres = .deferred → x.held = false → x.resident e → e.verdicts = [] → x.waiters = [] → x.chain = [] →
      (e.holds = [] → e.queue = []) → q.hold = false → (∀ p ∈ s.copies, p.2.heldOn ≠ some b) →
      ∃ t, exec (.homeBfin r) s = .next t ∧
        (∀ a, t.mem.read a =
          if 256 * b ≤ a ∧ a < 256 * b + 256 ∧ e.cov.getLsbD ((a - 256 * b) / 4) = false then 0 else s.mem.read a) ∧
        t = { s.answered r ((~~~e.cov).setWidth 128) with mem := t.mem, blocks := t.blocks } ∧
        (∀ k, k ≠ b → t.block k = s.block k) ∧ (t.block b).pres = .full ∧ (t.block b).gen = x.gen)) ∧
  (∀ (s : State) (r b : Nat) (q : Req) (x : Block) (e : FillEntry), q = s.req r → b = q.phys / 256 → x = s.block b →
    q.live = true → q.status = .issued → q.kind = .bhold → x.resident e → x.pres ≠ .poison → e.holds.length < 31 →
    (x.pres ≠ .full → x.held = false → e.cov = 0 → e.res = none → ∃ t, exec (.homeBhold r) s = .next t ∧
      t = { s.answered r (x.gen.setWidth 128) with blocks := t.blocks } ∧
      ∀ k, t.block k =
        if k = b then { x with entry := some { e with res := some (s.waiterOf r), touched := s.now } } else s.block k) ∧
    ((x.pres = .full ∨ x.held = true ∨ e.cov ≠ 0 ∨ e.res ≠ none) → q.from_ = none → ∀ p,
      (e.holds ≠ [] ∧ e.queue = [p]) ∨ (e.holds = [] ∧ e.queue = [] ∧ p = 0 ∧ s.poolBusy (s.spanKey b) = [] ∧
        s.poolLine (s.spanKey b) = [] ∧ 1 ≤ s.poolSize (s.spanKey b)) →
      ∃ t, exec (.homeBhold r) s = .next t ∧ (t.thread q.thread).state = .pblk ∧ s.sameOthers t q.thread ∧
        t.req r = { q with status := .parked } ∧ t.events = s.events ∧
        t.listAt (s.poolPlace b p) ((e.holds ++ [r]).map s.waiterOf) ∧
        (∀ a, ¬ (s.poolPlace b p ≤ a ∧ a < s.poolPlace b p + 256) → t.mem.read a = s.mem.read a) ∧
        ∀ k, t.block k = if k = b then { x with
          entry := some { e with holds := e.holds ++ [r], queue := [p], touched := s.now } } else s.block k)) ∧
  (∀ (s : State) (r b : Nat) (q : Req) (x : Block) (w : Waiter), q = s.req r → b = q.phys / 256 → x = s.block b →
    q.live = true → q.status = .issued → q.kind = .barm → q.once = true → x.unspilled → q.from_ = none →
    w = { s.waiterOf r with arm := true, cls := q.data.extractLsb' 0 6, tag := q.data.extractLsb' 6 24 } →
    (x.pres = .empty ∨ x.pres = .deferred → x.waiters.length < 31 → x.chain = [] → ∃ t, exec (.homeBarm r) s = .next t ∧
      t = { s.answered r 0 with blocks := t.blocks, mem := t.mem } ∧ s.onlyBlock t b ∧ (t.block b).pres = .deferred ∧
      (t.block b).waiters = x.waiters ++ [w] ∧ (x.inArea = false → t.listAt (256 * b) (x.waiters ++ [w]))) ∧
    (x.pres = .full ∨ x.pres = .poison → ∃ t m, exec (.homeBarm r) s = .next t ∧
      t.req r = { q with status := .replied, result := 0 } ∧ t.flight = s.flight ++ [m] ∧ m.dstCore = w.core.toNat ∧
      m.payload = [BitVec.ofNat 64 (w.dva.toNat / 256 * 256 + (if x.pres = .full then 1 else 3) * 64 + x.gen.toNat)] ∧
      field m.hdr.toNat 0 6 = w.cls.toNat ∧ field m.hdr.toNat 6 2 = 2 ∧ field m.hdr.toNat 12 4 = w.slot.toNat ∧
      field m.hdr.toNat 40 24 = w.tag.toNat ∧ t.threads = s.threads ∧ t.mem = s.mem ∧
      ∀ k, t.block k = if k = b then x.touchedAt s.now else s.block k)) ∧
  (∀ (s : State) (r b : Nat) (q : Req) (x : Block), q = s.req r → b = q.phys / 256 → x = s.block b →
    (s.arrives r .bclr ∨ s.arrives r .bclrG) → x.unspilled →
    (x.pres = .empty ∨ x.pres = .deferred → ∃ t, exec (.homeClear r) s = .next t ∧ s.refuses t r .clear q.dva.toNat) ∧
    (x.pres = .poison → q.priv = false → ∃ t, exec (.homeClear r) s = .next t ∧ s.refuses t r .poison q.dva.toNat) ∧
    (x.pres = .full → q.kind = .bclrG → q.data.extractLsb' 0 6 ≠ x.gen → ∃ t, exec (.homeClear r) s = .next t ∧
      s.refuses t r .clear q.dva.toNat) ∧
    (x.pres = .full ∨ (x.pres = .poison ∧ q.priv = true) → (q.kind = .bclrG → q.data.extractLsb' 0 6 = x.gen) →
      x.refs = [] → x.waiters = [] → x.entry = none → s.windowsOn b = [] → s.blockAgents b = [] →
      ∃ t, exec (.homeClear r) s = .next t ∧ t.req r = { q with status := .replied, result := 0 } ∧
        (t.block b).pres = .empty ∧ (t.block b).gen = x.gen + 1 ∧ (∀ k, k ≠ b → t.block k = s.block k) ∧ t.mem = s.mem ∧
        t.events = s.events ++ [.memoryReply r] ∧ t.threads = s.threads)) ∧
  (∀ (s : State) (b : Nat) (x : Block) (ws vs : List Waiter) (w : Waiter), x = s.block b → x.waiters = ws ++ w :: vs →
    (∀ v ∈ ws, v.word ≠ w.word) → x.waiters.length ≤ 31 → x.chain = [] → x.unspilled →
    ∃ t, exec (.waiterWithdrawal b w.word) s = .next t ∧ t = { s with blocks := t.blocks, mem := t.mem } ∧ s.onlyBlock t b ∧
      (t.block b).waiters = ws ++ vs ∧ (x.inArea = false → t.listAt (256 * b) (ws ++ vs)) ∧
      (ws ++ vs = [] → x.held = false → x.pres = .deferred → (t.block b).pres = .empty)) ∧
  (∀ (s : State) (b r p : Nat) (x : Block) (e : FillEntry), x = s.block b → x.resident e →
    (r ∈ e.holds → 2 ≤ e.holds.length → e.holds.length ≤ 31 → e.queue = [p] → ∃ t, exec (.holdWithdrawal b r) s = .next t ∧
      t = { s with blocks := t.blocks, mem := t.mem } ∧
      (∀ a, ¬ (s.poolPlace b p ≤ a ∧ a < s.poolPlace b p + 256) → t.mem.read a = s.mem.read a) ∧
      ∀ k, t.block k = if k = b then { x with
        entry := some { e with holds := e.holds.erase r, queue := [p], touched := s.now } } else s.block k) ∧
    (∀ w, e.res = some w → w.req = r → e.holds = [] → e.queue = [] → e.cov = 0 → x.held = false →
      ∃ t, exec (.holdWithdrawal b r) s = .next t ∧ t = { s with blocks := t.blocks } ∧
        ∀ k, t.block k = if k = b then { x with entry := none } else s.block k)) ∧
  (∀ (s : State) (k : Nat), (s.poolLine k = [] → exec (.poolBlockFreed k) s = .next { s with poolWait := s.poolWait.put k [] }) ∧
    ∀ r rest, s.poolLine k = .req r :: rest → exec (.poolBlockFreed k) s =
      .next { s with poolWait := s.poolWait.put k (.req r :: rest), events := s.events ++ [(s.req r).homeStep r] }) ∧
  ∀ (s : State) (b : Nat) (x : Block), x = s.block b → x.waiters = [] → x.chain = [] → x.refs = [] → x.entry = none →
    (∀ p ∈ s.copies, p.2.heldOn ≠ some b) → s.sectorDir.length < 65536 → ∃ t, exec (.blockPoisoning b) s = .next t ∧
      (t.block b).pres = .poison ∧ (∀ k, k ≠ b → t.block k = s.block k) ∧ (t.block b).gen = x.gen ∧
      (s.hostSectors = [] → t.mem = s.mem) ∧ (∀ c i, c < 512 → i < 4 → t.sector c (4 * b + i) = .invalid) ∧
      BitVec.ofNat 64 (b * 256 % 2 ^ 48) ∈ (t.health.get {} (s.spanKey b)).plog ∧ t.threads = s.threads

/-- R325 to R327, R333, R335 to R337: the requests of the cluster caches and what the directory asks of their holders: with the
owners of other spans recalled first, a load takes a sector exclusive or shared, a store takes it modified from every other
holder, and the accesses that waited are made before any other step; a write-back, a recall and an invalidation leave their
holder without it, and a host's modified sector comes home with the host's bytes. A line that windows hold is granted to no
store. A home serves the requests to a block in order of arrival: one that finds others waiting stands behind them. What a
request needs of a span's caches crosses the notification network: an injected notice takes its injector's tick and is delivered
6 ticks after it, before anything else of that tick. -/
def Obligations.CacheRequests : Prop :=
  (∀ (s : State) (n : SpanNotice), (∀ m ∈ s.spanNet, m.span = n.span → m.injector = n.injector → m.at_ < s.now) →
    (∀ m ∈ s.spanNet, ¬ (m.span = n.span ∧ m.cluster = n.cluster ∧ m.kind = n.kind ∧ m.line = n.line ∧ m.sectors = n.sectors)) →
    ∃ t, t = { s with spanNet := t.spanNet } ∧ s.injectNotice n = t ∧ { n with at_ := s.now } ∈ t.spanNet ∧
      t.spanNet.length = s.spanNet.length + 1 ∧ ∀ m ∈ s.spanNet, m ∈ t.spanNet) ∧
  (∀ s : State, (∀ n ∈ s.spanNet, ∀ r, n.kind ≠ .wrw r) → s.deliverNotices = { s with
    spanNet := s.spanNet.filter fun n => decide (s.now < n.at_ + 6)
    events := ((s.spanNet.filter fun n => decide (n.at_ + 6 ≤ s.now)).flatMap SpanNotice.steps) ++ s.events }) ∧
  ∀ (s : State) (c sec sp : Nat) (w : List Instr), sec < 2 ^ 50 → sp = spanOfCluster c → c < 512 →
    s.sectorDir.length < 65536 → w = ((s.reqs.filter fun p => p.2.live && p.2.status == .awaiting && p.2.cluster == c &&
      p.2.phys / 64 == sec).map fun p => p.2.reply p.1) →
    (s.sector c sec ≠ .invalid → exec (.gets c sec) s = .next { s with events := w ++ s.events }) ∧
    (∀ i h, (s.homeLine.get [] (sec / 4)).head? = some h → h.1 ≠ i → (∀ p ∈ s.homeLine.get [] (sec / 4), p.1 ≠ i) →
      i = .getm c sec ∨ i = .upg c sec ∨ (i = .gets c sec ∧ s.sector c sec = .invalid) →
      exec i s = .next { s with homeLine := s.homeLine.put (sec / 4) (s.homeLine.get [] (sec / 4) ++ [(i, false)]) }) ∧
    (s.sector c sec = .invalid → s.homeLine.get [] (sec / 4) = [] → (s.setLines c (sec / 4)).length < 8 →
      s.mayAdvance (sec / 4) = true →
      (∀ ns, ns = ((s.others sp sec).filter fun p => ownsSector p.2).map (fun p => Instr.rcl p.1 sec) → ns ≠ [] →
        ((∀ p ∈ s.others sp sec, p.1 < 8) → exec (.gets c sec) s = .next ((ns.filterMap noticeOf).foldl State.injectNotice
          { s with homeLine := s.homeLine.put (sec / 4) [(.gets c sec, false)] })) ∧
        ((∀ p ∈ s.others sp sec, 8 ≤ p.1) → exec (.gets c sec) s = .next { s with
          homeLine := s.homeLine.put (sec / 4) [(.gets c sec, false)]
          events := ns ++ [.gets c sec] ++ s.events })) ∧
      (s.agents sec = [] → (s.block (sec / 4)).win = false →
        ∃ t, exec (.gets c sec) s = .next t ∧ t.sector c sec = .exclusive ∧ t.mem = s.mem ∧ t.threads = s.threads ∧
          t.events = w ++ s.events ∧ (t.block (sec / 4)).version = (s.block (sec / 4)).version + 1 ∧
          ∀ k, k ≠ c * 2 ^ 50 + sec → t.cache.get .invalid k = s.cache.get .invalid k) ∧
      (((s.others sp sec).any fun p => ownsSector p.2) = false →
        (s.block (sec / 4)).win = true ∨ (∃ k, k ≠ c ∧ s.sector k sec ≠ .invalid) →
        ∃ t, exec (.gets c sec) s = .next t ∧ t.sector c sec = .shared ∧ t.mem = s.mem ∧ t.threads = s.threads ∧
          t.events = w ++ s.events ∧ (∀ k, spanOfCluster k = sp → s.sector k sec ≠ .invalid → t.sector k sec = .shared) ∧
          (t.block (sec / 4)).version = (s.block (sec / 4)).version +
            (if ((s.agents sec).any fun p => ownsSector p.2) = true then 1 else 0) ∧
          ∀ k n, n < 2 ^ 50 → n ≠ sec → t.sector k n = s.sector k n)) ∧
    (s.homeLine.get [] (sec / 4) = [] → ∀ i ∈ [Instr.getm c sec, .upg c sec],
      ((s.block (sec / 4)).win = true → ∃ t, exec i s = .next t ∧ t.cache = s.cache ∧ t.mem = s.mem ∧ t.threads = s.threads ∧
        ∀ r q, q = s.req r → q.live = true → q.status = .awaiting → q.cluster = c → q.phys / 64 = sec → q.kind = .store →
          t.req r = { q with status := .issued }) ∧
      ((s.block (sec / 4)).win = false → ownsSector (s.sector c sec) = true →
        exec i s = .next { s.setSector c sec .modified with events := w ++ s.events }) ∧
      ((s.block (sec / 4)).win = false → ownsSector (s.sector c sec) = false → (s.setLines c (sec / 4)).length < 8 →
        s.mayAdvance (sec / 4) = true →
        (∀ ns, ns = (s.others sp sec).map (fun p => if ownsSector p.2 then Instr.rcl p.1 sec else .inv p.1 sec) → ns ≠ [] →
          ((∀ p ∈ s.others sp sec, p.1 < 8) → exec i s = .next ((ns.filterMap noticeOf).foldl State.injectNotice
            { s with homeLine := s.homeLine.put (sec / 4) [(i, false)] })) ∧
          ((∀ p ∈ s.others sp sec, 8 ≤ p.1) → exec i s = .next { s with
            homeLine := s.homeLine.put (sec / 4) [(i, false)]
            events := ns ++ [i] ++ s.events })) ∧
        (s.others sp sec = [] → ∃ t, exec i s = .next t ∧ t.sector c sec = .modified ∧
          (∀ k, k ≠ c → spanOfCluster k = sp → t.sector k sec = .invalid) ∧ t.events = w ++ s.events ∧
          (t.block (sec / 4)).version = (s.block (sec / 4)).version + 1 ∧ t.mem = s.mem ∧ t.threads = s.threads))) ∧
    (s.sector c sec = .modified → ∃ t, exec (.wb c sec) s = .next t ∧ t.sector c sec = .invalid ∧
      (t.block (sec / 4)).version = (s.block (sec / 4)).version + 1 ∧ t.mem = s.mem ∧ t.threads = s.threads) ∧
    (s.sector c sec ≠ .modified → exec (.wb c sec) s = .next s) ∧
    (∀ a, a < 8 →
      (∃ t, exec (.rcl a sec) s = .next t ∧ (∀ k, t.sector k sec = if spanOfCluster k = a then .invalid else s.sector k sec) ∧
        (t.block (sec / 4)).version = (s.block (sec / 4)).version +
          (if ((s.agents sec).any fun p => p.1 == a && ownsSector p.2) = true then 1 else 0) ∧ t.mem = s.mem) ∧
      (((s.agents sec).any fun p => p.1 == a && ownsSector p.2) = true → exec (.inv a sec) s = .next s) ∧
      (((s.agents sec).any fun p => p.1 == a && ownsSector p.2) = false → ∃ t, exec (.inv a sec) s = .next t ∧
        (∀ k, t.sector k sec = if spanOfCluster k = a then .invalid else s.sector k sec) ∧ t.mem = s.mem)) ∧
    ∀ p, p < 2 → s.hostSectors.get .invalid (p * 2 ^ 50 + sec) = .modified → ∃ t, exec (.rcl (8 + p) sec) s = .next t ∧
      t.hostSectors.get .invalid (p * 2 ^ 50 + sec) = .invalid ∧ t.hostRecalls = s.hostRecalls + 1 ∧ t.cache = s.cache ∧
      s.mem.written t.mem (64 * sec) 64 (Config.hostSector s.hostRecalls).toNat ∧ t.threads = s.threads

/-- R320, R328, R329, R335, R336, R344: the words of windows: a write-back is applied where its version is the block's and
cancelled otherwise, a recall's reply is applied and sets the version, a recall that is unanswered for 2^24 ticks makes its
holder fail, a failed cache loses its sectors and poisons those it had modified; a fetch that finds data fills the words
that were not valid, one that finds a block not FULL waits there, and one that meets POISON leaves the window none. -/
def Obligations.WindowWords : Prop :=
  (∀ (s : State) (w : Nat) (r : WriteBack), s.writeBacks.find w = some r → r.data.length = 256 →
    (r.isRecall = false → r.version = (s.block r.block).version → (∀ p ∈ s.windowsOn r.block, p.1 = r.holder) →
      s.sectorDir.length < 65536 → ∃ t, exec (.writebackArrival w) s = .next t ∧
        t = { s with writeBacks := s.writeBacks.drop w, mem := t.mem, blocks := t.blocks, sectorDir := t.sectorDir } ∧
        s.onlyBlock t r.block ∧ (t.block r.block).version = r.version ∧
        ∀ a, t.mem.read a = if 256 * r.block ≤ a ∧ a < 256 * r.block + 256 ∧ r.mask.getLsbD ((a - 256 * r.block) / 4) = true
          then r.data.getD (a - 256 * r.block) 0 else s.mem.read a) ∧
    (r.isRecall = false → r.version ≠ (s.block r.block).version →
      exec (.writebackArrival w) s = .next { s with writeBacks := s.writeBacks.drop w }) ∧
    (r.isRecall = true → s.sectorDir.length < 65536 → ∃ t, exec (.recallReply w) s = .next t ∧
      t = { s with writeBacks := s.writeBacks.drop w, mem := t.mem, blocks := t.blocks, sectorDir := t.sectorDir } ∧
      s.onlyBlock t r.block ∧ (t.block r.block).version = r.version ∧
      ∀ a, t.mem.read a = if 256 * r.block ≤ a ∧ a < 256 * r.block + 256 ∧ r.mask.getLsbD ((a - 256 * r.block) / 4) = true
        then r.data.getD (a - 256 * r.block) 0 else s.mem.read a) ∧
    (r.isRecall = true → r.asked + 2 ^ 24 ≤ s.now → exec (.recallTimeout w) s = .next
      { s with writeBacks := s.writeBacks.drop w, events := s.events ++ [.holderFailure (4096 + r.holder)] })) ∧
  (∀ (s : State) (w : Nat), s.writeBacks.find w = none →
    exec (.writebackArrival w) s = .next s ∧ exec (.recallReply w) s = .next s ∧ exec (.recallTimeout w) s = .next s) ∧
  (∀ (s : State) (holder : Nat), holder < 4096 →
    (modifiedIn s.cache holder = [] → exec (.holderFailure holder) s =
      .next { s with cache := s.cache.filter fun p => p.1 / 2 ^ 50 != holder }) ∧
    ∀ b, modifiedIn s.cache holder = [b] → (s.block b).waiters = [] → (s.block b).chain = [] → (s.block b).refs = [] →
      (s.block b).entry = none → s.windowsOn b = [] → s.crewsAt holder = [] →
      (∀ p ∈ s.copies, p.2.heldOn ≠ some b) → s.hostSectors = [] →
      (∀ p ∈ s.cache, p.1 % 2 ^ 50 / 4 = b → p.1 / 2 ^ 50 = holder) → ∃ t, exec (.holderFailure holder) s = .next t ∧
        (t.block b).pres = .poison ∧ (t.block b).version = (s.block b).version + 1 ∧ t.mem = s.mem ∧
        t.cache = s.cache.filter fun p => p.1 / 2 ^ 50 != holder) ∧
  ∀ (s : State) (k n blk home : Nat) (w : Window) (b : WinBlock), n < 8 → w = s.windows.get {} (8 * k + n) → w.valid = true →
    b = w.blocks.get {} blk → b.state = .f → (s.crewOf w.crewId).run = 0 → s.rowHeld b.phys = false →
    home = b.phys / 256 → (s.block home).unspilled → s.sectorDir.length < 65536 →
    ((b.once = true ∧ (s.block home).pres = .full) ∨ (b.once = false ∧ (s.block home).pres ≠ .poison ∧
        s.homeLine.get [] home = [] ∧ s.dirtyElsewhere home (~~~b.valid) (some (8 * k + n)) = false ∧
        ∀ i, i < 4 → ((s.agents (4 * home + i)).any fun p => ownsSector p.2) = false) →
      ∃ t, exec (.windowFetchReply k n blk) s = .next t ∧
        ((t.windows.get {} (8 * k + n)).blocks.get {} blk) =
          { b with state := .v, valid := BitVec.allOnes 64, version := (s.block home).version } ∧
        (∀ i, i < 256 → t.deckByte k (w.dbase + 256 * blk + i) =
          if b.valid.getLsbD (i / 4) then s.deckByte k (w.dbase + 256 * blk + i) else s.mem.read (256 * home + i)) ∧
        (t.block home).win = true ∧ t.mem = s.mem ∧ t.tcm = s.tcm ∧
        ∀ r ∈ s.touching (8 * k + n) blk, (t.req r).status = .blocked) ∧
    (b.once = true → (s.block home).pres = .empty ∨ (s.block home).pres = .deferred → (s.block home).waiters.length < 31 →
      (s.block home).chain = [] → ∃ t, exec (.windowFetchReply k n blk) s = .next t ∧
        ((t.windows.get {} (8 * k + n)).blocks.get {} blk) = { b with state := .w } ∧
        (t.block home).waiters.length = (s.block home).waiters.length + 1 ∧ s.onlyBlock t home ∧ t.deck = s.deck ∧
        ∀ r ∈ s.touching (8 * k + n) blk, (t.req r).status = .parked) ∧
    ((s.block home).pres = .poison → ∃ t, exec (.windowFetchReply k n blk) s = .next t ∧
      ((t.windows.get {} (8 * k + n)).blocks.get {} blk) = { b with
        state := .u, valid := 0, dirty := 0, version := ((t.windows.get {} (8 * k + n)).blocks.get {} blk).version } ∧
      t.deck = s.deck ∧
      ∀ r ∈ s.touching (8 * k + n) blk, ∃ addr, (t.req r).status = .refused .poison addr)

/-- R182, R187, R189, R190, R192: the matrix engine: it starts the operation at the head of its queue for the time that the
operation takes, once the tiles of a step are there, those at the heads of its rings then; an operation's end leaves the
accumulator cleared or, for a step of INT8 tiles, with the sum of products added, and its thread goes on. -/
def Obligations.MatrixEngine : Prop :=
  (∀ (s : State) (c : Nat) (op : MxOp) (rest : List MxOp) (dur : Nat), (s.core c).mxRun = none →
    (s.core c).mxQueue = op :: rest → s.wantsStop op.thread = false →
    ((∃ acc int, op.kind = .zero acc int ∧ dur = 1) ∨
      ∃ acc int off ctl, op.kind = .load acc int off ctl ∧ op.seg.space = .tcm ∧ dur = 16) →
    exec (.matrixOperationStart c) s = .next ((s.modCore c fun k =>
      { k with mxQueue := rest, mxRun := some (op, s.now + dur) }).later (s.now + dur) (.matrixOperationEnd c))) ∧
  (∀ (s : State) (c : Nat) (op run : MxOp) (rest : List MxOp) (need : List Nat), (s.core c).mxRun = none →
    (s.core c).mxQueue = op :: rest → s.wantsStop op.thread = false →
    ((∃ acc int off ctl, op.kind = .load acc int off ctl ∧ op.seg.space = .deck ∧ run = op ∧
        need = banksOf (op.seg.base.toNat + off.toNat) 64) ∨
      ∃ acc ra rb ka kb row slots, op.kind = .mma acc ra rb ka kb ∧ cfgRow op.cfg.toNat = some row ∧
        (s.core c).accInt.get false acc = row.2 ∧ 128 + acc ∉ (s.core c).poisoned ∧ s.deckErrors = [] ∧
        (slots = fun n => (s.ring c n).head % ((s.ring c n).nslot + 1)) ∧
        (∀ n ∈ [ra, rb], (s.ring c n).tsz = 2 ∧ (s.ring c n).nslot ≠ 0 ∧ 1 ≤ (s.ring c n).cnt ∧
          ((s.ring c n).slot (slots n)).state = .ready ∧ ((s.ring c n).slot (slots n)).linked = false) ∧
        run = { op with slots := [slots ra, slots rb] } ∧
        need = banksOf ((s.ring c ra).base + 1024 * slots ra + 32 * (2 * logical c % 32)) 32 ++
          banksOf ((s.ring c rb).base + 1024 * slots rb + 32 * ((2 * logical c + 1) % 32)) 32) →
    exec (.matrixOperationStart c) s = .next (s.modCore c fun k =>
      { k with mxQueue := rest, mxRun := some (run, s.now), mxTau := 0, mxNeed := need })) ∧
  (∀ (s : State) (c : Nat), (s.core c).mxRun ≠ none ∨ (s.core c).mxQueue = [] →
    exec (.matrixOperationStart c) s = .next s) ∧
  ∀ (s : State) (c : Nat) (op : MxOp) (due : Nat), (s.core c).mxRun = some (op, due) → due ≤ s.now →
    (s.core c).mxNeed = [] → s.plain op.thread → (s.thread op.thread).wait = .engine op.id → op.permit = none →
    (∀ acc int, op.kind = .zero acc int → ∃ t, exec (.matrixOperationEnd c) s = .next t ∧
      t.thread op.thread = (s.thread op.thread).completed ∧ s.sameOthers t op.thread ∧ s.sameBytes t ∧
      (t.core c).mxRun = none ∧ (t.core c).accInt.get false acc = int ∧ t.events = s.events ++ [.matrixOperationStart c] ∧
      ∀ n, (t.core c).acc.get 0 n = if n / 256 = acc then 0 else (s.core c).acc.get 0 n) ∧
    ∀ acc ra rb k x y, op.kind = .mma acc ra rb true true → op.cfg = 0x88 → k = clusterOf c → (s.ring c ra).swzen = false →
      (s.ring c rb).swzen = false → (s.ring c ra).tsz = 2 → (s.ring c rb).tsz = 2 →
      op.slots = [x, y] →
      ∃ t, exec (.matrixOperationEnd c) s = .next t ∧ t.thread op.thread = (s.thread op.thread).completed ∧
        s.sameOthers t op.thread ∧ s.sameBytes t ∧ (t.core c).mxRun = none ∧ (t.core c).rings = (s.core c).rings ∧
        (∀ n, n / 256 ≠ acc → (t.core c).acc.get 0 n = (s.core c).acc.get 0 n) ∧
        ∀ i j, i < 16 → j < 16 → (t.core c).acc.get 0 (256 * acc + 16 * i + j) =
          BitVec.ofInt 32 (((s.core c).acc.get 0 (256 * acc + 16 * i + j)).toInt + ((List.range 64).map fun n =>
            signed 8 (s.deckByte k ((s.ring c ra).base + x * 1024 + 64 * i + n)).toNat *
            signed 8 (s.deckByte k ((s.ring c rb).base + y * 1024 + 64 * j + n)).toNat).sum)

/-- R198, R201, R211, R212, R218, R220, R304, R305, R310, R317: the copy engine accepts the oldest copy and counts its units,
requests them in order, a unit done leaves its bytes and asks for its barrier's bank, and the decrement lowers psect; a stream
fetches ahead and takes the unit that a read waits for; the sequencer emits its next record with a permit. -/
def Obligations.EngineSteps : Prop :=
  (∀ (s : State) (core id k : Nat) (c : Copy), (s.accepted core).length < 8 → (s.core core).lastAccept ≠ s.now + 1 →
    s.oldestIssued core = some id → c = s.copies.get {} id → c.kind = .cpDd → c.suspended = false → c.after = [] → k = clusterOf c.core →
    (s.barrier k c.bar).psect + (c.units - 1) ≤ 2 ^ 24 - 1 →
    ∃ t, exec (.copyAcceptance core) s = .next t ∧ t.copies.get {} id = { c with stage := .accepted, outstanding := c.units } ∧
      t.barrier k c.bar = { s.barrier k c.bar with psect := (s.barrier k c.bar).psect + (c.units - 1) } ∧
      t.events = s.events ++ [.copyUnitRequest c.core] ∧ t.mem = s.mem ∧ t.threads = s.threads ∧
      (∀ j, t.core j = { s.core j with
        lastAccept := if j = core then s.now + 1 else (s.core j).lastAccept, rings := (t.core j).rings }) ∧
      ∀ a, a < c.bar ∨ c.bar + 16 ≤ a → t.deckByte k a = s.deckByte k a) ∧
  (∀ (s : State) (core id u : Nat) (c : Copy),
    s.portRequests core < 64 →
    (s.accepted core).find? (fun p => p.2.heldOn.isNone && !p.2.suspended && decide (p.2.requested.length < p.2.units)) =
      some (id, c) → u < c.units → u ∉ c.requested → (∀ v, v < u → v ∈ c.requested) →
    exec (.copyUnitRequest core) s = .next { s with
        copies := s.copies.put id { c with requested := c.requested ++ [u] }
        asks := s.asks ++ [{ cluster := clusterOf core, engine := true, number := copyNumber core, since := s.now,
                             banks := c.unitBanks u, asker := .copyUnit id u }] }) ∧
  (∀ (s : State) (id u k n : Nat) (c : Copy), s.copies.find id = some c → c.stage = .accepted → c.failing = false →
    c.kind = .cpDd → u ∈ c.requested → u ∉ c.done → k = clusterOf c.core → s.deckErrors = [] →
    n = min 64 (c.bytes.getD 0 - 64 * u) → 64 * u < c.bytes.getD 0 → ∃ t, exec (.copyUnitDone id u) s = .next t ∧
      (∀ i, i < n → t.deckByte k (c.doff + 64 * u + i) = s.deckByte k (c.src + 64 * u + i)) ∧
      (∀ a, ¬ (c.doff + 64 * u ≤ a ∧ a < c.doff + 64 * u + n) → t.deckByte k a = s.deckByte k a) ∧
      t.copies = s.copies.put id { c with done := c.done ++ [u] } ∧
      t.asks = s.asks ++ [{ cluster := k, engine := true, number := copyNumber c.core, since := s.now, banks := banksOf c.bar 8,
                            asker := .decrement id }] ∧
      t.mem = s.mem ∧ t.tcm = s.tcm ∧ t.threads = s.threads) ∧
  (∀ (s t : State) (id k : Nat) (c : Copy), s.copies.find id = some c → c.failing = false → c.ring = none → c.permit = none →
    k = clusterOf c.core → 2 ≤ (s.barrier k c.bar).psect → 1 ≤ c.outstanding → t = s.unitCounted id →
    t.barrier k c.bar = { s.barrier k c.bar with psect := (s.barrier k c.bar).psect - 1 } ∧
      (∀ a, ¬ (c.bar ≤ a ∧ a < c.bar + 16) → t.deckByte k a = s.deckByte k a) ∧
      t.copies = (if c.outstanding = 1 then s.copies.drop id
        else s.copies.put id { c with outstanding := c.outstanding - 1 }) ∧
      t.mem = s.mem ∧ t.tcm = s.tcm ∧ t.threads = s.threads) ∧
  (∀ (s : State) (u v : Nat) (b : Binding), (s.thread u).bindings.find? (fun c => c.reg == v) = some b →
    (s.thread u).bindings = [b] → b.seg.space = .tcm → b.after = [] → s.portRequests (coreOf u) < 64 →
    b.ahead ≤ b.next → b.next + 1 = b.cnt.foldl (· * ·) 1 →
    s.badGranule u .tcm (b.seg.base.toNat + b.offset b.next).toNat 16 true = false →
    exec (.streamRefill u v) s = .next (s.modThread u fun x => { x with bindings := [{ b with
      ahead := b.next + 1,
      fetched := b.fetched ++ [(b.next, BitVec.ofNat 128 (s.tcmRead (coreOf u) (b.seg.base.toNat + b.offset b.next).toNat
        16))] }] })) ∧
  (∀ (s : State) (u v r : Nat) (b : Binding) (q : Req), q = s.req r → s.streamReq u v = some r → q.status = .replied →
    (s.thread u).bindings.find? (fun c => c.reg == v) = some b → q.kind = .stream v b.next → q.jslot = none →
    q.twin = false → q.thread = u → (s.thread u).twin = false → (s.thread u).wait = .retry (.streamUnit v) →
    exec (.streamUnitArrival u v) s = .next ((s.dropReq r).modThread u fun x => { x with
      state := .ready, wait := .none, bindings := x.bindings.map fun c =>
        if c.reg = v then { c with fetched := (b.next, q.result) :: c.fetched.filter fun p => p.1 != b.next } else c })) ∧
  (∀ (s : State) (u v : Nat), (s.thread u).bindings.find? (fun c => c.reg == v) = none →
    exec (.streamRefill u v) s = .next s) ∧
  ∀ (s : State) (c : Nat) (q : Sequencer) (n : Nest), q = (s.core c).seq → q.nest = some n → q.running = true →
    (q.emitted < n.n.foldl (· * ·) 1 → q.queue.length < 8 → q.out.length < q.permits → q.lastAt ≠ s.now + 1 →
      ∃ r, exec (.sequencerEmit c) s = .next (s.modCore c fun k => { k with seq := { q with
        queue := q.queue ++ [(r, BitVec.ofNat 8 q.emitted)], out := q.out ++ [BitVec.ofNat 8 q.emitted],
        emitted := q.emitted + 1, done := q.emitted + 1 == n.n.foldl (· * ·) 1, lastAt := s.now + 1 } }) ∧
        ∀ n0 rest, n.n = n0 :: rest → 1 ≤ n0 → n0 < 2 ^ 16 → field r.toNat 0 16 = q.emitted % n0) ∧
    (n.n.foldl (· * ·) 1 ≤ q.emitted → q.queue = [] →
      exec (.sequencerEmit c) s = .next (s.modCore c fun k => { k with seq := { q with running := false } }))

/-- R30, R57, R58, R231, R348, R349, R362 to R365, R411 to R413: a message is delivered into the lowest free entry of its
core's ring, into the overflow pool, or dropped; an overflow entry moves; a thread that the network held back goes on; the
routine table starts a thread at its routine; a twin pair agrees, or rolls back; a notice is kept. -/
def Obligations.MessageSteps : Prop :=
  (∀ (s : State) (c : Nat) (m : Message) (rest : List Message), (s.core c).lastDelivery ≠ s.now + 1 → s.flight = m :: rest →
    m.dstDev = s.dev.toNat → m.dstCore = c → m.after = [] →
    (s.accepts c m = false → ∃ t, exec (.messageDelivery c) s = .next t ∧ t.flight = rest ∧
      t.mem = (s.reportRing m.launch c none m.hdr).mem ∧ t.threads = s.threads ∧ t.tcm = s.tcm ∧
      (t.core c).entries = (s.core c).entries) ∧
    (s.accepts c m = true → ∀ i, (s.core c).overflow = [] → s.freeEntry c = some i → ∃ t,
      exec (.messageDelivery c) s = .next t ∧ t.flight = rest ∧ t.threads = s.threads ∧ t.mem = s.mem ∧
      (t.core c).entries.get {} i = { state := .delivered, order := (s.core c).delivered, hdr := m.hdr } ∧
      t.tcmRead c (0xF000 + 128 * i) 8 = m.hdr.toNat ∧
      (∀ j v, m.payload[j]? = some v → t.tcmRead c (0xF000 + 128 * i + 8 + 8 * j) 8 = v.toNat) ∧
      (∀ k a, m.payload.length ≤ 15 → ¬ (k = c ∧ 0xF000 + 128 * i ≤ a ∧ a < 0xF000 + 128 * i + 128) → a < 2 ^ 16 →
        t.tcmByte k a = s.tcmByte k a) ∧ t.events = s.events ++ [.routineSpawn c]) ∧
    (s.accepts c m = true → (s.core c).overflow ≠ [] ∨ s.freeEntry c = none →
      (s.overflowRoom c = true → exec (.messageDelivery c) s = .next ({ s with flight := rest }.modCore c fun k =>
        { k with lastDelivery := s.now + 1, overflow := k.overflow ++ [m] })) ∧
      (s.overflowRoom c = false → exec (.messageDelivery c) s = .next s))) ∧
  (∀ (s : State) (c i : Nat) (m : Message) (ms : List Message), (s.core c).overflow = m :: ms →
    s.freedEntry c = some i → ∃ t, exec (.overflowMove c) s = .next t ∧ (t.core c).overflow = ms ∧ t.threads = s.threads ∧ t.mem = s.mem ∧
      (t.core c).entries.get {} i = { state := .delivered, order := (s.core c).delivered, hdr := m.hdr } ∧
      t.tcmRead c (0xF000 + 128 * i) 8 = m.hdr.toNat ∧
      t.events = s.events ++ .routineSpawn c :: if ms = [] then [] else [.overflowMove c]) ∧
  (∀ (s : State) (u d : Nat), (s.thread u).wait = .retry (.network d) → exec (.flowControlRelease u) s = .next
    (if s.networkRoom (coreOf u) = true then s.modThread u fun x => { x with state := .ready, wait := .none } else s)) ∧
  (∀ (s : State) (c i k cls limit pc : Nat) (w : Writer) (e : RingEntry), (s.core c).rtabBy = some w →
    (s.core c).lastStart ≠ s.now + 1 → (s.core c).entries = [(i, e)] → e.state = .delivered →
    cls = field e.hdr.toNat 0 6 → field e.hdr.toNat 6 2 = 0 → s.routine c cls = (1, limit, pc) →
    s.liveOfClass c cls < limit → s.freeSlotOf c w.crewId = some k → w.stores = [] →
    w.proofRun ≠ 1 ∨ s.journalRoom (spanOf c) 136 = true →
    ((s.core c).rtabEn = false → exec (.routineSpawn c) s = .next s) ∧
    ((s.core c).rtabEn = true → ∃ t y, exec (.routineSpawn c) s = .next t ∧ y = t.thread (16 * c + k) ∧ y.state = .ready ∧
      y.pc = BitVec.ofNat 57 pc ∧ y.s = [(1, ofNat64 (0xF000 + 128 * i))] ∧ y.v = [] ∧ y.msgClass = some cls ∧
      y.seg.get {} 0 = { base := 0, length := 65536, space := .tcm, x := false, w := true, rd := true } ∧
      (∀ n, n ≠ 0 → y.seg.get {} n = w.seg.get {} n) ∧ y.launch = w.launch ∧ y.crewId = w.crewId ∧ y.priv = w.priv ∧
      ((t.core c).entries.get {} i).state = .claimed k ∧ s.sameOthers t (16 * c + k) ∧ t.mem = s.mem)) ∧
  (∀ (s : State) (u l f : Nat) (x y : Thread), l = s.leaderOf u → f = partner l → x = s.thread l → y = s.thread f →
    x.comparing = true → y.comparing = true → x.pair.toDo = 0 →
    (x.pair.approved = true → x.pair.units = 0 → exec (.twinCompare u) s = .next
      ((s.modThread l fun z => { z with state := .ready, wait := .none, pair := { z.pair with approved := false } }).modThread f
        fun z => { z with state := .ready, wait := .none, pair := { z.pair with approved := false } })) ∧
    (x.pair.approved = false → x.pair.print = y.pair.print → x.pair.diverged = false → y.pair.diverged = false →
      x.repAt = none → ∃ t, exec (.twinCompare u) s = .next t ∧ t.events = s.events ++ [.twinCompare l] ∧
        t.thread l = { x with pair := { agreed := x.context, approved := true, held := x.pair.held,
                                        toDo := x.pair.held.length } } ∧
        t.thread f = { y with pair := { agreed := x.context, approved := true } } ∧ s.sameBytes t ∧ t.cores = s.cores) ∧
    (x.pair.approved = false → x.pair.print ≠ y.pair.print ∨ x.pair.diverged = true ∨ y.pair.diverged = true →
      x.pair.disagreed = false → ∃ t, exec (.twinCompare u) s = .next t ∧ s.sameBytes t ∧ t.cores = s.cores ∧
        t.events = s.events ∧ ∀ m z, (m, z) = (l, x) ∨ (m, z) = (f, y) → t.thread m =
          { (z.withContext x.pair.agreed).openOwn with
            state := .ready, wait := .none, repAt := none, errors := [],
            pair := { agreed := x.pair.agreed, disagreed := true } })) ∧
  ∀ (s : State) (group home stage dev : Nat) (r : Bool) (n : Notice),
    n = { group := group, home := home, stage := stage, dev := dev, retired := r } →
    exec (.joinNotice group home stage dev r) s =
      .next (if n ∈ s.notices then s else { s with notices := s.notices ++ [n] })

/-- R120, R341 to R343, R376, R381, R382: a walk fills the TLBs and its fetch goes on, or a fault record is sent and its
thread parks; the answers of firmware; the wake of a parked thread by its park number; a thread set aside, with its part in the
span's save region, and returned. The place in the region is the model's (log entry 141). -/
def Obligations.PageFaultSteps : Prop :=
  (∀ (s : State) (sp e u k : Nat) (n : Byte) (m : Miss), s.misses.find (sp * 4096 + e) = some m → m.joined = [.fetch u n] →
    k = clusterOf (coreOf u) → s.heldEntry m.asid m.dva.toNat = none → s.entriesHeld m.asid m.dva.toNat = false →
    (m.answering = false → m.serving = false → ∀ l, s.walk m.asid m.dva.toNat = some l →
      ∃ t, exec (.translationWalk sp e) s = .next t ∧ t.misses = s.misses.drop (sp * 4096 + e) ∧
        t.tlbFind k m.asid m.dva.toNat = some l ∧ (l.once = false → t.mem = s.mem) ∧
        t.thread u = { s.thread u with state := .ready, wait := .none } ∧ s.sameOthers t u) ∧
    (m.answering = false → m.serving = false → s.walk m.asid m.dva.toNat = none →
      ∃ t, exec (.translationWalk sp e) s = .next t ∧
      t.misses = s.misses.put (sp * 4096 + e) { m with answering := true } ∧ s.sameOthers t u ∧ t.mem = s.mem ∧
      t.thread u = { s.thread u with
        state := .pfault, park := (s.thread u).park + 1, faultSince := s.now, repc := (s.thread u).progress } ∧
      ∀ p, p = (s.launchOf m.launch).cp → (t.cps.get {} p).faults = (s.cps.get {} p).faults ++ [{
        cp := p, tick := s.now, kmask := m.kmask, joined := 1, entry := e, span := sp, asid := m.asid, dva := m.dva }]) ∧
    (m.answering = true → m.serving = false → exec (.faultServe sp e) s = .next { s with
      misses := s.misses.put (sp * 4096 + e) { m with serving := true }, events := s.events ++ [.translationWalk sp e] }) ∧
    (m.answering = true → m.serving = true → ∀ l, s.walk m.asid m.dva.toNat = some l →
      ∃ t, exec (.translationWalk sp e) s = .next t ∧ t.misses = s.misses.drop (sp * 4096 + e) ∧
        t.tlbFind k m.asid m.dva.toNat = some l ∧ (l.once = false → t.mem = s.mem) ∧ t.threads = s.threads ∧
        .pageFaultWake u n.toNat false ∈ t.events) ∧
    (m.answering = true → m.serving = true → s.walk m.asid m.dva.toNat = none →
      ∃ t p, exec (.translationWalk sp e) s = .next t ∧ t.misses = s.misses.put (sp * 4096 + e) { m with serving := false } ∧
        t.threads = s.threads ∧ t.mem = s.mem ∧ p = (s.launchOf m.launch).cp ∧
        (t.cps.get {} p).faults.length = (s.cps.get {} p).faults.length + 1) ∧
    (m.answering = true → m.serving = false → exec (.faultReject sp e) s = .next { s with
      misses := s.misses.drop (sp * 4096 + e), events := s.events ++ [.pageFaultWake u n.toNat true] }) ∧
    (m.answering = false ∨ m.serving = true → exec (.faultServe sp e) s = .next s ∧ exec (.faultReject sp e) s = .next s)) ∧
  (∀ (s : State) (u park dva : Nat), (∀ a ∈ s.asides, a.thread ≠ u ∨ a.saved.park.toNat ≠ park) →
    (∀ r, (s.thread u).state ≠ .pfault ∨ (s.thread u).park.toNat ≠ park → exec (.pageFaultWake u park r) s = .next s) ∧
    ((s.thread u).state = .pfault → (s.thread u).park.toNat = park → (s.thread u).wait = .fetch dva →
      exec (.pageFaultWake u park false) s = .next (s.modThread u fun x => { x with state := .ready, wait := .none }) ∧
      (s.hasHandler u → ∃ t, exec (.pageFaultWake u park true) s = .next t ∧
        (s.reportThread u 7 .page dva (s.thread u).pc.toNat 0).vectored t u 0x05 (ofNat64 dva) (s.thread u).pc))) ∧
  (∀ (s : State) (u : Nat),
    (s.mayAside u = false → exec (.setAside u) s = .next s) ∧
    (s.mayAside u = true → ∃ t a p, exec (.setAside u) s = .next t ∧ t.asides = s.asides ++ [a] ∧ a.thread = u ∧
      p = s.saveAddress (spanOf (coreOf u)) a.place ∧
      (∀ x, ¬ (p ≤ x ∧ x < p + 1344) → t.mem.read x = s.mem.read x) ∧
      (∀ i, i < 31 → t.mem.readLE (p + 8 * i) 8 = ((s.thread u).s.get 0 (i + 1)).toNat) ∧
      t.mem.readLE (p + 248) 8 = (s.thread u).pc.toNat ∧ t.tcm = s.tcm ∧ t.deck = s.deck ∧
      a.saved.s = (s.thread u).s ∧ a.saved.v = (s.thread u).v ∧ a.saved.pc = (s.thread u).pc ∧ a.saved.wait = (s.thread u).wait ∧
      t.thread u = { counters := (s.thread u).counters, park := (s.thread u).park, given := (s.thread u).given } ∧
      s.sameOthers t u ∧
      t.events = s.events ++ [.routineSpawn (coreOf u)])) ∧
  ∀ (s : State) (u dva : Nat) (a : Aside), (s.asides.find? fun b => b.thread == u && b.woken) = some a →
    (s.thread u).state = .free → a.rejected = false → a.saved.wait = .fetch dva → ∃ t, exec (.setAsideReturn u) s = .next t ∧
      t.thread u = { a.saved with counters := (s.thread u).counters, park := (s.thread u).park, given := (s.thread u).given,
                                  state := .ready, wait := .none } ∧
      s.sameOthers t u ∧ s.sameBytes t ∧ ∀ b ∈ t.asides, b.thread ≠ u

/-- R30, R224, R265, R350, R353, R354, R357, R358, R360, R361, R366, R386, R387: the steps that move crews: a placement gives
the crew its core and its deck and starts its thread; a crew without threads retires; relief and requests pre-empt; a thread
stops; a crew is saved, its record written to its place in the save region and to nothing else; a killed slot is freed; a command
processor takes a packet. The size of the largest record is the model's own sum of R389's parts (log entry 60), the place of a
record in its region the model's choice (log entry 141). -/
def Obligations.CrewSteps : Prop :=
  (∀ (s : State) (span id j : Nat) (k : Crew) (l : Launch) (p : Place),
    (s.now % 32 ≠ 0 → exec (.placementDecision span) s = .next s) ∧
    (s.now % 32 = 0 → k = s.crewOf id → l = s.launchOf k.launch → s.candidates span = [(id, k)] → k.save = none →
      s.fit k = some p → l.cores = 1 → p.slots = [j] → j < 16 → p.cluster * 16 ≤ p.first →
      ∃ (t : State) (x : Thread), exec (.placementDecision span) s = .next t ∧ x = t.thread (16 * p.first + j) ∧
        x.state = .ready ∧ x.wait = .none ∧ x.pc = BitVec.ofNat 57 (l.entries.getD k.stage 0) ∧
        x.s = [(1, l.arg.setWidth 64)] ∧ x.v = [] ∧ x.tvec = l.tvec ∧ x.priv = l.priv ∧ x.launch = k.launch ∧
        x.crewId = id ∧ x.given = some id ∧ x.tid = BitVec.ofNat 8 j ∧
        x.seg.get {} 0 = { base := 0, length := 65536, space := .tcm, x := false, w := true, rd := true } ∧
        x.seg.get {} 1 = { base := BitVec.ofNat 57 p.deck, length := BitVec.ofNat 57 l.deck, space := .deck, x := false,
                           w := true, rd := true } ∧
        (∀ n, 2 ≤ n → x.seg.get {} n = l.segs.get {} n) ∧ (t.crewOf id).status = .resident ∧
        (t.crewOf id).placed = true ∧ (t.crewOf id).placedAt = s.now ∧ (t.crewOf id).slots = [j] ∧
        (t.crewOf id).firstCore = p.first ∧ (t.crewOf id).deckBase = p.deck ∧ s.sameOthers t (16 * p.first + j) ∧
        t.mem = s.mem)) ∧
  (∀ (s : State) (c : Nat) (k : Crew), k = s.crewOf c → s.crewWindows c = [] →
    (s.mayRetire c = true → k.run = 0 →
      (∀ core ∈ s.crewCores c, (s.core core).entries = [] ∧ (s.core core).overflow = []) →
      ∃ t, exec (.crewRetirement c) s = .next t ∧ (t.crewOf c).status = .retired ∧ (t.crewOf c).placed = false ∧
        t.mem = s.mem ∧ t.tcm = s.tcm ∧ t.deck = s.deck ∧
        ∀ u, t.thread u = if (s.thread u).given = some c then { s.thread u with given := none } else s.thread u) ∧
    (s.mayRetire c = false → k.status = .retired → k.placed = true → ∀ l, l = s.launchOf k.launch →
      (l.completed = false ∨ l.told = true → exec (.crewRetirement c) s =
        .next (s.modCrew c fun x => { x with placed := false })) ∧
      (l.completed = true → l.told = false → s.launchWindows k.launch = [] → exec (.crewRetirement c) s = .next { s with
        crews := s.crews.put c { k with placed := false }
        launches := s.launches.put k.launch { l with told := true }
        flight := s.flight ++ [{ hdr := 0x23F, payload := [ofNat64 k.launch, ofNat64 (l.queue * 2 ^ 32 + l.slot)],
                                 dstDev := s.dev.toNat, dstCore := 8192 + l.cp }]
        events := s.events ++ [.messageDelivery (8192 + l.cp)] }))) ∧
  (∀ (s : State) (span c v : Nat) (k kv : Crew),
    (s.parkedTicks.get 0 span < 2 ^ 16 → exec (.relief span) s = .next s) ∧
    (2 ^ 16 ≤ s.parkedTicks.get 0 span → c ≠ v → s.crews = [(c, k), (v, kv)] → k.span = span → kv.span = span →
      s.eligible k = true → s.fit k = none → kv.status = .resident → kv.launch = k.launch → k.stage < kv.stage →
      s.saveRoom span (s.maxRecord kv) = true →
      exec (.relief span) s =
        .next (({ s with parkedTicks := s.parkedTicks.put span 0 }).emit (.preemptionRequest v)))) ∧
  (∀ (s : State) (c n : Nat) (k : Crew), k = s.crewOf c → n = s.maxRecord k →
    (k.status ≠ .resident → exec (.preemptionRequest c) s = .next s) ∧
    (k.status = .resident → s.saveRoom k.span n = false →
      exec (.preemptionRequest c) s = .next (s.modCrew c fun x => { x with preempt := true })) ∧
    (k.status = .resident → s.saveRoom k.span n = true → ∃ t, exec (.preemptionRequest c) s = .next t ∧
      t.crewOf c = { k with status := .stopping, preempt := true, reserved := n } ∧
      t.saveUsed.get 0 k.span = s.saveUsed.get 0 k.span + n ∧ t.events = s.events ++ [.contextSave c] ∧
      t = { s with crews := t.crews, saveUsed := t.saveUsed, events := t.events })) ∧
  (∀ (s : State) (u : Nat) (x : Thread), x = s.thread u →
    (s.wantsStop u = false → exec (.threadStop u) s = .next s) ∧
    (s.wantsStop u = true → x.twin = false → x.gangSize = 1 → x.state = .ready → x.wait = .none → x.rlxn = 0 →
      x.pendingFaults = [] → s.endsRun u = false → s.misses = [] →
      exec (.threadStop u) s = .next ((s.setThread u { x with
        state := .stopping, stopReq := false, lineAt := none, repAt := none,
        repc := match x.repAt with
          | some (i, n) => { act := true, done := BitVec.ofNat 6 i, left := BitVec.ofNat 6 n }
          | none => x.repc }).emit (.contextSave x.crewId)))) ∧
  (∀ (s : State) (c : Nat) (k : Crew), k = s.crewOf c →
    (k.status ≠ .stopping ∨ s.crewStopped c = false → exec (.contextSave c) s = .next s) ∧
    (k.status = .stopping → s.crewStopped c = true → s.crewWindows c = [] →
      (s.mayRetire c = false → k.save = none → exec (.contextSave c) s =
        .next ((s.modCrew c fun x => { x with save := some { tick := s.now } }).emit (.contextSave c))) ∧
      (∀ r, k.save = some r → s.crewCopies c = [] → (∀ a ∈ s.asides, a.saved.crewId ≠ c) →
        ∃ t w p, exec (.contextSave c) s = .next t ∧ (t.crewOf c).status = .saved ∧ (t.crewOf c).placed = false ∧
          (t.crewOf c).save = some w ∧ p = s.saveAddress k.span w.place ∧
          (∀ a, ¬ (p ≤ a ∧ a < p + w.size) → t.mem.read a = s.mem.read a) ∧ t.mem.readList p 64 = w.header ∧
          (∀ i, i < w.size - 64 → t.mem.read (p + 64 + i) = (w.parts k.firstCore).flatten.getD i 0) ∧
          (∀ u, (s.thread u).given = some c → (t.thread u).state = .free ∧ (t.thread u).given = none ∧
            ((s.thread u).state ≠ .free → ∃ x, (coreOf u - k.firstCore, slotOf u, x) ∈ w.threads ∧ x.s = (s.thread u).s ∧
              x.v = (s.thread u).v ∧ x.pc = (s.thread u).pc ∧ x.seg = (s.thread u).seg ∧ x.repc = (s.thread u).repc)) ∧
          ∀ u, (s.thread u).given ≠ some c → t.thread u = s.thread u))) ∧
  (∀ (s : State) (u : Nat) (x : Thread), x = s.thread u →
    (x.state ≠ .killed ∨ s.now < x.scrubEnd → exec (.killScrubEnd u) s = .next s) ∧
    (x.state = .killed → x.scrubEnd ≤ s.now → 0 < x.rlxn →
      exec (.killScrubEnd u) s = .next (s.later (s.now + 1) (.killScrubEnd u))) ∧
    (x.state = .killed → x.scrubEnd ≤ s.now → x.rlxn = 0 → x.pendingFaults = [] →
      ∃ t, exec (.killScrubEnd u) s = .next t ∧ (t.thread u).state = .free ∧ (t.thread u).s = [] ∧ (t.thread u).v = [] ∧
        (t.thread u).seg = [] ∧ s.sameBytes t ∧ s.sameOthers t u)) ∧
  ∀ (s : State) (p q slot th a w dva : Nat) (r : Option Nat) (lf : Leaf) (l : Launch),
    (s.mayTake p = false → exec (.packetTake p) s = .next s) ∧
    (s.mayTake p = true → (s.cps.get {} p).submitted = [(q, slot, r, th)] → q % 16 = p → (s.queue q).en = true →
      (s.iface (s.queueIface q)).asid = some a →
      dva = (s.queue q).ring.toNat + 256 * (slot % 2 ^ (s.queue q).lg) → s.walk a dva = some lf → s.heldEntry a dva = none →
      s.noteMapped a dva lf = s → s.windowsOn (lf.phys dva / 256) = [] → s.blockAgents (lf.phys dva / 256) = [] →
      w = s.memRead (lf.phys dva) 256 →
      s.packetStatus q a w = 1 →
      ∃ t, exec (.packetTake p) s = .next t ∧ (t.cps.get {} p).submitted = [] ∧
        (t.cps.get {} p).lastAccept = some s.now ∧ (t.cps.get {} p).results.get (0, 0) th = (1, s.nextLaunch) ∧
        t.nextLaunch = s.nextLaunch + 1 ∧ t.threads = s.threads ∧ t.cores = s.cores ∧
        (l = t.launchOf s.nextLaunch → l.live = true ∧ l.queue = q ∧ l.slot = slot ∧ l.asid = a ∧ l.cp = p ∧
          l.cores = field w (8 * 0x38) 5 ∧ l.threads = field w (8 * 0x38 + 8) 5 ∧
          l.deck = 256 * field w (8 * 0x38 + 16) 14 ∧ l.nstage = field w 12 4 + 1 ∧
          l.arg = BitVec.ofNat 57 (field w (8 * 0x10) 57) ∧ l.signal = BitVec.ofNat 57 (field w (8 * 8) 57) ∧
          l.errDva = BitVec.ofNat 57 (field w (8 * 0x18) 57) ∧
          l.stageCrews = (List.range (field w 12 4 + 1)).map fun i => field w (8 * 0x40 + 16 * i) 16))

/-- R369, R374, R399, R404, R406, R408 to R410, R419: the steps about proof runs, the journal, sites and rows: the verdict of
a proof run that agrees, the third run placed where it does not, the loss of an original; space freed; a site closed,
injected, reopened; the limit; the counts of activations. -/
def Obligations.ProofAndSites : Prop :=
  (∀ (s : State) (p c b i j : Nat) (k o : Crew) (x : Block) (e : FillEntry), k = s.crewOf p → c = k.original → o = s.crewOf c →
    k.status = .retired → k.void = false → k.run = 2 →
    (k.digest.agrees o.digest = true → o.heldBlocks = [b] → x = s.block b → x.resident e → x.held = true →
      e.verdicts = [c] → x.waiters = [] → (∀ q ∈ s.copies, q.2.heldOn ≠ some b) → o.usedSites = [i] → k.usedSites = [j] →
      i ≠ j → (s.site i).pass + 1 < 2 ^ 16 → (s.site j).pass + 1 < 2 ^ 16 →
      ∃ t, exec (.proofRunRetirement p) s = .next t ∧ (t.crewOf c).passed = true ∧ (t.crewOf c).heldBlocks = [] ∧
        (t.crewOf p).void = true ∧ (t.block b).pres = .full ∧ (t.block b).gen = x.gen ∧ t.mem = s.mem ∧
        t.threads = s.threads ∧ ∀ n, t.site n =
          if n = i ∨ n = j then { s.site n with pass := (s.site n).pass + 1 } else s.site n) ∧
    (k.digest.agrees o.digest = false → ∃ t, exec (.proofRunRetirement p) s = .next t ∧ t.nextCrew = s.nextCrew + 1 ∧
      t = { s with crews := t.crews, nextCrew := t.nextCrew } ∧ (∀ n, n ≠ s.nextCrew → t.crewOf n = s.crewOf n) ∧
      ∀ z, z = t.crewOf s.nextCrew → z.run = 3 ∧ z.original = c ∧ z.status = .pending ∧ z.launch = o.launch ∧
        z.num = o.num ∧ z.stage = o.stage ∧ z.bay = o.bay ∧ z.hold = o.hold ∧
        (∀ n ∈ k.clusters, n ∈ z.avoid) ∧ ∀ n ∈ o.clusters, n ∈ z.avoid)) ∧
  (∀ (s : State) (p c q i : Nat) (k o z : Crew), k = s.crewOf p → c = k.original → o = s.crewOf c → k.status = .retired →
    k.void = false → k.run = 3 →
    (s.crews.find? fun (n : Nat × Crew) => n.2.original == c && n.2.run == 2 && !n.2.void) = some (q, z) →
    k.digest.agrees z.digest = true → o.hold = false → o.usedSites = [i] → k.usedSites = [] → z.usedSites = [] →
    ∃ t, exec (.proofRunRetirement p) s = .next t ∧ (t.site i).strain = min 0xFFFF ((s.site i).strain + 256) ∧
      (∀ n, n ≠ i → t.site n = s.site n) ∧ (t.crewOf p).void = true ∧ t.threads = s.threads) ∧
  (∀ (s : State) (span r : Nat) (rest : List Nat),
    (s.journalWait.get [] span = [] → exec (.journalSpaceFreed span) s = .next s) ∧
    (s.journalWait.get [] span = r :: rest →
      ((s.req r).live = false → exec (.journalSpaceFreed span) s =
        .next (({ s with journalWait := s.journalWait.put span rest }).emit (.journalSpaceFreed span))) ∧
      ((s.req r).live = true → s.journalRoom span (s.req r).entry.bytes = false →
        exec (.journalSpaceFreed span) s = .next s) ∧
      ((s.req r).live = true → s.journalRoom span (s.req r).entry.bytes = true →
        exec (.journalSpaceFreed span) s = .next ((({ s with journalWait := s.journalWait.put span rest }).start r).emit
          (.journalSpaceFreed span))))) ∧
  (∀ (s : State) (site : Nat),
    ((s.site site).closing = false → exec (.rowRemap site) s = .next s) ∧
    ((s.site site).closing = true → (∀ p ∈ s.threads, clusterOf (coreOf p.1) = site / 20 →
        p.2.state = .free ∨ p.2.state = .stopping) →
      (∀ p ∈ s.crews, p.2.placed = true → p.2.cluster = site / 20 → p.2.status ≠ .resident ∧ p.2.status ≠ .stopping) →
      exec (.rowRemap site) s =
        .next (s.modSite site fun x => { x with closing := false, closed := true, injector := 0 })) ∧
    ∀ (c : Nat) (k : Crew), (s.site site).closing = true → s.crews = [(c, k)] → k.placed = true → k.cluster = site / 20 → k.status = .resident →
      s.saveRoom k.span (s.maxRecord k) = true → exec (.rowRemap site) s =
        .next ((s.later (s.now + 1) (.rowRemap site)).emit (.preemptionRequest c))) ∧
  (∀ (s : State) (site : Nat) (w : Word), exec (.siteInjectorWrite site w) s = .next
    (if field w.toNat 0 12 = 0 ∧ field w.toNat 25 7 = 0 ∧ field w.toNat 52 11 = 0 ∧
        (w.getLsbD 63 = true → field w.toNat 32 20 ≠ 0) then s.modSite site fun x => { x with injector := w } else s)) ∧
  (∀ (s : State) (limit : Nat), (limit = 0 ∨ 0xFFFF < limit → exec (.strainLimitWrite limit) s = .next s) ∧
    (1 ≤ limit → limit ≤ 0xFFFF → (∀ n, (s.site n).strain ≤ 0xFFFF) → ∃ t, exec (.strainLimitWrite limit) s = .next t ∧
      t.strainLimit = limit ∧ t.mem = s.mem ∧ t.threads = s.threads ∧ ∀ n, t.site n = { s.site n with
        closing := (s.site n).closing || (decide (limit ≤ (s.site n).strain) && !(s.site n).closed) })) ∧
  (∀ (s : State) (site : Nat),
    exec (.siteReopen site true) s =
      .next (s.modSite site fun x => { x with strain := 0, closed := false, closing := false }) ∧
    exec (.siteReopen site false) s = .next s) ∧
  ∀ (s : State) (c row : Nat) (x : Channel), x = s.channel c →
    (row ∈ x.listed → s.now < x.last.get 0 row + s.power.ticks 40960 → exec (.rowActivation c row) s =
      .next (s.later (x.last.get 0 row + s.power.ticks 40960) (.rowActivation c row))) ∧
    (row ∉ x.listed ∨ x.last.get 0 row + s.power.ticks 40960 ≤ s.now → ∃ t y, exec (.rowActivation c row) s = .next t ∧
      ((∀ w ∈ x.queue, w.row = row → s.now < w.due) → t = s.putChannel c y ∧ y.queue = x.queue) ∧
      (∀ w ws, x.queue = w :: ws → w.row = row → w.due ≤ s.now → t = (s.putChannel c y).emit w.next ∧ y.queue = ws) ∧
      y.last = x.last.put row s.now ∧
      (row ∈ x.listed ∨ x.counts.get 0 row + 1 ≠ 2048 → y.listed = x.listed ∧ y.refreshed = x.refreshed ∧
        y.counts = x.counts.put row (x.counts.get 0 row + 1)) ∧
      (row ∉ x.listed → x.counts.get 0 row + 1 = 2048 →
        (x.listed.length < 64 → y.listed = x.listed ++ [row] ∧ y.refreshed = x.refreshed) ∧
        (64 ≤ x.listed.length → y.listed = x.listed ∧ y.refreshed = x.refreshed + 1 ∧ y.counts.get 0 row = 0))) ∧
    exec (.refreshWindowEnd c) s = .next (s.putChannel c { x with counts := [], listed := [] }) ∧
    ∀ a, a < 768 * 2 ^ 30 → channelOf a = 64 * (a / (96 * 2 ^ 30)) + (field a 8 6 ^^^ field a 14 6) ∧
      channelOf a / 64 = homeSpan a ∧ channelOf a < 512 ∧ stackOf a = channelOf a / 32

/-- R414 to R418, R441: the causeway: flits received, acknowledged, sent again, retraining, the port's loss, injectors and
routes. Whether a retrain succeeds, where nothing outside has ended it, is a free value (log entry 80); that a device comes back
into the domain with a new mask is an inference (log entry 127). -/
def Obligations.CausewaySteps : Prop :=
  (∀ (s : State) (p seq typ : Nat) (ok : Bool) (bs : List Byte) (x : Port), x = s.port p →
    (x.up = false ∨ x.training = true → exec (.flitReceive p seq typ ok bs) s = .next s) ∧
    (x.up = true → x.training = false → x.injectors = [] → x.delayed = [] →
      (ok = false ∨ (typ ≠ 1 ∧ typ ≠ 2 ∧ typ ≠ 3 ∧ (typ ≠ 0 ∨ seq ≠ x.rxSeq)) → ∀ n, n = (if ok then 0 else 1) →
        (x.gap = true → exec (.flitReceive p seq typ ok bs) s =
          .next (if ok then s else s.modPort p fun y => { y with crcErrors := y.crcErrors + 1 })) ∧
        (x.gap = false → exec (.flitReceive p seq typ ok bs) s = .next (s.modPort p fun y => { y with
          crcErrors := y.crcErrors + n, gap := true, naks := y.naks + 1, sent := y.sent + 1,
          wire := y.wire ++ [{ typ := 3, payload := toBytesLE x.rxSeq 2 }] }))) ∧
      (ok = true → typ = 1 → exec (.flitReceive p seq typ ok bs) s = .next s) ∧
      (ok = true → typ = 2 → exec (.flitReceive p seq typ ok bs) s =
        .next (s.emit (.ack p (ofBytesLE (bs.take 2) % 4096)))) ∧
      (ok = true → typ = 3 → exec (.flitReceive p seq typ ok bs) s =
        .next (s.emit (.nak p (ofBytesLE (bs.take 2) % 4096)))) ∧
      (ok = true → typ = 0 → seq = x.rxSeq → seq < 4096 →
        (x.unacked < 31 → exec (.flitReceive p seq typ ok bs) s = .next (((s.modPort p fun y => { y with
          rxSeq := (seq + 1) % 4096, gap := false, unacked := y.unacked + 1, received := y.received ++ [bs] }).later
            (s.now + 256) (.ackTimer p)).peerFlit bs)) ∧
        (31 ≤ x.unacked → exec (.flitReceive p seq typ ok bs) s = .next (((s.modPort p fun y => { y with
          rxSeq := (seq + 1) % 4096, gap := false, unacked := 0, received := y.received ++ [bs], sent := y.sent + 1,
          wire := y.wire ++ [{ typ := 2, payload := toBytesLE seq 2 }] }).later (s.now + 256) (.ackTimer p)).peerFlit
            bs))))) ∧
  (∀ (s : State) (r : Nat) (q : Req) (d : Remote), q = s.req r → q.live = true → q.from_ = some d →
    ((q.status = .replied ∨ ∃ c a, q.status = .refused c a) → q.kind = .store ∨ (∃ sg, q.kind = .load sg) →
      exec (q.reply r) s = .next ((s.dropReq r).overCauseway d.dev.toNat (q.phys % 2 ^ 48 / 256))) ∧
    (q.status = .issued → q.once = false → s.homeLine.get [] (q.phys / 256) = [] → (s.block (q.phys / 256)).pres ≠ .poison →
      s.agents (q.phys / 64) = [] →
      (∀ sg, q.kind = .load sg →
        exec (.loadReply r) s = .next (s.answer r (BitVec.ofNat 128 (s.memRead q.phys q.n)))) ∧
      (q.kind = .store → s.windowsOn (q.phys / 256) = [] → s.sectorDir.length < 65536 → ∃ t,
        exec (.memoryReply r) s = .next t ∧ s.mem.written t.mem q.phys q.n q.data.toNat ∧ t.reqs = s.reqs.drop r ∧ t.threads = s.threads))) ∧
  (∀ (s : State) (p seq : Nat) (x : Port) (old fs : List Flit) (f : Flit), x = s.port p →
    ((∀ g ∈ x.replay, g.seq ≠ seq) → exec (.ack p seq) s = .next s ∧ exec (.nak p seq) s = .next s) ∧
    (x.replay = old ++ f :: fs → (∀ g ∈ old, g.seq ≠ seq) → f.seq = seq →
      (x.backlog = [] → s.pendingRoutes = [] → exec (.ack p seq) s = .next ({ s with
        flight := ((old ++ [f]).filterMap Flit.note).foldl List.erase s.flight }.modPort p fun y =>
          { y with replay := fs })) ∧
      (x.up = true → x.training = false → x.injectors = [] → x.delayed = [] → (x.replay.map Flit.seq).Nodup → ∀ t gs,
        gs = old ++ (f :: fs).map (fun g => { g with again := g.again + 1 }) →
        t = (s.modPort p fun y => { y with
          wire := y.wire ++ f :: fs, sent := y.sent + (f :: fs).length, replays := y.replays + (f :: fs).length,
          replay := gs }) →
        ((∃ g ∈ gs, 8 ≤ g.again) → exec (.nak p seq) s = .next (t.emit (.retrain p))) ∧
        ((∀ g ∈ gs, g.again < 8) → exec (.nak p seq) s = .next t)))) ∧
  (∀ (s : State) (p : Nat) (x : Port), x = s.port p →
    (x.unacked = 0 → exec (.ackTimer p) s = .next s) ∧
    (0 < x.unacked → x.up = true → x.training = false → x.injectors = [] → x.delayed = [] →
      exec (.ackTimer p) s = .next (s.modPort p fun y => { y with unacked := 0, sent := y.sent + 1, wire := y.wire ++ [{
        typ := 2, payload := toBytesLE ((y.rxSeq + 4095) % 4096) 2 }] })) ∧
    (x.up = false ∨ x.training = true → exec (.retrain p) s = .next s) ∧
    (x.up = true → x.training = false → exec (.retrain p) s = .next ((s.modPort p fun y => { y with
      training := true, retrains := y.retrains + 1, replay := y.replay.map fun f => { f with again := 0 } }).later (s.now + 2 ^ 18)
        (.retrainCompletion p (Config.trainOk p (x.retrains + 1))))) ∧
    (x.training = true → x.up = true →
      (x.injectors = [] → x.delayed = [] → x.backlog = [] → (x.replay.map Flit.seq).Nodup → ∀ as : List Flit,
        as = (if x.unacked = 0 then [] else [{ typ := 2, payload := toBytesLE ((x.rxSeq + 4095) % 4096) 2 }]) →
        exec (.retrainCompletion p true) s = .next (s.modPort p fun y => { y with
          training := false, failedTrains := 0, unacked := 0, wire := y.wire ++ y.replay ++ as,
          sent := y.sent + y.replay.length + as.length, replays := y.replays + y.replay.length,
          replay := y.replay.map fun f => { f with again := f.again + 1 } })) ∧
      exec (.retrainCompletion p false) s = .next ((s.modPort p fun y => { y with
        training := false, failedTrains := y.failedTrains + 1 }).emit
          (if x.failedTrains < 3 then .retrain p else .portDown p))) ∧
    (4 ≤ x.failedTrains → x.up = true → x.replay = [] → (∀ q, (s.port q).backlog = []) →
      ∀ y : Port, y = { x with up := false, training := false, delayed := [] } →
      ((∀ d ∈ s.devicesOn p, ∃ q, q ≠ p ∧ q ∈ s.portsTo d) →
        exec (.portDown p) s = .next (s.modPort p fun _ => y)) ∧
      ∀ d, s.devicesOn p = [d] → (∀ q ∈ s.portsTo d, q = p) → d ≠ s.dev.toNat → d ∉ s.gone → s.blocks = [] →
        s.reqs = [] → s.flight = [] →
        exec (.portDown p) s = .next { s.modPort p (fun _ => y) with gone := s.gone ++ [d] })) ∧
  (∀ (s : State) (p lane : Nat) (w : Word), exec (.laneInjectorWrite p lane w) s = .next
    (if field w.toNat 52 9 = 0 ∧ field w.toNat 6 10 = 0 ∧ field w.toNat 61 2 ≠ 3 ∧
        (w.getLsbD 63 = true → field w.toNat 32 20 ≠ 0) ∧ (field w.toNat 61 2 = 2 → field w.toNat 16 16 ≠ 0)
      then s.modPort p fun y => { y with injectors := y.injectors.put lane w } else s)) ∧
  (∀ (s : State) (p : Nat) (due rest : List (Nat × Flit)), (s.port p).delayed = due ++ rest → (∀ d ∈ due, d.1 ≤ s.now) →
    (∀ d, rest.head? = some d → s.now < d.1) → exec (.injectedDelayExpiry p) s =
      .next (s.modPort p fun y => { y with wire := y.wire ++ due.map (·.2), delayed := rest })) ∧
  ∀ (s : State) (d : Nat) (m : BitVec 12), s.pendingRoutes = [] →
    ((∀ q ∈ s.ports, ∀ f ∈ q.2.replay ++ q.2.backlog, f.dst ≠ d) →
      (∀ p, m.getLsbD p = true → (s.port p).up = true →
        exec (.routeTableWrite d m) s = .next { s with routes := s.routes.put d m, gone := s.gone.filter (· != d) }) ∧
      (m = 0 → d ≠ s.dev.toNat → d ∉ s.gone → s.blocks = [] → s.reqs = [] → s.flight = [] →
        exec (.routeTableWrite d m) s = .next { s with routes := s.routes.put d m, gone := s.gone ++ [d] })) ∧
    ∀ q ∈ s.ports, ∀ f ∈ q.2.replay ++ q.2.backlog, f.dst = d →
      exec (.routeTableWrite d m) s = .next { s with pendingRoutes := [(d, m)] }

/-- R299, R351, R424, R430 to R434, R337, R350, R427, R428: what a host and the command processors do: queue registers
written, registers and memory read, memory written, a CXL sector granted or given up, a function reset, a slot submitted, a
status read, a completion signal decremented. While a checkpoint copies, writes are held back. -/
def Obligations.HostSteps : Prop :=
  (∀ (s : State) (i j q : Nat) (w : Word), s.packageQueue i j = some q → j < 4096 → s.bootStopped = false →
    s.checkpointTo = none → s.portLine (i / 128) = [] →
    (w.toNat < 2 ^ 32 → exec (.notify i j w) s = .next { s.modQueue q (fun x => { x with widx := w.toNat }) with
      flight := s.flight ++ [{ hdr := 0x13E, payload := [ofNat64 (q * 2 ^ 32 + w.toNat)], dstDev := s.dev.toNat,
                               dstCore := 8192 + q % 16 }]
      events := s.events ++ [.messageDelivery (8192 + q % 16)] }) ∧
    (2 ^ 32 ≤ w.toNat → exec (.notify i j w) s = .next s) ∧
    exec (.qctl i j w) s = .next (s.modQueue q fun x => { x with
      pfrac := field w.toNat 52 12, phold := w.getLsbD 51, en := w.getLsbD 32,
      agecap := min (field w.toNat 12 4) (field (s.iface i).prcap.toNat 12 4), wgt := field w.toNat 8 4,
      prio := min (field w.toNat 0 4) (field (s.iface i).prcap.toNat 0 4) }) ∧
    exec (.qring i j w) s = .next
      (if (s.queue q).en = false ∧ field w.toNat 57 7 = 0 ∧ field w.toNat 4 4 = 0 ∧ 1 ≤ field w.toNat 0 4 ∧
          field w.toNat 0 4 ≤ 12 ∧ field w.toNat 8 49 * 256 % (2 ^ field w.toNat 0 4 * 256) = 0
        then s.modQueue q fun x => { x with ring := BitVec.ofNat 57 (field w.toNat 8 49 * 256), lg := field w.toNat 0 4,
                                            rdx := 0, widx := 0 }
        else s) ∧
    (w ≠ 1 → exec (.qstop i j w) s = .next s) ∧
    (∀ c, w = 1 → s.queueCrews q = [c] → (s.crewOf c).status = .resident →
      exec (.qstop i j w) s = .next ((s.modCrew c fun k => { k with preempt := true }).emit (.preemptionRequest c)))) ∧
  (∀ (s : State) (i j off n : Nat) (w : Word) (data : List Byte) (mask : List Bool) (e : Instr),
    ((e ∈ [Instr.notify i j w, .qctl i j w, .qring i j w, .qstop i j w, .registerWrite i off w, .hostWrite i off data mask] ∧
        s.checkpointTo ≠ none) ∨ (e ∈ [Instr.notify i j w, .qctl i j w, .qring i j w, .qstop i j w, .registerWrite i off w,
        .hostWrite i off data mask, .hostRead i off n] ∧ s.portLine (i / 128) ≠ [])) →
    exec e s = .next { s with hostQueue := s.hostQueue.put (i / 128) (s.portLine (i / 128) ++ [e]) }) ∧
  (∀ (s : State) (i k : Nat) (w : Word), s.checkpointTo = none → s.bootStopped = false → s.portLine (i / 128) = [] →
    exec (.registerWrite i 0xF0008 w) s =
      .next (s.modIface i fun x => { x with apbase := BitVec.ofNat 57 (field w.toNat 40 17 * 2 ^ 40) }) ∧
    (i % 128 = 0 → k < 512 → exec (.registerWrite i (0xF1000 + 8 * k) w) s =
      .next (s.modIface i fun x => { x with mailbox := x.mailbox.put k w })) ∧
    ∀ e ∈ [(0xF0000, (s.iface i).nq), (0xF0008, (s.iface i).apbase.toNat),
        (0xF0010, (s.iface i).keyFirst + (s.iface i).keyCount * 2 ^ 16), (0xF0018, (s.iface i).ecount),
        (0xF0020, (s.iface i).prcap.toNat)],
      exec (.hostRead i (2 ^ 40 + e.1) 8) s = .next { s with hostReplies := s.hostReplies ++ [.data (toBytesLE e.2 8)] }) ∧
  (∀ (s : State) (i off n a dva phys : Nat) (l : Leaf), dva = (s.iface i).apbase.toNat + off → (s.iface i).asid = some a →
    s.walk a dva = some l → l.dev = s.dev.toNat → s.keyLive l dva = true → phys = l.phys dva → s.bootStopped = false →
    s.rowHeld phys = false → (∀ e, (s.block (phys / 256)).entry = some e → e.spill = []) → 1 ≤ n →
    dva % 16 + n ≤ 16 → off + n ≤ 2 ^ 40 → (s.block (phys / 256)).pres ≠ .poison → s.notHost i (phys / 64) = [] →
    s.portLine (i / 128) = [] → s.heldEntry a dva = none → s.noteMapped a dva l = s → s.sectorDir.length < 65536 →
    (l.rd = true → (l.once = true → (s.block (phys / 256)).pres = .full) → ∃ t, exec (.hostRead i off n) s = .next t ∧
      t.hostReplies = s.hostReplies ++ [.data ((List.range n).map fun k => s.mem.read (phys + k))] ∧
      t = { s with hostReplies := t.hostReplies, blocks := t.blocks, sectorDir := t.sectorDir, events := t.events } ∧
      s.onlyBlock t (phys / 256)) ∧
    ∀ data : List Byte, l.w = true → l.once = false → s.checkpointTo = none → data.length = n →
      (s.slotHeld i dva n = true →
        exec (.hostWrite i off data (List.replicate n true)) s = .next (s.hostRefuse i (portSpan i) dva)) ∧
      (s.slotHeld i dva n = false → s.windowsOn (phys / 256) = [] →
        ∃ t, exec (.hostWrite i off data (List.replicate n true)) s = .next t ∧
          (∀ x, t.mem.read x = if phys ≤ x ∧ x < phys + n then data.getD (x - phys) 0 else s.mem.read x) ∧
          t.threads = s.threads ∧ t.hostReplies = s.hostReplies ∧ t.tcm = s.tcm ∧ t.deck = s.deck)) ∧
  (∀ (s : State) (port n a dva phys : Nat) (l : Leaf), dva = (s.iface (128 * port)).apbase.toNat + 64 * n →
    (s.iface (128 * port)).asid = some a → s.walk a dva = some l → l.rd = true → l.dev = s.dev.toNat →
    s.keyLive l dva = true → phys = l.phys dva → s.cxl.get false port = true → s.bootStopped = false → port < 2 →
    s.heldEntry a dva = none → s.noteMapped a dva l = s → s.sectorDir.length < 65536 →
    (∃ t, exec (.hostSectorRequest port n .invalid) s = .next t ∧ t.threads = s.threads ∧
      t.hostSectors.get .invalid (port * 2 ^ 50 + phys / 64) = .invalid ∧
      (∀ x, x / 64 ≠ phys / 64 → t.mem.read x = s.mem.read x) ∧
      (s.hostSectors.get .invalid (port * 2 ^ 50 + phys / 64) ≠ .modified → t.mem = s.mem)) ∧
    ∀ k : SectorState, (k = .shared ∨ (k = .exclusive ∧ l.w = true ∧ l.once = false ∧ (s.block (phys / 256)).win = false)) →
      (s.block (phys / 256)).pres ≠ .poison → (l.once = true → (s.block (phys / 256)).pres = .full) →
      s.rowHeld phys = false → s.homeLine.get [] (phys / 256) = [] →
      (noticesTo (phys / 64) (ownsSector k) (s.notHost (128 * port) (phys / 64)) = [] →
        ownsSector (s.hostSectors.get .invalid (port * 2 ^ 50 + phys / 64)) = false →
        ∃ t, exec (.hostSectorRequest port n k) s = .next t ∧ t.mem = s.mem ∧ t.threads = s.threads ∧
          t.hostSectors.get .invalid (port * 2 ^ 50 + phys / 64) = k) ∧
      ∀ span, s.notHost (128 * port) (phys / 64) = [(span, .modified)] → s.mayAdvance (phys / 256) = true →
        ownsSector (s.hostSectors.get .invalid (port * 2 ^ 50 + phys / 64)) = false →
        (∀ m, noticeOf (.rcl span (phys / 64)) = some m → exec (.hostSectorRequest port n k) s = .next
          ({ s with homeLine := s.homeLine.put (phys / 256) [(.hostSectorRequest port n k, false)] }.injectNotice m)) ∧
        (8 ≤ span → exec (.hostSectorRequest port n k) s = .next { s with
          homeLine := s.homeLine.put (phys / 256) [(.hostSectorRequest port n k, false)]
          events := .rcl span (phys / 64) :: .hostSectorRequest port n k :: s.events })) ∧
  (∀ (s : State) (i q : Nat), i % 128 ≠ 0 → s.ifaceQueues i = [q] →
    (∀ p ∈ s.launches, p.2.queue = q → p.2.live = false ∨ p.2.completed = true) →
    (∀ x ∈ (s.cps.get {} (q % 16)).submitted, x.1 ≠ q) →
    ∃ t, exec (.functionLevelReset i) s = .next t ∧ t.queue q = { s.queue q with en := false } ∧
      (∀ p, p ≠ q → t.queue p = s.queue p) ∧ t.mem = s.mem ∧ t.threads = s.threads ∧
      ∀ a c dva, (s.iface i).asid = some a → t.tlbFind c a dva = none) ∧
  (∀ (s : State) (p q r : Nat) (w : Word), (s.cps.get {} p).launchReqs = [(r, w)] → q = field w.toNat 32 12 →
    (2 ^ 44 ≤ w.toNat ∨ q % 16 ≠ p ∨ (s.queue q).lg = 0 → ∃ t, exec (.claunch p w) s = .next t ∧
      (t.cps.get {} p).results.get (0, 0) (slotOf (s.req r).thread) = (0x82, 0) ∧ (t.req r).status = .replied ∧
      t.launches = s.launches ∧ t.threads = s.threads) ∧
    (w.toNat < 2 ^ 44 → q % 16 = p → (s.queue q).lg ≠ 0 → s.mayTake p = false →
      exec (.claunch p w) s = .next (s.modCp p fun c => { c with
        launchReqs := [],
        submitted := c.submitted ++ [(q, field w.toNat 0 32, some r, slotOf (s.req r).thread)] }))) ∧
  (∀ (s : State) (p r st h : Nat) (rest : List Nat), (s.cps.get {} p).statReqs = r :: rest →
    (s.cps.get {} p).results.get (0, 0) (slotOf (s.req r).thread) = (st, h) →
    exec (.cstat p) s = .next ((s.modCp p fun c => { c with statReqs := rest }).answer r
      (BitVec.ofNat 128 (h % 2 ^ 32 * 2 ^ 32 + st % 256)))) ∧
  ∀ (s : State) (p r phys : Nat) (w : Word) (l : Launch) (lf : Leaf), (s.cps.get {} p).decReqs = [(r, w)] →
    l = s.launchOf w.toNat → l.live = true → l.cp = p → l.signalled = false → s.walk l.asid l.signal.toNat = some lf →
    lf.rd = true → lf.w = true → lf.once = false → phys = lf.phys l.signal.toNat → s.windowsOn (phys / 256) = [] →
    s.agents (phys / 64) = [] → s.heldEntry l.asid l.signal.toNat = none → s.sectorDir.length < 65536 →
    (s.launchWindows w.toNat = [] → ∃ t, exec (.cdec p w) s = .next t ∧
      s.mem.written t.mem phys 8 (s.memRead phys 8 + (2 ^ 64 - 1)) ∧ (t.launchOf w.toNat).signalled = true ∧
      (t.req r).status = .replied ∧ t.threads = s.threads) ∧
    (s.launchWindows w.toNat ≠ [] → exec (.cdec p w) s = .next (s.later (s.now + 1) (.cdec p w)))

/-- R397, R409, R429, R434, R437 to R440, R442, R443: keys loaded, destroyed, cleared and released; a package reset; reports,
measurements and configuration; a checkpoint taken and restored; the power limit and the power states. -/
def Obligations.PackageSteps : Prop :=
  (∀ (s : State) (id : Nat) (key : BitVec 512) (ranges : List (Nat × Nat)),
    (¬ (1 ≤ id ∧ id ≤ 511 ∧ ranges.length ≤ 8 ∧ ∀ r ∈ ranges, r.1 + r.2 ≤ 0xC000000000) →
      exec (.keyLoad id key ranges) s = .next s) ∧
    (1 ≤ id → id ≤ 511 → ranges.length ≤ 8 → (∀ r ∈ ranges, r.1 + r.2 ≤ 0xC000000000) →
      exec (.keyLoad id key ranges) s = .next (match (s.keyId id).state with
        | .free => s.modKey id fun _ => { state := .live, key := key, ranges := ranges }
        | .dead => s.modKey id fun _ => { state := .clearing, key := key, ranges := ranges }
        | .live => s
        | .clearing => s))) ∧
  (∀ (s : State) (id : Nat),
    ((s.keyId id).state ≠ .live → exec (.keyDestroy id) s = .next s) ∧
    ((s.keyId id).state = .live → s.reqs = [] → s.windows = [] → s.copies = [] →
      (∀ p ∈ s.blocks, p.2.waiters = [] ∧ p.2.entry = none) →
      ∃ t, exec (.keyDestroy id) s = .next t ∧ t.keyId id = { s.keyId id with state := .dead, key := 0 } ∧
        (∀ n, n ≠ id → t.keyId n = s.keyId n) ∧ t.mem = s.mem ∧ t.threads = s.threads ∧
        (∀ p ∈ t.cache, s.underKey id (p.1 % 2 ^ 50 * 64) = false) ∧
        ∀ p ∈ t.hostSectors, s.underKey id (p.1 % 2 ^ 50 * 64) = false) ∧
    ((s.keyId id).state ≠ .clearing → exec (.keyClearingDone id) s = .next s) ∧
    ((s.keyId id).state = .clearing → ∃ t, exec (.keyClearingDone id) s = .next t ∧
      t.keyId id = { s.keyId id with state := .live } ∧
      (∀ a, t.mem.read a = if s.underKey id a = true then 0 else s.mem.read a) ∧
      (∀ b, t.block b = if s.underKey id (b * 256) = true then {} else s.block b) ∧ t.threads = s.threads) ∧
    exec (.keyRelease id) s =
      .next (if (s.keyId id).state = .dead ∨ (s.keyId id).state = .clearing then s.modKey id fun _ => {} else s)) ∧
  (∀ s : State, ∃ t, exec .packageReset s = .next t ∧ t.tick = 0 ∧ t.threads = [] ∧ t.cores = [] ∧ t.mem = [] ∧
    t.tcm = [] ∧ t.deck = [] ∧ t.events = [] ∧ t.launches = [] ∧ t.crews = [] ∧ t.keys = [] ∧ t.strainLimit = 1024 ∧
    t.dev = s.dev ∧ t.config = s.config ∧ t.resets = s.resets + 1 ∧
    ∀ n, t.site n = { s.site n with injector := 0, closed := (s.site n).closed || (s.site n).closing, closing := false }) ∧
  (∀ (s : State) (reg field : Nat) (digest : BitVec 512) (v : Word),
    exec (.measurementExtension reg digest true) s = .next (if 5 ≤ reg ∧ reg ≤ 7 then
      { s with meas := s.meas.put reg (extend (s.meas.get 0 reg) digest) } else s) ∧
    exec (.measurementExtension reg digest false) s = .next s ∧
    exec (.configurationChange field v true) s = .next { s with config := s.config.put field v } ∧
    exec (.configurationChange field v false) s = .next s ∧
    (∀ (port : Nat) (nonce : BitVec 512), (port < 2 → exec (.attestationRequest port nonce) s = .next { s with
        attestations := s.attestations ++ [s.attestReport nonce ++ Config.signature (s.attestReport nonce)] }) ∧
      (2 ≤ port → exec (.attestationRequest port nonce) s = .next s))) ∧
  (∀ (s : State) (b : Nat),
    (s.checkpointTo = none → b ≠ s.dev.toNat → s.reaches b = true → (∀ p ∈ s.crews, p.2.status ≠ .resident) →
      exec (.checkpoint b) s = .next ({ s with checkpointTo := some b }.later (s.now + 1) (.checkpoint b))) ∧
    (s.checkpointTo = none → b = s.dev.toNat ∨ s.reaches b = false → exec (.checkpoint b) s = .next s) ∧
    (s.checkpointTo = some b →
      (s.drained = false → exec (.checkpoint b) s = .next (s.later (s.now + 1) (.checkpoint b))) ∧
      (s.drained = true → s.cache = [] → s.hostSectors = [] →
        exec (.checkpoint b) s = .next { s with refuge := s.refuge.put b s.image, checkpointTo := none })) ∧
    (s.refuge.find b = none → exec (.checkpointRestore b) s = .next s) ∧
    ∀ r, s.refuge.find b = some r →
      (s.drained = false → exec (.checkpointRestore b) s = .next s) ∧
      (s.drained = true → Mem.wf r.mem = true → (∀ c ∈ r.mem, c.1 < 2 ^ 48) →
        ∃ t, exec (.checkpointRestore b) s = .next t ∧ t.keys = r.keys ∧ t.crews = r.crews ∧ t.launches = r.launches ∧
          (∀ a, a < 2 ^ 48 → t.mem.read (s.dev.toNat * 2 ^ 48 + a) = Mem.read r.mem a) ∧
          (∀ x, x / 2 ^ 48 ≠ s.dev.toNat → t.mem.read x = s.mem.read x) ∧ t.threads = s.threads)) ∧
  ∀ s : State,
    (∀ watts, exec (.powerLimitWrite watts) s =
      .next (if 1200 ≤ watts ∧ watts ≤ 2600 then { s with powerLimit := watts } else s)) ∧
    (∀ e ∈ [(Power.p0, Power.p1), (.p1, .p2), (.p2, .p3)],
      (s.power = e.1 → exec .powerStepDown s = .next { s with power := e.2 }) ∧
      (s.power = e.2 → exec .powerStepUp s = .next { s with power := e.1 })) ∧
    (s.power = .p3 → exec .powerStepDown s = .next s) ∧ (s.power = .p0 → exec .powerStepUp s = .next s) ∧
    (s.power = .idle → exec .powerStepDown s = .next s ∧ exec .powerStepUp s = .next s)

/-! ### The machine as a whole -/

/-- R14, R26, R250, R252, R254, R263, R316: a tick in which no write, no wait and no write-back falls due: `h31` advances by 1,
the steps due by then follow the others, what the distributors decide comes before them, and nothing that a program sees but its
counters changes. A bank of the deck serves one access: threads in turn by their numbers, and a thread and an engine alternately.
The slots then selected are READY, none has attempted in the last 7 ticks, and no core has two. -/
def Obligations.TickSteps : Prop :=
  (∀ s : State, s.still → s.asks = [] → ∃ (t : State) (first more : List Instr), exec .tick s = .next t ∧ t.tick = s.tick + 1 ∧
      (∀ i ∈ first, ∃ n, i = .placementDecision n ∨ i = .relief n) ∧
      t.events = first ++ s.events ++ (s.timers.filter fun p => decide (p.1 ≤ t.now)).map (·.2) ++ more ∧
      t.timers = s.timers.filter (fun p => decide (t.now < p.1)) ∧ t.mem = s.mem ∧ t.tcm = s.tcm ∧ t.deck = s.deck ∧
      t.blocks = s.blocks ∧ t.reqs = s.reqs ∧
      (∀ u, t.thread u = { s.thread u with counters := (t.thread u).counters }) ∧
      ∀ c, t.core c = { s.core c with counters := (t.core c).counters, counting := (t.core c).counting }) ∧
  (∀ (s : State) (x : Ask) (k b r : Nat), s.still → s.asks = [x] → s.atBank x k b r →
    ∃ t, exec .tick s = .next t ∧ t.asks = [] ∧ (s.req r).reply r ∈ t.events ∧ t.mem = s.mem ∧ t.deck = s.deck) ∧
  (∀ (s : State) (x y : Ask) (k b r q last : Nat), s.still → s.asks = [x, y] → s.atBank x k b r → s.atBank y k b q →
    x.engine = false → y.engine = false → x.number < y.number → last = (s.banks.get {} (128 * k + b)).thread →
    ∃ t, exec .tick s = .next t ∧
      (x.number ≤ last → last < y.number → t.asks = [x] ∧ (s.req q).reply q ∈ t.events ∧
        (t.banks.get {} (128 * k + b)).thread = y.number) ∧
      (last < x.number ∨ y.number ≤ last → t.asks = [y] ∧ (s.req r).reply r ∈ t.events ∧
        (t.banks.get {} (128 * k + b)).thread = x.number)) ∧
  (∀ (s : State) (x y : Ask) (k b r q : Nat) (e : Bool), s.still → s.asks = [x, y] → s.atBank x k b r → s.atBank y k b q →
    x.engine = true → y.engine = false → e = (s.banks.get {} (128 * k + b)).engineLast →
    ∃ t, exec .tick s = .next t ∧ t.asks = [if e then x else y] ∧ (t.banks.get {} (128 * k + b)).engineLast = !e) ∧
  ∀ s t : State, s.still → (∀ x ∈ s.asks, ∃ r, x.asker = .access r) → exec .tick s = .next t →
    (∀ u ∈ t.sels, (t.thread u).state = .ready ∧ ∀ n, (t.thread u).lastAttempt = some n → n + 8 ≤ t.now) ∧
    ∀ u ∈ t.sels, ∀ v ∈ t.sels, coreOf u = coreOf v → u = v

/-- R14, R21, R41, R66, R84, R252, R254: a step performs the attempt of the slot selected first, or the step that is due first, or
the tick. Where a thread alone attempts a unit without prefixes, whose reads its turn serves, the unit is the one that the
bytes at its PC decode to: it issues as `exec` of that instruction does, and the issue is counted; where it traps, or stops,
so does the step. The dry run, on the state before the reads, is the model's order of the checks (log entry 20). -/
def Obligations.StepRunsUnit : Prop :=
  (∀ (s : State) (i : Instr) (rest : List Instr), s.sels = [] → s.events = i :: rest →
    step s = exec i { s with events := rest }) ∧
  (∀ s : State, s.events = [] → s.sels = [] → step s = exec .tick s) ∧
  (∀ (s s1 s2 : State) (u w n : Nat) (rest : List Nat) (i : Instr) (iss : Issue), s.sels = u :: rest →
    (s.thread u).state = .ready → (s.thread u).wait = .none → (s.thread u).gangSize = 1 → (s.thread u).twin = false →
    (s.thread u).repAt = none → s1 = ({ s with sels := rest, cur := u }.modThread u fun x => { x with lastAttempt := some s.now }) →
    s1.fetch u = .unit w → unitOf w = { rep := none, rlx := false, instr := some i, size := n } →
    s1.attemptReads u i.vreads = (s2, true) → iss = (unitOf w).issue (s.thread u).pc w false →
    (∀ f, exec i ({ s1 with cur := u }.modThread u fun x => { x with iss := iss }) = .fault f → step s = .fault f) ∧
    ∀ d, exec i ({ s1 with cur := u }.modThread u fun x => { x with iss := iss }) = .next d →
      ((d.thread u).iss.ended = .trapped → step s = .next d) ∧
      ((d.thread u).iss.ended = .issued → ∀ t, exec i ({ s2 with cur := u }.modThread u fun x => { x with iss := iss }) =
        .next t → (t.thread u).iss.ended = .issued →
        step s = .next ((t.modThread u fun x => x.count 0).useSite u (s.thread u).crewId))) ∧
  decodeWord 0x0110C281 = some (.add 5 6 34) ∧ decodeWord 0x0018 = some .rlx ∧ decodeWord 0x089A = some (.rep 4 1) ∧
  decodeWord 0xF89A = some (.rep 4 (-1)) ∧ decodeWord 0x0000 = none ∧ decodeWord 0x2D = none

/-- R10, R26, R30, R369, R408, R409, R439: the machine after package reset: `h31` is 0, every slot is FREE, no site has a
score, an armed injector or is closed, the limit is 1,024, and no launch is live. That its memory lists nothing, and so
has the canonical form, is the model's choice (log entry 2). -/
def Obligations.ResetState : Prop :=
  State.reset.tick = 0 ∧ (∀ u, (State.reset.thread u).state = .free) ∧
    (∀ n, (State.reset.site n).strain = 0 ∧ (State.reset.site n).pass = 0 ∧ (State.reset.site n).injector = 0 ∧
      (State.reset.site n).closed = false) ∧
    State.reset.strainLimit = 1024 ∧ (∀ l, (State.reset.launchOf l).live = false) ∧ (∀ k, State.reset.meas.get 0 k = 0) ∧
    (∀ c, (State.reset.core c).rtabEn = false ∧ (State.reset.core c).mxQueue = []) ∧ State.reset.mem.wf = true

/-- The canonical form of memory is kept by every step, whatever the state (log entry 2): cells at rising addresses, none
that an unlisted address would read as. -/
def Obligations.MemoryStaysCanonical : Prop :=
  ∀ s t : State, s.mem.wf = true → step s = .next t → t.mem.wf = true

/-- R59 to R84: the encoding of every well-formed instruction that has one, laid out as the machine stores it (each halfword
little-endian, the first at the lowest address), decodes to that instruction with every operand, and leaves the bytes after it. -/
def Obligations.DecodeInvertsEncode : Prop :=
  ∀ (i : Instr) (rest : List Byte), i.wellFormed = true → i.size ≠ 0 →
    decode ((encode i).flatMap (fun h => toBytesLE h 2) ++ rest) = .ok (i, rest)

/-- The frames of the register-only units, scalar and vector: when one issues, every byte of memory, every other thread, every
other register, CSR and queue is as it was; what a source consumes and the place of the writes to come are named. -/
def Obligations.RegisterFrames : Prop :=
  ((∀ d a b : RegField,
    (∀ i ∈ [Instr.add d a b, .sub d a b, .and d a b, .or d a b, .xor d a b, .andn d a b, .orn d a b, .sll d a b, .srl d a b,
        .sra d a b, .rol d a b, .ror d a b, .slt d a b, .sltu d a b, .min d a b, .max d a b, .minu d a b, .maxu d a b],
      framesS i (some d) [sreg a, sreg b]) ∧
    (∀ i ∈ [Instr.cmov d a b, .bext d a b, .bins d a b, .addw d a b, .subw d a b, .sllw d a b, .srlw d a b, .sraw d a b,
        .mul d a b, .mulh d a b, .mulhu d a b, .mulhsu d a b, .mulw d a b, .div d a b, .divu d a b, .rem d a b, .remu d a b,
        .divw d a b, .remw d a b], framesS i (some d) [sreg a, sreg b]) ∧
    ∀ i ∈ [Instr.popc d a, .clz d a, .ctz d a, .brev d a, .bswap d a, .sextB d a, .sextH d a, .sextW d a, .zextB d a,
        .zextH d a, .zextW d a, .lsb d a, .msk d a], framesS i (some d) [sreg a]) ∧
  (∀ (d a : RegField) (m : BitVec 13) (n : BitVec 6) (k : BitVec 5) (z : BitVec 19),
    (∀ i ∈ [Instr.addi d a m, .andi d a m, .ori d a m, .xori d a m, .slti d a m, .sltiu d a m, .addiw d a m, .slli d a n,
        .srli d a n, .srai d a n, .slliw d a k, .srliw d a k, .sraiw d a k, .jalr d a m], framesS i (some d) [sreg a]) ∧
    ∀ i ∈ [Instr.lui d z, .lpc d z, .jal d z], framesS i (some d) []) ∧
  (∀ (a b : RegField) (m : BitVec 13) (o : BitVec 10) (n : BitVec 6),
    (∀ i ∈ [Instr.beq a b m, .bne a b m, .blt a b m, .bge a b m, .bltu a b m, .bgeu a b m, .bany a b o, .ball a b o,
        .bnone a b o], framesS i none [sreg a, sreg b]) ∧
    framesS (.bbs a n o) none [sreg a] ∧ framesS (.bbc a n o) none [sreg a])) ∧
  (∀ (d a b : RegField) (w : Width) (t : FType),
    (∀ i ∈ [Instr.vadd d a b w, .vsub d a b w, .vadds d a b w, .vaddsu d a b w, .vsubs d a b w, .vsubsu d a b w,
        .vmul d a b w, .vmulh d a b w, .vmulhu d a b w, .vmin d a b w, .vminu d a b w, .vmax d a b w, .vmaxu d a b w,
        .vabsd d a b w, .vavgu d a b w, .vand d a b, .vor d a b, .vxor d a b, .vandn d a b, .vbsl d a b, .vsll d a b w,
        .vsrl d a b w, .vsra d a b w], framesV i d [vreg a, vreg b, vreg d]) ∧
    (∀ i ∈ [Instr.vshuf d a b w, .vzipl d a b w, .vziph d a b w, .vunzipe d a b w, .vunzipo d a b w, .vpacks d a b w,
        .vpacksu d a b w, .vfadd d a b t, .vfsub d a b t, .vfmul d a b t, .vfmin d a b t, .vfmax d a b t, .vfdiv d a b],
      framesV i d [vreg a, vreg b]) ∧
    (∀ i ∈ [Instr.vrev d a w, .vwidenl d a w, .vwidenh d a w, .vwidenlu d a w, .vwidenhu d a w, .vmv d a, .vfabs d a t,
        .vfneg d a t, .vfround d a t, .vcvtI32F32 d a, .vcvtF32I32 d a, .vfrcp d a, .vfrsq d a, .vfexp2 d a, .vflog2 d a,
        .vfsqrt d a], framesV i d [vreg a]) ∧
    ∀ i ∈ [Instr.vceq d a b w, .vcne d a b w, .vclt d a b w, .vcltu d a b w, .vcle d a b w, .vcleu d a b w, .vfceq d a b t,
        .vfcne d a b t, .vfclt d a b t, .vfcle d a b t, .vfcun d a b t], framesS i (some d) [vreg a, vreg b]) ∧
  ∀ (d a : RegField) (w : Width) (t : FType) (l : BitVec 5),
    (∀ i ∈ [Instr.vrsum d a w, .vrsumu d a w, .vrmin d a w, .vrminu d a w, .vrmax d a w, .vrmaxu d a w, .vfrsum d a t,
        .vfrmin d a t, .vfrmax d a t, .vextr d a l w, .vextru d a l w], framesS i (some d) [vreg a]) ∧
    ∀ i ∈ [Instr.vbcst d a w, .vmexp d a w, .vins d a l w], framesV i d [sreg a, vreg d]
end

