-- ==== Sys2Proof/Laws/Encode.lean ====
section
/-! SUPPORT. What the encoder of each shape puts into a word, read back: the constant fields of its code and the operands at their
places. -/

-- One theorem after another: hundreds at once take memory for as many threads.
set_option Elab.async false

namespace Sys2Proof

open Machine

/-- A 32-bit word whose major decodes to a well-formed instruction is that instruction. -/
theorem decodeWord_of_major (w : Nat) (i : Instr) (h1 : w % 2 = 1) (h2 : w < 2 ^ 32) (h3 : decodeMajor w = some i)
    (h : i.wellFormed = true) : decodeWord w = some i := by
  unfold decodeWord
  rw [if_pos h1, Nat.mod_eq_of_lt h2, h3]
  simp [checked, h]

/-- A halfword that decodes to a well-formed compact instruction is that instruction. -/
theorem decodeWord_of_compact (w : Nat) (i : Instr) (h1 : w % 2 = 0) (h2 : w < 2 ^ 16) (h3 : decodeCompact w = some i)
    (h : i.wellFormed = true) : decodeWord w = some i := by
  unfold decodeWord
  rw [if_neg (by omega), Nat.mod_eq_of_lt h2, h3]
  simp [checked, h]

theorem bitsAt_eq {n : Nat} (w lo : Nat) (x : BitVec n) (h : w / 2 ^ lo % 2 ^ n = x.toNat) : bitsAt n w lo = x := by
  apply BitVec.eq_of_toNat_eq; simpa [bitsAt, BitVec.toNat_ofNat] using h

theorem bitsAt_append_eq (w : Nat) (x : BitVec 7) (h1 : w / 2 ^ 11 % 2 ^ 4 = x.toNat / 8) (h2 : w / 2 ^ 5 % 2 ^ 3 = x.toNat % 8) :
    bitsAt 4 w 11 ++ bitsAt 3 w 5 = x := by
  apply BitVec.eq_of_toNat_eq
  simp only [BitVec.toNat_append, bitsAt, BitVec.toNat_ofNat]
  rw [h1, h2, ← Nat.shiftLeft_add_eq_or_of_lt (by omega), Nat.shiftLeft_eq]
  omega

theorem Width.code_lt (x : Width) : x.code < 4 := by cases x <;> decide
theorem FType.code_lt (x : FType) : x.code < 3 := by cases x <;> decide
theorem Scope.code_lt (x : Scope) : x.code < 3 := by cases x <;> decide

theorem widthAt_eq (w lo : Nat) (x : Width) (h : field w lo 2 = x.code) : widthAt w lo = x := by
  unfold widthAt; rw [h]; cases x <;> rfl

theorem ftypeAt_eq (w lo : Nat) (x : FType) (h : field w lo 2 = x.code) : ftypeAt w lo = x := by
  unfold ftypeAt; rw [h]; cases x <;> rfl

theorem scopeAt_eq (w lo : Nat) (x : Scope) (h : field w lo 2 = x.code) : scopeAt w lo = x := by
  unfold scopeAt; rw [h]; cases x <;> rfl

theorem bitAt_eq (w lo : Nat) (x : Bool) (h : field w lo 1 = x.toNat) : bitAt w lo = x := by
  unfold field at h; unfold bitAt; rw [show w / 2 ^ lo % 2 = x.toNat from h]; cases x <;> rfl

/-- A number laid out as fields of the given widths, the lowest first. -/
def pack : List (Nat × Nat) → Nat
  | [] => 0
  | (n, x) :: r => x + 2 ^ n * pack r

/-- Every field's value is one its width holds. -/
def fits : List (Nat × Nat) → Prop
  | [] => True
  | (n, x) :: r => x < 2 ^ n ∧ fits r

/-- The number of bits of the fields. -/
def total : List (Nat × Nat) → Nat
  | [] => 0
  | (n, _) :: r => n + total r

/-- The field that starts at bit `lo`, and its width; or the field that `lo` lies in, with the place in it. -/
def place : List (Nat × Nat) → Nat → Option (Nat × Nat × Nat)
  | [], _ => none
  | (n, x) :: r, lo => match Nat.ble n lo with
    | true => place r (lo - n)
    | false => some (n, x, lo)

/-- The same number as a sum of the values at their places, the first at bit `b`. -/
def packAt (b : Nat) : List (Nat × Nat) → Nat
  | [] => 0
  | (n, x) :: r => x * 2 ^ b + packAt (b + n) r

theorem packAt_eq (b : Nat) (l : List (Nat × Nat)) : packAt b l = 2 ^ b * pack l := by
  induction l generalizing b with
  | nil => rfl
  | cons a r ih =>
    simp only [packAt, pack, ih, Nat.pow_add, Nat.mul_add, Nat.mul_assoc, Nat.mul_comm a.2]

theorem packAt_zero (l : List (Nat × Nat)) : packAt 0 l = pack l := by rw [packAt_eq, Nat.pow_zero, Nat.one_mul]

theorem pack_parity (n x : Nat) (r : List (Nat × Nat)) : pack ((n + 1, x) :: r) % 2 = x % 2 := by
  rw [pack, Nat.pow_succ, Nat.mul_comm (2 ^ n), Nat.mul_assoc, Nat.add_mul_mod_self_left]

theorem pack_lt {l : List (Nat × Nat)} (h : fits l) : pack l < 2 ^ total l := by
  induction l with
  | nil => simp [pack, total]
  | cons a r ih =>
    obtain ⟨n, x⟩ := a
    simp only [pack, total, Nat.pow_add]
    have h1 := h.1
    have h2 : 2 ^ n * (pack r + 1) ≤ 2 ^ n * 2 ^ total r := Nat.mul_le_mul_left _ (ih h.2)
    rw [Nat.mul_add, Nat.mul_one] at h2
    omega

theorem field_pack_high {n x r lo k : Nat} (h : x < 2 ^ n) (hl : n ≤ lo) : field (x + 2 ^ n * r) lo k = field r (lo - n) k := by
  obtain ⟨i, rfl⟩ := Nat.exists_eq_add_of_le hl
  unfold field
  rw [Nat.add_sub_cancel_left, Nat.pow_add, ← Nat.div_div_eq_div_mul, Nat.add_mul_div_left _ _ (Nat.two_pow_pos n), Nat.div_eq_of_lt h,
    Nat.zero_add]

theorem field_pack_low {n x r lo k : Nat} (hl : lo + k ≤ n) : field (x + 2 ^ n * r) lo k = field x lo k := by
  obtain ⟨j, rfl⟩ := Nat.exists_eq_add_of_le hl
  unfold field
  rw [Nat.pow_add, Nat.pow_add, Nat.mul_assoc, Nat.mul_assoc, Nat.add_mul_div_left _ _ (Nat.two_pow_pos lo), Nat.add_mul_mod_self_left]

/-- A part of one field reads as that part of the field's value. -/
theorem read_part {l : List (Nat × Nat)} (h : fits l) {lo k n x i : Nat} (hp : place l lo = some (n, x, i)) (hk : Nat.ble (i + k) n = true) :
    field (pack l) lo k = field x i k := by
  induction l generalizing lo with
  | nil => simp [place] at hp
  | cons a r ih =>
    obtain ⟨m, y⟩ := a
    simp only [place] at hp
    cases hl : Nat.ble m lo with
    | false =>
      rw [hl] at hp
      cases hp; exact field_pack_low (Nat.le_of_ble_eq_true hk)
    | true =>
      rw [hl] at hp
      exact (field_pack_high h.1 (Nat.le_of_ble_eq_true hl)).trans (ih h.2 hp)

/-- A whole field reads as its value. -/
theorem read_whole {l : List (Nat × Nat)} (h : fits l) {lo n x : Nat} (hp : place l lo = some (n, x, 0)) :
    field (pack l) lo n = x := by
  induction l generalizing lo with
  | nil => simp [place] at hp
  | cons a r ih =>
    obtain ⟨m, y⟩ := a
    simp only [place] at hp
    cases hl : Nat.ble m lo with
    | false =>
      rw [hl] at hp
      cases hp
      simp only [pack]
      rw [field_pack_low (by omega)]
      simp only [field, Nat.pow_zero, Nat.div_one]
      exact Nat.mod_eq_of_lt h.1
    | true =>
      rw [hl] at hp
      exact (field_pack_high h.1 (Nat.le_of_ble_eq_true hl)).trans (ih h.2 hp)

/-- A field that holds a value holds the parts of that value. -/
theorem field_ne {w lo n lo' n' k : Nat} (c : Nat) (h : field w lo' n' = k) (hc : field c (lo' - lo) n' ≠ k)
    (h1 : lo ≤ lo') (h2 : lo' + n' ≤ lo + n) : field w lo n ≠ c := by
  rintro rfl
  apply hc
  rw [← h]
  unfold field
  obtain ⟨i, rfl⟩ := Nat.exists_eq_add_of_le h1
  obtain ⟨j, hj⟩ := Nat.exists_eq_add_of_le (show i + n' ≤ n by omega)
  subst hj
  rw [Nat.add_sub_cancel_left, Nat.pow_add, Nat.pow_add, Nat.pow_add, Nat.mul_assoc, Nat.mod_mul_right_div_self, Nat.mod_mul_right_mod,
    Nat.div_div_eq_div_mul]


theorem encDAB_fields (c0 c1 : Nat) (d : RegField) (a : RegField) (b : RegField)
    (h0 : c0 < 2 ^ 7) (h1 : c1 < 2 ^ 7) (hp : c0 % 2 = 1) {q : Nat}
    (hq : q = encDAB (c0 + c1 * 2 ^ 25) d a b) :
    q % 2 = 1 ∧
      q < 2 ^ 32 ∧
      field q 1 6 = field c0 1 6 ∧
      field q 25 7 = field c1 0 7 ∧
      bitsAt 6 q 7 = d ∧
      bitsAt 6 q 13 = a ∧
      bitsAt 6 q 19 = b := by
  have e : q = pack [(7, c0), (6, d.toNat), (6, a.toNat), (6, b.toNat), (7, c1)] := by
    rw [hq]; clear hq hp h0 h1; unfold encDAB; simp only [← packAt_zero, packAt, Nat.zero_add, Nat.reduceAdd, Nat.pow_zero, Nat.mul_one, Nat.add_zero] <;> ac_rfl
  have hw : fits [(7, c0), (6, d.toNat), (6, a.toNat), (6, b.toNat), (7, c1)] := ⟨h0, d.isLt, a.isLt, b.isLt, h1, trivial⟩
  rw [e]
  refine ⟨?_, ?_, read_part hw rfl rfl, read_part hw rfl rfl, bitsAt_eq _ _ _ (read_whole hw rfl), bitsAt_eq _ _ _ (read_whole hw rfl), bitsAt_eq _ _ _ (read_whole hw rfl)⟩
  · exact (pack_parity _ _ _).trans hp
  · exact pack_lt hw

theorem encDA_fields (c0 c1 : Nat) (d : RegField) (a : RegField)
    (h0 : c0 < 2 ^ 7) (h1 : c1 < 2 ^ 13) (hp : c0 % 2 = 1) {q : Nat}
    (hq : q = encDA (c0 + c1 * 2 ^ 19) d a) :
    q % 2 = 1 ∧
      q < 2 ^ 32 ∧
      field q 1 6 = field c0 1 6 ∧
      field q 19 13 = field c1 0 13 ∧
      field q 25 7 = field c1 6 7 ∧
      field q 28 4 = field c1 9 4 ∧
      bitsAt 6 q 7 = d ∧
      bitsAt 6 q 13 = a := by
  have e : q = pack [(7, c0), (6, d.toNat), (6, a.toNat), (13, c1)] := by
    rw [hq]; clear hq hp h0 h1; unfold encDA; simp only [← packAt_zero, packAt, Nat.zero_add, Nat.reduceAdd, Nat.pow_zero, Nat.mul_one, Nat.add_zero] <;> ac_rfl
  have hw : fits [(7, c0), (6, d.toNat), (6, a.toNat), (13, c1)] := ⟨h0, d.isLt, a.isLt, h1, trivial⟩
  rw [e]
  refine ⟨?_, ?_, read_part hw rfl rfl, read_part hw rfl rfl, read_part hw rfl rfl, read_part hw rfl rfl, bitsAt_eq _ _ _ (read_whole hw rfl), bitsAt_eq _ _ _ (read_whole hw rfl)⟩
  · exact (pack_parity _ _ _).trans hp
  · exact pack_lt hw

theorem encDAI_fields (c0 : Nat) (d : RegField) (a : RegField) (i : BitVec 13)
    (h0 : c0 < 2 ^ 7) (hp : c0 % 2 = 1) {q : Nat}
    (hq : q = encDAI c0 d a i) :
    q % 2 = 1 ∧
      q < 2 ^ 32 ∧
      field q 1 6 = field c0 1 6 ∧
      bitsAt 6 q 7 = d ∧
      bitsAt 6 q 13 = a ∧
      bitsAt 13 q 19 = i := by
  have e : q = pack [(7, c0), (6, d.toNat), (6, a.toNat), (13, i.toNat)] := by
    rw [hq]; clear hq hp h0; unfold encDAI; simp only [← packAt_zero, packAt, Nat.zero_add, Nat.reduceAdd, Nat.pow_zero, Nat.mul_one, Nat.add_zero] <;> ac_rfl
  have hw : fits [(7, c0), (6, d.toNat), (6, a.toNat), (13, i.toNat)] := ⟨h0, d.isLt, a.isLt, i.isLt, trivial⟩
  rw [e]
  refine ⟨?_, ?_, read_part hw rfl rfl, bitsAt_eq _ _ _ (read_whole hw rfl), bitsAt_eq _ _ _ (read_whole hw rfl), bitsAt_eq _ _ _ (read_whole hw rfl)⟩
  · exact (pack_parity _ _ _).trans hp
  · exact pack_lt hw

theorem encDAS_fields (c0 c1 : Nat) (d : RegField) (a : RegField) (s : BitVec 6)
    (h0 : c0 < 2 ^ 7) (h1 : c1 < 2 ^ 7) (hp : c0 % 2 = 1) {q : Nat}
    (hq : q = encDAS (c0 + c1 * 2 ^ 25) d a s) :
    q % 2 = 1 ∧
      q < 2 ^ 32 ∧
      field q 1 6 = field c0 1 6 ∧
      field q 25 7 = field c1 0 7 ∧
      bitsAt 6 q 7 = d ∧
      bitsAt 6 q 13 = a ∧
      bitsAt 6 q 19 = s := by
  have e : q = pack [(7, c0), (6, d.toNat), (6, a.toNat), (6, s.toNat), (7, c1)] := by
    rw [hq]; clear hq hp h0 h1; unfold encDAS; simp only [← packAt_zero, packAt, Nat.zero_add, Nat.reduceAdd, Nat.pow_zero, Nat.mul_one, Nat.add_zero] <;> ac_rfl
  have hw : fits [(7, c0), (6, d.toNat), (6, a.toNat), (6, s.toNat), (7, c1)] := ⟨h0, d.isLt, a.isLt, s.isLt, h1, trivial⟩
  rw [e]
  refine ⟨?_, ?_, read_part hw rfl rfl, read_part hw rfl rfl, bitsAt_eq _ _ _ (read_whole hw rfl), bitsAt_eq _ _ _ (read_whole hw rfl), bitsAt_eq _ _ _ (read_whole hw rfl)⟩
  · exact (pack_parity _ _ _).trans hp
  · exact pack_lt hw

theorem encDAS2_fields (c0 c1 : Nat) (d : RegField) (a : RegField) (s : BitVec 5)
    (h0 : c0 < 2 ^ 7) (h1 : c1 < 2 ^ 8) (hp : c0 % 2 = 1) {q : Nat}
    (hq : q = encDAS2 (c0 + c1 * 2 ^ 24) d a s) :
    q % 2 = 1 ∧
      q < 2 ^ 32 ∧
      field q 1 6 = field c0 1 6 ∧
      field q 24 8 = field c1 0 8 ∧
      field q 25 7 = field c1 1 7 ∧
      bitsAt 6 q 7 = d ∧
      bitsAt 6 q 13 = a ∧
      bitsAt 5 q 19 = s := by
  have e : q = pack [(7, c0), (6, d.toNat), (6, a.toNat), (5, s.toNat), (8, c1)] := by
    rw [hq]; clear hq hp h0 h1; unfold encDAS2; simp only [← packAt_zero, packAt, Nat.zero_add, Nat.reduceAdd, Nat.pow_zero, Nat.mul_one, Nat.add_zero] <;> ac_rfl
  have hw : fits [(7, c0), (6, d.toNat), (6, a.toNat), (5, s.toNat), (8, c1)] := ⟨h0, d.isLt, a.isLt, s.isLt, h1, trivial⟩
  rw [e]
  refine ⟨?_, ?_, read_part hw rfl rfl, read_part hw rfl rfl, read_part hw rfl rfl, bitsAt_eq _ _ _ (read_whole hw rfl), bitsAt_eq _ _ _ (read_whole hw rfl), bitsAt_eq _ _ _ (read_whole hw rfl)⟩
  · exact (pack_parity _ _ _).trans hp
  · exact pack_lt hw

theorem encDI_fields (c0 : Nat) (d : RegField) (i : BitVec 19)
    (h0 : c0 < 2 ^ 7) (hp : c0 % 2 = 1) {q : Nat}
    (hq : q = encDI c0 d i) :
    q % 2 = 1 ∧
      q < 2 ^ 32 ∧
      field q 1 6 = field c0 1 6 ∧
      bitsAt 6 q 7 = d ∧
      bitsAt 19 q 13 = i := by
  have e : q = pack [(7, c0), (6, d.toNat), (19, i.toNat)] := by
    rw [hq]; clear hq hp h0; unfold encDI; simp only [← packAt_zero, packAt, Nat.zero_add, Nat.reduceAdd, Nat.pow_zero, Nat.mul_one, Nat.add_zero] <;> ac_rfl
  have hw : fits [(7, c0), (6, d.toNat), (19, i.toNat)] := ⟨h0, d.isLt, i.isLt, trivial⟩
  rw [e]
  refine ⟨?_, ?_, read_part hw rfl rfl, bitsAt_eq _ _ _ (read_whole hw rfl), bitsAt_eq _ _ _ (read_whole hw rfl)⟩
  · exact (pack_parity _ _ _).trans hp
  · exact pack_lt hw

theorem encABI_fields (c0 : Nat) (a : RegField) (b : RegField) (i : BitVec 13)
    (h0 : c0 < 2 ^ 7) (hp : c0 % 2 = 1) {q : Nat}
    (hq : q = encABI c0 a b i) :
    q % 2 = 1 ∧
      q < 2 ^ 32 ∧
      field q 1 6 = field c0 1 6 ∧
      bitsAt 6 q 13 = a ∧
      bitsAt 6 q 7 = b ∧
      bitsAt 13 q 19 = i := by
  have e : q = pack [(7, c0), (6, b.toNat), (6, a.toNat), (13, i.toNat)] := by
    rw [hq]; clear hq hp h0; unfold encABI; simp only [← packAt_zero, packAt, Nat.zero_add, Nat.reduceAdd, Nat.pow_zero, Nat.mul_one, Nat.add_zero] <;> ac_rfl
  have hw : fits [(7, c0), (6, b.toNat), (6, a.toNat), (13, i.toNat)] := ⟨h0, b.isLt, a.isLt, i.isLt, trivial⟩
  rw [e]
  refine ⟨?_, ?_, read_part hw rfl rfl, bitsAt_eq _ _ _ (read_whole hw rfl), bitsAt_eq _ _ _ (read_whole hw rfl), bitsAt_eq _ _ _ (read_whole hw rfl)⟩
  · exact (pack_parity _ _ _).trans hp
  · exact pack_lt hw

theorem encABI2_fields (c0 c1 : Nat) (a : RegField) (b : RegField) (i : BitVec 10)
    (h0 : c0 < 2 ^ 7) (h1 : c1 < 2 ^ 3) (hp : c0 % 2 = 1) {q : Nat}
    (hq : q = encABI2 (c0 + c1 * 2 ^ 19) a b i) :
    q % 2 = 1 ∧
      q < 2 ^ 32 ∧
      field q 1 6 = field c0 1 6 ∧
      field q 19 3 = field c1 0 3 ∧
      bitsAt 6 q 13 = a ∧
      bitsAt 6 q 7 = b ∧
      bitsAt 10 q 22 = i := by
  have e : q = pack [(7, c0), (6, b.toNat), (6, a.toNat), (3, c1), (10, i.toNat)] := by
    rw [hq]; clear hq hp h0 h1; unfold encABI2; simp only [← packAt_zero, packAt, Nat.zero_add, Nat.reduceAdd, Nat.pow_zero, Nat.mul_one, Nat.add_zero] <;> ac_rfl
  have hw : fits [(7, c0), (6, b.toNat), (6, a.toNat), (3, c1), (10, i.toNat)] := ⟨h0, b.isLt, a.isLt, h1, i.isLt, trivial⟩
  rw [e]
  refine ⟨?_, ?_, read_part hw rfl rfl, read_part hw rfl rfl, bitsAt_eq _ _ _ (read_whole hw rfl), bitsAt_eq _ _ _ (read_whole hw rfl), bitsAt_eq _ _ _ (read_whole hw rfl)⟩
  · exact (pack_parity _ _ _).trans hp
  · exact pack_lt hw

theorem encANI_fields (c0 c1 : Nat) (a : RegField) (n : BitVec 6) (i : BitVec 10)
    (h0 : c0 < 2 ^ 7) (h1 : c1 < 2 ^ 3) (hp : c0 % 2 = 1) {q : Nat}
    (hq : q = encANI (c0 + c1 * 2 ^ 19) a n i) :
    q % 2 = 1 ∧
      q < 2 ^ 32 ∧
      field q 1 6 = field c0 1 6 ∧
      field q 19 3 = field c1 0 3 ∧
      bitsAt 6 q 13 = a ∧
      bitsAt 6 q 7 = n ∧
      bitsAt 10 q 22 = i := by
  have e : q = pack [(7, c0), (6, n.toNat), (6, a.toNat), (3, c1), (10, i.toNat)] := by
    rw [hq]; clear hq hp h0 h1; unfold encANI; simp only [← packAt_zero, packAt, Nat.zero_add, Nat.reduceAdd, Nat.pow_zero, Nat.mul_one, Nat.add_zero] <;> ac_rfl
  have hw : fits [(7, c0), (6, n.toNat), (6, a.toNat), (3, c1), (10, i.toNat)] := ⟨h0, n.isLt, a.isLt, h1, i.isLt, trivial⟩
  rw [e]
  refine ⟨?_, ?_, read_part hw rfl rfl, read_part hw rfl rfl, bitsAt_eq _ _ _ (read_whole hw rfl), bitsAt_eq _ _ _ (read_whole hw rfl), bitsAt_eq _ _ _ (read_whole hw rfl)⟩
  · exact (pack_parity _ _ _).trans hp
  · exact pack_lt hw

theorem encDBaseSegImm_fields (c0 : Nat) (d : RegField) (base : RegField) (seg : SegField) (imm : BitVec 10)
    (h0 : c0 < 2 ^ 7) (hp : c0 % 2 = 1) {q : Nat}
    (hq : q = encDBaseSegImm c0 d base seg imm) :
    q % 2 = 1 ∧
      q < 2 ^ 32 ∧
      field q 1 6 = field c0 1 6 ∧
      bitsAt 6 q 7 = d ∧
      bitsAt 6 q 13 = base ∧
      bitsAt 3 q 19 = seg ∧
      bitsAt 10 q 22 = imm := by
  have e : q = pack [(7, c0), (6, d.toNat), (6, base.toNat), (3, seg.toNat), (10, imm.toNat)] := by
    rw [hq]; clear hq hp h0; unfold encDBaseSegImm; simp only [← packAt_zero, packAt, Nat.zero_add, Nat.reduceAdd, Nat.pow_zero, Nat.mul_one, Nat.add_zero] <;> ac_rfl
  have hw : fits [(7, c0), (6, d.toNat), (6, base.toNat), (3, seg.toNat), (10, imm.toNat)] := ⟨h0, d.isLt, base.isLt, seg.isLt, imm.isLt, trivial⟩
  rw [e]
  refine ⟨?_, ?_, read_part hw rfl rfl, bitsAt_eq _ _ _ (read_whole hw rfl), bitsAt_eq _ _ _ (read_whole hw rfl), bitsAt_eq _ _ _ (read_whole hw rfl), bitsAt_eq _ _ _ (read_whole hw rfl)⟩
  · exact (pack_parity _ _ _).trans hp
  · exact pack_lt hw

theorem encDBaseIdxSeg_fields (c0 c1 : Nat) (d : RegField) (base : RegField) (idx : RegField) (seg : SegField)
    (h0 : c0 < 2 ^ 7) (h1 : c1 < 2 ^ 4) (hp : c0 % 2 = 1) {q : Nat}
    (hq : q = encDBaseIdxSeg (c0 + c1 * 2 ^ 28) d base idx seg) :
    q % 2 = 1 ∧
      q < 2 ^ 32 ∧
      field q 1 6 = field c0 1 6 ∧
      field q 28 4 = field c1 0 4 ∧
      bitsAt 6 q 7 = d ∧
      bitsAt 6 q 13 = base ∧
      bitsAt 6 q 19 = idx ∧
      bitsAt 3 q 25 = seg := by
  have e : q = pack [(7, c0), (6, d.toNat), (6, base.toNat), (6, idx.toNat), (3, seg.toNat), (4, c1)] := by
    rw [hq]; clear hq hp h0 h1; unfold encDBaseIdxSeg; simp only [← packAt_zero, packAt, Nat.zero_add, Nat.reduceAdd, Nat.pow_zero, Nat.mul_one, Nat.add_zero] <;> ac_rfl
  have hw : fits [(7, c0), (6, d.toNat), (6, base.toNat), (6, idx.toNat), (3, seg.toNat), (4, c1)] := ⟨h0, d.isLt, base.isLt, idx.isLt, seg.isLt, h1, trivial⟩
  rw [e]
  refine ⟨?_, ?_, read_part hw rfl rfl, read_part hw rfl rfl, bitsAt_eq _ _ _ (read_whole hw rfl), bitsAt_eq _ _ _ (read_whole hw rfl), bitsAt_eq _ _ _ (read_whole hw rfl), bitsAt_eq _ _ _ (read_whole hw rfl)⟩
  · exact (pack_parity _ _ _).trans hp
  · exact pack_lt hw

theorem encBaseSeg_fields (c0 c1 c2 : Nat) (base : RegField) (seg : SegField)
    (h0 : c0 < 2 ^ 13) (h1 : c1 < 2 ^ 6) (h2 : c2 < 2 ^ 4) (hp : c0 % 2 = 1) {q : Nat}
    (hq : q = encBaseSeg (c0 + c1 * 2 ^ 19 + c2 * 2 ^ 28) base seg) :
    q % 2 = 1 ∧
      q < 2 ^ 32 ∧
      field q 1 6 = field c0 1 6 ∧
      field q 7 6 = field c0 7 6 ∧
      field q 19 6 = field c1 0 6 ∧
      field q 28 4 = field c2 0 4 ∧
      bitsAt 6 q 13 = base ∧
      bitsAt 3 q 25 = seg := by
  have e : q = pack [(13, c0), (6, base.toNat), (6, c1), (3, seg.toNat), (4, c2)] := by
    rw [hq]; clear hq hp h0 h1 h2; unfold encBaseSeg; simp only [← packAt_zero, packAt, Nat.zero_add, Nat.reduceAdd, Nat.pow_zero, Nat.mul_one, Nat.add_zero] <;> ac_rfl
  have hw : fits [(13, c0), (6, base.toNat), (6, c1), (3, seg.toNat), (4, c2)] := ⟨h0, base.isLt, h1, seg.isLt, h2, trivial⟩
  rw [e]
  refine ⟨?_, ?_, read_part hw rfl rfl, read_part hw rfl rfl, read_part hw rfl rfl, read_part hw rfl rfl, bitsAt_eq _ _ _ (read_whole hw rfl), bitsAt_eq _ _ _ (read_whole hw rfl)⟩
  · exact (pack_parity _ _ _).trans hp
  · exact pack_lt hw

theorem encDBaseSeg_fields (c0 c1 c2 : Nat) (d : RegField) (base : RegField) (seg : SegField)
    (h0 : c0 < 2 ^ 7) (h1 : c1 < 2 ^ 6) (h2 : c2 < 2 ^ 4) (hp : c0 % 2 = 1) {q : Nat}
    (hq : q = encDBaseSeg (c0 + c1 * 2 ^ 19 + c2 * 2 ^ 28) d base seg) :
    q % 2 = 1 ∧
      q < 2 ^ 32 ∧
      field q 1 6 = field c0 1 6 ∧
      field q 19 6 = field c1 0 6 ∧
      field q 28 4 = field c2 0 4 ∧
      bitsAt 6 q 7 = d ∧
      bitsAt 6 q 13 = base ∧
      bitsAt 3 q 25 = seg := by
  have e : q = pack [(7, c0), (6, d.toNat), (6, base.toNat), (6, c1), (3, seg.toNat), (4, c2)] := by
    rw [hq]; clear hq hp h0 h1 h2; unfold encDBaseSeg; simp only [← packAt_zero, packAt, Nat.zero_add, Nat.reduceAdd, Nat.pow_zero, Nat.mul_one, Nat.add_zero] <;> ac_rfl
  have hw : fits [(7, c0), (6, d.toNat), (6, base.toNat), (6, c1), (3, seg.toNat), (4, c2)] := ⟨h0, d.isLt, base.isLt, h1, seg.isLt, h2, trivial⟩
  rw [e]
  refine ⟨?_, ?_, read_part hw rfl rfl, read_part hw rfl rfl, read_part hw rfl rfl, bitsAt_eq _ _ _ (read_whole hw rfl), bitsAt_eq _ _ _ (read_whole hw rfl), bitsAt_eq _ _ _ (read_whole hw rfl)⟩
  · exact (pack_parity _ _ _).trans hp
  · exact pack_lt hw

theorem encBaseIdxSeg_fields (c0 c1 : Nat) (base : RegField) (idx : RegField) (seg : SegField)
    (h0 : c0 < 2 ^ 13) (h1 : c1 < 2 ^ 4) (hp : c0 % 2 = 1) {q : Nat}
    (hq : q = encBaseIdxSeg (c0 + c1 * 2 ^ 28) base idx seg) :
    q % 2 = 1 ∧
      q < 2 ^ 32 ∧
      field q 1 6 = field c0 1 6 ∧
      field q 7 6 = field c0 7 6 ∧
      field q 28 4 = field c1 0 4 ∧
      bitsAt 6 q 13 = base ∧
      bitsAt 6 q 19 = idx ∧
      bitsAt 3 q 25 = seg := by
  have e : q = pack [(13, c0), (6, base.toNat), (6, idx.toNat), (3, seg.toNat), (4, c1)] := by
    rw [hq]; clear hq hp h0 h1; unfold encBaseIdxSeg; simp only [← packAt_zero, packAt, Nat.zero_add, Nat.reduceAdd, Nat.pow_zero, Nat.mul_one, Nat.add_zero] <;> ac_rfl
  have hw : fits [(13, c0), (6, base.toNat), (6, idx.toNat), (3, seg.toNat), (4, c1)] := ⟨h0, base.isLt, idx.isLt, seg.isLt, h1, trivial⟩
  rw [e]
  refine ⟨?_, ?_, read_part hw rfl rfl, read_part hw rfl rfl, read_part hw rfl rfl, bitsAt_eq _ _ _ (read_whole hw rfl), bitsAt_eq _ _ _ (read_whole hw rfl), bitsAt_eq _ _ _ (read_whole hw rfl)⟩
  · exact (pack_parity _ _ _).trans hp
  · exact pack_lt hw

theorem encS_fields (c0 c1 : Nat) (s : Scope)
    (h0 : c0 < 2 ^ 21) (h1 : c1 < 2 ^ 9) (hp : c0 % 2 = 1) {q : Nat}
    (hq : q = encS (c0 + c1 * 2 ^ 23) s) :
    q % 2 = 1 ∧
      q < 2 ^ 32 ∧
      field q 1 6 = field c0 1 6 ∧
      field q 7 14 = field c0 7 14 ∧
      field q 23 9 = field c1 0 9 ∧
      field q 21 2 = s.code ∧
      scopeAt q 21 = s := by
  have e : q = pack [(21, c0), (2, s.code), (9, c1)] := by
    rw [hq]; clear hq hp h0 h1; unfold encS; simp only [← packAt_zero, packAt, Nat.zero_add, Nat.reduceAdd, Nat.pow_zero, Nat.mul_one, Nat.add_zero] <;> ac_rfl
  have hw : fits [(21, c0), (2, s.code), (9, c1)] := ⟨h0, Nat.lt_succ_of_lt s.code_lt, h1, trivial⟩
  rw [e]
  refine ⟨?_, ?_, read_part hw rfl rfl, read_part hw rfl rfl, read_part hw rfl rfl, read_whole hw rfl, scopeAt_eq _ _ _ (read_whole hw rfl)⟩
  · exact (pack_parity _ _ _).trans hp
  · exact pack_lt hw

theorem encCCode_fields (c0 : Nat)
    (h0 : c0 < 2 ^ 16) (hp : c0 % 2 = 0) {q : Nat}
    (hq : q = encCCode c0) :
    q % 2 = 0 ∧
      q < 2 ^ 16 ∧
      field q 1 4 = field c0 1 4 ∧
      field q 5 11 = field c0 5 11 := by
  have e : q = pack [(16, c0)] := by
    rw [hq]; clear hq hp h0; unfold encCCode; simp only [← packAt_zero, packAt, Nat.zero_add, Nat.reduceAdd, Nat.pow_zero, Nat.mul_one, Nat.add_zero] <;> ac_rfl
  have hw : fits [(16, c0)] := ⟨h0, trivial⟩
  rw [e]
  refine ⟨?_, ?_, read_part hw rfl rfl, read_part hw rfl rfl⟩
  · exact (pack_parity _ _ _).trans hp
  · exact pack_lt hw

theorem encCCountStride_fields (c0 : Nat) (count : BitVec 6) (stride : BitVec 5)
    (h0 : c0 < 2 ^ 5) (hp : c0 % 2 = 0) {q : Nat}
    (hq : q = encCCountStride c0 count stride) :
    q % 2 = 0 ∧
      q < 2 ^ 16 ∧
      field q 1 4 = field c0 1 4 ∧
      bitsAt 6 q 5 = count ∧
      bitsAt 5 q 11 = stride := by
  have e : q = pack [(5, c0), (6, count.toNat), (5, stride.toNat)] := by
    rw [hq]; clear hq hp h0; unfold encCCountStride; simp only [← packAt_zero, packAt, Nat.zero_add, Nat.reduceAdd, Nat.pow_zero, Nat.mul_one, Nat.add_zero] <;> ac_rfl
  have hw : fits [(5, c0), (6, count.toNat), (5, stride.toNat)] := ⟨h0, count.isLt, stride.isLt, trivial⟩
  rw [e]
  refine ⟨?_, ?_, read_part hw rfl rfl, bitsAt_eq _ _ _ (read_whole hw rfl), bitsAt_eq _ _ _ (read_whole hw rfl)⟩
  · exact (pack_parity _ _ _).trans hp
  · exact pack_lt hw

theorem encCDAI_fields (c0 : Nat) (d : CReg) (a : CReg) (i : BitVec 5)
    (h0 : c0 < 2 ^ 5) (hp : c0 % 2 = 0) {q : Nat}
    (hq : q = encCDAI c0 d a i) :
    q % 2 = 0 ∧
      q < 2 ^ 16 ∧
      field q 1 4 = field c0 1 4 ∧
      bitsAt 3 q 5 = d ∧
      bitsAt 3 q 8 = a ∧
      bitsAt 5 q 11 = i := by
  have e : q = pack [(5, c0), (3, d.toNat), (3, a.toNat), (5, i.toNat)] := by
    rw [hq]; clear hq hp h0; unfold encCDAI; simp only [← packAt_zero, packAt, Nat.zero_add, Nat.reduceAdd, Nat.pow_zero, Nat.mul_one, Nat.add_zero] <;> ac_rfl
  have hw : fits [(5, c0), (3, d.toNat), (3, a.toNat), (5, i.toNat)] := ⟨h0, d.isLt, a.isLt, i.isLt, trivial⟩
  rw [e]
  refine ⟨?_, ?_, read_part hw rfl rfl, bitsAt_eq _ _ _ (read_whole hw rfl), bitsAt_eq _ _ _ (read_whole hw rfl), bitsAt_eq _ _ _ (read_whole hw rfl)⟩
  · exact (pack_parity _ _ _).trans hp
  · exact pack_lt hw

theorem encCDI_fields (c0 : Nat) (d : CReg) (i : BitVec 8)
    (h0 : c0 < 2 ^ 5) (hp : c0 % 2 = 0) {q : Nat}
    (hq : q = encCDI c0 d i) :
    q % 2 = 0 ∧
      q < 2 ^ 16 ∧
      field q 1 4 = field c0 1 4 ∧
      bitsAt 3 q 5 = d ∧
      bitsAt 8 q 8 = i := by
  have e : q = pack [(5, c0), (3, d.toNat), (8, i.toNat)] := by
    rw [hq]; clear hq hp h0; unfold encCDI; simp only [← packAt_zero, packAt, Nat.zero_add, Nat.reduceAdd, Nat.pow_zero, Nat.mul_one, Nat.add_zero] <;> ac_rfl
  have hw : fits [(5, c0), (3, d.toNat), (8, i.toNat)] := ⟨h0, d.isLt, i.isLt, trivial⟩
  rw [e]
  refine ⟨?_, ?_, read_part hw rfl rfl, bitsAt_eq _ _ _ (read_whole hw rfl), bitsAt_eq _ _ _ (read_whole hw rfl)⟩
  · exact (pack_parity _ _ _).trans hp
  · exact pack_lt hw

theorem encCDA_fields (c0 c1 : Nat) (d : CReg) (a : CReg)
    (h0 : c0 < 2 ^ 5) (h1 : c1 < 2 ^ 5) (hp : c0 % 2 = 0) {q : Nat}
    (hq : q = encCDA (c0 + c1 * 2 ^ 11) d a) :
    q % 2 = 0 ∧
      q < 2 ^ 16 ∧
      field q 1 4 = field c0 1 4 ∧
      field q 11 5 = field c1 0 5 ∧
      bitsAt 3 q 5 = d ∧
      bitsAt 3 q 8 = a := by
  have e : q = pack [(5, c0), (3, d.toNat), (3, a.toNat), (5, c1)] := by
    rw [hq]; clear hq hp h0 h1; unfold encCDA; simp only [← packAt_zero, packAt, Nat.zero_add, Nat.reduceAdd, Nat.pow_zero, Nat.mul_one, Nat.add_zero] <;> ac_rfl
  have hw : fits [(5, c0), (3, d.toNat), (3, a.toNat), (5, c1)] := ⟨h0, d.isLt, a.isLt, h1, trivial⟩
  rw [e]
  refine ⟨?_, ?_, read_part hw rfl rfl, read_part hw rfl rfl, bitsAt_eq _ _ _ (read_whole hw rfl), bitsAt_eq _ _ _ (read_whole hw rfl)⟩
  · exact (pack_parity _ _ _).trans hp
  · exact pack_lt hw

theorem encCDS_fields (c0 c1 : Nat) (d : CReg) (s : BitVec 6)
    (h0 : c0 < 2 ^ 5) (h1 : c1 < 2 ^ 2) (hp : c0 % 2 = 0) {q : Nat}
    (hq : q = encCDS (c0 + c1 * 2 ^ 14) d s) :
    q % 2 = 0 ∧
      q < 2 ^ 16 ∧
      field q 1 4 = field c0 1 4 ∧
      field q 14 2 = field c1 0 2 ∧
      bitsAt 3 q 5 = d ∧
      bitsAt 6 q 8 = s := by
  have e : q = pack [(5, c0), (3, d.toNat), (6, s.toNat), (2, c1)] := by
    rw [hq]; clear hq hp h0 h1; unfold encCDS; simp only [← packAt_zero, packAt, Nat.zero_add, Nat.reduceAdd, Nat.pow_zero, Nat.mul_one, Nat.add_zero] <;> ac_rfl
  have hw : fits [(5, c0), (3, d.toNat), (6, s.toNat), (2, c1)] := ⟨h0, d.isLt, s.isLt, h1, trivial⟩
  rw [e]
  refine ⟨?_, ?_, read_part hw rfl rfl, read_part hw rfl rfl, bitsAt_eq _ _ _ (read_whole hw rfl), bitsAt_eq _ _ _ (read_whole hw rfl)⟩
  · exact (pack_parity _ _ _).trans hp
  · exact pack_lt hw

theorem encCAO_fields (c0 c1 : Nat) (a : CReg) (o : BitVec 7)
    (h0 : c0 < 2 ^ 5) (h1 : c1 < 2 ^ 1) (hp : c0 % 2 = 0) {q : Nat}
    (hq : q = encCAO (c0 + c1 * 2 ^ 15) a o) :
    q % 2 = 0 ∧
      q < 2 ^ 16 ∧
      field q 1 4 = field c0 1 4 ∧
      field q 15 1 = field c1 0 1 ∧
      bitsAt 3 q 8 = a ∧
      bitsAt 4 q 11 ++ bitsAt 3 q 5 = o := by
  have e : q = pack [(5, c0), (3, (o.toNat % 8)), (3, a.toNat), (4, (o.toNat / 8)), (1, c1)] := by
    rw [hq]; clear hq hp h0 h1; unfold encCAO; simp only [← packAt_zero, packAt, Nat.zero_add, Nat.reduceAdd, Nat.pow_zero, Nat.mul_one, Nat.add_zero] <;> ac_rfl
  have hw : fits [(5, c0), (3, (o.toNat % 8)), (3, a.toNat), (4, (o.toNat / 8)), (1, c1)] := ⟨h0, by omega, a.isLt, by omega, h1, trivial⟩
  rw [e]
  refine ⟨?_, ?_, read_part hw rfl rfl, read_part hw rfl rfl, bitsAt_eq _ _ _ (read_whole hw rfl), bitsAt_append_eq _ _ (read_whole hw rfl) (read_whole hw rfl)⟩
  · exact (pack_parity _ _ _).trans hp
  · exact pack_lt hw

theorem encCO_fields (c0 : Nat) (o : BitVec 11)
    (h0 : c0 < 2 ^ 5) (hp : c0 % 2 = 0) {q : Nat}
    (hq : q = encCO c0 o) :
    q % 2 = 0 ∧
      q < 2 ^ 16 ∧
      field q 1 4 = field c0 1 4 ∧
      bitsAt 11 q 5 = o := by
  have e : q = pack [(5, c0), (11, o.toNat)] := by
    rw [hq]; clear hq hp h0; unfold encCO; simp only [← packAt_zero, packAt, Nat.zero_add, Nat.reduceAdd, Nat.pow_zero, Nat.mul_one, Nat.add_zero] <;> ac_rfl
  have hw : fits [(5, c0), (11, o.toNat)] := ⟨h0, o.isLt, trivial⟩
  rw [e]
  refine ⟨?_, ?_, read_part hw rfl rfl, bitsAt_eq _ _ _ (read_whole hw rfl)⟩
  · exact (pack_parity _ _ _).trans hp
  · exact pack_lt hw

theorem encDABW_fields (c0 c1 : Nat) (d : RegField) (a : RegField) (b : RegField) (w : Width)
    (h0 : c0 < 2 ^ 7) (h1 : c1 < 2 ^ 5) (hp : c0 % 2 = 1) {q : Nat}
    (hq : q = encDABW (c0 + c1 * 2 ^ 27) d a b w) :
    q % 2 = 1 ∧
      q < 2 ^ 32 ∧
      field q 1 6 = field c0 1 6 ∧
      field q 27 5 = field c1 0 5 ∧
      bitsAt 6 q 7 = d ∧
      bitsAt 6 q 13 = a ∧
      bitsAt 6 q 19 = b ∧
      widthAt q 25 = w := by
  have e : q = pack [(7, c0), (6, d.toNat), (6, a.toNat), (6, b.toNat), (2, w.code), (5, c1)] := by
    rw [hq]; clear hq hp h0 h1; unfold encDABW; simp only [← packAt_zero, packAt, Nat.zero_add, Nat.reduceAdd, Nat.pow_zero, Nat.mul_one, Nat.add_zero] <;> ac_rfl
  have hw : fits [(7, c0), (6, d.toNat), (6, a.toNat), (6, b.toNat), (2, w.code), (5, c1)] := ⟨h0, d.isLt, a.isLt, b.isLt, w.code_lt, h1, trivial⟩
  rw [e]
  refine ⟨?_, ?_, read_part hw rfl rfl, read_part hw rfl rfl, bitsAt_eq _ _ _ (read_whole hw rfl), bitsAt_eq _ _ _ (read_whole hw rfl), bitsAt_eq _ _ _ (read_whole hw rfl), widthAt_eq _ _ _ (read_whole hw rfl)⟩
  · exact (pack_parity _ _ _).trans hp
  · exact pack_lt hw

theorem encDAKW_fields (c0 c1 : Nat) (d : RegField) (a : RegField) (k : BitVec 6) (w : Width)
    (h0 : c0 < 2 ^ 7) (h1 : c1 < 2 ^ 5) (hp : c0 % 2 = 1) {q : Nat}
    (hq : q = encDAKW (c0 + c1 * 2 ^ 27) d a k w) :
    q % 2 = 1 ∧
      q < 2 ^ 32 ∧
      field q 1 6 = field c0 1 6 ∧
      field q 27 5 = field c1 0 5 ∧
      bitsAt 6 q 7 = d ∧
      bitsAt 6 q 13 = a ∧
      bitsAt 6 q 19 = k ∧
      widthAt q 25 = w := by
  have e : q = pack [(7, c0), (6, d.toNat), (6, a.toNat), (6, k.toNat), (2, w.code), (5, c1)] := by
    rw [hq]; clear hq hp h0 h1; unfold encDAKW; simp only [← packAt_zero, packAt, Nat.zero_add, Nat.reduceAdd, Nat.pow_zero, Nat.mul_one, Nat.add_zero] <;> ac_rfl
  have hw : fits [(7, c0), (6, d.toNat), (6, a.toNat), (6, k.toNat), (2, w.code), (5, c1)] := ⟨h0, d.isLt, a.isLt, k.isLt, w.code_lt, h1, trivial⟩
  rw [e]
  refine ⟨?_, ?_, read_part hw rfl rfl, read_part hw rfl rfl, bitsAt_eq _ _ _ (read_whole hw rfl), bitsAt_eq _ _ _ (read_whole hw rfl), bitsAt_eq _ _ _ (read_whole hw rfl), widthAt_eq _ _ _ (read_whole hw rfl)⟩
  · exact (pack_parity _ _ _).trans hp
  · exact pack_lt hw

theorem encDABT_fields (c0 c1 : Nat) (d : RegField) (a : RegField) (b : RegField) (t : FType)
    (h0 : c0 < 2 ^ 7) (h1 : c1 < 2 ^ 5) (hp : c0 % 2 = 1) {q : Nat}
    (hq : q = encDABT (c0 + c1 * 2 ^ 27) d a b t) :
    q % 2 = 1 ∧
      q < 2 ^ 32 ∧
      field q 1 6 = field c0 1 6 ∧
      field q 27 5 = field c1 0 5 ∧
      bitsAt 6 q 7 = d ∧
      bitsAt 6 q 13 = a ∧
      bitsAt 6 q 19 = b ∧
      field q 25 2 = t.code ∧
      ftypeAt q 25 = t := by
  have e : q = pack [(7, c0), (6, d.toNat), (6, a.toNat), (6, b.toNat), (2, t.code), (5, c1)] := by
    rw [hq]; clear hq hp h0 h1; unfold encDABT; simp only [← packAt_zero, packAt, Nat.zero_add, Nat.reduceAdd, Nat.pow_zero, Nat.mul_one, Nat.add_zero] <;> ac_rfl
  have hw : fits [(7, c0), (6, d.toNat), (6, a.toNat), (6, b.toNat), (2, t.code), (5, c1)] := ⟨h0, d.isLt, a.isLt, b.isLt, Nat.lt_succ_of_lt t.code_lt, h1, trivial⟩
  rw [e]
  refine ⟨?_, ?_, read_part hw rfl rfl, read_part hw rfl rfl, bitsAt_eq _ _ _ (read_whole hw rfl), bitsAt_eq _ _ _ (read_whole hw rfl), bitsAt_eq _ _ _ (read_whole hw rfl), read_whole hw rfl, ftypeAt_eq _ _ _ (read_whole hw rfl)⟩
  · exact (pack_parity _ _ _).trans hp
  · exact pack_lt hw

theorem encDAW_fields (c0 c1 c2 : Nat) (d : RegField) (a : RegField) (w : Width)
    (h0 : c0 < 2 ^ 7) (h1 : c1 < 2 ^ 6) (h2 : c2 < 2 ^ 5) (hp : c0 % 2 = 1) {q : Nat}
    (hq : q = encDAW (c0 + c1 * 2 ^ 19 + c2 * 2 ^ 27) d a w) :
    q % 2 = 1 ∧
      q < 2 ^ 32 ∧
      field q 1 6 = field c0 1 6 ∧
      field q 19 6 = field c1 0 6 ∧
      field q 27 5 = field c2 0 5 ∧
      bitsAt 6 q 7 = d ∧
      bitsAt 6 q 13 = a ∧
      widthAt q 25 = w := by
  have e : q = pack [(7, c0), (6, d.toNat), (6, a.toNat), (6, c1), (2, w.code), (5, c2)] := by
    rw [hq]; clear hq hp h0 h1 h2; unfold encDAW; simp only [← packAt_zero, packAt, Nat.zero_add, Nat.reduceAdd, Nat.pow_zero, Nat.mul_one, Nat.add_zero] <;> ac_rfl
  have hw : fits [(7, c0), (6, d.toNat), (6, a.toNat), (6, c1), (2, w.code), (5, c2)] := ⟨h0, d.isLt, a.isLt, h1, w.code_lt, h2, trivial⟩
  rw [e]
  refine ⟨?_, ?_, read_part hw rfl rfl, read_part hw rfl rfl, read_part hw rfl rfl, bitsAt_eq _ _ _ (read_whole hw rfl), bitsAt_eq _ _ _ (read_whole hw rfl), widthAt_eq _ _ _ (read_whole hw rfl)⟩
  · exact (pack_parity _ _ _).trans hp
  · exact pack_lt hw

theorem encDAT_fields (c0 c1 c2 : Nat) (d : RegField) (a : RegField) (t : FType)
    (h0 : c0 < 2 ^ 7) (h1 : c1 < 2 ^ 6) (h2 : c2 < 2 ^ 5) (hp : c0 % 2 = 1) {q : Nat}
    (hq : q = encDAT (c0 + c1 * 2 ^ 19 + c2 * 2 ^ 27) d a t) :
    q % 2 = 1 ∧
      q < 2 ^ 32 ∧
      field q 1 6 = field c0 1 6 ∧
      field q 19 6 = field c1 0 6 ∧
      field q 27 5 = field c2 0 5 ∧
      bitsAt 6 q 7 = d ∧
      bitsAt 6 q 13 = a ∧
      field q 25 2 = t.code ∧
      ftypeAt q 25 = t := by
  have e : q = pack [(7, c0), (6, d.toNat), (6, a.toNat), (6, c1), (2, t.code), (5, c2)] := by
    rw [hq]; clear hq hp h0 h1 h2; unfold encDAT; simp only [← packAt_zero, packAt, Nat.zero_add, Nat.reduceAdd, Nat.pow_zero, Nat.mul_one, Nat.add_zero] <;> ac_rfl
  have hw : fits [(7, c0), (6, d.toNat), (6, a.toNat), (6, c1), (2, t.code), (5, c2)] := ⟨h0, d.isLt, a.isLt, h1, Nat.lt_succ_of_lt t.code_lt, h2, trivial⟩
  rw [e]
  refine ⟨?_, ?_, read_part hw rfl rfl, read_part hw rfl rfl, read_part hw rfl rfl, bitsAt_eq _ _ _ (read_whole hw rfl), bitsAt_eq _ _ _ (read_whole hw rfl), read_whole hw rfl, ftypeAt_eq _ _ _ (read_whole hw rfl)⟩
  · exact (pack_parity _ _ _).trans hp
  · exact pack_lt hw

theorem encDABLBcT_fields (c0 c1 : Nat) (d : RegField) (a : RegField) (b : RegField) (l : BitVec 3) (bc : Bool) (t : FType)
    (h0 : c0 < 2 ^ 7) (h1 : c1 < 2 ^ 1) (hp : c0 % 2 = 1) {q : Nat}
    (hq : q = encDABLBcT (c0 + c1 * 2 ^ 29) d a b l bc t) :
    q % 2 = 1 ∧
      q < 2 ^ 32 ∧
      field q 1 6 = field c0 1 6 ∧
      field q 29 1 = field c1 0 1 ∧
      bitsAt 6 q 7 = d ∧
      bitsAt 6 q 13 = a ∧
      bitsAt 6 q 19 = b ∧
      bitsAt 3 q 25 = l ∧
      bitAt q 28 = bc ∧
      field q 30 2 = t.code ∧
      ftypeAt q 30 = t := by
  have e : q = pack [(7, c0), (6, d.toNat), (6, a.toNat), (6, b.toNat), (3, l.toNat), (1, bc.toNat), (1, c1), (2, t.code)] := by
    rw [hq]; clear hq hp h0 h1; unfold encDABLBcT; simp only [← packAt_zero, packAt, Nat.zero_add, Nat.reduceAdd, Nat.pow_zero, Nat.mul_one, Nat.add_zero] <;> ac_rfl
  have hw : fits [(7, c0), (6, d.toNat), (6, a.toNat), (6, b.toNat), (3, l.toNat), (1, bc.toNat), (1, c1), (2, t.code)] := ⟨h0, d.isLt, a.isLt, b.isLt, l.isLt, bc.toNat_lt, h1, Nat.lt_succ_of_lt t.code_lt, trivial⟩
  rw [e]
  refine ⟨?_, ?_, read_part hw rfl rfl, read_part hw rfl rfl, bitsAt_eq _ _ _ (read_whole hw rfl), bitsAt_eq _ _ _ (read_whole hw rfl), bitsAt_eq _ _ _ (read_whole hw rfl), bitsAt_eq _ _ _ (read_whole hw rfl), bitAt_eq _ _ _ (read_whole hw rfl), read_whole hw rfl, ftypeAt_eq _ _ _ (read_whole hw rfl)⟩
  · exact (pack_parity _ _ _).trans hp
  · exact pack_lt hw

theorem encDAP_fields (c0 c1 c2 : Nat) (d : RegField) (a : RegField) (p : BitVec 3)
    (h0 : c0 < 2 ^ 7) (h1 : c1 < 2 ^ 6) (h2 : c2 < 2 ^ 4) (hp : c0 % 2 = 1) {q : Nat}
    (hq : q = encDAP (c0 + c1 * 2 ^ 19 + c2 * 2 ^ 28) d a p) :
    q % 2 = 1 ∧
      q < 2 ^ 32 ∧
      field q 1 6 = field c0 1 6 ∧
      field q 19 6 = field c1 0 6 ∧
      field q 28 4 = field c2 0 4 ∧
      bitsAt 6 q 7 = d ∧
      bitsAt 6 q 13 = a ∧
      bitsAt 3 q 25 = p := by
  have e : q = pack [(7, c0), (6, d.toNat), (6, a.toNat), (6, c1), (3, p.toNat), (4, c2)] := by
    rw [hq]; clear hq hp h0 h1 h2; unfold encDAP; simp only [← packAt_zero, packAt, Nat.zero_add, Nat.reduceAdd, Nat.pow_zero, Nat.mul_one, Nat.add_zero] <;> ac_rfl
  have hw : fits [(7, c0), (6, d.toNat), (6, a.toNat), (6, c1), (3, p.toNat), (4, c2)] := ⟨h0, d.isLt, a.isLt, h1, p.isLt, h2, trivial⟩
  rw [e]
  refine ⟨?_, ?_, read_part hw rfl rfl, read_part hw rfl rfl, read_part hw rfl rfl, bitsAt_eq _ _ _ (read_whole hw rfl), bitsAt_eq _ _ _ (read_whole hw rfl), bitsAt_eq _ _ _ (read_whole hw rfl)⟩
  · exact (pack_parity _ _ _).trans hp
  · exact pack_lt hw

theorem encDABP_fields (c0 c1 : Nat) (d : RegField) (a : RegField) (b : RegField) (p : BitVec 3)
    (h0 : c0 < 2 ^ 7) (h1 : c1 < 2 ^ 4) (hp : c0 % 2 = 1) {q : Nat}
    (hq : q = encDABP (c0 + c1 * 2 ^ 28) d a b p) :
    q % 2 = 1 ∧
      q < 2 ^ 32 ∧
      field q 1 6 = field c0 1 6 ∧
      field q 28 4 = field c1 0 4 ∧
      bitsAt 6 q 7 = d ∧
      bitsAt 6 q 13 = a ∧
      bitsAt 6 q 19 = b ∧
      bitsAt 3 q 25 = p := by
  have e : q = pack [(7, c0), (6, d.toNat), (6, a.toNat), (6, b.toNat), (3, p.toNat), (4, c1)] := by
    rw [hq]; clear hq hp h0 h1; unfold encDABP; simp only [← packAt_zero, packAt, Nat.zero_add, Nat.reduceAdd, Nat.pow_zero, Nat.mul_one, Nat.add_zero] <;> ac_rfl
  have hw : fits [(7, c0), (6, d.toNat), (6, a.toNat), (6, b.toNat), (3, p.toNat), (4, c1)] := ⟨h0, d.isLt, a.isLt, b.isLt, p.isLt, h1, trivial⟩
  rw [e]
  refine ⟨?_, ?_, read_part hw rfl rfl, read_part hw rfl rfl, bitsAt_eq _ _ _ (read_whole hw rfl), bitsAt_eq _ _ _ (read_whole hw rfl), bitsAt_eq _ _ _ (read_whole hw rfl), bitsAt_eq _ _ _ (read_whole hw rfl)⟩
  · exact (pack_parity _ _ _).trans hp
  · exact pack_lt hw

theorem encDALW_fields (c0 c1 c2 : Nat) (d : RegField) (a : RegField) (l : BitVec 5) (w : Width)
    (h0 : c0 < 2 ^ 7) (h1 : c1 < 2 ^ 1) (h2 : c2 < 2 ^ 5) (hp : c0 % 2 = 1) {q : Nat}
    (hq : q = encDALW (c0 + c1 * 2 ^ 24 + c2 * 2 ^ 27) d a l w) :
    q % 2 = 1 ∧
      q < 2 ^ 32 ∧
      field q 1 6 = field c0 1 6 ∧
      field q 24 1 = field c1 0 1 ∧
      field q 27 5 = field c2 0 5 ∧
      bitsAt 6 q 7 = d ∧
      bitsAt 6 q 13 = a ∧
      bitsAt 5 q 19 = l ∧
      widthAt q 25 = w := by
  have e : q = pack [(7, c0), (6, d.toNat), (6, a.toNat), (5, l.toNat), (1, c1), (2, w.code), (5, c2)] := by
    rw [hq]; clear hq hp h0 h1 h2; unfold encDALW; simp only [← packAt_zero, packAt, Nat.zero_add, Nat.reduceAdd, Nat.pow_zero, Nat.mul_one, Nat.add_zero] <;> ac_rfl
  have hw : fits [(7, c0), (6, d.toNat), (6, a.toNat), (5, l.toNat), (1, c1), (2, w.code), (5, c2)] := ⟨h0, d.isLt, a.isLt, l.isLt, h1, w.code_lt, h2, trivial⟩
  rw [e]
  refine ⟨?_, ?_, read_part hw rfl rfl, read_part hw rfl rfl, read_part hw rfl rfl, bitsAt_eq _ _ _ (read_whole hw rfl), bitsAt_eq _ _ _ (read_whole hw rfl), bitsAt_eq _ _ _ (read_whole hw rfl), widthAt_eq _ _ _ (read_whole hw rfl)⟩
  · exact (pack_parity _ _ _).trans hp
  · exact pack_lt hw

theorem encA_fields (c0 c1 : Nat) (a : RegField)
    (h0 : c0 < 2 ^ 13) (h1 : c1 < 2 ^ 13) (hp : c0 % 2 = 1) {q : Nat}
    (hq : q = encA (c0 + c1 * 2 ^ 19) a) :
    q % 2 = 1 ∧
      q < 2 ^ 32 ∧
      field q 1 6 = field c0 1 6 ∧
      field q 7 6 = field c0 7 6 ∧
      field q 19 13 = field c1 0 13 ∧
      field q 25 7 = field c1 6 7 ∧
      field q 27 5 = field c1 8 5 ∧
      bitsAt 6 q 13 = a := by
  have e : q = pack [(13, c0), (6, a.toNat), (13, c1)] := by
    rw [hq]; clear hq hp h0 h1; unfold encA; simp only [← packAt_zero, packAt, Nat.zero_add, Nat.reduceAdd, Nat.pow_zero, Nat.mul_one, Nat.add_zero] <;> ac_rfl
  have hw : fits [(13, c0), (6, a.toNat), (13, c1)] := ⟨h0, a.isLt, h1, trivial⟩
  rw [e]
  refine ⟨?_, ?_, read_part hw rfl rfl, read_part hw rfl rfl, read_part hw rfl rfl, read_part hw rfl rfl, read_part hw rfl rfl, bitsAt_eq _ _ _ (read_whole hw rfl)⟩
  · exact (pack_parity _ _ _).trans hp
  · exact pack_lt hw

theorem encAN_fields (c0 c1 c2 : Nat) (a : RegField) (n : BitVec 2)
    (h0 : c0 < 2 ^ 7) (h1 : c1 < 2 ^ 4) (h2 : c2 < 2 ^ 13) (hp : c0 % 2 = 1) {q : Nat}
    (hq : q = encAN (c0 + c1 * 2 ^ 9 + c2 * 2 ^ 19) a n) :
    q % 2 = 1 ∧
      q < 2 ^ 32 ∧
      field q 1 6 = field c0 1 6 ∧
      field q 9 4 = field c1 0 4 ∧
      field q 19 13 = field c2 0 13 ∧
      bitsAt 6 q 13 = a ∧
      bitsAt 2 q 7 = n := by
  have e : q = pack [(7, c0), (2, n.toNat), (4, c1), (6, a.toNat), (13, c2)] := by
    rw [hq]; clear hq hp h0 h1 h2; unfold encAN; simp only [← packAt_zero, packAt, Nat.zero_add, Nat.reduceAdd, Nat.pow_zero, Nat.mul_one, Nat.add_zero] <;> ac_rfl
  have hw : fits [(7, c0), (2, n.toNat), (4, c1), (6, a.toNat), (13, c2)] := ⟨h0, n.isLt, h1, a.isLt, h2, trivial⟩
  rw [e]
  refine ⟨?_, ?_, read_part hw rfl rfl, read_part hw rfl rfl, read_part hw rfl rfl, bitsAt_eq _ _ _ (read_whole hw rfl), bitsAt_eq _ _ _ (read_whole hw rfl)⟩
  · exact (pack_parity _ _ _).trans hp
  · exact pack_lt hw

theorem encAccInt_fields (c0 c1 c2 : Nat) (acc : BitVec 2) (int : Bool)
    (h0 : c0 < 2 ^ 7) (h1 : c1 < 2 ^ 16) (h2 : c2 < 2 ^ 6) (hp : c0 % 2 = 1) {q : Nat}
    (hq : q = encAccInt (c0 + c1 * 2 ^ 9 + c2 * 2 ^ 26) acc int) :
    q % 2 = 1 ∧
      q < 2 ^ 32 ∧
      field q 1 6 = field c0 1 6 ∧
      field q 9 16 = field c1 0 16 ∧
      field q 26 6 = field c2 0 6 ∧
      bitsAt 2 q 7 = acc ∧
      bitAt q 25 = int := by
  have e : q = pack [(7, c0), (2, acc.toNat), (16, c1), (1, int.toNat), (6, c2)] := by
    rw [hq]; clear hq hp h0 h1 h2; unfold encAccInt; simp only [← packAt_zero, packAt, Nat.zero_add, Nat.reduceAdd, Nat.pow_zero, Nat.mul_one, Nat.add_zero] <;> ac_rfl
  have hw : fits [(7, c0), (2, acc.toNat), (16, c1), (1, int.toNat), (6, c2)] := ⟨h0, acc.isLt, h1, int.toNat_lt, h2, trivial⟩
  rw [e]
  refine ⟨?_, ?_, read_part hw rfl rfl, read_part hw rfl rfl, read_part hw rfl rfl, bitsAt_eq _ _ _ (read_whole hw rfl), bitAt_eq _ _ _ (read_whole hw rfl)⟩
  · exact (pack_parity _ _ _).trans hp
  · exact pack_lt hw

theorem encAccRaRbKaKbRet_fields (c0 c1 c2 c3 c4 : Nat) (acc : BitVec 2) (ra : BitVec 2) (rb : BitVec 2) (ka : Bool) (kb : Bool) (ret : Bool)
    (h0 : c0 < 2 ^ 7) (h1 : c1 < 2 ^ 4) (h2 : c2 < 2 ^ 4) (h3 : c3 < 2 ^ 4) (h4 : c4 < 2 ^ 4) (hp : c0 % 2 = 1) {q : Nat}
    (hq : q = encAccRaRbKaKbRet (c0 + c1 * 2 ^ 9 + c2 * 2 ^ 15 + c3 * 2 ^ 21 + c4 * 2 ^ 28) acc ra rb ka kb ret) :
    q % 2 = 1 ∧
      q < 2 ^ 32 ∧
      field q 1 6 = field c0 1 6 ∧
      field q 9 4 = field c1 0 4 ∧
      field q 15 4 = field c2 0 4 ∧
      field q 21 4 = field c3 0 4 ∧
      field q 28 4 = field c4 0 4 ∧
      bitsAt 2 q 7 = acc ∧
      bitsAt 2 q 13 = ra ∧
      bitsAt 2 q 19 = rb ∧
      bitAt q 25 = ka ∧
      bitAt q 26 = kb ∧
      bitAt q 27 = ret := by
  have e : q = pack [(7, c0), (2, acc.toNat), (4, c1), (2, ra.toNat), (4, c2), (2, rb.toNat), (4, c3), (1, ka.toNat), (1, kb.toNat), (1, ret.toNat), (4, c4)] := by
    rw [hq]; clear hq hp h0 h1 h2 h3 h4; unfold encAccRaRbKaKbRet; simp only [← packAt_zero, packAt, Nat.zero_add, Nat.reduceAdd, Nat.pow_zero, Nat.mul_one, Nat.add_zero] <;> ac_rfl
  have hw : fits [(7, c0), (2, acc.toNat), (4, c1), (2, ra.toNat), (4, c2), (2, rb.toNat), (4, c3), (1, ka.toNat), (1, kb.toNat), (1, ret.toNat), (4, c4)] := ⟨h0, acc.isLt, h1, ra.isLt, h2, rb.isLt, h3, ka.toNat_lt, kb.toNat_lt, ret.toNat_lt, h4, trivial⟩
  rw [e]
  refine ⟨?_, ?_, read_part hw rfl rfl, read_part hw rfl rfl, read_part hw rfl rfl, read_part hw rfl rfl, read_part hw rfl rfl, bitsAt_eq _ _ _ (read_whole hw rfl), bitsAt_eq _ _ _ (read_whole hw rfl), bitsAt_eq _ _ _ (read_whole hw rfl), bitAt_eq _ _ _ (read_whole hw rfl), bitAt_eq _ _ _ (read_whole hw rfl), bitAt_eq _ _ _ (read_whole hw rfl)⟩
  · exact (pack_parity _ _ _).trans hp
  · exact pack_lt hw

theorem encRaRbKaKbRet_fields (c0 c1 c2 c3 : Nat) (ra : BitVec 2) (rb : BitVec 2) (ka : Bool) (kb : Bool) (ret : Bool)
    (h0 : c0 < 2 ^ 13) (h1 : c1 < 2 ^ 4) (h2 : c2 < 2 ^ 4) (h3 : c3 < 2 ^ 4) (hp : c0 % 2 = 1) {q : Nat}
    (hq : q = encRaRbKaKbRet (c0 + c1 * 2 ^ 15 + c2 * 2 ^ 21 + c3 * 2 ^ 28) ra rb ka kb ret) :
    q % 2 = 1 ∧
      q < 2 ^ 32 ∧
      field q 1 6 = field c0 1 6 ∧
      field q 7 6 = field c0 7 6 ∧
      field q 15 4 = field c1 0 4 ∧
      field q 21 4 = field c2 0 4 ∧
      field q 28 4 = field c3 0 4 ∧
      bitsAt 2 q 13 = ra ∧
      bitsAt 2 q 19 = rb ∧
      bitAt q 25 = ka ∧
      bitAt q 26 = kb ∧
      bitAt q 27 = ret := by
  have e : q = pack [(13, c0), (2, ra.toNat), (4, c1), (2, rb.toNat), (4, c2), (1, ka.toNat), (1, kb.toNat), (1, ret.toNat), (4, c3)] := by
    rw [hq]; clear hq hp h0 h1 h2 h3; unfold encRaRbKaKbRet; simp only [← packAt_zero, packAt, Nat.zero_add, Nat.reduceAdd, Nat.pow_zero, Nat.mul_one, Nat.add_zero] <;> ac_rfl
  have hw : fits [(13, c0), (2, ra.toNat), (4, c1), (2, rb.toNat), (4, c2), (1, ka.toNat), (1, kb.toNat), (1, ret.toNat), (4, c3)] := ⟨h0, ra.isLt, h1, rb.isLt, h2, ka.toNat_lt, kb.toNat_lt, ret.toNat_lt, h3, trivial⟩
  rw [e]
  refine ⟨?_, ?_, read_part hw rfl rfl, read_part hw rfl rfl, read_part hw rfl rfl, read_part hw rfl rfl, read_part hw rfl rfl, bitsAt_eq _ _ _ (read_whole hw rfl), bitsAt_eq _ _ _ (read_whole hw rfl), bitAt_eq _ _ _ (read_whole hw rfl), bitAt_eq _ _ _ (read_whole hw rfl), bitAt_eq _ _ _ (read_whole hw rfl)⟩
  · exact (pack_parity _ _ _).trans hp
  · exact pack_lt hw

theorem encAB_fields (c0 c1 : Nat) (a : RegField) (b : RegField)
    (h0 : c0 < 2 ^ 13) (h1 : c1 < 2 ^ 7) (hp : c0 % 2 = 1) {q : Nat}
    (hq : q = encAB (c0 + c1 * 2 ^ 25) a b) :
    q % 2 = 1 ∧
      q < 2 ^ 32 ∧
      field q 1 6 = field c0 1 6 ∧
      field q 7 6 = field c0 7 6 ∧
      field q 25 7 = field c1 0 7 ∧
      field q 26 6 = field c1 1 6 ∧
      field q 28 4 = field c1 3 4 ∧
      bitsAt 6 q 13 = a ∧
      bitsAt 6 q 19 = b := by
  have e : q = pack [(13, c0), (6, a.toNat), (6, b.toNat), (7, c1)] := by
    rw [hq]; clear hq hp h0 h1; unfold encAB; simp only [← packAt_zero, packAt, Nat.zero_add, Nat.reduceAdd, Nat.pow_zero, Nat.mul_one, Nat.add_zero] <;> ac_rfl
  have hw : fits [(13, c0), (6, a.toNat), (6, b.toNat), (7, c1)] := ⟨h0, a.isLt, b.isLt, h1, trivial⟩
  rw [e]
  refine ⟨?_, ?_, read_part hw rfl rfl, read_part hw rfl rfl, read_part hw rfl rfl, read_part hw rfl rfl, read_part hw rfl rfl, bitsAt_eq _ _ _ (read_whole hw rfl), bitsAt_eq _ _ _ (read_whole hw rfl)⟩
  · exact (pack_parity _ _ _).trans hp
  · exact pack_lt hw

theorem encAccABClrRet_fields (c0 c1 c2 c3 : Nat) (acc : BitVec 2) (a : RegField) (b : RegField) (clr : Bool) (ret : Bool)
    (h0 : c0 < 2 ^ 7) (h1 : c1 < 2 ^ 4) (h2 : c2 < 2 ^ 1) (h3 : c3 < 2 ^ 4) (hp : c0 % 2 = 1) {q : Nat}
    (hq : q = encAccABClrRet (c0 + c1 * 2 ^ 9 + c2 * 2 ^ 26 + c3 * 2 ^ 28) acc a b clr ret) :
    q % 2 = 1 ∧
      q < 2 ^ 32 ∧
      field q 1 6 = field c0 1 6 ∧
      field q 9 4 = field c1 0 4 ∧
      field q 26 1 = field c2 0 1 ∧
      field q 28 4 = field c3 0 4 ∧
      bitsAt 2 q 7 = acc ∧
      bitsAt 6 q 13 = a ∧
      bitsAt 6 q 19 = b ∧
      bitAt q 25 = clr ∧
      bitAt q 27 = ret := by
  have e : q = pack [(7, c0), (2, acc.toNat), (4, c1), (6, a.toNat), (6, b.toNat), (1, clr.toNat), (1, c2), (1, ret.toNat), (4, c3)] := by
    rw [hq]; clear hq hp h0 h1 h2 h3; unfold encAccABClrRet; simp only [← packAt_zero, packAt, Nat.zero_add, Nat.reduceAdd, Nat.pow_zero, Nat.mul_one, Nat.add_zero] <;> ac_rfl
  have hw : fits [(7, c0), (2, acc.toNat), (4, c1), (6, a.toNat), (6, b.toNat), (1, clr.toNat), (1, c2), (1, ret.toNat), (4, c3)] := ⟨h0, acc.isLt, h1, a.isLt, b.isLt, clr.toNat_lt, h2, ret.toNat_lt, h3, trivial⟩
  rw [e]
  refine ⟨?_, ?_, read_part hw rfl rfl, read_part hw rfl rfl, read_part hw rfl rfl, read_part hw rfl rfl, bitsAt_eq _ _ _ (read_whole hw rfl), bitsAt_eq _ _ _ (read_whole hw rfl), bitsAt_eq _ _ _ (read_whole hw rfl), bitAt_eq _ _ _ (read_whole hw rfl), bitAt_eq _ _ _ (read_whole hw rfl)⟩
  · exact (pack_parity _ _ _).trans hp
  · exact pack_lt hw

theorem encAccABInt_fields (c0 c1 c2 : Nat) (acc : BitVec 2) (a : RegField) (b : RegField) (int : Bool)
    (h0 : c0 < 2 ^ 7) (h1 : c1 < 2 ^ 4) (h2 : c2 < 2 ^ 6) (hp : c0 % 2 = 1) {q : Nat}
    (hq : q = encAccABInt (c0 + c1 * 2 ^ 9 + c2 * 2 ^ 26) acc a b int) :
    q % 2 = 1 ∧
      q < 2 ^ 32 ∧
      field q 1 6 = field c0 1 6 ∧
      field q 9 4 = field c1 0 4 ∧
      field q 26 6 = field c2 0 6 ∧
      field q 28 4 = field c2 2 4 ∧
      bitsAt 2 q 7 = acc ∧
      bitsAt 6 q 13 = a ∧
      bitsAt 6 q 19 = b ∧
      bitAt q 25 = int := by
  have e : q = pack [(7, c0), (2, acc.toNat), (4, c1), (6, a.toNat), (6, b.toNat), (1, int.toNat), (6, c2)] := by
    rw [hq]; clear hq hp h0 h1 h2; unfold encAccABInt; simp only [← packAt_zero, packAt, Nat.zero_add, Nat.reduceAdd, Nat.pow_zero, Nat.mul_one, Nat.add_zero] <;> ac_rfl
  have hw : fits [(7, c0), (2, acc.toNat), (4, c1), (6, a.toNat), (6, b.toNat), (1, int.toNat), (6, c2)] := ⟨h0, acc.isLt, h1, a.isLt, b.isLt, int.toNat_lt, h2, trivial⟩
  rw [e]
  refine ⟨?_, ?_, read_part hw rfl rfl, read_part hw rfl rfl, read_part hw rfl rfl, read_part hw rfl rfl, bitsAt_eq _ _ _ (read_whole hw rfl), bitsAt_eq _ _ _ (read_whole hw rfl), bitsAt_eq _ _ _ (read_whole hw rfl), bitAt_eq _ _ _ (read_whole hw rfl)⟩
  · exact (pack_parity _ _ _).trans hp
  · exact pack_lt hw

theorem encN_fields (c0 c1 : Nat) (n : BitVec 2)
    (h0 : c0 < 2 ^ 7) (h1 : c1 < 2 ^ 23) (hp : c0 % 2 = 1) {q : Nat}
    (hq : q = encN (c0 + c1 * 2 ^ 9) n) :
    q % 2 = 1 ∧
      q < 2 ^ 32 ∧
      field q 1 6 = field c0 1 6 ∧
      field q 9 23 = field c1 0 23 ∧
      field q 19 13 = field c1 10 13 ∧
      field q 25 7 = field c1 16 7 ∧
      field q 26 6 = field c1 17 6 ∧
      field q 28 4 = field c1 19 4 ∧
      bitsAt 2 q 7 = n := by
  have e : q = pack [(7, c0), (2, n.toNat), (23, c1)] := by
    rw [hq]; clear hq hp h0 h1; unfold encN; simp only [← packAt_zero, packAt, Nat.zero_add, Nat.reduceAdd, Nat.pow_zero, Nat.mul_one, Nat.add_zero] <;> ac_rfl
  have hw : fits [(7, c0), (2, n.toNat), (23, c1)] := ⟨h0, n.isLt, h1, trivial⟩
  rw [e]
  refine ⟨?_, ?_, read_part hw rfl rfl, read_part hw rfl rfl, read_part hw rfl rfl, read_part hw rfl rfl, read_part hw rfl rfl, read_part hw rfl rfl, bitsAt_eq _ _ _ (read_whole hw rfl)⟩
  · exact (pack_parity _ _ _).trans hp
  · exact pack_lt hw

theorem encDABRingRet_fields (c0 c1 c2 : Nat) (d : RegField) (a : RegField) (b : RegField) (ring : Bool) (ret : Bool)
    (h0 : c0 < 2 ^ 7) (h1 : c1 < 2 ^ 1) (h2 : c2 < 2 ^ 4) (hp : c0 % 2 = 1) {q : Nat}
    (hq : q = encDABRingRet (c0 + c1 * 2 ^ 25 + c2 * 2 ^ 28) d a b ring ret) :
    q % 2 = 1 ∧
      q < 2 ^ 32 ∧
      field q 1 6 = field c0 1 6 ∧
      field q 25 1 = field c1 0 1 ∧
      field q 28 4 = field c2 0 4 ∧
      bitsAt 6 q 7 = d ∧
      bitsAt 6 q 13 = a ∧
      bitsAt 6 q 19 = b ∧
      bitAt q 26 = ring ∧
      bitAt q 27 = ret := by
  have e : q = pack [(7, c0), (6, d.toNat), (6, a.toNat), (6, b.toNat), (1, c1), (1, ring.toNat), (1, ret.toNat), (4, c2)] := by
    rw [hq]; clear hq hp h0 h1 h2; unfold encDABRingRet; simp only [← packAt_zero, packAt, Nat.zero_add, Nat.reduceAdd, Nat.pow_zero, Nat.mul_one, Nat.add_zero] <;> ac_rfl
  have hw : fits [(7, c0), (6, d.toNat), (6, a.toNat), (6, b.toNat), (1, c1), (1, ring.toNat), (1, ret.toNat), (4, c2)] := ⟨h0, d.isLt, a.isLt, b.isLt, h1, ring.toNat_lt, ret.toNat_lt, h2, trivial⟩
  rw [e]
  refine ⟨?_, ?_, read_part hw rfl rfl, read_part hw rfl rfl, read_part hw rfl rfl, bitsAt_eq _ _ _ (read_whole hw rfl), bitsAt_eq _ _ _ (read_whole hw rfl), bitsAt_eq _ _ _ (read_whole hw rfl), bitAt_eq _ _ _ (read_whole hw rfl), bitAt_eq _ _ _ (read_whole hw rfl)⟩
  · exact (pack_parity _ _ _).trans hp
  · exact pack_lt hw

theorem encDABSysRet_fields (c0 c1 c2 : Nat) (d : RegField) (a : RegField) (b : RegField) (sys : Bool) (ret : Bool)
    (h0 : c0 < 2 ^ 7) (h1 : c1 < 2 ^ 1) (h2 : c2 < 2 ^ 4) (hp : c0 % 2 = 1) {q : Nat}
    (hq : q = encDABSysRet (c0 + c1 * 2 ^ 26 + c2 * 2 ^ 28) d a b sys ret) :
    q % 2 = 1 ∧
      q < 2 ^ 32 ∧
      field q 1 6 = field c0 1 6 ∧
      field q 26 1 = field c1 0 1 ∧
      field q 28 4 = field c2 0 4 ∧
      bitsAt 6 q 7 = d ∧
      bitsAt 6 q 13 = a ∧
      bitsAt 6 q 19 = b ∧
      bitAt q 25 = sys ∧
      bitAt q 27 = ret := by
  have e : q = pack [(7, c0), (6, d.toNat), (6, a.toNat), (6, b.toNat), (1, sys.toNat), (1, c1), (1, ret.toNat), (4, c2)] := by
    rw [hq]; clear hq hp h0 h1 h2; unfold encDABSysRet; simp only [← packAt_zero, packAt, Nat.zero_add, Nat.reduceAdd, Nat.pow_zero, Nat.mul_one, Nat.add_zero] <;> ac_rfl
  have hw : fits [(7, c0), (6, d.toNat), (6, a.toNat), (6, b.toNat), (1, sys.toNat), (1, c1), (1, ret.toNat), (4, c2)] := ⟨h0, d.isLt, a.isLt, b.isLt, sys.toNat_lt, h1, ret.toNat_lt, h2, trivial⟩
  rw [e]
  refine ⟨?_, ?_, read_part hw rfl rfl, read_part hw rfl rfl, read_part hw rfl rfl, bitsAt_eq _ _ _ (read_whole hw rfl), bitsAt_eq _ _ _ (read_whole hw rfl), bitsAt_eq _ _ _ (read_whole hw rfl), bitAt_eq _ _ _ (read_whole hw rfl), bitAt_eq _ _ _ (read_whole hw rfl)⟩
  · exact (pack_parity _ _ _).trans hp
  · exact pack_lt hw

theorem encDABRet_fields (c0 c1 c2 : Nat) (d : RegField) (a : RegField) (b : RegField) (ret : Bool)
    (h0 : c0 < 2 ^ 7) (h1 : c1 < 2 ^ 2) (h2 : c2 < 2 ^ 4) (hp : c0 % 2 = 1) {q : Nat}
    (hq : q = encDABRet (c0 + c1 * 2 ^ 25 + c2 * 2 ^ 28) d a b ret) :
    q % 2 = 1 ∧
      q < 2 ^ 32 ∧
      field q 1 6 = field c0 1 6 ∧
      field q 25 2 = field c1 0 2 ∧
      field q 28 4 = field c2 0 4 ∧
      bitsAt 6 q 7 = d ∧
      bitsAt 6 q 13 = a ∧
      bitsAt 6 q 19 = b ∧
      bitAt q 27 = ret := by
  have e : q = pack [(7, c0), (6, d.toNat), (6, a.toNat), (6, b.toNat), (2, c1), (1, ret.toNat), (4, c2)] := by
    rw [hq]; clear hq hp h0 h1 h2; unfold encDABRet; simp only [← packAt_zero, packAt, Nat.zero_add, Nat.reduceAdd, Nat.pow_zero, Nat.mul_one, Nat.add_zero] <;> ac_rfl
  have hw : fits [(7, c0), (6, d.toNat), (6, a.toNat), (6, b.toNat), (2, c1), (1, ret.toNat), (4, c2)] := ⟨h0, d.isLt, a.isLt, b.isLt, h1, ret.toNat_lt, h2, trivial⟩
  rw [e]
  refine ⟨?_, ?_, read_part hw rfl rfl, read_part hw rfl rfl, read_part hw rfl rfl, bitsAt_eq _ _ _ (read_whole hw rfl), bitsAt_eq _ _ _ (read_whole hw rfl), bitsAt_eq _ _ _ (read_whole hw rfl), bitAt_eq _ _ _ (read_whole hw rfl)⟩
  · exact (pack_parity _ _ _).trans hp
  · exact pack_lt hw

theorem encDA2_fields (c0 c1 c2 : Nat) (d : BitVec 5) (a : RegField)
    (h0 : c0 < 2 ^ 7) (h1 : c1 < 2 ^ 1) (h2 : c2 < 2 ^ 13) (hp : c0 % 2 = 1) {q : Nat}
    (hq : q = encDA2 (c0 + c1 * 2 ^ 12 + c2 * 2 ^ 19) d a) :
    q % 2 = 1 ∧
      q < 2 ^ 32 ∧
      field q 1 6 = field c0 1 6 ∧
      field q 12 1 = field c1 0 1 ∧
      field q 19 13 = field c2 0 13 ∧
      bitsAt 5 q 7 = d ∧
      bitsAt 6 q 13 = a := by
  have e : q = pack [(7, c0), (5, d.toNat), (1, c1), (6, a.toNat), (13, c2)] := by
    rw [hq]; clear hq hp h0 h1 h2; unfold encDA2; simp only [← packAt_zero, packAt, Nat.zero_add, Nat.reduceAdd, Nat.pow_zero, Nat.mul_one, Nat.add_zero] <;> ac_rfl
  have hw : fits [(7, c0), (5, d.toNat), (1, c1), (6, a.toNat), (13, c2)] := ⟨h0, d.isLt, h1, a.isLt, h2, trivial⟩
  rw [e]
  refine ⟨?_, ?_, read_part hw rfl rfl, read_part hw rfl rfl, read_part hw rfl rfl, bitsAt_eq _ _ _ (read_whole hw rfl), bitsAt_eq _ _ _ (read_whole hw rfl)⟩
  · exact (pack_parity _ _ _).trans hp
  · exact pack_lt hw

theorem encD_fields (c0 c1 : Nat) (d : BitVec 5)
    (h0 : c0 < 2 ^ 7) (h1 : c1 < 2 ^ 20) (hp : c0 % 2 = 1) {q : Nat}
    (hq : q = encD (c0 + c1 * 2 ^ 12) d) :
    q % 2 = 1 ∧
      q < 2 ^ 32 ∧
      field q 1 6 = field c0 1 6 ∧
      field q 12 20 = field c1 0 20 ∧
      field q 19 13 = field c1 7 13 ∧
      bitsAt 5 q 7 = d := by
  have e : q = pack [(7, c0), (5, d.toNat), (20, c1)] := by
    rw [hq]; clear hq hp h0 h1; unfold encD; simp only [← packAt_zero, packAt, Nat.zero_add, Nat.reduceAdd, Nat.pow_zero, Nat.mul_one, Nat.add_zero] <;> ac_rfl
  have hw : fits [(7, c0), (5, d.toNat), (20, c1)] := ⟨h0, d.isLt, h1, trivial⟩
  rw [e]
  refine ⟨?_, ?_, read_part hw rfl rfl, read_part hw rfl rfl, read_part hw rfl rfl, bitsAt_eq _ _ _ (read_whole hw rfl)⟩
  · exact (pack_parity _ _ _).trans hp
  · exact pack_lt hw

theorem encABWSeg_fields (c0 c1 c2 : Nat) (a : RegField) (b : RegField) (w : BitVec 3) (seg : SegField)
    (h0 : c0 < 2 ^ 7) (h1 : c1 < 2 ^ 3) (h2 : c2 < 2 ^ 4) (hp : c0 % 2 = 1) {q : Nat}
    (hq : q = encABWSeg (c0 + c1 * 2 ^ 10 + c2 * 2 ^ 28) a b w seg) :
    q % 2 = 1 ∧
      q < 2 ^ 32 ∧
      field q 1 6 = field c0 1 6 ∧
      field q 10 3 = field c1 0 3 ∧
      field q 28 4 = field c2 0 4 ∧
      bitsAt 6 q 13 = a ∧
      bitsAt 6 q 19 = b ∧
      bitsAt 3 q 7 = w ∧
      bitsAt 3 q 25 = seg := by
  have e : q = pack [(7, c0), (3, w.toNat), (3, c1), (6, a.toNat), (6, b.toNat), (3, seg.toNat), (4, c2)] := by
    rw [hq]; clear hq hp h0 h1 h2; unfold encABWSeg; simp only [← packAt_zero, packAt, Nat.zero_add, Nat.reduceAdd, Nat.pow_zero, Nat.mul_one, Nat.add_zero] <;> ac_rfl
  have hw : fits [(7, c0), (3, w.toNat), (3, c1), (6, a.toNat), (6, b.toNat), (3, seg.toNat), (4, c2)] := ⟨h0, w.isLt, h1, a.isLt, b.isLt, seg.isLt, h2, trivial⟩
  rw [e]
  refine ⟨?_, ?_, read_part hw rfl rfl, read_part hw rfl rfl, read_part hw rfl rfl, bitsAt_eq _ _ _ (read_whole hw rfl), bitsAt_eq _ _ _ (read_whole hw rfl), bitsAt_eq _ _ _ (read_whole hw rfl), bitsAt_eq _ _ _ (read_whole hw rfl)⟩
  · exact (pack_parity _ _ _).trans hp
  · exact pack_lt hw

theorem encW_fields (c0 c1 : Nat) (w : BitVec 3)
    (h0 : c0 < 2 ^ 7) (h1 : c1 < 2 ^ 22) (hp : c0 % 2 = 1) {q : Nat}
    (hq : q = encW (c0 + c1 * 2 ^ 10) w) :
    q % 2 = 1 ∧
      q < 2 ^ 32 ∧
      field q 1 6 = field c0 1 6 ∧
      field q 10 22 = field c1 0 22 ∧
      field q 28 4 = field c1 18 4 ∧
      bitsAt 3 q 7 = w := by
  have e : q = pack [(7, c0), (3, w.toNat), (22, c1)] := by
    rw [hq]; clear hq hp h0 h1; unfold encW; simp only [← packAt_zero, packAt, Nat.zero_add, Nat.reduceAdd, Nat.pow_zero, Nat.mul_one, Nat.add_zero] <;> ac_rfl
  have hw : fits [(7, c0), (3, w.toNat), (22, c1)] := ⟨h0, w.isLt, h1, trivial⟩
  rw [e]
  refine ⟨?_, ?_, read_part hw rfl rfl, read_part hw rfl rfl, read_part hw rfl rfl, bitsAt_eq _ _ _ (read_whole hw rfl)⟩
  · exact (pack_parity _ _ _).trans hp
  · exact pack_lt hw

theorem encCode_fields (c0 : Nat)
    (h0 : c0 < 2 ^ 32) (hp : c0 % 2 = 1) {q : Nat}
    (hq : q = encCode c0) :
    q % 2 = 1 ∧
      q < 2 ^ 32 ∧
      field q 1 6 = field c0 1 6 ∧
      field q 7 25 = field c0 7 25 ∧
      field q 13 19 = field c0 13 19 ∧
      field q 19 13 = field c0 19 13 ∧
      field q 25 7 = field c0 25 7 ∧
      field q 27 5 = field c0 27 5 ∧
      field q 28 4 = field c0 28 4 := by
  have e : q = pack [(32, c0)] := by
    rw [hq]; clear hq hp h0; unfold encCode; simp only [← packAt_zero, packAt, Nat.zero_add, Nat.reduceAdd, Nat.pow_zero, Nat.mul_one, Nat.add_zero] <;> ac_rfl
  have hw : fits [(32, c0)] := ⟨h0, trivial⟩
  rw [e]
  refine ⟨?_, ?_, read_part hw rfl rfl, read_part hw rfl rfl, read_part hw rfl rfl, read_part hw rfl rfl, read_part hw rfl rfl, read_part hw rfl rfl, read_part hw rfl rfl⟩
  · exact (pack_parity _ _ _).trans hp
  · exact pack_lt hw

theorem encAN2_fields (c0 c1 : Nat) (a : RegField) (n : BitVec 8)
    (h0 : c0 < 2 ^ 13) (h1 : c1 < 2 ^ 5) (hp : c0 % 2 = 1) {q : Nat}
    (hq : q = encAN2 (c0 + c1 * 2 ^ 27) a n) :
    q % 2 = 1 ∧
      q < 2 ^ 32 ∧
      field q 1 6 = field c0 1 6 ∧
      field q 7 6 = field c0 7 6 ∧
      field q 27 5 = field c1 0 5 ∧
      bitsAt 6 q 13 = a ∧
      bitsAt 8 q 19 = n := by
  have e : q = pack [(13, c0), (6, a.toNat), (8, n.toNat), (5, c1)] := by
    rw [hq]; clear hq hp h0 h1; unfold encAN2; simp only [← packAt_zero, packAt, Nat.zero_add, Nat.reduceAdd, Nat.pow_zero, Nat.mul_one, Nat.add_zero] <;> ac_rfl
  have hw : fits [(13, c0), (6, a.toNat), (8, n.toNat), (5, c1)] := ⟨h0, a.isLt, n.isLt, h1, trivial⟩
  rw [e]
  refine ⟨?_, ?_, read_part hw rfl rfl, read_part hw rfl rfl, read_part hw rfl rfl, bitsAt_eq _ _ _ (read_whole hw rfl), bitsAt_eq _ _ _ (read_whole hw rfl)⟩
  · exact (pack_parity _ _ _).trans hp
  · exact pack_lt hw

theorem encDN_fields (c0 c1 c2 : Nat) (d : RegField) (n : BitVec 8)
    (h0 : c0 < 2 ^ 7) (h1 : c1 < 2 ^ 6) (h2 : c2 < 2 ^ 5) (hp : c0 % 2 = 1) {q : Nat}
    (hq : q = encDN (c0 + c1 * 2 ^ 13 + c2 * 2 ^ 27) d n) :
    q % 2 = 1 ∧
      q < 2 ^ 32 ∧
      field q 1 6 = field c0 1 6 ∧
      field q 13 6 = field c1 0 6 ∧
      field q 27 5 = field c2 0 5 ∧
      bitsAt 6 q 7 = d ∧
      bitsAt 8 q 19 = n := by
  have e : q = pack [(7, c0), (6, d.toNat), (6, c1), (8, n.toNat), (5, c2)] := by
    rw [hq]; clear hq hp h0 h1 h2; unfold encDN; simp only [← packAt_zero, packAt, Nat.zero_add, Nat.reduceAdd, Nat.pow_zero, Nat.mul_one, Nat.add_zero] <;> ac_rfl
  have hw : fits [(7, c0), (6, d.toNat), (6, c1), (8, n.toNat), (5, c2)] := ⟨h0, d.isLt, h1, n.isLt, h2, trivial⟩
  rw [e]
  refine ⟨?_, ?_, read_part hw rfl rfl, read_part hw rfl rfl, read_part hw rfl rfl, bitsAt_eq _ _ _ (read_whole hw rfl), bitsAt_eq _ _ _ (read_whole hw rfl)⟩
  · exact (pack_parity _ _ _).trans hp
  · exact pack_lt hw

theorem encN2_fields (c0 c1 : Nat) (n : BitVec 8)
    (h0 : c0 < 2 ^ 19) (h1 : c1 < 2 ^ 5) (hp : c0 % 2 = 1) {q : Nat}
    (hq : q = encN2 (c0 + c1 * 2 ^ 27) n) :
    q % 2 = 1 ∧
      q < 2 ^ 32 ∧
      field q 1 6 = field c0 1 6 ∧
      field q 7 12 = field c0 7 12 ∧
      field q 27 5 = field c1 0 5 ∧
      bitsAt 8 q 19 = n := by
  have e : q = pack [(19, c0), (8, n.toNat), (5, c1)] := by
    rw [hq]; clear hq hp h0 h1; unfold encN2; simp only [← packAt_zero, packAt, Nat.zero_add, Nat.reduceAdd, Nat.pow_zero, Nat.mul_one, Nat.add_zero] <;> ac_rfl
  have hw : fits [(19, c0), (8, n.toNat), (5, c1)] := ⟨h0, n.isLt, h1, trivial⟩
  rw [e]
  refine ⟨?_, ?_, read_part hw rfl rfl, read_part hw rfl rfl, read_part hw rfl rfl, bitsAt_eq _ _ _ (read_whole hw rfl)⟩
  · exact (pack_parity _ _ _).trans hp
  · exact pack_lt hw

theorem encDCsr_fields (c0 c1 : Nat) (d : RegField) (csr : BitVec 12)
    (h0 : c0 < 2 ^ 7) (h1 : c1 < 2 ^ 7) (hp : c0 % 2 = 1) {q : Nat}
    (hq : q = encDCsr (c0 + c1 * 2 ^ 25) d csr) :
    q % 2 = 1 ∧
      q < 2 ^ 32 ∧
      field q 1 6 = field c0 1 6 ∧
      field q 25 7 = field c1 0 7 ∧
      bitsAt 6 q 7 = d ∧
      bitsAt 12 q 13 = csr := by
  have e : q = pack [(7, c0), (6, d.toNat), (12, csr.toNat), (7, c1)] := by
    rw [hq]; clear hq hp h0 h1; unfold encDCsr; simp only [← packAt_zero, packAt, Nat.zero_add, Nat.reduceAdd, Nat.pow_zero, Nat.mul_one, Nat.add_zero] <;> ac_rfl
  have hw : fits [(7, c0), (6, d.toNat), (12, csr.toNat), (7, c1)] := ⟨h0, d.isLt, csr.isLt, h1, trivial⟩
  rw [e]
  refine ⟨?_, ?_, read_part hw rfl rfl, read_part hw rfl rfl, bitsAt_eq _ _ _ (read_whole hw rfl), bitsAt_eq _ _ _ (read_whole hw rfl)⟩
  · exact (pack_parity _ _ _).trans hp
  · exact pack_lt hw

theorem encXCsr_fields (c0 c1 : Nat) (x : RegField) (csr : BitVec 12)
    (h0 : c0 < 2 ^ 7) (h1 : c1 < 2 ^ 7) (hp : c0 % 2 = 1) {q : Nat}
    (hq : q = encXCsr (c0 + c1 * 2 ^ 25) x csr) :
    q % 2 = 1 ∧
      q < 2 ^ 32 ∧
      field q 1 6 = field c0 1 6 ∧
      field q 25 7 = field c1 0 7 ∧
      bitsAt 6 q 7 = x ∧
      bitsAt 12 q 13 = csr := by
  have e : q = pack [(7, c0), (6, x.toNat), (12, csr.toNat), (7, c1)] := by
    rw [hq]; clear hq hp h0 h1; unfold encXCsr; simp only [← packAt_zero, packAt, Nat.zero_add, Nat.reduceAdd, Nat.pow_zero, Nat.mul_one, Nat.add_zero] <;> ac_rfl
  have hw : fits [(7, c0), (6, x.toNat), (12, csr.toNat), (7, c1)] := ⟨h0, x.isLt, csr.isLt, h1, trivial⟩
  rw [e]
  refine ⟨?_, ?_, read_part hw rfl rfl, read_part hw rfl rfl, bitsAt_eq _ _ _ (read_whole hw rfl), bitsAt_eq _ _ _ (read_whole hw rfl)⟩
  · exact (pack_parity _ _ _).trans hp
  · exact pack_lt hw

theorem encK_fields (c0 c1 : Nat) (k : BitVec 12)
    (h0 : c0 < 2 ^ 13) (h1 : c1 < 2 ^ 7) (hp : c0 % 2 = 1) {q : Nat}
    (hq : q = encK (c0 + c1 * 2 ^ 25) k) :
    q % 2 = 1 ∧
      q < 2 ^ 32 ∧
      field q 1 6 = field c0 1 6 ∧
      field q 7 6 = field c0 7 6 ∧
      field q 25 7 = field c1 0 7 ∧
      bitsAt 12 q 13 = k := by
  have e : q = pack [(13, c0), (12, k.toNat), (7, c1)] := by
    rw [hq]; clear hq hp h0 h1; unfold encK; simp only [← packAt_zero, packAt, Nat.zero_add, Nat.reduceAdd, Nat.pow_zero, Nat.mul_one, Nat.add_zero] <;> ac_rfl
  have hw : fits [(13, c0), (12, k.toNat), (7, c1)] := ⟨h0, k.isLt, h1, trivial⟩
  rw [e]
  refine ⟨?_, ?_, read_part hw rfl rfl, read_part hw rfl rfl, read_part hw rfl rfl, bitsAt_eq _ _ _ (read_whole hw rfl)⟩
  · exact (pack_parity _ _ _).trans hp
  · exact pack_lt hw

theorem encABCSeg_fields (c0 c1 : Nat) (a : RegField) (b : RegField) (c : RegField) (seg : SegField)
    (h0 : c0 < 2 ^ 7) (h1 : c1 < 2 ^ 4) (hp : c0 % 2 = 1) {q : Nat}
    (hq : q = encABCSeg (c0 + c1 * 2 ^ 28) a b c seg) :
    q % 2 = 1 ∧
      q < 2 ^ 32 ∧
      field q 1 6 = field c0 1 6 ∧
      field q 28 4 = field c1 0 4 ∧
      bitsAt 6 q 13 = a ∧
      bitsAt 6 q 19 = b ∧
      bitsAt 6 q 7 = c ∧
      bitsAt 3 q 25 = seg := by
  have e : q = pack [(7, c0), (6, c.toNat), (6, a.toNat), (6, b.toNat), (3, seg.toNat), (4, c1)] := by
    rw [hq]; clear hq hp h0 h1; unfold encABCSeg; simp only [← packAt_zero, packAt, Nat.zero_add, Nat.reduceAdd, Nat.pow_zero, Nat.mul_one, Nat.add_zero] <;> ac_rfl
  have hw : fits [(7, c0), (6, c.toNat), (6, a.toNat), (6, b.toNat), (3, seg.toNat), (4, c1)] := ⟨h0, c.isLt, a.isLt, b.isLt, seg.isLt, h1, trivial⟩
  rw [e]
  refine ⟨?_, ?_, read_part hw rfl rfl, read_part hw rfl rfl, bitsAt_eq _ _ _ (read_whole hw rfl), bitsAt_eq _ _ _ (read_whole hw rfl), bitsAt_eq _ _ _ (read_whole hw rfl), bitsAt_eq _ _ _ (read_whole hw rfl)⟩
  · exact (pack_parity _ _ _).trans hp
  · exact pack_lt hw

theorem encABSeg_fields (c0 c1 : Nat) (a : RegField) (b : RegField) (seg : SegField)
    (h0 : c0 < 2 ^ 13) (h1 : c1 < 2 ^ 4) (hp : c0 % 2 = 1) {q : Nat}
    (hq : q = encABSeg (c0 + c1 * 2 ^ 28) a b seg) :
    q % 2 = 1 ∧
      q < 2 ^ 32 ∧
      field q 1 6 = field c0 1 6 ∧
      field q 7 6 = field c0 7 6 ∧
      field q 28 4 = field c1 0 4 ∧
      bitsAt 6 q 13 = a ∧
      bitsAt 6 q 19 = b ∧
      bitsAt 3 q 25 = seg := by
  have e : q = pack [(13, c0), (6, a.toNat), (6, b.toNat), (3, seg.toNat), (4, c1)] := by
    rw [hq]; clear hq hp h0 h1; unfold encABSeg; simp only [← packAt_zero, packAt, Nat.zero_add, Nat.reduceAdd, Nat.pow_zero, Nat.mul_one, Nat.add_zero] <;> ac_rfl
  have hw : fits [(13, c0), (6, a.toNat), (6, b.toNat), (3, seg.toNat), (4, c1)] := ⟨h0, a.isLt, b.isLt, seg.isLt, h1, trivial⟩
  rw [e]
  refine ⟨?_, ?_, read_part hw rfl rfl, read_part hw rfl rfl, read_part hw rfl rfl, bitsAt_eq _ _ _ (read_whole hw rfl), bitsAt_eq _ _ _ (read_whole hw rfl), bitsAt_eq _ _ _ (read_whole hw rfl)⟩
  · exact (pack_parity _ _ _).trans hp
  · exact pack_lt hw

theorem encD2_fields (c0 c1 : Nat) (d : RegField)
    (h0 : c0 < 2 ^ 7) (h1 : c1 < 2 ^ 19) (hp : c0 % 2 = 1) {q : Nat}
    (hq : q = encD2 (c0 + c1 * 2 ^ 13) d) :
    q % 2 = 1 ∧
      q < 2 ^ 32 ∧
      field q 1 6 = field c0 1 6 ∧
      field q 13 19 = field c1 0 19 ∧
      field q 25 7 = field c1 12 7 ∧
      field q 28 4 = field c1 15 4 ∧
      bitsAt 6 q 7 = d := by
  have e : q = pack [(7, c0), (6, d.toNat), (19, c1)] := by
    rw [hq]; clear hq hp h0 h1; unfold encD2; simp only [← packAt_zero, packAt, Nat.zero_add, Nat.reduceAdd, Nat.pow_zero, Nat.mul_one, Nat.add_zero] <;> ac_rfl
  have hw : fits [(7, c0), (6, d.toNat), (19, c1)] := ⟨h0, d.isLt, h1, trivial⟩
  rw [e]
  refine ⟨?_, ?_, read_part hw rfl rfl, read_part hw rfl rfl, read_part hw rfl rfl, read_part hw rfl rfl, bitsAt_eq _ _ _ (read_whole hw rfl)⟩
  · exact (pack_parity _ _ _).trans hp
  · exact pack_lt hw

end Sys2Proof
end

