-- ==== Sys2Proof/Laws/Map.lean ====
section
/-! SUPPORT. The laws of the two finite maps: a read after a write, writes elsewhere, and that every operation on memory
keeps its canonical form. -/

namespace Sys2Proof.Machine

section
variable {α : Type}

theorem Tab.get_drop_other (t : Tab α) (d : α) {j k : Nat} (h : j ≠ k) : (t.drop k).get d j = t.get d j := by
  induction t with
  | nil => rfl
  | cons p r ih =>
    obtain ⟨i, v⟩ := p
    by_cases hi : i = k
    · subst hi; simp only [Tab.drop, if_true, Tab.get, if_neg (Ne.symm h), ih]
    · simp only [Tab.drop, if_neg hi, Tab.get, ih]

theorem Tab.get_drop_same (t : Tab α) (d : α) (k : Nat) : (t.drop k).get d k = d := by
  induction t with
  | nil => rfl
  | cons p r ih =>
    obtain ⟨i, v⟩ := p
    by_cases hi : i = k
    · simp only [Tab.drop, if_pos hi, ih]
    · simp only [Tab.drop, if_neg hi, Tab.get, ih]

theorem Tab.get_ins_other (t : Tab α) (d v : α) {j k : Nat} (h : j ≠ k) : (t.ins k v).get d j = t.get d j := by
  induction t with
  | nil => simp only [Tab.ins, Tab.get, if_neg (Ne.symm h)]
  | cons p r ih =>
    obtain ⟨i, u⟩ := p
    simp only [Tab.ins]
    split
    · simp only [Tab.get, if_neg (Ne.symm h)]
    · simp only [Tab.get, ih]

theorem Tab.get_ins_drop (t : Tab α) (d v : α) (k : Nat) : ((t.drop k).ins k v).get d k = v := by
  induction t with
  | nil => simp only [Tab.drop, Tab.ins, Tab.get, if_true]
  | cons p r ih =>
    obtain ⟨i, u⟩ := p
    by_cases hi : i = k
    · simp only [Tab.drop, if_pos hi, ih]
    · simp only [Tab.drop, if_neg hi, Tab.ins]
      split
      · simp only [Tab.get, if_true]
      · simp only [Tab.get, if_neg hi, ih]

/-- A read after a write to the same key gives the value written. -/
@[simp] theorem Tab.get_put_same (t : Tab α) (d v : α) (k : Nat) : (t.put k v).get d k = v := t.get_ins_drop d v k

/-- A write leaves every other key alone. -/
theorem Tab.get_put_other (t : Tab α) (d v : α) {j k : Nat} (h : j ≠ k) : (t.put k v).get d j = t.get d j := by
  rw [Tab.put, Tab.get_ins_other _ _ _ h, Tab.get_drop_other _ _ h]

theorem Tab.get_put (t : Tab α) (d v : α) (j k : Nat) : (t.put k v).get d j = if j = k then v else t.get d j := by
  by_cases h : j = k
  · subst h; rw [if_pos rfl, Tab.get_put_same]
  · rw [if_neg h, Tab.get_put_other _ _ _ h]

theorem Tab.drop_drop (t : Tab α) (k : Nat) : (t.drop k).drop k = t.drop k := by
  induction t with
  | nil => rfl
  | cons p r ih =>
    obtain ⟨i, v⟩ := p
    by_cases hi : i = k
    · simp only [Tab.drop, if_pos hi, ih]
    · simp only [Tab.drop, if_neg hi, ih]

theorem Tab.drop_ins (t : Tab α) (k : Nat) (v : α) : (t.ins k v).drop k = t.drop k := by
  induction t with
  | nil => simp only [Tab.ins, Tab.drop, if_true]
  | cons p r ih =>
    obtain ⟨i, u⟩ := p
    simp only [Tab.ins]
    split
    · simp only [Tab.drop, if_true]
    · simp only [Tab.drop, ih]

/-- Of two writes to one key the later one remains. -/
@[simp] theorem Tab.put_put (t : Tab α) (k : Nat) (u v : α) : (t.put k u).put k v = t.put k v := by
  rw [Tab.put, Tab.put, Tab.put, Tab.drop_ins, Tab.drop_drop]

theorem Tab.mem_drop {t : Tab α} {k : Nat} {p : Nat × α} : p ∈ t.drop k ↔ p ∈ t ∧ p.1 ≠ k := by
  induction t with
  | nil => simp [Tab.drop]
  | cons q r ih =>
    obtain ⟨i, v⟩ := q
    by_cases hi : i = k
    · simp only [Tab.drop, if_pos hi, ih, List.mem_cons]
      constructor
      · rintro ⟨h, n⟩; exact ⟨.inr h, n⟩
      · rintro ⟨h | h, n⟩
        · exact absurd (by rw [h, hi]) n
        · exact ⟨h, n⟩
    · simp only [Tab.drop, if_neg hi, List.mem_cons, ih]
      constructor
      · rintro (h | ⟨h, n⟩)
        · exact ⟨.inl h, by rw [h]; exact hi⟩
        · exact ⟨.inr h, n⟩
      · rintro ⟨h | h, n⟩
        · exact .inl h
        · exact .inr ⟨h, n⟩

theorem Tab.mem_ins {t : Tab α} {k : Nat} {v : α} {p : Nat × α} : p ∈ t.ins k v ↔ p = (k, v) ∨ p ∈ t := by
  induction t with
  | nil => simp [Tab.ins]
  | cons q r ih =>
    obtain ⟨i, u⟩ := q
    simp only [Tab.ins]
    split
    · simp only [List.mem_cons]
    · simp only [List.mem_cons, ih]
      constructor
      · rintro (h | h | h)
        · exact .inr (.inl h)
        · exact .inl h
        · exact .inr (.inr h)
      · rintro (h | h | h)
        · exact .inr (.inl h)
        · exact .inl h
        · exact .inr (.inr h)

/-- What is listed after a write. -/
theorem Tab.mem_put {t : Tab α} {k : Nat} {v : α} {p : Nat × α} :
    p ∈ t.put k v ↔ p = (k, v) ∨ (p ∈ t ∧ p.1 ≠ k) := by rw [Tab.put, Tab.mem_ins, Tab.mem_drop]

/-- A key is below every key of a table. -/
def Tab.below (k : Nat) (t : Tab α) : Prop := ∀ p ∈ t, k < p.1

theorem Tab.rising_cons {j : Nat} {u : α} {t : Tab α} : Tab.rising ((j, u) :: t) = true ↔ Tab.below j t ∧ t.rising = true := by
  induction t generalizing j u with
  | nil => simp [Tab.rising, Tab.below]
  | cons q r ih =>
    obtain ⟨i, v⟩ := q
    simp only [Tab.rising, Bool.and_eq_true, decide_eq_true_eq]
    constructor
    · rintro ⟨h, hr⟩
      refine ⟨?_, hr⟩
      intro p hp
      rcases List.mem_cons.1 hp with rfl | hp
      · exact h
      · exact Nat.lt_trans h ((ih.1 hr).1 p hp)
    · rintro ⟨h, hr⟩
      exact ⟨h _ (List.mem_cons_self ..), hr⟩

theorem Tab.rising_drop {t : Tab α} (h : t.rising = true) (k : Nat) : (t.drop k).rising = true := by
  induction t with
  | nil => exact h
  | cons q r ih =>
    obtain ⟨i, v⟩ := q
    have hb := Tab.rising_cons.1 h
    by_cases hi : i = k
    · simp only [Tab.drop, if_pos hi]; exact ih hb.2
    · simp only [Tab.drop, if_neg hi]
      exact Tab.rising_cons.2 ⟨fun p hp => hb.1 p (Tab.mem_drop.1 hp).1, ih hb.2⟩

theorem Tab.rising_ins {t : Tab α} (h : t.rising = true) {k : Nat} (hk : ∀ p ∈ t, p.1 ≠ k) (v : α) :
    (t.ins k v).rising = true := by
  induction t with
  | nil => rfl
  | cons q r ih =>
    obtain ⟨i, u⟩ := q
    have hb := Tab.rising_cons.1 h
    have hi : i ≠ k := hk _ (List.mem_cons_self ..)
    simp only [Tab.ins]
    split
    · rename_i hlt
      refine Tab.rising_cons.2 ⟨?_, h⟩
      intro p hp
      rcases List.mem_cons.1 hp with rfl | hp
      · exact hlt
      · exact Nat.lt_trans hlt (hb.1 p hp)
    · rename_i hge
      refine Tab.rising_cons.2 ⟨?_, ih hb.2 fun p hp => hk p (List.mem_cons_of_mem _ hp)⟩
      intro p hp
      rcases Tab.mem_ins.1 hp with rfl | hp
      · exact Nat.lt_of_le_of_ne (Nat.le_of_not_lt hge) hi
      · exact hb.1 p hp

/-- A write keeps the keys rising. -/
theorem Tab.rising_put {t : Tab α} (h : t.rising = true) (k : Nat) (v : α) : (t.put k v).rising = true :=
  Tab.rising_ins (Tab.rising_drop h k) (fun _ hp => (Tab.mem_drop.1 hp).2) v

/-- A table with rising keys, read where it lists an entry. -/
theorem Tab.find_eq_some {t : Tab α} {k : Nat} {v : α} (h : t.find k = some v) : (k, v) ∈ t := by
  induction t with
  | nil => exact absurd h (by simp [Tab.find])
  | cons q r ih =>
    obtain ⟨i, u⟩ := q
    by_cases hi : i = k
    · simp only [Tab.find, if_pos hi, Option.some.injEq] at h
      subst hi h; exact List.mem_cons_self ..
    · simp only [Tab.find, if_neg hi] at h
      exact List.mem_cons_of_mem _ (ih h)

theorem Tab.find_put (t : Tab α) (v : α) (j k : Nat) : (t.put k v).find j = if j = k then some v else t.find j := by
  have aux : ∀ (r : Tab α) (j k : Nat), j ≠ k → (r.drop k).find j = r.find j := by
    intro r j k h
    induction r with
    | nil => rfl
    | cons p r ih =>
      obtain ⟨i, u⟩ := p
      by_cases hi : i = k
      · subst hi; simp only [Tab.drop, if_true, Tab.find, if_neg (Ne.symm h), ih]
      · simp only [Tab.drop, if_neg hi, Tab.find, ih]
  have aux2 : ∀ (r : Tab α) (j k : Nat), j ≠ k → (r.ins k v).find j = r.find j := by
    intro r j k h
    induction r with
    | nil => simp only [Tab.ins, Tab.find, if_neg (Ne.symm h)]
    | cons p r ih =>
      obtain ⟨i, u⟩ := p
      simp only [Tab.ins]
      split
      · simp only [Tab.find, if_neg (Ne.symm h)]
      · simp only [Tab.find, ih]
  have aux3 : ∀ (r : Tab α) (k : Nat), ((r.drop k).ins k v).find k = some v := by
    intro r k
    induction r with
    | nil => simp only [Tab.drop, Tab.ins, Tab.find, if_true]
    | cons p r ih =>
      obtain ⟨i, u⟩ := p
      by_cases hi : i = k
      · simp only [Tab.drop, if_pos hi, ih]
      · simp only [Tab.drop, if_neg hi, Tab.ins]
        split
        · simp only [Tab.find, if_true]
        · simp only [Tab.find, if_neg hi, ih]
  by_cases h : j = k
  · subst h; rw [if_pos rfl]; exact aux3 t j
  · rw [if_neg h, Tab.put, aux2 _ _ _ h, aux _ _ _ h]

end

/-! ### Memory -/

/-- A byte of memory after a byte is written. -/
theorem Mem.read_write (m : Mem) (a b : Nat) (x : Byte) : (m.write a x).read b = if b = a then x else m.read b := by
  unfold Mem.write Mem.read
  by_cases hx : x = Mem.unwritten
  · rw [if_pos hx]
    by_cases h : b = a
    · subst h; rw [if_pos rfl, Tab.get_drop_same, hx]
    · rw [if_neg h, Tab.get_drop_other _ _ h]
  · rw [if_neg hx, Tab.get_put]

/-- A write keeps the canonical form. -/
theorem Mem.wf_write {m : Mem} (h : m.wf = true) (a : Nat) (x : Byte) : (m.write a x).wf = true := by
  unfold Mem.wf at *
  rw [Bool.and_eq_true] at *
  obtain ⟨hr, hv⟩ := h
  have hv' := List.all_eq_true.1 hv
  unfold Mem.write
  by_cases hx : x = Mem.unwritten
  · rw [if_pos hx]
    refine ⟨Tab.rising_drop hr a, List.all_eq_true.2 fun p hp => ?_⟩
    exact hv' p (Tab.mem_drop.1 hp).1
  · rw [if_neg hx]
    refine ⟨Tab.rising_put hr a x, List.all_eq_true.2 fun p hp => ?_⟩
    rcases Tab.mem_put.1 hp with rfl | hp
    · simpa using hx
    · exact hv' p hp.1

theorem Mem.wf_writeList {m : Mem} (h : m.wf = true) (a : Nat) (xs : List Byte) : (m.writeList a xs).wf = true := by
  induction xs generalizing m a with
  | nil => exact h
  | cons x xs ih => exact ih (Mem.wf_write h a x) (a + 1)

/-- A byte of memory after a list of bytes is written from `a` upward. -/
theorem Mem.read_writeList (m : Mem) (a b : Nat) (xs : List Byte) :
    (m.writeList a xs).read b = if a ≤ b ∧ b < a + xs.length then xs.getD (b - a) Mem.unwritten else m.read b := by
  induction xs generalizing m a with
  | nil => simp only [Mem.writeList, List.length_nil]; rw [if_neg (by omega)]
  | cons x xs ih =>
    simp only [Mem.writeList, ih, Mem.read_write, List.length_cons]
    by_cases h1 : b = a
    · subst h1
      rw [if_neg (by omega), if_pos rfl, if_pos (by omega)]
      simp
    · by_cases h2 : a + 1 ≤ b ∧ b < a + 1 + xs.length
      · rw [if_pos h2, if_pos (by omega)]
        obtain ⟨k, hk⟩ : ∃ k, b - a = k + 1 := ⟨b - a - 1, by omega⟩
        rw [hk, show b - (a + 1) = k by omega]
        rfl
      · rw [if_neg h2, if_neg h1, if_neg (by omega)]

end Sys2Proof.Machine
end

