-- ==== Sys2Proof/Laws/State.lean ====
section
/-! SUPPORT. What each update of the state leaves alone, field by field, and what it changes: true by definition, for
`simp`, so that no proof unfolds a record update. -/

namespace Sys2Proof.Machine

variable (s : State)

/-! ### `setThread` -/

@[simp] theorem State.setThread_tick (t : Nat) (x : Thread) : (s.setThread t x).tick = s.tick := rfl
@[simp] theorem State.setThread_events (t : Nat) (x : Thread) : (s.setThread t x).events = s.events := rfl
@[simp] theorem State.setThread_timers (t : Nat) (x : Thread) : (s.setThread t x).timers = s.timers := rfl
@[simp] theorem State.setThread_sels (t : Nat) (x : Thread) : (s.setThread t x).sels = s.sels := rfl
@[simp] theorem State.setThread_cur (t : Nat) (x : Thread) : (s.setThread t x).cur = s.cur := rfl
@[simp] theorem State.setThread_heldSteps (t : Nat) (x : Thread) : (s.setThread t x).heldSteps = s.heldSteps := rfl
@[simp] theorem State.setThread_cores (t : Nat) (x : Thread) : (s.setThread t x).cores = s.cores := rfl
@[simp] theorem State.setThread_windows (t : Nat) (x : Thread) : (s.setThread t x).windows = s.windows := rfl
@[simp] theorem State.setThread_tcm (t : Nat) (x : Thread) : (s.setThread t x).tcm = s.tcm := rfl
@[simp] theorem State.setThread_deck (t : Nat) (x : Thread) : (s.setThread t x).deck = s.deck := rfl
@[simp] theorem State.setThread_deckEpoch (t : Nat) (x : Thread) : (s.setThread t x).deckEpoch = s.deckEpoch := rfl
@[simp] theorem State.setThread_deckErrors (t : Nat) (x : Thread) : (s.setThread t x).deckErrors = s.deckErrors := rfl
@[simp] theorem State.setThread_deckSoft (t : Nat) (x : Thread) : (s.setThread t x).deckSoft = s.deckSoft := rfl
@[simp] theorem State.setThread_corrections (t : Nat) (x : Thread) : (s.setThread t x).corrections = s.corrections := rfl
@[simp] theorem State.setThread_epochs (t : Nat) (x : Thread) : (s.setThread t x).epochs = s.epochs := rfl
@[simp] theorem State.setThread_banks (t : Nat) (x : Thread) : (s.setThread t x).banks = s.banks := rfl
@[simp] theorem State.setThread_asks (t : Nat) (x : Thread) : (s.setThread t x).asks = s.asks := rfl
@[simp] theorem State.setThread_mem (t : Nat) (x : Thread) : (s.setThread t x).mem = s.mem := rfl
@[simp] theorem State.setThread_blocks (t : Nat) (x : Thread) : (s.setThread t x).blocks = s.blocks := rfl
@[simp] theorem State.setThread_reqs (t : Nat) (x : Thread) : (s.setThread t x).reqs = s.reqs := rfl
@[simp] theorem State.setThread_nextReq (t : Nat) (x : Thread) : (s.setThread t x).nextReq = s.nextReq := rfl
@[simp] theorem State.setThread_copies (t : Nat) (x : Thread) : (s.setThread t x).copies = s.copies := rfl
@[simp] theorem State.setThread_nextCopy (t : Nat) (x : Thread) : (s.setThread t x).nextCopy = s.nextCopy := rfl
@[simp] theorem State.setThread_nextOp (t : Nat) (x : Thread) : (s.setThread t x).nextOp = s.nextOp := rfl
@[simp] theorem State.setThread_flight (t : Nat) (x : Thread) : (s.setThread t x).flight = s.flight := rfl
@[simp] theorem State.setThread_netRoom (t : Nat) (x : Thread) : (s.setThread t x).netRoom = s.netRoom := rfl
@[simp] theorem State.setThread_cache (t : Nat) (x : Thread) : (s.setThread t x).cache = s.cache := rfl
@[simp] theorem State.setThread_hostSectors (t : Nat) (x : Thread) : (s.setThread t x).hostSectors = s.hostSectors := rfl
@[simp] theorem State.setThread_sectorDir (t : Nat) (x : Thread) : (s.setThread t x).sectorDir = s.sectorDir := rfl
@[simp] theorem State.setThread_lineVersion (t : Nat) (x : Thread) : (s.setThread t x).lineVersion = s.lineVersion := rfl
@[simp] theorem State.setThread_homeLine (t : Nat) (x : Thread) : (s.setThread t x).homeLine = s.homeLine := rfl
@[simp] theorem State.setThread_writeBacks (t : Nat) (x : Thread) : (s.setThread t x).writeBacks = s.writeBacks := rfl
@[simp] theorem State.setThread_nextWb (t : Nat) (x : Thread) : (s.setThread t x).nextWb = s.nextWb := rfl
@[simp] theorem State.setThread_spanNet (t : Nat) (x : Thread) : (s.setThread t x).spanNet = s.spanNet := rfl
@[simp] theorem State.setThread_engineAsked (t : Nat) (x : Thread) : (s.setThread t x).engineAsked = s.engineAsked := rfl
@[simp] theorem State.setThread_hostRecalls (t : Nat) (x : Thread) : (s.setThread t x).hostRecalls = s.hostRecalls := rfl
@[simp] theorem State.setThread_l1 (t : Nat) (x : Thread) : (s.setThread t x).l1 = s.l1 := rfl
@[simp] theorem State.setThread_lltlb (t : Nat) (x : Thread) : (s.setThread t x).lltlb = s.lltlb := rfl
@[simp] theorem State.setThread_misses (t : Nat) (x : Thread) : (s.setThread t x).misses = s.misses := rfl
@[simp] theorem State.setThread_roots (t : Nat) (x : Thread) : (s.setThread t x).roots = s.roots := rfl
@[simp] theorem State.setThread_channels (t : Nat) (x : Thread) : (s.setThread t x).channels = s.channels := rfl
@[simp] theorem State.setThread_mapped (t : Nat) (x : Thread) : (s.setThread t x).mapped = s.mapped := rfl
@[simp] theorem State.setThread_pool (t : Nat) (x : Thread) : (s.setThread t x).pool = s.pool := rfl
@[simp] theorem State.setThread_poolUsed (t : Nat) (x : Thread) : (s.setThread t x).poolUsed = s.poolUsed := rfl
@[simp] theorem State.setThread_poolWait (t : Nat) (x : Thread) : (s.setThread t x).poolWait = s.poolWait := rfl
@[simp] theorem State.setThread_qwait (t : Nat) (x : Thread) : (s.setThread t x).qwait = s.qwait := rfl
@[simp] theorem State.setThread_turns (t : Nat) (x : Thread) : (s.setThread t x).turns = s.turns := rfl
@[simp] theorem State.setThread_parkedTicks (t : Nat) (x : Thread) : (s.setThread t x).parkedTicks = s.parkedTicks := rfl
@[simp] theorem State.setThread_parkedNow (t : Nat) (x : Thread) : (s.setThread t x).parkedNow = s.parkedNow := rfl
@[simp] theorem State.setThread_rowWaits (t : Nat) (x : Thread) : (s.setThread t x).rowWaits = s.rowWaits := rfl
@[simp] theorem State.setThread_ringDirty (t : Nat) (x : Thread) : (s.setThread t x).ringDirty = s.ringDirty := rfl
@[simp] theorem State.setThread_overflowSize (t : Nat) (x : Thread) : (s.setThread t x).overflowSize = s.overflowSize := rfl
@[simp] theorem State.setThread_health (t : Nat) (x : Thread) : (s.setThread t x).health = s.health := rfl
@[simp] theorem State.setThread_journal (t : Nat) (x : Thread) : (s.setThread t x).journal = s.journal := rfl
@[simp] theorem State.setThread_journalSize (t : Nat) (x : Thread) : (s.setThread t x).journalSize = s.journalSize := rfl
@[simp] theorem State.setThread_journalUsed (t : Nat) (x : Thread) : (s.setThread t x).journalUsed = s.journalUsed := rfl
@[simp] theorem State.setThread_journalWait (t : Nat) (x : Thread) : (s.setThread t x).journalWait = s.journalWait := rfl
@[simp] theorem State.setThread_journalCopy (t : Nat) (x : Thread) : (s.setThread t x).journalCopy = s.journalCopy := rfl
@[simp] theorem State.setThread_saveSize (t : Nat) (x : Thread) : (s.setThread t x).saveSize = s.saveSize := rfl
@[simp] theorem State.setThread_saveUsed (t : Nat) (x : Thread) : (s.setThread t x).saveUsed = s.saveUsed := rfl
@[simp] theorem State.setThread_launches (t : Nat) (x : Thread) : (s.setThread t x).launches = s.launches := rfl
@[simp] theorem State.setThread_nextLaunch (t : Nat) (x : Thread) : (s.setThread t x).nextLaunch = s.nextLaunch := rfl
@[simp] theorem State.setThread_crews (t : Nat) (x : Thread) : (s.setThread t x).crews = s.crews := rfl
@[simp] theorem State.setThread_nextCrew (t : Nat) (x : Thread) : (s.setThread t x).nextCrew = s.nextCrew := rfl
@[simp] theorem State.setThread_notices (t : Nat) (x : Thread) : (s.setThread t x).notices = s.notices := rfl
@[simp] theorem State.setThread_remoteStages (t : Nat) (x : Thread) : (s.setThread t x).remoteStages = s.remoteStages := rfl
@[simp] theorem State.setThread_queues (t : Nat) (x : Thread) : (s.setThread t x).queues = s.queues := rfl
@[simp] theorem State.setThread_cps (t : Nat) (x : Thread) : (s.setThread t x).cps = s.cps := rfl
@[simp] theorem State.setThread_sites (t : Nat) (x : Thread) : (s.setThread t x).sites = s.sites := rfl
@[simp] theorem State.setThread_strainLimit (t : Nat) (x : Thread) : (s.setThread t x).strainLimit = s.strainLimit := rfl
@[simp] theorem State.setThread_asides (t : Nat) (x : Thread) : (s.setThread t x).asides = s.asides := rfl
@[simp] theorem State.setThread_ifaces (t : Nat) (x : Thread) : (s.setThread t x).ifaces = s.ifaces := rfl
@[simp] theorem State.setThread_hostReplies (t : Nat) (x : Thread) : (s.setThread t x).hostReplies = s.hostReplies := rfl
@[simp] theorem State.setThread_hostQueue (t : Nat) (x : Thread) : (s.setThread t x).hostQueue = s.hostQueue := rfl
@[simp] theorem State.setThread_ports (t : Nat) (x : Thread) : (s.setThread t x).ports = s.ports := rfl
@[simp] theorem State.setThread_routes (t : Nat) (x : Thread) : (s.setThread t x).routes = s.routes := rfl
@[simp] theorem State.setThread_pendingRoutes (t : Nat) (x : Thread) : (s.setThread t x).pendingRoutes = s.pendingRoutes := rfl
@[simp] theorem State.setThread_gone (t : Nat) (x : Thread) : (s.setThread t x).gone = s.gone := rfl
@[simp] theorem State.setThread_keys (t : Nat) (x : Thread) : (s.setThread t x).keys = s.keys := rfl
@[simp] theorem State.setThread_ks (t : Nat) (x : Thread) : (s.setThread t x).ks = s.ks := rfl
@[simp] theorem State.setThread_k1 (t : Nat) (x : Thread) : (s.setThread t x).k1 = s.k1 := rfl
@[simp] theorem State.setThread_k2 (t : Nat) (x : Thread) : (s.setThread t x).k2 = s.k2 := rfl
@[simp] theorem State.setThread_resets (t : Nat) (x : Thread) : (s.setThread t x).resets = s.resets := rfl
@[simp] theorem State.setThread_meas (t : Nat) (x : Thread) : (s.setThread t x).meas = s.meas := rfl
@[simp] theorem State.setThread_secVersions (t : Nat) (x : Thread) : (s.setThread t x).secVersions = s.secVersions := rfl
@[simp] theorem State.setThread_config (t : Nat) (x : Thread) : (s.setThread t x).config = s.config := rfl
@[simp] theorem State.setThread_active (t : Nat) (x : Thread) : (s.setThread t x).active = s.active := rfl
@[simp] theorem State.setThread_attestations (t : Nat) (x : Thread) : (s.setThread t x).attestations = s.attestations := rfl
@[simp] theorem State.setThread_dev (t : Nat) (x : Thread) : (s.setThread t x).dev = s.dev := rfl
@[simp] theorem State.setThread_cxl (t : Nat) (x : Thread) : (s.setThread t x).cxl = s.cxl := rfl
@[simp] theorem State.setThread_checkpointTo (t : Nat) (x : Thread) : (s.setThread t x).checkpointTo = s.checkpointTo := rfl
@[simp] theorem State.setThread_bootStopped (t : Nat) (x : Thread) : (s.setThread t x).bootStopped = s.bootStopped := rfl
@[simp] theorem State.setThread_refuge (t : Nat) (x : Thread) : (s.setThread t x).refuge = s.refuge := rfl
@[simp] theorem State.setThread_power (t : Nat) (x : Thread) : (s.setThread t x).power = s.power := rfl
@[simp] theorem State.setThread_powerLimit (t : Nat) (x : Thread) : (s.setThread t x).powerLimit = s.powerLimit := rfl

/-! ### `modThread` -/

@[simp] theorem State.modThread_tick (t : Nat) (f : Thread → Thread) : (s.modThread t f).tick = s.tick := rfl
@[simp] theorem State.modThread_events (t : Nat) (f : Thread → Thread) : (s.modThread t f).events = s.events := rfl
@[simp] theorem State.modThread_timers (t : Nat) (f : Thread → Thread) : (s.modThread t f).timers = s.timers := rfl
@[simp] theorem State.modThread_sels (t : Nat) (f : Thread → Thread) : (s.modThread t f).sels = s.sels := rfl
@[simp] theorem State.modThread_cur (t : Nat) (f : Thread → Thread) : (s.modThread t f).cur = s.cur := rfl
@[simp] theorem State.modThread_heldSteps (t : Nat) (f : Thread → Thread) : (s.modThread t f).heldSteps = s.heldSteps := rfl
@[simp] theorem State.modThread_cores (t : Nat) (f : Thread → Thread) : (s.modThread t f).cores = s.cores := rfl
@[simp] theorem State.modThread_windows (t : Nat) (f : Thread → Thread) : (s.modThread t f).windows = s.windows := rfl
@[simp] theorem State.modThread_tcm (t : Nat) (f : Thread → Thread) : (s.modThread t f).tcm = s.tcm := rfl
@[simp] theorem State.modThread_deck (t : Nat) (f : Thread → Thread) : (s.modThread t f).deck = s.deck := rfl
@[simp] theorem State.modThread_deckEpoch (t : Nat) (f : Thread → Thread) : (s.modThread t f).deckEpoch = s.deckEpoch := rfl
@[simp] theorem State.modThread_deckErrors (t : Nat) (f : Thread → Thread) : (s.modThread t f).deckErrors = s.deckErrors := rfl
@[simp] theorem State.modThread_deckSoft (t : Nat) (f : Thread → Thread) : (s.modThread t f).deckSoft = s.deckSoft := rfl
@[simp] theorem State.modThread_corrections (t : Nat) (f : Thread → Thread) : (s.modThread t f).corrections = s.corrections := rfl
@[simp] theorem State.modThread_epochs (t : Nat) (f : Thread → Thread) : (s.modThread t f).epochs = s.epochs := rfl
@[simp] theorem State.modThread_banks (t : Nat) (f : Thread → Thread) : (s.modThread t f).banks = s.banks := rfl
@[simp] theorem State.modThread_asks (t : Nat) (f : Thread → Thread) : (s.modThread t f).asks = s.asks := rfl
@[simp] theorem State.modThread_mem (t : Nat) (f : Thread → Thread) : (s.modThread t f).mem = s.mem := rfl
@[simp] theorem State.modThread_blocks (t : Nat) (f : Thread → Thread) : (s.modThread t f).blocks = s.blocks := rfl
@[simp] theorem State.modThread_reqs (t : Nat) (f : Thread → Thread) : (s.modThread t f).reqs = s.reqs := rfl
@[simp] theorem State.modThread_nextReq (t : Nat) (f : Thread → Thread) : (s.modThread t f).nextReq = s.nextReq := rfl
@[simp] theorem State.modThread_copies (t : Nat) (f : Thread → Thread) : (s.modThread t f).copies = s.copies := rfl
@[simp] theorem State.modThread_nextCopy (t : Nat) (f : Thread → Thread) : (s.modThread t f).nextCopy = s.nextCopy := rfl
@[simp] theorem State.modThread_nextOp (t : Nat) (f : Thread → Thread) : (s.modThread t f).nextOp = s.nextOp := rfl
@[simp] theorem State.modThread_flight (t : Nat) (f : Thread → Thread) : (s.modThread t f).flight = s.flight := rfl
@[simp] theorem State.modThread_netRoom (t : Nat) (f : Thread → Thread) : (s.modThread t f).netRoom = s.netRoom := rfl
@[simp] theorem State.modThread_cache (t : Nat) (f : Thread → Thread) : (s.modThread t f).cache = s.cache := rfl
@[simp] theorem State.modThread_hostSectors (t : Nat) (f : Thread → Thread) : (s.modThread t f).hostSectors = s.hostSectors := rfl
@[simp] theorem State.modThread_sectorDir (t : Nat) (f : Thread → Thread) : (s.modThread t f).sectorDir = s.sectorDir := rfl
@[simp] theorem State.modThread_lineVersion (t : Nat) (f : Thread → Thread) : (s.modThread t f).lineVersion = s.lineVersion := rfl
@[simp] theorem State.modThread_homeLine (t : Nat) (f : Thread → Thread) : (s.modThread t f).homeLine = s.homeLine := rfl
@[simp] theorem State.modThread_writeBacks (t : Nat) (f : Thread → Thread) : (s.modThread t f).writeBacks = s.writeBacks := rfl
@[simp] theorem State.modThread_nextWb (t : Nat) (f : Thread → Thread) : (s.modThread t f).nextWb = s.nextWb := rfl
@[simp] theorem State.modThread_spanNet (t : Nat) (f : Thread → Thread) : (s.modThread t f).spanNet = s.spanNet := rfl
@[simp] theorem State.modThread_engineAsked (t : Nat) (f : Thread → Thread) : (s.modThread t f).engineAsked = s.engineAsked := rfl
@[simp] theorem State.modThread_hostRecalls (t : Nat) (f : Thread → Thread) : (s.modThread t f).hostRecalls = s.hostRecalls := rfl
@[simp] theorem State.modThread_l1 (t : Nat) (f : Thread → Thread) : (s.modThread t f).l1 = s.l1 := rfl
@[simp] theorem State.modThread_lltlb (t : Nat) (f : Thread → Thread) : (s.modThread t f).lltlb = s.lltlb := rfl
@[simp] theorem State.modThread_misses (t : Nat) (f : Thread → Thread) : (s.modThread t f).misses = s.misses := rfl
@[simp] theorem State.modThread_roots (t : Nat) (f : Thread → Thread) : (s.modThread t f).roots = s.roots := rfl
@[simp] theorem State.modThread_channels (t : Nat) (f : Thread → Thread) : (s.modThread t f).channels = s.channels := rfl
@[simp] theorem State.modThread_mapped (t : Nat) (f : Thread → Thread) : (s.modThread t f).mapped = s.mapped := rfl
@[simp] theorem State.modThread_pool (t : Nat) (f : Thread → Thread) : (s.modThread t f).pool = s.pool := rfl
@[simp] theorem State.modThread_poolUsed (t : Nat) (f : Thread → Thread) : (s.modThread t f).poolUsed = s.poolUsed := rfl
@[simp] theorem State.modThread_poolWait (t : Nat) (f : Thread → Thread) : (s.modThread t f).poolWait = s.poolWait := rfl
@[simp] theorem State.modThread_qwait (t : Nat) (f : Thread → Thread) : (s.modThread t f).qwait = s.qwait := rfl
@[simp] theorem State.modThread_turns (t : Nat) (f : Thread → Thread) : (s.modThread t f).turns = s.turns := rfl
@[simp] theorem State.modThread_parkedTicks (t : Nat) (f : Thread → Thread) : (s.modThread t f).parkedTicks = s.parkedTicks := rfl
@[simp] theorem State.modThread_parkedNow (t : Nat) (f : Thread → Thread) : (s.modThread t f).parkedNow = s.parkedNow := rfl
@[simp] theorem State.modThread_rowWaits (t : Nat) (f : Thread → Thread) : (s.modThread t f).rowWaits = s.rowWaits := rfl
@[simp] theorem State.modThread_ringDirty (t : Nat) (f : Thread → Thread) : (s.modThread t f).ringDirty = s.ringDirty := rfl
@[simp] theorem State.modThread_overflowSize (t : Nat) (f : Thread → Thread) : (s.modThread t f).overflowSize = s.overflowSize := rfl
@[simp] theorem State.modThread_health (t : Nat) (f : Thread → Thread) : (s.modThread t f).health = s.health := rfl
@[simp] theorem State.modThread_journal (t : Nat) (f : Thread → Thread) : (s.modThread t f).journal = s.journal := rfl
@[simp] theorem State.modThread_journalSize (t : Nat) (f : Thread → Thread) : (s.modThread t f).journalSize = s.journalSize := rfl
@[simp] theorem State.modThread_journalUsed (t : Nat) (f : Thread → Thread) : (s.modThread t f).journalUsed = s.journalUsed := rfl
@[simp] theorem State.modThread_journalWait (t : Nat) (f : Thread → Thread) : (s.modThread t f).journalWait = s.journalWait := rfl
@[simp] theorem State.modThread_journalCopy (t : Nat) (f : Thread → Thread) : (s.modThread t f).journalCopy = s.journalCopy := rfl
@[simp] theorem State.modThread_saveSize (t : Nat) (f : Thread → Thread) : (s.modThread t f).saveSize = s.saveSize := rfl
@[simp] theorem State.modThread_saveUsed (t : Nat) (f : Thread → Thread) : (s.modThread t f).saveUsed = s.saveUsed := rfl
@[simp] theorem State.modThread_launches (t : Nat) (f : Thread → Thread) : (s.modThread t f).launches = s.launches := rfl
@[simp] theorem State.modThread_nextLaunch (t : Nat) (f : Thread → Thread) : (s.modThread t f).nextLaunch = s.nextLaunch := rfl
@[simp] theorem State.modThread_crews (t : Nat) (f : Thread → Thread) : (s.modThread t f).crews = s.crews := rfl
@[simp] theorem State.modThread_nextCrew (t : Nat) (f : Thread → Thread) : (s.modThread t f).nextCrew = s.nextCrew := rfl
@[simp] theorem State.modThread_notices (t : Nat) (f : Thread → Thread) : (s.modThread t f).notices = s.notices := rfl
@[simp] theorem State.modThread_remoteStages (t : Nat) (f : Thread → Thread) : (s.modThread t f).remoteStages = s.remoteStages := rfl
@[simp] theorem State.modThread_queues (t : Nat) (f : Thread → Thread) : (s.modThread t f).queues = s.queues := rfl
@[simp] theorem State.modThread_cps (t : Nat) (f : Thread → Thread) : (s.modThread t f).cps = s.cps := rfl
@[simp] theorem State.modThread_sites (t : Nat) (f : Thread → Thread) : (s.modThread t f).sites = s.sites := rfl
@[simp] theorem State.modThread_strainLimit (t : Nat) (f : Thread → Thread) : (s.modThread t f).strainLimit = s.strainLimit := rfl
@[simp] theorem State.modThread_asides (t : Nat) (f : Thread → Thread) : (s.modThread t f).asides = s.asides := rfl
@[simp] theorem State.modThread_ifaces (t : Nat) (f : Thread → Thread) : (s.modThread t f).ifaces = s.ifaces := rfl
@[simp] theorem State.modThread_hostReplies (t : Nat) (f : Thread → Thread) : (s.modThread t f).hostReplies = s.hostReplies := rfl
@[simp] theorem State.modThread_hostQueue (t : Nat) (f : Thread → Thread) : (s.modThread t f).hostQueue = s.hostQueue := rfl
@[simp] theorem State.modThread_ports (t : Nat) (f : Thread → Thread) : (s.modThread t f).ports = s.ports := rfl
@[simp] theorem State.modThread_routes (t : Nat) (f : Thread → Thread) : (s.modThread t f).routes = s.routes := rfl
@[simp] theorem State.modThread_pendingRoutes (t : Nat) (f : Thread → Thread) : (s.modThread t f).pendingRoutes = s.pendingRoutes := rfl
@[simp] theorem State.modThread_gone (t : Nat) (f : Thread → Thread) : (s.modThread t f).gone = s.gone := rfl
@[simp] theorem State.modThread_keys (t : Nat) (f : Thread → Thread) : (s.modThread t f).keys = s.keys := rfl
@[simp] theorem State.modThread_ks (t : Nat) (f : Thread → Thread) : (s.modThread t f).ks = s.ks := rfl
@[simp] theorem State.modThread_k1 (t : Nat) (f : Thread → Thread) : (s.modThread t f).k1 = s.k1 := rfl
@[simp] theorem State.modThread_k2 (t : Nat) (f : Thread → Thread) : (s.modThread t f).k2 = s.k2 := rfl
@[simp] theorem State.modThread_resets (t : Nat) (f : Thread → Thread) : (s.modThread t f).resets = s.resets := rfl
@[simp] theorem State.modThread_meas (t : Nat) (f : Thread → Thread) : (s.modThread t f).meas = s.meas := rfl
@[simp] theorem State.modThread_secVersions (t : Nat) (f : Thread → Thread) : (s.modThread t f).secVersions = s.secVersions := rfl
@[simp] theorem State.modThread_config (t : Nat) (f : Thread → Thread) : (s.modThread t f).config = s.config := rfl
@[simp] theorem State.modThread_active (t : Nat) (f : Thread → Thread) : (s.modThread t f).active = s.active := rfl
@[simp] theorem State.modThread_attestations (t : Nat) (f : Thread → Thread) : (s.modThread t f).attestations = s.attestations := rfl
@[simp] theorem State.modThread_dev (t : Nat) (f : Thread → Thread) : (s.modThread t f).dev = s.dev := rfl
@[simp] theorem State.modThread_cxl (t : Nat) (f : Thread → Thread) : (s.modThread t f).cxl = s.cxl := rfl
@[simp] theorem State.modThread_checkpointTo (t : Nat) (f : Thread → Thread) : (s.modThread t f).checkpointTo = s.checkpointTo := rfl
@[simp] theorem State.modThread_bootStopped (t : Nat) (f : Thread → Thread) : (s.modThread t f).bootStopped = s.bootStopped := rfl
@[simp] theorem State.modThread_refuge (t : Nat) (f : Thread → Thread) : (s.modThread t f).refuge = s.refuge := rfl
@[simp] theorem State.modThread_power (t : Nat) (f : Thread → Thread) : (s.modThread t f).power = s.power := rfl
@[simp] theorem State.modThread_powerLimit (t : Nat) (f : Thread → Thread) : (s.modThread t f).powerLimit = s.powerLimit := rfl

/-! ### `setCore` -/

@[simp] theorem State.setCore_tick (c : Nat) (x : Core) : (s.setCore c x).tick = s.tick := rfl
@[simp] theorem State.setCore_events (c : Nat) (x : Core) : (s.setCore c x).events = s.events := rfl
@[simp] theorem State.setCore_timers (c : Nat) (x : Core) : (s.setCore c x).timers = s.timers := rfl
@[simp] theorem State.setCore_sels (c : Nat) (x : Core) : (s.setCore c x).sels = s.sels := rfl
@[simp] theorem State.setCore_cur (c : Nat) (x : Core) : (s.setCore c x).cur = s.cur := rfl
@[simp] theorem State.setCore_heldSteps (c : Nat) (x : Core) : (s.setCore c x).heldSteps = s.heldSteps := rfl
@[simp] theorem State.setCore_threads (c : Nat) (x : Core) : (s.setCore c x).threads = s.threads := rfl
@[simp] theorem State.setCore_windows (c : Nat) (x : Core) : (s.setCore c x).windows = s.windows := rfl
@[simp] theorem State.setCore_tcm (c : Nat) (x : Core) : (s.setCore c x).tcm = s.tcm := rfl
@[simp] theorem State.setCore_deck (c : Nat) (x : Core) : (s.setCore c x).deck = s.deck := rfl
@[simp] theorem State.setCore_deckEpoch (c : Nat) (x : Core) : (s.setCore c x).deckEpoch = s.deckEpoch := rfl
@[simp] theorem State.setCore_deckErrors (c : Nat) (x : Core) : (s.setCore c x).deckErrors = s.deckErrors := rfl
@[simp] theorem State.setCore_deckSoft (c : Nat) (x : Core) : (s.setCore c x).deckSoft = s.deckSoft := rfl
@[simp] theorem State.setCore_corrections (c : Nat) (x : Core) : (s.setCore c x).corrections = s.corrections := rfl
@[simp] theorem State.setCore_epochs (c : Nat) (x : Core) : (s.setCore c x).epochs = s.epochs := rfl
@[simp] theorem State.setCore_banks (c : Nat) (x : Core) : (s.setCore c x).banks = s.banks := rfl
@[simp] theorem State.setCore_asks (c : Nat) (x : Core) : (s.setCore c x).asks = s.asks := rfl
@[simp] theorem State.setCore_mem (c : Nat) (x : Core) : (s.setCore c x).mem = s.mem := rfl
@[simp] theorem State.setCore_blocks (c : Nat) (x : Core) : (s.setCore c x).blocks = s.blocks := rfl
@[simp] theorem State.setCore_reqs (c : Nat) (x : Core) : (s.setCore c x).reqs = s.reqs := rfl
@[simp] theorem State.setCore_nextReq (c : Nat) (x : Core) : (s.setCore c x).nextReq = s.nextReq := rfl
@[simp] theorem State.setCore_copies (c : Nat) (x : Core) : (s.setCore c x).copies = s.copies := rfl
@[simp] theorem State.setCore_nextCopy (c : Nat) (x : Core) : (s.setCore c x).nextCopy = s.nextCopy := rfl
@[simp] theorem State.setCore_nextOp (c : Nat) (x : Core) : (s.setCore c x).nextOp = s.nextOp := rfl
@[simp] theorem State.setCore_flight (c : Nat) (x : Core) : (s.setCore c x).flight = s.flight := rfl
@[simp] theorem State.setCore_netRoom (c : Nat) (x : Core) : (s.setCore c x).netRoom = s.netRoom := rfl
@[simp] theorem State.setCore_cache (c : Nat) (x : Core) : (s.setCore c x).cache = s.cache := rfl
@[simp] theorem State.setCore_hostSectors (c : Nat) (x : Core) : (s.setCore c x).hostSectors = s.hostSectors := rfl
@[simp] theorem State.setCore_sectorDir (c : Nat) (x : Core) : (s.setCore c x).sectorDir = s.sectorDir := rfl
@[simp] theorem State.setCore_lineVersion (c : Nat) (x : Core) : (s.setCore c x).lineVersion = s.lineVersion := rfl
@[simp] theorem State.setCore_homeLine (c : Nat) (x : Core) : (s.setCore c x).homeLine = s.homeLine := rfl
@[simp] theorem State.setCore_writeBacks (c : Nat) (x : Core) : (s.setCore c x).writeBacks = s.writeBacks := rfl
@[simp] theorem State.setCore_nextWb (c : Nat) (x : Core) : (s.setCore c x).nextWb = s.nextWb := rfl
@[simp] theorem State.setCore_spanNet (c : Nat) (x : Core) : (s.setCore c x).spanNet = s.spanNet := rfl
@[simp] theorem State.setCore_engineAsked (c : Nat) (x : Core) : (s.setCore c x).engineAsked = s.engineAsked := rfl
@[simp] theorem State.setCore_hostRecalls (c : Nat) (x : Core) : (s.setCore c x).hostRecalls = s.hostRecalls := rfl
@[simp] theorem State.setCore_l1 (c : Nat) (x : Core) : (s.setCore c x).l1 = s.l1 := rfl
@[simp] theorem State.setCore_lltlb (c : Nat) (x : Core) : (s.setCore c x).lltlb = s.lltlb := rfl
@[simp] theorem State.setCore_misses (c : Nat) (x : Core) : (s.setCore c x).misses = s.misses := rfl
@[simp] theorem State.setCore_roots (c : Nat) (x : Core) : (s.setCore c x).roots = s.roots := rfl
@[simp] theorem State.setCore_channels (c : Nat) (x : Core) : (s.setCore c x).channels = s.channels := rfl
@[simp] theorem State.setCore_mapped (c : Nat) (x : Core) : (s.setCore c x).mapped = s.mapped := rfl
@[simp] theorem State.setCore_pool (c : Nat) (x : Core) : (s.setCore c x).pool = s.pool := rfl
@[simp] theorem State.setCore_poolUsed (c : Nat) (x : Core) : (s.setCore c x).poolUsed = s.poolUsed := rfl
@[simp] theorem State.setCore_poolWait (c : Nat) (x : Core) : (s.setCore c x).poolWait = s.poolWait := rfl
@[simp] theorem State.setCore_qwait (c : Nat) (x : Core) : (s.setCore c x).qwait = s.qwait := rfl
@[simp] theorem State.setCore_turns (c : Nat) (x : Core) : (s.setCore c x).turns = s.turns := rfl
@[simp] theorem State.setCore_parkedTicks (c : Nat) (x : Core) : (s.setCore c x).parkedTicks = s.parkedTicks := rfl
@[simp] theorem State.setCore_parkedNow (c : Nat) (x : Core) : (s.setCore c x).parkedNow = s.parkedNow := rfl
@[simp] theorem State.setCore_rowWaits (c : Nat) (x : Core) : (s.setCore c x).rowWaits = s.rowWaits := rfl
@[simp] theorem State.setCore_ringDirty (c : Nat) (x : Core) : (s.setCore c x).ringDirty = s.ringDirty := rfl
@[simp] theorem State.setCore_overflowSize (c : Nat) (x : Core) : (s.setCore c x).overflowSize = s.overflowSize := rfl
@[simp] theorem State.setCore_health (c : Nat) (x : Core) : (s.setCore c x).health = s.health := rfl
@[simp] theorem State.setCore_journal (c : Nat) (x : Core) : (s.setCore c x).journal = s.journal := rfl
@[simp] theorem State.setCore_journalSize (c : Nat) (x : Core) : (s.setCore c x).journalSize = s.journalSize := rfl
@[simp] theorem State.setCore_journalUsed (c : Nat) (x : Core) : (s.setCore c x).journalUsed = s.journalUsed := rfl
@[simp] theorem State.setCore_journalWait (c : Nat) (x : Core) : (s.setCore c x).journalWait = s.journalWait := rfl
@[simp] theorem State.setCore_journalCopy (c : Nat) (x : Core) : (s.setCore c x).journalCopy = s.journalCopy := rfl
@[simp] theorem State.setCore_saveSize (c : Nat) (x : Core) : (s.setCore c x).saveSize = s.saveSize := rfl
@[simp] theorem State.setCore_saveUsed (c : Nat) (x : Core) : (s.setCore c x).saveUsed = s.saveUsed := rfl
@[simp] theorem State.setCore_launches (c : Nat) (x : Core) : (s.setCore c x).launches = s.launches := rfl
@[simp] theorem State.setCore_nextLaunch (c : Nat) (x : Core) : (s.setCore c x).nextLaunch = s.nextLaunch := rfl
@[simp] theorem State.setCore_crews (c : Nat) (x : Core) : (s.setCore c x).crews = s.crews := rfl
@[simp] theorem State.setCore_nextCrew (c : Nat) (x : Core) : (s.setCore c x).nextCrew = s.nextCrew := rfl
@[simp] theorem State.setCore_notices (c : Nat) (x : Core) : (s.setCore c x).notices = s.notices := rfl
@[simp] theorem State.setCore_remoteStages (c : Nat) (x : Core) : (s.setCore c x).remoteStages = s.remoteStages := rfl
@[simp] theorem State.setCore_queues (c : Nat) (x : Core) : (s.setCore c x).queues = s.queues := rfl
@[simp] theorem State.setCore_cps (c : Nat) (x : Core) : (s.setCore c x).cps = s.cps := rfl
@[simp] theorem State.setCore_sites (c : Nat) (x : Core) : (s.setCore c x).sites = s.sites := rfl
@[simp] theorem State.setCore_strainLimit (c : Nat) (x : Core) : (s.setCore c x).strainLimit = s.strainLimit := rfl
@[simp] theorem State.setCore_asides (c : Nat) (x : Core) : (s.setCore c x).asides = s.asides := rfl
@[simp] theorem State.setCore_ifaces (c : Nat) (x : Core) : (s.setCore c x).ifaces = s.ifaces := rfl
@[simp] theorem State.setCore_hostReplies (c : Nat) (x : Core) : (s.setCore c x).hostReplies = s.hostReplies := rfl
@[simp] theorem State.setCore_hostQueue (c : Nat) (x : Core) : (s.setCore c x).hostQueue = s.hostQueue := rfl
@[simp] theorem State.setCore_ports (c : Nat) (x : Core) : (s.setCore c x).ports = s.ports := rfl
@[simp] theorem State.setCore_routes (c : Nat) (x : Core) : (s.setCore c x).routes = s.routes := rfl
@[simp] theorem State.setCore_pendingRoutes (c : Nat) (x : Core) : (s.setCore c x).pendingRoutes = s.pendingRoutes := rfl
@[simp] theorem State.setCore_gone (c : Nat) (x : Core) : (s.setCore c x).gone = s.gone := rfl
@[simp] theorem State.setCore_keys (c : Nat) (x : Core) : (s.setCore c x).keys = s.keys := rfl
@[simp] theorem State.setCore_ks (c : Nat) (x : Core) : (s.setCore c x).ks = s.ks := rfl
@[simp] theorem State.setCore_k1 (c : Nat) (x : Core) : (s.setCore c x).k1 = s.k1 := rfl
@[simp] theorem State.setCore_k2 (c : Nat) (x : Core) : (s.setCore c x).k2 = s.k2 := rfl
@[simp] theorem State.setCore_resets (c : Nat) (x : Core) : (s.setCore c x).resets = s.resets := rfl
@[simp] theorem State.setCore_meas (c : Nat) (x : Core) : (s.setCore c x).meas = s.meas := rfl
@[simp] theorem State.setCore_secVersions (c : Nat) (x : Core) : (s.setCore c x).secVersions = s.secVersions := rfl
@[simp] theorem State.setCore_config (c : Nat) (x : Core) : (s.setCore c x).config = s.config := rfl
@[simp] theorem State.setCore_active (c : Nat) (x : Core) : (s.setCore c x).active = s.active := rfl
@[simp] theorem State.setCore_attestations (c : Nat) (x : Core) : (s.setCore c x).attestations = s.attestations := rfl
@[simp] theorem State.setCore_dev (c : Nat) (x : Core) : (s.setCore c x).dev = s.dev := rfl
@[simp] theorem State.setCore_cxl (c : Nat) (x : Core) : (s.setCore c x).cxl = s.cxl := rfl
@[simp] theorem State.setCore_checkpointTo (c : Nat) (x : Core) : (s.setCore c x).checkpointTo = s.checkpointTo := rfl
@[simp] theorem State.setCore_bootStopped (c : Nat) (x : Core) : (s.setCore c x).bootStopped = s.bootStopped := rfl
@[simp] theorem State.setCore_refuge (c : Nat) (x : Core) : (s.setCore c x).refuge = s.refuge := rfl
@[simp] theorem State.setCore_power (c : Nat) (x : Core) : (s.setCore c x).power = s.power := rfl
@[simp] theorem State.setCore_powerLimit (c : Nat) (x : Core) : (s.setCore c x).powerLimit = s.powerLimit := rfl

/-! ### `modCore` -/

@[simp] theorem State.modCore_tick (c : Nat) (f : Core → Core) : (s.modCore c f).tick = s.tick := rfl
@[simp] theorem State.modCore_events (c : Nat) (f : Core → Core) : (s.modCore c f).events = s.events := rfl
@[simp] theorem State.modCore_timers (c : Nat) (f : Core → Core) : (s.modCore c f).timers = s.timers := rfl
@[simp] theorem State.modCore_sels (c : Nat) (f : Core → Core) : (s.modCore c f).sels = s.sels := rfl
@[simp] theorem State.modCore_cur (c : Nat) (f : Core → Core) : (s.modCore c f).cur = s.cur := rfl
@[simp] theorem State.modCore_heldSteps (c : Nat) (f : Core → Core) : (s.modCore c f).heldSteps = s.heldSteps := rfl
@[simp] theorem State.modCore_threads (c : Nat) (f : Core → Core) : (s.modCore c f).threads = s.threads := rfl
@[simp] theorem State.modCore_windows (c : Nat) (f : Core → Core) : (s.modCore c f).windows = s.windows := rfl
@[simp] theorem State.modCore_tcm (c : Nat) (f : Core → Core) : (s.modCore c f).tcm = s.tcm := rfl
@[simp] theorem State.modCore_deck (c : Nat) (f : Core → Core) : (s.modCore c f).deck = s.deck := rfl
@[simp] theorem State.modCore_deckEpoch (c : Nat) (f : Core → Core) : (s.modCore c f).deckEpoch = s.deckEpoch := rfl
@[simp] theorem State.modCore_deckErrors (c : Nat) (f : Core → Core) : (s.modCore c f).deckErrors = s.deckErrors := rfl
@[simp] theorem State.modCore_deckSoft (c : Nat) (f : Core → Core) : (s.modCore c f).deckSoft = s.deckSoft := rfl
@[simp] theorem State.modCore_corrections (c : Nat) (f : Core → Core) : (s.modCore c f).corrections = s.corrections := rfl
@[simp] theorem State.modCore_epochs (c : Nat) (f : Core → Core) : (s.modCore c f).epochs = s.epochs := rfl
@[simp] theorem State.modCore_banks (c : Nat) (f : Core → Core) : (s.modCore c f).banks = s.banks := rfl
@[simp] theorem State.modCore_asks (c : Nat) (f : Core → Core) : (s.modCore c f).asks = s.asks := rfl
@[simp] theorem State.modCore_mem (c : Nat) (f : Core → Core) : (s.modCore c f).mem = s.mem := rfl
@[simp] theorem State.modCore_blocks (c : Nat) (f : Core → Core) : (s.modCore c f).blocks = s.blocks := rfl
@[simp] theorem State.modCore_reqs (c : Nat) (f : Core → Core) : (s.modCore c f).reqs = s.reqs := rfl
@[simp] theorem State.modCore_nextReq (c : Nat) (f : Core → Core) : (s.modCore c f).nextReq = s.nextReq := rfl
@[simp] theorem State.modCore_copies (c : Nat) (f : Core → Core) : (s.modCore c f).copies = s.copies := rfl
@[simp] theorem State.modCore_nextCopy (c : Nat) (f : Core → Core) : (s.modCore c f).nextCopy = s.nextCopy := rfl
@[simp] theorem State.modCore_nextOp (c : Nat) (f : Core → Core) : (s.modCore c f).nextOp = s.nextOp := rfl
@[simp] theorem State.modCore_flight (c : Nat) (f : Core → Core) : (s.modCore c f).flight = s.flight := rfl
@[simp] theorem State.modCore_netRoom (c : Nat) (f : Core → Core) : (s.modCore c f).netRoom = s.netRoom := rfl
@[simp] theorem State.modCore_cache (c : Nat) (f : Core → Core) : (s.modCore c f).cache = s.cache := rfl
@[simp] theorem State.modCore_hostSectors (c : Nat) (f : Core → Core) : (s.modCore c f).hostSectors = s.hostSectors := rfl
@[simp] theorem State.modCore_sectorDir (c : Nat) (f : Core → Core) : (s.modCore c f).sectorDir = s.sectorDir := rfl
@[simp] theorem State.modCore_lineVersion (c : Nat) (f : Core → Core) : (s.modCore c f).lineVersion = s.lineVersion := rfl
@[simp] theorem State.modCore_homeLine (c : Nat) (f : Core → Core) : (s.modCore c f).homeLine = s.homeLine := rfl
@[simp] theorem State.modCore_writeBacks (c : Nat) (f : Core → Core) : (s.modCore c f).writeBacks = s.writeBacks := rfl
@[simp] theorem State.modCore_nextWb (c : Nat) (f : Core → Core) : (s.modCore c f).nextWb = s.nextWb := rfl
@[simp] theorem State.modCore_spanNet (c : Nat) (f : Core → Core) : (s.modCore c f).spanNet = s.spanNet := rfl
@[simp] theorem State.modCore_engineAsked (c : Nat) (f : Core → Core) : (s.modCore c f).engineAsked = s.engineAsked := rfl
@[simp] theorem State.modCore_hostRecalls (c : Nat) (f : Core → Core) : (s.modCore c f).hostRecalls = s.hostRecalls := rfl
@[simp] theorem State.modCore_l1 (c : Nat) (f : Core → Core) : (s.modCore c f).l1 = s.l1 := rfl
@[simp] theorem State.modCore_lltlb (c : Nat) (f : Core → Core) : (s.modCore c f).lltlb = s.lltlb := rfl
@[simp] theorem State.modCore_misses (c : Nat) (f : Core → Core) : (s.modCore c f).misses = s.misses := rfl
@[simp] theorem State.modCore_roots (c : Nat) (f : Core → Core) : (s.modCore c f).roots = s.roots := rfl
@[simp] theorem State.modCore_channels (c : Nat) (f : Core → Core) : (s.modCore c f).channels = s.channels := rfl
@[simp] theorem State.modCore_mapped (c : Nat) (f : Core → Core) : (s.modCore c f).mapped = s.mapped := rfl
@[simp] theorem State.modCore_pool (c : Nat) (f : Core → Core) : (s.modCore c f).pool = s.pool := rfl
@[simp] theorem State.modCore_poolUsed (c : Nat) (f : Core → Core) : (s.modCore c f).poolUsed = s.poolUsed := rfl
@[simp] theorem State.modCore_poolWait (c : Nat) (f : Core → Core) : (s.modCore c f).poolWait = s.poolWait := rfl
@[simp] theorem State.modCore_qwait (c : Nat) (f : Core → Core) : (s.modCore c f).qwait = s.qwait := rfl
@[simp] theorem State.modCore_turns (c : Nat) (f : Core → Core) : (s.modCore c f).turns = s.turns := rfl
@[simp] theorem State.modCore_parkedTicks (c : Nat) (f : Core → Core) : (s.modCore c f).parkedTicks = s.parkedTicks := rfl
@[simp] theorem State.modCore_parkedNow (c : Nat) (f : Core → Core) : (s.modCore c f).parkedNow = s.parkedNow := rfl
@[simp] theorem State.modCore_rowWaits (c : Nat) (f : Core → Core) : (s.modCore c f).rowWaits = s.rowWaits := rfl
@[simp] theorem State.modCore_ringDirty (c : Nat) (f : Core → Core) : (s.modCore c f).ringDirty = s.ringDirty := rfl
@[simp] theorem State.modCore_overflowSize (c : Nat) (f : Core → Core) : (s.modCore c f).overflowSize = s.overflowSize := rfl
@[simp] theorem State.modCore_health (c : Nat) (f : Core → Core) : (s.modCore c f).health = s.health := rfl
@[simp] theorem State.modCore_journal (c : Nat) (f : Core → Core) : (s.modCore c f).journal = s.journal := rfl
@[simp] theorem State.modCore_journalSize (c : Nat) (f : Core → Core) : (s.modCore c f).journalSize = s.journalSize := rfl
@[simp] theorem State.modCore_journalUsed (c : Nat) (f : Core → Core) : (s.modCore c f).journalUsed = s.journalUsed := rfl
@[simp] theorem State.modCore_journalWait (c : Nat) (f : Core → Core) : (s.modCore c f).journalWait = s.journalWait := rfl
@[simp] theorem State.modCore_journalCopy (c : Nat) (f : Core → Core) : (s.modCore c f).journalCopy = s.journalCopy := rfl
@[simp] theorem State.modCore_saveSize (c : Nat) (f : Core → Core) : (s.modCore c f).saveSize = s.saveSize := rfl
@[simp] theorem State.modCore_saveUsed (c : Nat) (f : Core → Core) : (s.modCore c f).saveUsed = s.saveUsed := rfl
@[simp] theorem State.modCore_launches (c : Nat) (f : Core → Core) : (s.modCore c f).launches = s.launches := rfl
@[simp] theorem State.modCore_nextLaunch (c : Nat) (f : Core → Core) : (s.modCore c f).nextLaunch = s.nextLaunch := rfl
@[simp] theorem State.modCore_crews (c : Nat) (f : Core → Core) : (s.modCore c f).crews = s.crews := rfl
@[simp] theorem State.modCore_nextCrew (c : Nat) (f : Core → Core) : (s.modCore c f).nextCrew = s.nextCrew := rfl
@[simp] theorem State.modCore_notices (c : Nat) (f : Core → Core) : (s.modCore c f).notices = s.notices := rfl
@[simp] theorem State.modCore_remoteStages (c : Nat) (f : Core → Core) : (s.modCore c f).remoteStages = s.remoteStages := rfl
@[simp] theorem State.modCore_queues (c : Nat) (f : Core → Core) : (s.modCore c f).queues = s.queues := rfl
@[simp] theorem State.modCore_cps (c : Nat) (f : Core → Core) : (s.modCore c f).cps = s.cps := rfl
@[simp] theorem State.modCore_sites (c : Nat) (f : Core → Core) : (s.modCore c f).sites = s.sites := rfl
@[simp] theorem State.modCore_strainLimit (c : Nat) (f : Core → Core) : (s.modCore c f).strainLimit = s.strainLimit := rfl
@[simp] theorem State.modCore_asides (c : Nat) (f : Core → Core) : (s.modCore c f).asides = s.asides := rfl
@[simp] theorem State.modCore_ifaces (c : Nat) (f : Core → Core) : (s.modCore c f).ifaces = s.ifaces := rfl
@[simp] theorem State.modCore_hostReplies (c : Nat) (f : Core → Core) : (s.modCore c f).hostReplies = s.hostReplies := rfl
@[simp] theorem State.modCore_hostQueue (c : Nat) (f : Core → Core) : (s.modCore c f).hostQueue = s.hostQueue := rfl
@[simp] theorem State.modCore_ports (c : Nat) (f : Core → Core) : (s.modCore c f).ports = s.ports := rfl
@[simp] theorem State.modCore_routes (c : Nat) (f : Core → Core) : (s.modCore c f).routes = s.routes := rfl
@[simp] theorem State.modCore_pendingRoutes (c : Nat) (f : Core → Core) : (s.modCore c f).pendingRoutes = s.pendingRoutes := rfl
@[simp] theorem State.modCore_gone (c : Nat) (f : Core → Core) : (s.modCore c f).gone = s.gone := rfl
@[simp] theorem State.modCore_keys (c : Nat) (f : Core → Core) : (s.modCore c f).keys = s.keys := rfl
@[simp] theorem State.modCore_ks (c : Nat) (f : Core → Core) : (s.modCore c f).ks = s.ks := rfl
@[simp] theorem State.modCore_k1 (c : Nat) (f : Core → Core) : (s.modCore c f).k1 = s.k1 := rfl
@[simp] theorem State.modCore_k2 (c : Nat) (f : Core → Core) : (s.modCore c f).k2 = s.k2 := rfl
@[simp] theorem State.modCore_resets (c : Nat) (f : Core → Core) : (s.modCore c f).resets = s.resets := rfl
@[simp] theorem State.modCore_meas (c : Nat) (f : Core → Core) : (s.modCore c f).meas = s.meas := rfl
@[simp] theorem State.modCore_secVersions (c : Nat) (f : Core → Core) : (s.modCore c f).secVersions = s.secVersions := rfl
@[simp] theorem State.modCore_config (c : Nat) (f : Core → Core) : (s.modCore c f).config = s.config := rfl
@[simp] theorem State.modCore_active (c : Nat) (f : Core → Core) : (s.modCore c f).active = s.active := rfl
@[simp] theorem State.modCore_attestations (c : Nat) (f : Core → Core) : (s.modCore c f).attestations = s.attestations := rfl
@[simp] theorem State.modCore_dev (c : Nat) (f : Core → Core) : (s.modCore c f).dev = s.dev := rfl
@[simp] theorem State.modCore_cxl (c : Nat) (f : Core → Core) : (s.modCore c f).cxl = s.cxl := rfl
@[simp] theorem State.modCore_checkpointTo (c : Nat) (f : Core → Core) : (s.modCore c f).checkpointTo = s.checkpointTo := rfl
@[simp] theorem State.modCore_bootStopped (c : Nat) (f : Core → Core) : (s.modCore c f).bootStopped = s.bootStopped := rfl
@[simp] theorem State.modCore_refuge (c : Nat) (f : Core → Core) : (s.modCore c f).refuge = s.refuge := rfl
@[simp] theorem State.modCore_power (c : Nat) (f : Core → Core) : (s.modCore c f).power = s.power := rfl
@[simp] theorem State.modCore_powerLimit (c : Nat) (f : Core → Core) : (s.modCore c f).powerLimit = s.powerLimit := rfl

/-! ### `modSite` -/

@[simp] theorem State.modSite_tick (k : Nat) (f : Site → Site) : (s.modSite k f).tick = s.tick := rfl
@[simp] theorem State.modSite_events (k : Nat) (f : Site → Site) : (s.modSite k f).events = s.events := rfl
@[simp] theorem State.modSite_timers (k : Nat) (f : Site → Site) : (s.modSite k f).timers = s.timers := rfl
@[simp] theorem State.modSite_sels (k : Nat) (f : Site → Site) : (s.modSite k f).sels = s.sels := rfl
@[simp] theorem State.modSite_cur (k : Nat) (f : Site → Site) : (s.modSite k f).cur = s.cur := rfl
@[simp] theorem State.modSite_heldSteps (k : Nat) (f : Site → Site) : (s.modSite k f).heldSteps = s.heldSteps := rfl
@[simp] theorem State.modSite_threads (k : Nat) (f : Site → Site) : (s.modSite k f).threads = s.threads := rfl
@[simp] theorem State.modSite_cores (k : Nat) (f : Site → Site) : (s.modSite k f).cores = s.cores := rfl
@[simp] theorem State.modSite_windows (k : Nat) (f : Site → Site) : (s.modSite k f).windows = s.windows := rfl
@[simp] theorem State.modSite_tcm (k : Nat) (f : Site → Site) : (s.modSite k f).tcm = s.tcm := rfl
@[simp] theorem State.modSite_deck (k : Nat) (f : Site → Site) : (s.modSite k f).deck = s.deck := rfl
@[simp] theorem State.modSite_deckEpoch (k : Nat) (f : Site → Site) : (s.modSite k f).deckEpoch = s.deckEpoch := rfl
@[simp] theorem State.modSite_deckErrors (k : Nat) (f : Site → Site) : (s.modSite k f).deckErrors = s.deckErrors := rfl
@[simp] theorem State.modSite_deckSoft (k : Nat) (f : Site → Site) : (s.modSite k f).deckSoft = s.deckSoft := rfl
@[simp] theorem State.modSite_corrections (k : Nat) (f : Site → Site) : (s.modSite k f).corrections = s.corrections := rfl
@[simp] theorem State.modSite_epochs (k : Nat) (f : Site → Site) : (s.modSite k f).epochs = s.epochs := rfl
@[simp] theorem State.modSite_banks (k : Nat) (f : Site → Site) : (s.modSite k f).banks = s.banks := rfl
@[simp] theorem State.modSite_asks (k : Nat) (f : Site → Site) : (s.modSite k f).asks = s.asks := rfl
@[simp] theorem State.modSite_mem (k : Nat) (f : Site → Site) : (s.modSite k f).mem = s.mem := rfl
@[simp] theorem State.modSite_blocks (k : Nat) (f : Site → Site) : (s.modSite k f).blocks = s.blocks := rfl
@[simp] theorem State.modSite_reqs (k : Nat) (f : Site → Site) : (s.modSite k f).reqs = s.reqs := rfl
@[simp] theorem State.modSite_nextReq (k : Nat) (f : Site → Site) : (s.modSite k f).nextReq = s.nextReq := rfl
@[simp] theorem State.modSite_copies (k : Nat) (f : Site → Site) : (s.modSite k f).copies = s.copies := rfl
@[simp] theorem State.modSite_nextCopy (k : Nat) (f : Site → Site) : (s.modSite k f).nextCopy = s.nextCopy := rfl
@[simp] theorem State.modSite_nextOp (k : Nat) (f : Site → Site) : (s.modSite k f).nextOp = s.nextOp := rfl
@[simp] theorem State.modSite_flight (k : Nat) (f : Site → Site) : (s.modSite k f).flight = s.flight := rfl
@[simp] theorem State.modSite_netRoom (k : Nat) (f : Site → Site) : (s.modSite k f).netRoom = s.netRoom := rfl
@[simp] theorem State.modSite_cache (k : Nat) (f : Site → Site) : (s.modSite k f).cache = s.cache := rfl
@[simp] theorem State.modSite_hostSectors (k : Nat) (f : Site → Site) : (s.modSite k f).hostSectors = s.hostSectors := rfl
@[simp] theorem State.modSite_sectorDir (k : Nat) (f : Site → Site) : (s.modSite k f).sectorDir = s.sectorDir := rfl
@[simp] theorem State.modSite_lineVersion (k : Nat) (f : Site → Site) : (s.modSite k f).lineVersion = s.lineVersion := rfl
@[simp] theorem State.modSite_homeLine (k : Nat) (f : Site → Site) : (s.modSite k f).homeLine = s.homeLine := rfl
@[simp] theorem State.modSite_writeBacks (k : Nat) (f : Site → Site) : (s.modSite k f).writeBacks = s.writeBacks := rfl
@[simp] theorem State.modSite_nextWb (k : Nat) (f : Site → Site) : (s.modSite k f).nextWb = s.nextWb := rfl
@[simp] theorem State.modSite_spanNet (k : Nat) (f : Site → Site) : (s.modSite k f).spanNet = s.spanNet := rfl
@[simp] theorem State.modSite_engineAsked (k : Nat) (f : Site → Site) : (s.modSite k f).engineAsked = s.engineAsked := rfl
@[simp] theorem State.modSite_hostRecalls (k : Nat) (f : Site → Site) : (s.modSite k f).hostRecalls = s.hostRecalls := rfl
@[simp] theorem State.modSite_l1 (k : Nat) (f : Site → Site) : (s.modSite k f).l1 = s.l1 := rfl
@[simp] theorem State.modSite_lltlb (k : Nat) (f : Site → Site) : (s.modSite k f).lltlb = s.lltlb := rfl
@[simp] theorem State.modSite_misses (k : Nat) (f : Site → Site) : (s.modSite k f).misses = s.misses := rfl
@[simp] theorem State.modSite_roots (k : Nat) (f : Site → Site) : (s.modSite k f).roots = s.roots := rfl
@[simp] theorem State.modSite_channels (k : Nat) (f : Site → Site) : (s.modSite k f).channels = s.channels := rfl
@[simp] theorem State.modSite_mapped (k : Nat) (f : Site → Site) : (s.modSite k f).mapped = s.mapped := rfl
@[simp] theorem State.modSite_pool (k : Nat) (f : Site → Site) : (s.modSite k f).pool = s.pool := rfl
@[simp] theorem State.modSite_poolUsed (k : Nat) (f : Site → Site) : (s.modSite k f).poolUsed = s.poolUsed := rfl
@[simp] theorem State.modSite_poolWait (k : Nat) (f : Site → Site) : (s.modSite k f).poolWait = s.poolWait := rfl
@[simp] theorem State.modSite_qwait (k : Nat) (f : Site → Site) : (s.modSite k f).qwait = s.qwait := rfl
@[simp] theorem State.modSite_turns (k : Nat) (f : Site → Site) : (s.modSite k f).turns = s.turns := rfl
@[simp] theorem State.modSite_parkedTicks (k : Nat) (f : Site → Site) : (s.modSite k f).parkedTicks = s.parkedTicks := rfl
@[simp] theorem State.modSite_parkedNow (k : Nat) (f : Site → Site) : (s.modSite k f).parkedNow = s.parkedNow := rfl
@[simp] theorem State.modSite_rowWaits (k : Nat) (f : Site → Site) : (s.modSite k f).rowWaits = s.rowWaits := rfl
@[simp] theorem State.modSite_ringDirty (k : Nat) (f : Site → Site) : (s.modSite k f).ringDirty = s.ringDirty := rfl
@[simp] theorem State.modSite_overflowSize (k : Nat) (f : Site → Site) : (s.modSite k f).overflowSize = s.overflowSize := rfl
@[simp] theorem State.modSite_health (k : Nat) (f : Site → Site) : (s.modSite k f).health = s.health := rfl
@[simp] theorem State.modSite_journal (k : Nat) (f : Site → Site) : (s.modSite k f).journal = s.journal := rfl
@[simp] theorem State.modSite_journalSize (k : Nat) (f : Site → Site) : (s.modSite k f).journalSize = s.journalSize := rfl
@[simp] theorem State.modSite_journalUsed (k : Nat) (f : Site → Site) : (s.modSite k f).journalUsed = s.journalUsed := rfl
@[simp] theorem State.modSite_journalWait (k : Nat) (f : Site → Site) : (s.modSite k f).journalWait = s.journalWait := rfl
@[simp] theorem State.modSite_journalCopy (k : Nat) (f : Site → Site) : (s.modSite k f).journalCopy = s.journalCopy := rfl
@[simp] theorem State.modSite_saveSize (k : Nat) (f : Site → Site) : (s.modSite k f).saveSize = s.saveSize := rfl
@[simp] theorem State.modSite_saveUsed (k : Nat) (f : Site → Site) : (s.modSite k f).saveUsed = s.saveUsed := rfl
@[simp] theorem State.modSite_launches (k : Nat) (f : Site → Site) : (s.modSite k f).launches = s.launches := rfl
@[simp] theorem State.modSite_nextLaunch (k : Nat) (f : Site → Site) : (s.modSite k f).nextLaunch = s.nextLaunch := rfl
@[simp] theorem State.modSite_crews (k : Nat) (f : Site → Site) : (s.modSite k f).crews = s.crews := rfl
@[simp] theorem State.modSite_nextCrew (k : Nat) (f : Site → Site) : (s.modSite k f).nextCrew = s.nextCrew := rfl
@[simp] theorem State.modSite_notices (k : Nat) (f : Site → Site) : (s.modSite k f).notices = s.notices := rfl
@[simp] theorem State.modSite_remoteStages (k : Nat) (f : Site → Site) : (s.modSite k f).remoteStages = s.remoteStages := rfl
@[simp] theorem State.modSite_queues (k : Nat) (f : Site → Site) : (s.modSite k f).queues = s.queues := rfl
@[simp] theorem State.modSite_cps (k : Nat) (f : Site → Site) : (s.modSite k f).cps = s.cps := rfl
@[simp] theorem State.modSite_strainLimit (k : Nat) (f : Site → Site) : (s.modSite k f).strainLimit = s.strainLimit := rfl
@[simp] theorem State.modSite_asides (k : Nat) (f : Site → Site) : (s.modSite k f).asides = s.asides := rfl
@[simp] theorem State.modSite_ifaces (k : Nat) (f : Site → Site) : (s.modSite k f).ifaces = s.ifaces := rfl
@[simp] theorem State.modSite_hostReplies (k : Nat) (f : Site → Site) : (s.modSite k f).hostReplies = s.hostReplies := rfl
@[simp] theorem State.modSite_hostQueue (k : Nat) (f : Site → Site) : (s.modSite k f).hostQueue = s.hostQueue := rfl
@[simp] theorem State.modSite_ports (k : Nat) (f : Site → Site) : (s.modSite k f).ports = s.ports := rfl
@[simp] theorem State.modSite_routes (k : Nat) (f : Site → Site) : (s.modSite k f).routes = s.routes := rfl
@[simp] theorem State.modSite_pendingRoutes (k : Nat) (f : Site → Site) : (s.modSite k f).pendingRoutes = s.pendingRoutes := rfl
@[simp] theorem State.modSite_gone (k : Nat) (f : Site → Site) : (s.modSite k f).gone = s.gone := rfl
@[simp] theorem State.modSite_keys (k : Nat) (f : Site → Site) : (s.modSite k f).keys = s.keys := rfl
@[simp] theorem State.modSite_ks (k : Nat) (f : Site → Site) : (s.modSite k f).ks = s.ks := rfl
@[simp] theorem State.modSite_k1 (k : Nat) (f : Site → Site) : (s.modSite k f).k1 = s.k1 := rfl
@[simp] theorem State.modSite_k2 (k : Nat) (f : Site → Site) : (s.modSite k f).k2 = s.k2 := rfl
@[simp] theorem State.modSite_resets (k : Nat) (f : Site → Site) : (s.modSite k f).resets = s.resets := rfl
@[simp] theorem State.modSite_meas (k : Nat) (f : Site → Site) : (s.modSite k f).meas = s.meas := rfl
@[simp] theorem State.modSite_secVersions (k : Nat) (f : Site → Site) : (s.modSite k f).secVersions = s.secVersions := rfl
@[simp] theorem State.modSite_config (k : Nat) (f : Site → Site) : (s.modSite k f).config = s.config := rfl
@[simp] theorem State.modSite_active (k : Nat) (f : Site → Site) : (s.modSite k f).active = s.active := rfl
@[simp] theorem State.modSite_attestations (k : Nat) (f : Site → Site) : (s.modSite k f).attestations = s.attestations := rfl
@[simp] theorem State.modSite_dev (k : Nat) (f : Site → Site) : (s.modSite k f).dev = s.dev := rfl
@[simp] theorem State.modSite_cxl (k : Nat) (f : Site → Site) : (s.modSite k f).cxl = s.cxl := rfl
@[simp] theorem State.modSite_checkpointTo (k : Nat) (f : Site → Site) : (s.modSite k f).checkpointTo = s.checkpointTo := rfl
@[simp] theorem State.modSite_bootStopped (k : Nat) (f : Site → Site) : (s.modSite k f).bootStopped = s.bootStopped := rfl
@[simp] theorem State.modSite_refuge (k : Nat) (f : Site → Site) : (s.modSite k f).refuge = s.refuge := rfl
@[simp] theorem State.modSite_power (k : Nat) (f : Site → Site) : (s.modSite k f).power = s.power := rfl
@[simp] theorem State.modSite_powerLimit (k : Nat) (f : Site → Site) : (s.modSite k f).powerLimit = s.powerLimit := rfl

/-! ### `emit` -/

@[simp] theorem State.emit_tick (i : Instr) : (s.emit i).tick = s.tick := rfl
@[simp] theorem State.emit_timers (i : Instr) : (s.emit i).timers = s.timers := rfl
@[simp] theorem State.emit_sels (i : Instr) : (s.emit i).sels = s.sels := rfl
@[simp] theorem State.emit_cur (i : Instr) : (s.emit i).cur = s.cur := rfl
@[simp] theorem State.emit_heldSteps (i : Instr) : (s.emit i).heldSteps = s.heldSteps := rfl
@[simp] theorem State.emit_threads (i : Instr) : (s.emit i).threads = s.threads := rfl
@[simp] theorem State.emit_cores (i : Instr) : (s.emit i).cores = s.cores := rfl
@[simp] theorem State.emit_windows (i : Instr) : (s.emit i).windows = s.windows := rfl
@[simp] theorem State.emit_tcm (i : Instr) : (s.emit i).tcm = s.tcm := rfl
@[simp] theorem State.emit_deck (i : Instr) : (s.emit i).deck = s.deck := rfl
@[simp] theorem State.emit_deckEpoch (i : Instr) : (s.emit i).deckEpoch = s.deckEpoch := rfl
@[simp] theorem State.emit_deckErrors (i : Instr) : (s.emit i).deckErrors = s.deckErrors := rfl
@[simp] theorem State.emit_deckSoft (i : Instr) : (s.emit i).deckSoft = s.deckSoft := rfl
@[simp] theorem State.emit_corrections (i : Instr) : (s.emit i).corrections = s.corrections := rfl
@[simp] theorem State.emit_epochs (i : Instr) : (s.emit i).epochs = s.epochs := rfl
@[simp] theorem State.emit_banks (i : Instr) : (s.emit i).banks = s.banks := rfl
@[simp] theorem State.emit_asks (i : Instr) : (s.emit i).asks = s.asks := rfl
@[simp] theorem State.emit_mem (i : Instr) : (s.emit i).mem = s.mem := rfl
@[simp] theorem State.emit_blocks (i : Instr) : (s.emit i).blocks = s.blocks := rfl
@[simp] theorem State.emit_reqs (i : Instr) : (s.emit i).reqs = s.reqs := rfl
@[simp] theorem State.emit_nextReq (i : Instr) : (s.emit i).nextReq = s.nextReq := rfl
@[simp] theorem State.emit_copies (i : Instr) : (s.emit i).copies = s.copies := rfl
@[simp] theorem State.emit_nextCopy (i : Instr) : (s.emit i).nextCopy = s.nextCopy := rfl
@[simp] theorem State.emit_nextOp (i : Instr) : (s.emit i).nextOp = s.nextOp := rfl
@[simp] theorem State.emit_flight (i : Instr) : (s.emit i).flight = s.flight := rfl
@[simp] theorem State.emit_netRoom (i : Instr) : (s.emit i).netRoom = s.netRoom := rfl
@[simp] theorem State.emit_cache (i : Instr) : (s.emit i).cache = s.cache := rfl
@[simp] theorem State.emit_hostSectors (i : Instr) : (s.emit i).hostSectors = s.hostSectors := rfl
@[simp] theorem State.emit_sectorDir (i : Instr) : (s.emit i).sectorDir = s.sectorDir := rfl
@[simp] theorem State.emit_lineVersion (i : Instr) : (s.emit i).lineVersion = s.lineVersion := rfl
@[simp] theorem State.emit_homeLine (i : Instr) : (s.emit i).homeLine = s.homeLine := rfl
@[simp] theorem State.emit_writeBacks (i : Instr) : (s.emit i).writeBacks = s.writeBacks := rfl
@[simp] theorem State.emit_nextWb (i : Instr) : (s.emit i).nextWb = s.nextWb := rfl
@[simp] theorem State.emit_spanNet (i : Instr) : (s.emit i).spanNet = s.spanNet := rfl
@[simp] theorem State.emit_engineAsked (i : Instr) : (s.emit i).engineAsked = s.engineAsked := rfl
@[simp] theorem State.emit_hostRecalls (i : Instr) : (s.emit i).hostRecalls = s.hostRecalls := rfl
@[simp] theorem State.emit_l1 (i : Instr) : (s.emit i).l1 = s.l1 := rfl
@[simp] theorem State.emit_lltlb (i : Instr) : (s.emit i).lltlb = s.lltlb := rfl
@[simp] theorem State.emit_misses (i : Instr) : (s.emit i).misses = s.misses := rfl
@[simp] theorem State.emit_roots (i : Instr) : (s.emit i).roots = s.roots := rfl
@[simp] theorem State.emit_channels (i : Instr) : (s.emit i).channels = s.channels := rfl
@[simp] theorem State.emit_mapped (i : Instr) : (s.emit i).mapped = s.mapped := rfl
@[simp] theorem State.emit_pool (i : Instr) : (s.emit i).pool = s.pool := rfl
@[simp] theorem State.emit_poolUsed (i : Instr) : (s.emit i).poolUsed = s.poolUsed := rfl
@[simp] theorem State.emit_poolWait (i : Instr) : (s.emit i).poolWait = s.poolWait := rfl
@[simp] theorem State.emit_qwait (i : Instr) : (s.emit i).qwait = s.qwait := rfl
@[simp] theorem State.emit_turns (i : Instr) : (s.emit i).turns = s.turns := rfl
@[simp] theorem State.emit_parkedTicks (i : Instr) : (s.emit i).parkedTicks = s.parkedTicks := rfl
@[simp] theorem State.emit_parkedNow (i : Instr) : (s.emit i).parkedNow = s.parkedNow := rfl
@[simp] theorem State.emit_rowWaits (i : Instr) : (s.emit i).rowWaits = s.rowWaits := rfl
@[simp] theorem State.emit_ringDirty (i : Instr) : (s.emit i).ringDirty = s.ringDirty := rfl
@[simp] theorem State.emit_overflowSize (i : Instr) : (s.emit i).overflowSize = s.overflowSize := rfl
@[simp] theorem State.emit_health (i : Instr) : (s.emit i).health = s.health := rfl
@[simp] theorem State.emit_journal (i : Instr) : (s.emit i).journal = s.journal := rfl
@[simp] theorem State.emit_journalSize (i : Instr) : (s.emit i).journalSize = s.journalSize := rfl
@[simp] theorem State.emit_journalUsed (i : Instr) : (s.emit i).journalUsed = s.journalUsed := rfl
@[simp] theorem State.emit_journalWait (i : Instr) : (s.emit i).journalWait = s.journalWait := rfl
@[simp] theorem State.emit_journalCopy (i : Instr) : (s.emit i).journalCopy = s.journalCopy := rfl
@[simp] theorem State.emit_saveSize (i : Instr) : (s.emit i).saveSize = s.saveSize := rfl
@[simp] theorem State.emit_saveUsed (i : Instr) : (s.emit i).saveUsed = s.saveUsed := rfl
@[simp] theorem State.emit_launches (i : Instr) : (s.emit i).launches = s.launches := rfl
@[simp] theorem State.emit_nextLaunch (i : Instr) : (s.emit i).nextLaunch = s.nextLaunch := rfl
@[simp] theorem State.emit_crews (i : Instr) : (s.emit i).crews = s.crews := rfl
@[simp] theorem State.emit_nextCrew (i : Instr) : (s.emit i).nextCrew = s.nextCrew := rfl
@[simp] theorem State.emit_notices (i : Instr) : (s.emit i).notices = s.notices := rfl
@[simp] theorem State.emit_remoteStages (i : Instr) : (s.emit i).remoteStages = s.remoteStages := rfl
@[simp] theorem State.emit_queues (i : Instr) : (s.emit i).queues = s.queues := rfl
@[simp] theorem State.emit_cps (i : Instr) : (s.emit i).cps = s.cps := rfl
@[simp] theorem State.emit_sites (i : Instr) : (s.emit i).sites = s.sites := rfl
@[simp] theorem State.emit_strainLimit (i : Instr) : (s.emit i).strainLimit = s.strainLimit := rfl
@[simp] theorem State.emit_asides (i : Instr) : (s.emit i).asides = s.asides := rfl
@[simp] theorem State.emit_ifaces (i : Instr) : (s.emit i).ifaces = s.ifaces := rfl
@[simp] theorem State.emit_hostReplies (i : Instr) : (s.emit i).hostReplies = s.hostReplies := rfl
@[simp] theorem State.emit_hostQueue (i : Instr) : (s.emit i).hostQueue = s.hostQueue := rfl
@[simp] theorem State.emit_ports (i : Instr) : (s.emit i).ports = s.ports := rfl
@[simp] theorem State.emit_routes (i : Instr) : (s.emit i).routes = s.routes := rfl
@[simp] theorem State.emit_pendingRoutes (i : Instr) : (s.emit i).pendingRoutes = s.pendingRoutes := rfl
@[simp] theorem State.emit_gone (i : Instr) : (s.emit i).gone = s.gone := rfl
@[simp] theorem State.emit_keys (i : Instr) : (s.emit i).keys = s.keys := rfl
@[simp] theorem State.emit_ks (i : Instr) : (s.emit i).ks = s.ks := rfl
@[simp] theorem State.emit_k1 (i : Instr) : (s.emit i).k1 = s.k1 := rfl
@[simp] theorem State.emit_k2 (i : Instr) : (s.emit i).k2 = s.k2 := rfl
@[simp] theorem State.emit_resets (i : Instr) : (s.emit i).resets = s.resets := rfl
@[simp] theorem State.emit_meas (i : Instr) : (s.emit i).meas = s.meas := rfl
@[simp] theorem State.emit_secVersions (i : Instr) : (s.emit i).secVersions = s.secVersions := rfl
@[simp] theorem State.emit_config (i : Instr) : (s.emit i).config = s.config := rfl
@[simp] theorem State.emit_active (i : Instr) : (s.emit i).active = s.active := rfl
@[simp] theorem State.emit_attestations (i : Instr) : (s.emit i).attestations = s.attestations := rfl
@[simp] theorem State.emit_dev (i : Instr) : (s.emit i).dev = s.dev := rfl
@[simp] theorem State.emit_cxl (i : Instr) : (s.emit i).cxl = s.cxl := rfl
@[simp] theorem State.emit_checkpointTo (i : Instr) : (s.emit i).checkpointTo = s.checkpointTo := rfl
@[simp] theorem State.emit_bootStopped (i : Instr) : (s.emit i).bootStopped = s.bootStopped := rfl
@[simp] theorem State.emit_refuge (i : Instr) : (s.emit i).refuge = s.refuge := rfl
@[simp] theorem State.emit_power (i : Instr) : (s.emit i).power = s.power := rfl
@[simp] theorem State.emit_powerLimit (i : Instr) : (s.emit i).powerLimit = s.powerLimit := rfl

/-! ### `later` -/

@[simp] theorem State.later_tick (n : Nat) (i : Instr) : (s.later n i).tick = s.tick := rfl
@[simp] theorem State.later_events (n : Nat) (i : Instr) : (s.later n i).events = s.events := rfl
@[simp] theorem State.later_sels (n : Nat) (i : Instr) : (s.later n i).sels = s.sels := rfl
@[simp] theorem State.later_cur (n : Nat) (i : Instr) : (s.later n i).cur = s.cur := rfl
@[simp] theorem State.later_heldSteps (n : Nat) (i : Instr) : (s.later n i).heldSteps = s.heldSteps := rfl
@[simp] theorem State.later_threads (n : Nat) (i : Instr) : (s.later n i).threads = s.threads := rfl
@[simp] theorem State.later_cores (n : Nat) (i : Instr) : (s.later n i).cores = s.cores := rfl
@[simp] theorem State.later_windows (n : Nat) (i : Instr) : (s.later n i).windows = s.windows := rfl
@[simp] theorem State.later_tcm (n : Nat) (i : Instr) : (s.later n i).tcm = s.tcm := rfl
@[simp] theorem State.later_deck (n : Nat) (i : Instr) : (s.later n i).deck = s.deck := rfl
@[simp] theorem State.later_deckEpoch (n : Nat) (i : Instr) : (s.later n i).deckEpoch = s.deckEpoch := rfl
@[simp] theorem State.later_deckErrors (n : Nat) (i : Instr) : (s.later n i).deckErrors = s.deckErrors := rfl
@[simp] theorem State.later_deckSoft (n : Nat) (i : Instr) : (s.later n i).deckSoft = s.deckSoft := rfl
@[simp] theorem State.later_corrections (n : Nat) (i : Instr) : (s.later n i).corrections = s.corrections := rfl
@[simp] theorem State.later_epochs (n : Nat) (i : Instr) : (s.later n i).epochs = s.epochs := rfl
@[simp] theorem State.later_banks (n : Nat) (i : Instr) : (s.later n i).banks = s.banks := rfl
@[simp] theorem State.later_asks (n : Nat) (i : Instr) : (s.later n i).asks = s.asks := rfl
@[simp] theorem State.later_mem (n : Nat) (i : Instr) : (s.later n i).mem = s.mem := rfl
@[simp] theorem State.later_blocks (n : Nat) (i : Instr) : (s.later n i).blocks = s.blocks := rfl
@[simp] theorem State.later_reqs (n : Nat) (i : Instr) : (s.later n i).reqs = s.reqs := rfl
@[simp] theorem State.later_nextReq (n : Nat) (i : Instr) : (s.later n i).nextReq = s.nextReq := rfl
@[simp] theorem State.later_copies (n : Nat) (i : Instr) : (s.later n i).copies = s.copies := rfl
@[simp] theorem State.later_nextCopy (n : Nat) (i : Instr) : (s.later n i).nextCopy = s.nextCopy := rfl
@[simp] theorem State.later_nextOp (n : Nat) (i : Instr) : (s.later n i).nextOp = s.nextOp := rfl
@[simp] theorem State.later_flight (n : Nat) (i : Instr) : (s.later n i).flight = s.flight := rfl
@[simp] theorem State.later_netRoom (n : Nat) (i : Instr) : (s.later n i).netRoom = s.netRoom := rfl
@[simp] theorem State.later_cache (n : Nat) (i : Instr) : (s.later n i).cache = s.cache := rfl
@[simp] theorem State.later_hostSectors (n : Nat) (i : Instr) : (s.later n i).hostSectors = s.hostSectors := rfl
@[simp] theorem State.later_sectorDir (n : Nat) (i : Instr) : (s.later n i).sectorDir = s.sectorDir := rfl
@[simp] theorem State.later_lineVersion (n : Nat) (i : Instr) : (s.later n i).lineVersion = s.lineVersion := rfl
@[simp] theorem State.later_homeLine (n : Nat) (i : Instr) : (s.later n i).homeLine = s.homeLine := rfl
@[simp] theorem State.later_writeBacks (n : Nat) (i : Instr) : (s.later n i).writeBacks = s.writeBacks := rfl
@[simp] theorem State.later_nextWb (n : Nat) (i : Instr) : (s.later n i).nextWb = s.nextWb := rfl
@[simp] theorem State.later_spanNet (n : Nat) (i : Instr) : (s.later n i).spanNet = s.spanNet := rfl
@[simp] theorem State.later_engineAsked (n : Nat) (i : Instr) : (s.later n i).engineAsked = s.engineAsked := rfl
@[simp] theorem State.later_hostRecalls (n : Nat) (i : Instr) : (s.later n i).hostRecalls = s.hostRecalls := rfl
@[simp] theorem State.later_l1 (n : Nat) (i : Instr) : (s.later n i).l1 = s.l1 := rfl
@[simp] theorem State.later_lltlb (n : Nat) (i : Instr) : (s.later n i).lltlb = s.lltlb := rfl
@[simp] theorem State.later_misses (n : Nat) (i : Instr) : (s.later n i).misses = s.misses := rfl
@[simp] theorem State.later_roots (n : Nat) (i : Instr) : (s.later n i).roots = s.roots := rfl
@[simp] theorem State.later_channels (n : Nat) (i : Instr) : (s.later n i).channels = s.channels := rfl
@[simp] theorem State.later_mapped (n : Nat) (i : Instr) : (s.later n i).mapped = s.mapped := rfl
@[simp] theorem State.later_pool (n : Nat) (i : Instr) : (s.later n i).pool = s.pool := rfl
@[simp] theorem State.later_poolUsed (n : Nat) (i : Instr) : (s.later n i).poolUsed = s.poolUsed := rfl
@[simp] theorem State.later_poolWait (n : Nat) (i : Instr) : (s.later n i).poolWait = s.poolWait := rfl
@[simp] theorem State.later_qwait (n : Nat) (i : Instr) : (s.later n i).qwait = s.qwait := rfl
@[simp] theorem State.later_turns (n : Nat) (i : Instr) : (s.later n i).turns = s.turns := rfl
@[simp] theorem State.later_parkedTicks (n : Nat) (i : Instr) : (s.later n i).parkedTicks = s.parkedTicks := rfl
@[simp] theorem State.later_parkedNow (n : Nat) (i : Instr) : (s.later n i).parkedNow = s.parkedNow := rfl
@[simp] theorem State.later_rowWaits (n : Nat) (i : Instr) : (s.later n i).rowWaits = s.rowWaits := rfl
@[simp] theorem State.later_ringDirty (n : Nat) (i : Instr) : (s.later n i).ringDirty = s.ringDirty := rfl
@[simp] theorem State.later_overflowSize (n : Nat) (i : Instr) : (s.later n i).overflowSize = s.overflowSize := rfl
@[simp] theorem State.later_health (n : Nat) (i : Instr) : (s.later n i).health = s.health := rfl
@[simp] theorem State.later_journal (n : Nat) (i : Instr) : (s.later n i).journal = s.journal := rfl
@[simp] theorem State.later_journalSize (n : Nat) (i : Instr) : (s.later n i).journalSize = s.journalSize := rfl
@[simp] theorem State.later_journalUsed (n : Nat) (i : Instr) : (s.later n i).journalUsed = s.journalUsed := rfl
@[simp] theorem State.later_journalWait (n : Nat) (i : Instr) : (s.later n i).journalWait = s.journalWait := rfl
@[simp] theorem State.later_journalCopy (n : Nat) (i : Instr) : (s.later n i).journalCopy = s.journalCopy := rfl
@[simp] theorem State.later_saveSize (n : Nat) (i : Instr) : (s.later n i).saveSize = s.saveSize := rfl
@[simp] theorem State.later_saveUsed (n : Nat) (i : Instr) : (s.later n i).saveUsed = s.saveUsed := rfl
@[simp] theorem State.later_launches (n : Nat) (i : Instr) : (s.later n i).launches = s.launches := rfl
@[simp] theorem State.later_nextLaunch (n : Nat) (i : Instr) : (s.later n i).nextLaunch = s.nextLaunch := rfl
@[simp] theorem State.later_crews (n : Nat) (i : Instr) : (s.later n i).crews = s.crews := rfl
@[simp] theorem State.later_nextCrew (n : Nat) (i : Instr) : (s.later n i).nextCrew = s.nextCrew := rfl
@[simp] theorem State.later_notices (n : Nat) (i : Instr) : (s.later n i).notices = s.notices := rfl
@[simp] theorem State.later_remoteStages (n : Nat) (i : Instr) : (s.later n i).remoteStages = s.remoteStages := rfl
@[simp] theorem State.later_queues (n : Nat) (i : Instr) : (s.later n i).queues = s.queues := rfl
@[simp] theorem State.later_cps (n : Nat) (i : Instr) : (s.later n i).cps = s.cps := rfl
@[simp] theorem State.later_sites (n : Nat) (i : Instr) : (s.later n i).sites = s.sites := rfl
@[simp] theorem State.later_strainLimit (n : Nat) (i : Instr) : (s.later n i).strainLimit = s.strainLimit := rfl
@[simp] theorem State.later_asides (n : Nat) (i : Instr) : (s.later n i).asides = s.asides := rfl
@[simp] theorem State.later_ifaces (n : Nat) (i : Instr) : (s.later n i).ifaces = s.ifaces := rfl
@[simp] theorem State.later_hostReplies (n : Nat) (i : Instr) : (s.later n i).hostReplies = s.hostReplies := rfl
@[simp] theorem State.later_hostQueue (n : Nat) (i : Instr) : (s.later n i).hostQueue = s.hostQueue := rfl
@[simp] theorem State.later_ports (n : Nat) (i : Instr) : (s.later n i).ports = s.ports := rfl
@[simp] theorem State.later_routes (n : Nat) (i : Instr) : (s.later n i).routes = s.routes := rfl
@[simp] theorem State.later_pendingRoutes (n : Nat) (i : Instr) : (s.later n i).pendingRoutes = s.pendingRoutes := rfl
@[simp] theorem State.later_gone (n : Nat) (i : Instr) : (s.later n i).gone = s.gone := rfl
@[simp] theorem State.later_keys (n : Nat) (i : Instr) : (s.later n i).keys = s.keys := rfl
@[simp] theorem State.later_ks (n : Nat) (i : Instr) : (s.later n i).ks = s.ks := rfl
@[simp] theorem State.later_k1 (n : Nat) (i : Instr) : (s.later n i).k1 = s.k1 := rfl
@[simp] theorem State.later_k2 (n : Nat) (i : Instr) : (s.later n i).k2 = s.k2 := rfl
@[simp] theorem State.later_resets (n : Nat) (i : Instr) : (s.later n i).resets = s.resets := rfl
@[simp] theorem State.later_meas (n : Nat) (i : Instr) : (s.later n i).meas = s.meas := rfl
@[simp] theorem State.later_secVersions (n : Nat) (i : Instr) : (s.later n i).secVersions = s.secVersions := rfl
@[simp] theorem State.later_config (n : Nat) (i : Instr) : (s.later n i).config = s.config := rfl
@[simp] theorem State.later_active (n : Nat) (i : Instr) : (s.later n i).active = s.active := rfl
@[simp] theorem State.later_attestations (n : Nat) (i : Instr) : (s.later n i).attestations = s.attestations := rfl
@[simp] theorem State.later_dev (n : Nat) (i : Instr) : (s.later n i).dev = s.dev := rfl
@[simp] theorem State.later_cxl (n : Nat) (i : Instr) : (s.later n i).cxl = s.cxl := rfl
@[simp] theorem State.later_checkpointTo (n : Nat) (i : Instr) : (s.later n i).checkpointTo = s.checkpointTo := rfl
@[simp] theorem State.later_bootStopped (n : Nat) (i : Instr) : (s.later n i).bootStopped = s.bootStopped := rfl
@[simp] theorem State.later_refuge (n : Nat) (i : Instr) : (s.later n i).refuge = s.refuge := rfl
@[simp] theorem State.later_power (n : Nat) (i : Instr) : (s.later n i).power = s.power := rfl
@[simp] theorem State.later_powerLimit (n : Nat) (i : Instr) : (s.later n i).powerLimit = s.powerLimit := rfl

/-! ### `memWrite` -/

@[simp] theorem State.memWrite_tick (a : Nat) (bs : List Byte) : (s.memWrite a bs).tick = s.tick := rfl
@[simp] theorem State.memWrite_events (a : Nat) (bs : List Byte) : (s.memWrite a bs).events = s.events := rfl
@[simp] theorem State.memWrite_timers (a : Nat) (bs : List Byte) : (s.memWrite a bs).timers = s.timers := rfl
@[simp] theorem State.memWrite_sels (a : Nat) (bs : List Byte) : (s.memWrite a bs).sels = s.sels := rfl
@[simp] theorem State.memWrite_cur (a : Nat) (bs : List Byte) : (s.memWrite a bs).cur = s.cur := rfl
@[simp] theorem State.memWrite_heldSteps (a : Nat) (bs : List Byte) : (s.memWrite a bs).heldSteps = s.heldSteps := rfl
@[simp] theorem State.memWrite_threads (a : Nat) (bs : List Byte) : (s.memWrite a bs).threads = s.threads := rfl
@[simp] theorem State.memWrite_cores (a : Nat) (bs : List Byte) : (s.memWrite a bs).cores = s.cores := rfl
@[simp] theorem State.memWrite_windows (a : Nat) (bs : List Byte) : (s.memWrite a bs).windows = s.windows := rfl
@[simp] theorem State.memWrite_tcm (a : Nat) (bs : List Byte) : (s.memWrite a bs).tcm = s.tcm := rfl
@[simp] theorem State.memWrite_deck (a : Nat) (bs : List Byte) : (s.memWrite a bs).deck = s.deck := rfl
@[simp] theorem State.memWrite_deckEpoch (a : Nat) (bs : List Byte) : (s.memWrite a bs).deckEpoch = s.deckEpoch := rfl
@[simp] theorem State.memWrite_deckErrors (a : Nat) (bs : List Byte) : (s.memWrite a bs).deckErrors = s.deckErrors := rfl
@[simp] theorem State.memWrite_deckSoft (a : Nat) (bs : List Byte) : (s.memWrite a bs).deckSoft = s.deckSoft := rfl
@[simp] theorem State.memWrite_corrections (a : Nat) (bs : List Byte) : (s.memWrite a bs).corrections = s.corrections := rfl
@[simp] theorem State.memWrite_epochs (a : Nat) (bs : List Byte) : (s.memWrite a bs).epochs = s.epochs := rfl
@[simp] theorem State.memWrite_banks (a : Nat) (bs : List Byte) : (s.memWrite a bs).banks = s.banks := rfl
@[simp] theorem State.memWrite_asks (a : Nat) (bs : List Byte) : (s.memWrite a bs).asks = s.asks := rfl
@[simp] theorem State.memWrite_blocks (a : Nat) (bs : List Byte) : (s.memWrite a bs).blocks = s.blocks := rfl
@[simp] theorem State.memWrite_reqs (a : Nat) (bs : List Byte) : (s.memWrite a bs).reqs = s.reqs := rfl
@[simp] theorem State.memWrite_nextReq (a : Nat) (bs : List Byte) : (s.memWrite a bs).nextReq = s.nextReq := rfl
@[simp] theorem State.memWrite_copies (a : Nat) (bs : List Byte) : (s.memWrite a bs).copies = s.copies := rfl
@[simp] theorem State.memWrite_nextCopy (a : Nat) (bs : List Byte) : (s.memWrite a bs).nextCopy = s.nextCopy := rfl
@[simp] theorem State.memWrite_nextOp (a : Nat) (bs : List Byte) : (s.memWrite a bs).nextOp = s.nextOp := rfl
@[simp] theorem State.memWrite_flight (a : Nat) (bs : List Byte) : (s.memWrite a bs).flight = s.flight := rfl
@[simp] theorem State.memWrite_netRoom (a : Nat) (bs : List Byte) : (s.memWrite a bs).netRoom = s.netRoom := rfl
@[simp] theorem State.memWrite_cache (a : Nat) (bs : List Byte) : (s.memWrite a bs).cache = s.cache := rfl
@[simp] theorem State.memWrite_hostSectors (a : Nat) (bs : List Byte) : (s.memWrite a bs).hostSectors = s.hostSectors := rfl
@[simp] theorem State.memWrite_sectorDir (a : Nat) (bs : List Byte) : (s.memWrite a bs).sectorDir = s.sectorDir := rfl
@[simp] theorem State.memWrite_lineVersion (a : Nat) (bs : List Byte) : (s.memWrite a bs).lineVersion = s.lineVersion := rfl
@[simp] theorem State.memWrite_homeLine (a : Nat) (bs : List Byte) : (s.memWrite a bs).homeLine = s.homeLine := rfl
@[simp] theorem State.memWrite_writeBacks (a : Nat) (bs : List Byte) : (s.memWrite a bs).writeBacks = s.writeBacks := rfl
@[simp] theorem State.memWrite_nextWb (a : Nat) (bs : List Byte) : (s.memWrite a bs).nextWb = s.nextWb := rfl
@[simp] theorem State.memWrite_spanNet (a : Nat) (bs : List Byte) : (s.memWrite a bs).spanNet = s.spanNet := rfl
@[simp] theorem State.memWrite_engineAsked (a : Nat) (bs : List Byte) : (s.memWrite a bs).engineAsked = s.engineAsked := rfl
@[simp] theorem State.memWrite_hostRecalls (a : Nat) (bs : List Byte) : (s.memWrite a bs).hostRecalls = s.hostRecalls := rfl
@[simp] theorem State.memWrite_l1 (a : Nat) (bs : List Byte) : (s.memWrite a bs).l1 = s.l1 := rfl
@[simp] theorem State.memWrite_lltlb (a : Nat) (bs : List Byte) : (s.memWrite a bs).lltlb = s.lltlb := rfl
@[simp] theorem State.memWrite_misses (a : Nat) (bs : List Byte) : (s.memWrite a bs).misses = s.misses := rfl
@[simp] theorem State.memWrite_roots (a : Nat) (bs : List Byte) : (s.memWrite a bs).roots = s.roots := rfl
@[simp] theorem State.memWrite_channels (a : Nat) (bs : List Byte) : (s.memWrite a bs).channels = s.channels := rfl
@[simp] theorem State.memWrite_mapped (a : Nat) (bs : List Byte) : (s.memWrite a bs).mapped = s.mapped := rfl
@[simp] theorem State.memWrite_pool (a : Nat) (bs : List Byte) : (s.memWrite a bs).pool = s.pool := rfl
@[simp] theorem State.memWrite_poolUsed (a : Nat) (bs : List Byte) : (s.memWrite a bs).poolUsed = s.poolUsed := rfl
@[simp] theorem State.memWrite_poolWait (a : Nat) (bs : List Byte) : (s.memWrite a bs).poolWait = s.poolWait := rfl
@[simp] theorem State.memWrite_qwait (a : Nat) (bs : List Byte) : (s.memWrite a bs).qwait = s.qwait := rfl
@[simp] theorem State.memWrite_turns (a : Nat) (bs : List Byte) : (s.memWrite a bs).turns = s.turns := rfl
@[simp] theorem State.memWrite_parkedTicks (a : Nat) (bs : List Byte) : (s.memWrite a bs).parkedTicks = s.parkedTicks := rfl
@[simp] theorem State.memWrite_parkedNow (a : Nat) (bs : List Byte) : (s.memWrite a bs).parkedNow = s.parkedNow := rfl
@[simp] theorem State.memWrite_rowWaits (a : Nat) (bs : List Byte) : (s.memWrite a bs).rowWaits = s.rowWaits := rfl
@[simp] theorem State.memWrite_ringDirty (a : Nat) (bs : List Byte) : (s.memWrite a bs).ringDirty = s.ringDirty := rfl
@[simp] theorem State.memWrite_overflowSize (a : Nat) (bs : List Byte) : (s.memWrite a bs).overflowSize = s.overflowSize := rfl
@[simp] theorem State.memWrite_health (a : Nat) (bs : List Byte) : (s.memWrite a bs).health = s.health := rfl
@[simp] theorem State.memWrite_journal (a : Nat) (bs : List Byte) : (s.memWrite a bs).journal = s.journal := rfl
@[simp] theorem State.memWrite_journalSize (a : Nat) (bs : List Byte) : (s.memWrite a bs).journalSize = s.journalSize := rfl
@[simp] theorem State.memWrite_journalUsed (a : Nat) (bs : List Byte) : (s.memWrite a bs).journalUsed = s.journalUsed := rfl
@[simp] theorem State.memWrite_journalWait (a : Nat) (bs : List Byte) : (s.memWrite a bs).journalWait = s.journalWait := rfl
@[simp] theorem State.memWrite_journalCopy (a : Nat) (bs : List Byte) : (s.memWrite a bs).journalCopy = s.journalCopy := rfl
@[simp] theorem State.memWrite_saveSize (a : Nat) (bs : List Byte) : (s.memWrite a bs).saveSize = s.saveSize := rfl
@[simp] theorem State.memWrite_saveUsed (a : Nat) (bs : List Byte) : (s.memWrite a bs).saveUsed = s.saveUsed := rfl
@[simp] theorem State.memWrite_launches (a : Nat) (bs : List Byte) : (s.memWrite a bs).launches = s.launches := rfl
@[simp] theorem State.memWrite_nextLaunch (a : Nat) (bs : List Byte) : (s.memWrite a bs).nextLaunch = s.nextLaunch := rfl
@[simp] theorem State.memWrite_crews (a : Nat) (bs : List Byte) : (s.memWrite a bs).crews = s.crews := rfl
@[simp] theorem State.memWrite_nextCrew (a : Nat) (bs : List Byte) : (s.memWrite a bs).nextCrew = s.nextCrew := rfl
@[simp] theorem State.memWrite_notices (a : Nat) (bs : List Byte) : (s.memWrite a bs).notices = s.notices := rfl
@[simp] theorem State.memWrite_remoteStages (a : Nat) (bs : List Byte) : (s.memWrite a bs).remoteStages = s.remoteStages := rfl
@[simp] theorem State.memWrite_queues (a : Nat) (bs : List Byte) : (s.memWrite a bs).queues = s.queues := rfl
@[simp] theorem State.memWrite_cps (a : Nat) (bs : List Byte) : (s.memWrite a bs).cps = s.cps := rfl
@[simp] theorem State.memWrite_sites (a : Nat) (bs : List Byte) : (s.memWrite a bs).sites = s.sites := rfl
@[simp] theorem State.memWrite_strainLimit (a : Nat) (bs : List Byte) : (s.memWrite a bs).strainLimit = s.strainLimit := rfl
@[simp] theorem State.memWrite_asides (a : Nat) (bs : List Byte) : (s.memWrite a bs).asides = s.asides := rfl
@[simp] theorem State.memWrite_ifaces (a : Nat) (bs : List Byte) : (s.memWrite a bs).ifaces = s.ifaces := rfl
@[simp] theorem State.memWrite_hostReplies (a : Nat) (bs : List Byte) : (s.memWrite a bs).hostReplies = s.hostReplies := rfl
@[simp] theorem State.memWrite_hostQueue (a : Nat) (bs : List Byte) : (s.memWrite a bs).hostQueue = s.hostQueue := rfl
@[simp] theorem State.memWrite_ports (a : Nat) (bs : List Byte) : (s.memWrite a bs).ports = s.ports := rfl
@[simp] theorem State.memWrite_routes (a : Nat) (bs : List Byte) : (s.memWrite a bs).routes = s.routes := rfl
@[simp] theorem State.memWrite_pendingRoutes (a : Nat) (bs : List Byte) : (s.memWrite a bs).pendingRoutes = s.pendingRoutes := rfl
@[simp] theorem State.memWrite_gone (a : Nat) (bs : List Byte) : (s.memWrite a bs).gone = s.gone := rfl
@[simp] theorem State.memWrite_keys (a : Nat) (bs : List Byte) : (s.memWrite a bs).keys = s.keys := rfl
@[simp] theorem State.memWrite_ks (a : Nat) (bs : List Byte) : (s.memWrite a bs).ks = s.ks := rfl
@[simp] theorem State.memWrite_k1 (a : Nat) (bs : List Byte) : (s.memWrite a bs).k1 = s.k1 := rfl
@[simp] theorem State.memWrite_k2 (a : Nat) (bs : List Byte) : (s.memWrite a bs).k2 = s.k2 := rfl
@[simp] theorem State.memWrite_resets (a : Nat) (bs : List Byte) : (s.memWrite a bs).resets = s.resets := rfl
@[simp] theorem State.memWrite_meas (a : Nat) (bs : List Byte) : (s.memWrite a bs).meas = s.meas := rfl
@[simp] theorem State.memWrite_secVersions (a : Nat) (bs : List Byte) : (s.memWrite a bs).secVersions = s.secVersions := rfl
@[simp] theorem State.memWrite_config (a : Nat) (bs : List Byte) : (s.memWrite a bs).config = s.config := rfl
@[simp] theorem State.memWrite_active (a : Nat) (bs : List Byte) : (s.memWrite a bs).active = s.active := rfl
@[simp] theorem State.memWrite_attestations (a : Nat) (bs : List Byte) : (s.memWrite a bs).attestations = s.attestations := rfl
@[simp] theorem State.memWrite_dev (a : Nat) (bs : List Byte) : (s.memWrite a bs).dev = s.dev := rfl
@[simp] theorem State.memWrite_cxl (a : Nat) (bs : List Byte) : (s.memWrite a bs).cxl = s.cxl := rfl
@[simp] theorem State.memWrite_checkpointTo (a : Nat) (bs : List Byte) : (s.memWrite a bs).checkpointTo = s.checkpointTo := rfl
@[simp] theorem State.memWrite_bootStopped (a : Nat) (bs : List Byte) : (s.memWrite a bs).bootStopped = s.bootStopped := rfl
@[simp] theorem State.memWrite_refuge (a : Nat) (bs : List Byte) : (s.memWrite a bs).refuge = s.refuge := rfl
@[simp] theorem State.memWrite_power (a : Nat) (bs : List Byte) : (s.memWrite a bs).power = s.power := rfl
@[simp] theorem State.memWrite_powerLimit (a : Nat) (bs : List Byte) : (s.memWrite a bs).powerLimit = s.powerLimit := rfl

/-! ### `tcmWrite` -/

@[simp] theorem State.tcmWrite_tick (c a : Nat) (bs : List Byte) : (s.tcmWrite c a bs).tick = s.tick := rfl
@[simp] theorem State.tcmWrite_events (c a : Nat) (bs : List Byte) : (s.tcmWrite c a bs).events = s.events := rfl
@[simp] theorem State.tcmWrite_timers (c a : Nat) (bs : List Byte) : (s.tcmWrite c a bs).timers = s.timers := rfl
@[simp] theorem State.tcmWrite_sels (c a : Nat) (bs : List Byte) : (s.tcmWrite c a bs).sels = s.sels := rfl
@[simp] theorem State.tcmWrite_cur (c a : Nat) (bs : List Byte) : (s.tcmWrite c a bs).cur = s.cur := rfl
@[simp] theorem State.tcmWrite_heldSteps (c a : Nat) (bs : List Byte) : (s.tcmWrite c a bs).heldSteps = s.heldSteps := rfl
@[simp] theorem State.tcmWrite_threads (c a : Nat) (bs : List Byte) : (s.tcmWrite c a bs).threads = s.threads := rfl
@[simp] theorem State.tcmWrite_cores (c a : Nat) (bs : List Byte) : (s.tcmWrite c a bs).cores = s.cores := rfl
@[simp] theorem State.tcmWrite_windows (c a : Nat) (bs : List Byte) : (s.tcmWrite c a bs).windows = s.windows := rfl
@[simp] theorem State.tcmWrite_deck (c a : Nat) (bs : List Byte) : (s.tcmWrite c a bs).deck = s.deck := rfl
@[simp] theorem State.tcmWrite_deckEpoch (c a : Nat) (bs : List Byte) : (s.tcmWrite c a bs).deckEpoch = s.deckEpoch := rfl
@[simp] theorem State.tcmWrite_deckErrors (c a : Nat) (bs : List Byte) : (s.tcmWrite c a bs).deckErrors = s.deckErrors := rfl
@[simp] theorem State.tcmWrite_deckSoft (c a : Nat) (bs : List Byte) : (s.tcmWrite c a bs).deckSoft = s.deckSoft := rfl
@[simp] theorem State.tcmWrite_corrections (c a : Nat) (bs : List Byte) : (s.tcmWrite c a bs).corrections = s.corrections := rfl
@[simp] theorem State.tcmWrite_epochs (c a : Nat) (bs : List Byte) : (s.tcmWrite c a bs).epochs = s.epochs := rfl
@[simp] theorem State.tcmWrite_banks (c a : Nat) (bs : List Byte) : (s.tcmWrite c a bs).banks = s.banks := rfl
@[simp] theorem State.tcmWrite_asks (c a : Nat) (bs : List Byte) : (s.tcmWrite c a bs).asks = s.asks := rfl
@[simp] theorem State.tcmWrite_mem (c a : Nat) (bs : List Byte) : (s.tcmWrite c a bs).mem = s.mem := rfl
@[simp] theorem State.tcmWrite_blocks (c a : Nat) (bs : List Byte) : (s.tcmWrite c a bs).blocks = s.blocks := rfl
@[simp] theorem State.tcmWrite_reqs (c a : Nat) (bs : List Byte) : (s.tcmWrite c a bs).reqs = s.reqs := rfl
@[simp] theorem State.tcmWrite_nextReq (c a : Nat) (bs : List Byte) : (s.tcmWrite c a bs).nextReq = s.nextReq := rfl
@[simp] theorem State.tcmWrite_copies (c a : Nat) (bs : List Byte) : (s.tcmWrite c a bs).copies = s.copies := rfl
@[simp] theorem State.tcmWrite_nextCopy (c a : Nat) (bs : List Byte) : (s.tcmWrite c a bs).nextCopy = s.nextCopy := rfl
@[simp] theorem State.tcmWrite_nextOp (c a : Nat) (bs : List Byte) : (s.tcmWrite c a bs).nextOp = s.nextOp := rfl
@[simp] theorem State.tcmWrite_flight (c a : Nat) (bs : List Byte) : (s.tcmWrite c a bs).flight = s.flight := rfl
@[simp] theorem State.tcmWrite_netRoom (c a : Nat) (bs : List Byte) : (s.tcmWrite c a bs).netRoom = s.netRoom := rfl
@[simp] theorem State.tcmWrite_cache (c a : Nat) (bs : List Byte) : (s.tcmWrite c a bs).cache = s.cache := rfl
@[simp] theorem State.tcmWrite_hostSectors (c a : Nat) (bs : List Byte) : (s.tcmWrite c a bs).hostSectors = s.hostSectors := rfl
@[simp] theorem State.tcmWrite_sectorDir (c a : Nat) (bs : List Byte) : (s.tcmWrite c a bs).sectorDir = s.sectorDir := rfl
@[simp] theorem State.tcmWrite_lineVersion (c a : Nat) (bs : List Byte) : (s.tcmWrite c a bs).lineVersion = s.lineVersion := rfl
@[simp] theorem State.tcmWrite_homeLine (c a : Nat) (bs : List Byte) : (s.tcmWrite c a bs).homeLine = s.homeLine := rfl
@[simp] theorem State.tcmWrite_writeBacks (c a : Nat) (bs : List Byte) : (s.tcmWrite c a bs).writeBacks = s.writeBacks := rfl
@[simp] theorem State.tcmWrite_nextWb (c a : Nat) (bs : List Byte) : (s.tcmWrite c a bs).nextWb = s.nextWb := rfl
@[simp] theorem State.tcmWrite_spanNet (c a : Nat) (bs : List Byte) : (s.tcmWrite c a bs).spanNet = s.spanNet := rfl
@[simp] theorem State.tcmWrite_engineAsked (c a : Nat) (bs : List Byte) : (s.tcmWrite c a bs).engineAsked = s.engineAsked := rfl
@[simp] theorem State.tcmWrite_hostRecalls (c a : Nat) (bs : List Byte) : (s.tcmWrite c a bs).hostRecalls = s.hostRecalls := rfl
@[simp] theorem State.tcmWrite_l1 (c a : Nat) (bs : List Byte) : (s.tcmWrite c a bs).l1 = s.l1 := rfl
@[simp] theorem State.tcmWrite_lltlb (c a : Nat) (bs : List Byte) : (s.tcmWrite c a bs).lltlb = s.lltlb := rfl
@[simp] theorem State.tcmWrite_misses (c a : Nat) (bs : List Byte) : (s.tcmWrite c a bs).misses = s.misses := rfl
@[simp] theorem State.tcmWrite_roots (c a : Nat) (bs : List Byte) : (s.tcmWrite c a bs).roots = s.roots := rfl
@[simp] theorem State.tcmWrite_channels (c a : Nat) (bs : List Byte) : (s.tcmWrite c a bs).channels = s.channels := rfl
@[simp] theorem State.tcmWrite_mapped (c a : Nat) (bs : List Byte) : (s.tcmWrite c a bs).mapped = s.mapped := rfl
@[simp] theorem State.tcmWrite_pool (c a : Nat) (bs : List Byte) : (s.tcmWrite c a bs).pool = s.pool := rfl
@[simp] theorem State.tcmWrite_poolUsed (c a : Nat) (bs : List Byte) : (s.tcmWrite c a bs).poolUsed = s.poolUsed := rfl
@[simp] theorem State.tcmWrite_poolWait (c a : Nat) (bs : List Byte) : (s.tcmWrite c a bs).poolWait = s.poolWait := rfl
@[simp] theorem State.tcmWrite_qwait (c a : Nat) (bs : List Byte) : (s.tcmWrite c a bs).qwait = s.qwait := rfl
@[simp] theorem State.tcmWrite_turns (c a : Nat) (bs : List Byte) : (s.tcmWrite c a bs).turns = s.turns := rfl
@[simp] theorem State.tcmWrite_parkedTicks (c a : Nat) (bs : List Byte) : (s.tcmWrite c a bs).parkedTicks = s.parkedTicks := rfl
@[simp] theorem State.tcmWrite_parkedNow (c a : Nat) (bs : List Byte) : (s.tcmWrite c a bs).parkedNow = s.parkedNow := rfl
@[simp] theorem State.tcmWrite_rowWaits (c a : Nat) (bs : List Byte) : (s.tcmWrite c a bs).rowWaits = s.rowWaits := rfl
@[simp] theorem State.tcmWrite_overflowSize (c a : Nat) (bs : List Byte) : (s.tcmWrite c a bs).overflowSize = s.overflowSize := rfl
@[simp] theorem State.tcmWrite_health (c a : Nat) (bs : List Byte) : (s.tcmWrite c a bs).health = s.health := rfl
@[simp] theorem State.tcmWrite_journal (c a : Nat) (bs : List Byte) : (s.tcmWrite c a bs).journal = s.journal := rfl
@[simp] theorem State.tcmWrite_journalSize (c a : Nat) (bs : List Byte) : (s.tcmWrite c a bs).journalSize = s.journalSize := rfl
@[simp] theorem State.tcmWrite_journalUsed (c a : Nat) (bs : List Byte) : (s.tcmWrite c a bs).journalUsed = s.journalUsed := rfl
@[simp] theorem State.tcmWrite_journalWait (c a : Nat) (bs : List Byte) : (s.tcmWrite c a bs).journalWait = s.journalWait := rfl
@[simp] theorem State.tcmWrite_journalCopy (c a : Nat) (bs : List Byte) : (s.tcmWrite c a bs).journalCopy = s.journalCopy := rfl
@[simp] theorem State.tcmWrite_saveSize (c a : Nat) (bs : List Byte) : (s.tcmWrite c a bs).saveSize = s.saveSize := rfl
@[simp] theorem State.tcmWrite_saveUsed (c a : Nat) (bs : List Byte) : (s.tcmWrite c a bs).saveUsed = s.saveUsed := rfl
@[simp] theorem State.tcmWrite_launches (c a : Nat) (bs : List Byte) : (s.tcmWrite c a bs).launches = s.launches := rfl
@[simp] theorem State.tcmWrite_nextLaunch (c a : Nat) (bs : List Byte) : (s.tcmWrite c a bs).nextLaunch = s.nextLaunch := rfl
@[simp] theorem State.tcmWrite_crews (c a : Nat) (bs : List Byte) : (s.tcmWrite c a bs).crews = s.crews := rfl
@[simp] theorem State.tcmWrite_nextCrew (c a : Nat) (bs : List Byte) : (s.tcmWrite c a bs).nextCrew = s.nextCrew := rfl
@[simp] theorem State.tcmWrite_notices (c a : Nat) (bs : List Byte) : (s.tcmWrite c a bs).notices = s.notices := rfl
@[simp] theorem State.tcmWrite_remoteStages (c a : Nat) (bs : List Byte) : (s.tcmWrite c a bs).remoteStages = s.remoteStages := rfl
@[simp] theorem State.tcmWrite_queues (c a : Nat) (bs : List Byte) : (s.tcmWrite c a bs).queues = s.queues := rfl
@[simp] theorem State.tcmWrite_cps (c a : Nat) (bs : List Byte) : (s.tcmWrite c a bs).cps = s.cps := rfl
@[simp] theorem State.tcmWrite_sites (c a : Nat) (bs : List Byte) : (s.tcmWrite c a bs).sites = s.sites := rfl
@[simp] theorem State.tcmWrite_strainLimit (c a : Nat) (bs : List Byte) : (s.tcmWrite c a bs).strainLimit = s.strainLimit := rfl
@[simp] theorem State.tcmWrite_asides (c a : Nat) (bs : List Byte) : (s.tcmWrite c a bs).asides = s.asides := rfl
@[simp] theorem State.tcmWrite_ifaces (c a : Nat) (bs : List Byte) : (s.tcmWrite c a bs).ifaces = s.ifaces := rfl
@[simp] theorem State.tcmWrite_hostReplies (c a : Nat) (bs : List Byte) : (s.tcmWrite c a bs).hostReplies = s.hostReplies := rfl
@[simp] theorem State.tcmWrite_hostQueue (c a : Nat) (bs : List Byte) : (s.tcmWrite c a bs).hostQueue = s.hostQueue := rfl
@[simp] theorem State.tcmWrite_ports (c a : Nat) (bs : List Byte) : (s.tcmWrite c a bs).ports = s.ports := rfl
@[simp] theorem State.tcmWrite_routes (c a : Nat) (bs : List Byte) : (s.tcmWrite c a bs).routes = s.routes := rfl
@[simp] theorem State.tcmWrite_pendingRoutes (c a : Nat) (bs : List Byte) : (s.tcmWrite c a bs).pendingRoutes = s.pendingRoutes := rfl
@[simp] theorem State.tcmWrite_gone (c a : Nat) (bs : List Byte) : (s.tcmWrite c a bs).gone = s.gone := rfl
@[simp] theorem State.tcmWrite_keys (c a : Nat) (bs : List Byte) : (s.tcmWrite c a bs).keys = s.keys := rfl
@[simp] theorem State.tcmWrite_ks (c a : Nat) (bs : List Byte) : (s.tcmWrite c a bs).ks = s.ks := rfl
@[simp] theorem State.tcmWrite_k1 (c a : Nat) (bs : List Byte) : (s.tcmWrite c a bs).k1 = s.k1 := rfl
@[simp] theorem State.tcmWrite_k2 (c a : Nat) (bs : List Byte) : (s.tcmWrite c a bs).k2 = s.k2 := rfl
@[simp] theorem State.tcmWrite_resets (c a : Nat) (bs : List Byte) : (s.tcmWrite c a bs).resets = s.resets := rfl
@[simp] theorem State.tcmWrite_meas (c a : Nat) (bs : List Byte) : (s.tcmWrite c a bs).meas = s.meas := rfl
@[simp] theorem State.tcmWrite_secVersions (c a : Nat) (bs : List Byte) : (s.tcmWrite c a bs).secVersions = s.secVersions := rfl
@[simp] theorem State.tcmWrite_config (c a : Nat) (bs : List Byte) : (s.tcmWrite c a bs).config = s.config := rfl
@[simp] theorem State.tcmWrite_active (c a : Nat) (bs : List Byte) : (s.tcmWrite c a bs).active = s.active := rfl
@[simp] theorem State.tcmWrite_attestations (c a : Nat) (bs : List Byte) : (s.tcmWrite c a bs).attestations = s.attestations := rfl
@[simp] theorem State.tcmWrite_dev (c a : Nat) (bs : List Byte) : (s.tcmWrite c a bs).dev = s.dev := rfl
@[simp] theorem State.tcmWrite_cxl (c a : Nat) (bs : List Byte) : (s.tcmWrite c a bs).cxl = s.cxl := rfl
@[simp] theorem State.tcmWrite_checkpointTo (c a : Nat) (bs : List Byte) : (s.tcmWrite c a bs).checkpointTo = s.checkpointTo := rfl
@[simp] theorem State.tcmWrite_bootStopped (c a : Nat) (bs : List Byte) : (s.tcmWrite c a bs).bootStopped = s.bootStopped := rfl
@[simp] theorem State.tcmWrite_refuge (c a : Nat) (bs : List Byte) : (s.tcmWrite c a bs).refuge = s.refuge := rfl
@[simp] theorem State.tcmWrite_power (c a : Nat) (bs : List Byte) : (s.tcmWrite c a bs).power = s.power := rfl
@[simp] theorem State.tcmWrite_powerLimit (c a : Nat) (bs : List Byte) : (s.tcmWrite c a bs).powerLimit = s.powerLimit := rfl

/-! ### `deckWrite` -/

@[simp] theorem State.deckWrite_tick (k a : Nat) (bs : List Byte) : (s.deckWrite k a bs).tick = s.tick := rfl
@[simp] theorem State.deckWrite_events (k a : Nat) (bs : List Byte) : (s.deckWrite k a bs).events = s.events := rfl
@[simp] theorem State.deckWrite_timers (k a : Nat) (bs : List Byte) : (s.deckWrite k a bs).timers = s.timers := rfl
@[simp] theorem State.deckWrite_sels (k a : Nat) (bs : List Byte) : (s.deckWrite k a bs).sels = s.sels := rfl
@[simp] theorem State.deckWrite_cur (k a : Nat) (bs : List Byte) : (s.deckWrite k a bs).cur = s.cur := rfl
@[simp] theorem State.deckWrite_heldSteps (k a : Nat) (bs : List Byte) : (s.deckWrite k a bs).heldSteps = s.heldSteps := rfl
@[simp] theorem State.deckWrite_threads (k a : Nat) (bs : List Byte) : (s.deckWrite k a bs).threads = s.threads := rfl
@[simp] theorem State.deckWrite_cores (k a : Nat) (bs : List Byte) : (s.deckWrite k a bs).cores = s.cores := rfl
@[simp] theorem State.deckWrite_windows (k a : Nat) (bs : List Byte) : (s.deckWrite k a bs).windows = s.windows := rfl
@[simp] theorem State.deckWrite_tcm (k a : Nat) (bs : List Byte) : (s.deckWrite k a bs).tcm = s.tcm := rfl
@[simp] theorem State.deckWrite_deckEpoch (k a : Nat) (bs : List Byte) : (s.deckWrite k a bs).deckEpoch = s.deckEpoch := rfl
@[simp] theorem State.deckWrite_deckErrors (k a : Nat) (bs : List Byte) : (s.deckWrite k a bs).deckErrors = s.deckErrors := rfl
@[simp] theorem State.deckWrite_deckSoft (k a : Nat) (bs : List Byte) : (s.deckWrite k a bs).deckSoft = s.deckSoft := rfl
@[simp] theorem State.deckWrite_corrections (k a : Nat) (bs : List Byte) : (s.deckWrite k a bs).corrections = s.corrections := rfl
@[simp] theorem State.deckWrite_epochs (k a : Nat) (bs : List Byte) : (s.deckWrite k a bs).epochs = s.epochs := rfl
@[simp] theorem State.deckWrite_banks (k a : Nat) (bs : List Byte) : (s.deckWrite k a bs).banks = s.banks := rfl
@[simp] theorem State.deckWrite_asks (k a : Nat) (bs : List Byte) : (s.deckWrite k a bs).asks = s.asks := rfl
@[simp] theorem State.deckWrite_mem (k a : Nat) (bs : List Byte) : (s.deckWrite k a bs).mem = s.mem := rfl
@[simp] theorem State.deckWrite_blocks (k a : Nat) (bs : List Byte) : (s.deckWrite k a bs).blocks = s.blocks := rfl
@[simp] theorem State.deckWrite_reqs (k a : Nat) (bs : List Byte) : (s.deckWrite k a bs).reqs = s.reqs := rfl
@[simp] theorem State.deckWrite_nextReq (k a : Nat) (bs : List Byte) : (s.deckWrite k a bs).nextReq = s.nextReq := rfl
@[simp] theorem State.deckWrite_copies (k a : Nat) (bs : List Byte) : (s.deckWrite k a bs).copies = s.copies := rfl
@[simp] theorem State.deckWrite_nextCopy (k a : Nat) (bs : List Byte) : (s.deckWrite k a bs).nextCopy = s.nextCopy := rfl
@[simp] theorem State.deckWrite_nextOp (k a : Nat) (bs : List Byte) : (s.deckWrite k a bs).nextOp = s.nextOp := rfl
@[simp] theorem State.deckWrite_flight (k a : Nat) (bs : List Byte) : (s.deckWrite k a bs).flight = s.flight := rfl
@[simp] theorem State.deckWrite_netRoom (k a : Nat) (bs : List Byte) : (s.deckWrite k a bs).netRoom = s.netRoom := rfl
@[simp] theorem State.deckWrite_cache (k a : Nat) (bs : List Byte) : (s.deckWrite k a bs).cache = s.cache := rfl
@[simp] theorem State.deckWrite_hostSectors (k a : Nat) (bs : List Byte) : (s.deckWrite k a bs).hostSectors = s.hostSectors := rfl
@[simp] theorem State.deckWrite_sectorDir (k a : Nat) (bs : List Byte) : (s.deckWrite k a bs).sectorDir = s.sectorDir := rfl
@[simp] theorem State.deckWrite_lineVersion (k a : Nat) (bs : List Byte) : (s.deckWrite k a bs).lineVersion = s.lineVersion := rfl
@[simp] theorem State.deckWrite_homeLine (k a : Nat) (bs : List Byte) : (s.deckWrite k a bs).homeLine = s.homeLine := rfl
@[simp] theorem State.deckWrite_writeBacks (k a : Nat) (bs : List Byte) : (s.deckWrite k a bs).writeBacks = s.writeBacks := rfl
@[simp] theorem State.deckWrite_nextWb (k a : Nat) (bs : List Byte) : (s.deckWrite k a bs).nextWb = s.nextWb := rfl
@[simp] theorem State.deckWrite_spanNet (k a : Nat) (bs : List Byte) : (s.deckWrite k a bs).spanNet = s.spanNet := rfl
@[simp] theorem State.deckWrite_engineAsked (k a : Nat) (bs : List Byte) : (s.deckWrite k a bs).engineAsked = s.engineAsked := rfl
@[simp] theorem State.deckWrite_hostRecalls (k a : Nat) (bs : List Byte) : (s.deckWrite k a bs).hostRecalls = s.hostRecalls := rfl
@[simp] theorem State.deckWrite_l1 (k a : Nat) (bs : List Byte) : (s.deckWrite k a bs).l1 = s.l1 := rfl
@[simp] theorem State.deckWrite_lltlb (k a : Nat) (bs : List Byte) : (s.deckWrite k a bs).lltlb = s.lltlb := rfl
@[simp] theorem State.deckWrite_misses (k a : Nat) (bs : List Byte) : (s.deckWrite k a bs).misses = s.misses := rfl
@[simp] theorem State.deckWrite_roots (k a : Nat) (bs : List Byte) : (s.deckWrite k a bs).roots = s.roots := rfl
@[simp] theorem State.deckWrite_channels (k a : Nat) (bs : List Byte) : (s.deckWrite k a bs).channels = s.channels := rfl
@[simp] theorem State.deckWrite_mapped (k a : Nat) (bs : List Byte) : (s.deckWrite k a bs).mapped = s.mapped := rfl
@[simp] theorem State.deckWrite_pool (k a : Nat) (bs : List Byte) : (s.deckWrite k a bs).pool = s.pool := rfl
@[simp] theorem State.deckWrite_poolUsed (k a : Nat) (bs : List Byte) : (s.deckWrite k a bs).poolUsed = s.poolUsed := rfl
@[simp] theorem State.deckWrite_poolWait (k a : Nat) (bs : List Byte) : (s.deckWrite k a bs).poolWait = s.poolWait := rfl
@[simp] theorem State.deckWrite_qwait (k a : Nat) (bs : List Byte) : (s.deckWrite k a bs).qwait = s.qwait := rfl
@[simp] theorem State.deckWrite_turns (k a : Nat) (bs : List Byte) : (s.deckWrite k a bs).turns = s.turns := rfl
@[simp] theorem State.deckWrite_parkedTicks (k a : Nat) (bs : List Byte) : (s.deckWrite k a bs).parkedTicks = s.parkedTicks := rfl
@[simp] theorem State.deckWrite_parkedNow (k a : Nat) (bs : List Byte) : (s.deckWrite k a bs).parkedNow = s.parkedNow := rfl
@[simp] theorem State.deckWrite_rowWaits (k a : Nat) (bs : List Byte) : (s.deckWrite k a bs).rowWaits = s.rowWaits := rfl
@[simp] theorem State.deckWrite_ringDirty (k a : Nat) (bs : List Byte) : (s.deckWrite k a bs).ringDirty = s.ringDirty := rfl
@[simp] theorem State.deckWrite_overflowSize (k a : Nat) (bs : List Byte) : (s.deckWrite k a bs).overflowSize = s.overflowSize := rfl
@[simp] theorem State.deckWrite_health (k a : Nat) (bs : List Byte) : (s.deckWrite k a bs).health = s.health := rfl
@[simp] theorem State.deckWrite_journal (k a : Nat) (bs : List Byte) : (s.deckWrite k a bs).journal = s.journal := rfl
@[simp] theorem State.deckWrite_journalSize (k a : Nat) (bs : List Byte) : (s.deckWrite k a bs).journalSize = s.journalSize := rfl
@[simp] theorem State.deckWrite_journalUsed (k a : Nat) (bs : List Byte) : (s.deckWrite k a bs).journalUsed = s.journalUsed := rfl
@[simp] theorem State.deckWrite_journalWait (k a : Nat) (bs : List Byte) : (s.deckWrite k a bs).journalWait = s.journalWait := rfl
@[simp] theorem State.deckWrite_journalCopy (k a : Nat) (bs : List Byte) : (s.deckWrite k a bs).journalCopy = s.journalCopy := rfl
@[simp] theorem State.deckWrite_saveSize (k a : Nat) (bs : List Byte) : (s.deckWrite k a bs).saveSize = s.saveSize := rfl
@[simp] theorem State.deckWrite_saveUsed (k a : Nat) (bs : List Byte) : (s.deckWrite k a bs).saveUsed = s.saveUsed := rfl
@[simp] theorem State.deckWrite_launches (k a : Nat) (bs : List Byte) : (s.deckWrite k a bs).launches = s.launches := rfl
@[simp] theorem State.deckWrite_nextLaunch (k a : Nat) (bs : List Byte) : (s.deckWrite k a bs).nextLaunch = s.nextLaunch := rfl
@[simp] theorem State.deckWrite_crews (k a : Nat) (bs : List Byte) : (s.deckWrite k a bs).crews = s.crews := rfl
@[simp] theorem State.deckWrite_nextCrew (k a : Nat) (bs : List Byte) : (s.deckWrite k a bs).nextCrew = s.nextCrew := rfl
@[simp] theorem State.deckWrite_notices (k a : Nat) (bs : List Byte) : (s.deckWrite k a bs).notices = s.notices := rfl
@[simp] theorem State.deckWrite_remoteStages (k a : Nat) (bs : List Byte) : (s.deckWrite k a bs).remoteStages = s.remoteStages := rfl
@[simp] theorem State.deckWrite_queues (k a : Nat) (bs : List Byte) : (s.deckWrite k a bs).queues = s.queues := rfl
@[simp] theorem State.deckWrite_cps (k a : Nat) (bs : List Byte) : (s.deckWrite k a bs).cps = s.cps := rfl
@[simp] theorem State.deckWrite_sites (k a : Nat) (bs : List Byte) : (s.deckWrite k a bs).sites = s.sites := rfl
@[simp] theorem State.deckWrite_strainLimit (k a : Nat) (bs : List Byte) : (s.deckWrite k a bs).strainLimit = s.strainLimit := rfl
@[simp] theorem State.deckWrite_asides (k a : Nat) (bs : List Byte) : (s.deckWrite k a bs).asides = s.asides := rfl
@[simp] theorem State.deckWrite_ifaces (k a : Nat) (bs : List Byte) : (s.deckWrite k a bs).ifaces = s.ifaces := rfl
@[simp] theorem State.deckWrite_hostReplies (k a : Nat) (bs : List Byte) : (s.deckWrite k a bs).hostReplies = s.hostReplies := rfl
@[simp] theorem State.deckWrite_hostQueue (k a : Nat) (bs : List Byte) : (s.deckWrite k a bs).hostQueue = s.hostQueue := rfl
@[simp] theorem State.deckWrite_ports (k a : Nat) (bs : List Byte) : (s.deckWrite k a bs).ports = s.ports := rfl
@[simp] theorem State.deckWrite_routes (k a : Nat) (bs : List Byte) : (s.deckWrite k a bs).routes = s.routes := rfl
@[simp] theorem State.deckWrite_pendingRoutes (k a : Nat) (bs : List Byte) : (s.deckWrite k a bs).pendingRoutes = s.pendingRoutes := rfl
@[simp] theorem State.deckWrite_gone (k a : Nat) (bs : List Byte) : (s.deckWrite k a bs).gone = s.gone := rfl
@[simp] theorem State.deckWrite_keys (k a : Nat) (bs : List Byte) : (s.deckWrite k a bs).keys = s.keys := rfl
@[simp] theorem State.deckWrite_ks (k a : Nat) (bs : List Byte) : (s.deckWrite k a bs).ks = s.ks := rfl
@[simp] theorem State.deckWrite_k1 (k a : Nat) (bs : List Byte) : (s.deckWrite k a bs).k1 = s.k1 := rfl
@[simp] theorem State.deckWrite_k2 (k a : Nat) (bs : List Byte) : (s.deckWrite k a bs).k2 = s.k2 := rfl
@[simp] theorem State.deckWrite_resets (k a : Nat) (bs : List Byte) : (s.deckWrite k a bs).resets = s.resets := rfl
@[simp] theorem State.deckWrite_meas (k a : Nat) (bs : List Byte) : (s.deckWrite k a bs).meas = s.meas := rfl
@[simp] theorem State.deckWrite_secVersions (k a : Nat) (bs : List Byte) : (s.deckWrite k a bs).secVersions = s.secVersions := rfl
@[simp] theorem State.deckWrite_config (k a : Nat) (bs : List Byte) : (s.deckWrite k a bs).config = s.config := rfl
@[simp] theorem State.deckWrite_active (k a : Nat) (bs : List Byte) : (s.deckWrite k a bs).active = s.active := rfl
@[simp] theorem State.deckWrite_attestations (k a : Nat) (bs : List Byte) : (s.deckWrite k a bs).attestations = s.attestations := rfl
@[simp] theorem State.deckWrite_dev (k a : Nat) (bs : List Byte) : (s.deckWrite k a bs).dev = s.dev := rfl
@[simp] theorem State.deckWrite_cxl (k a : Nat) (bs : List Byte) : (s.deckWrite k a bs).cxl = s.cxl := rfl
@[simp] theorem State.deckWrite_checkpointTo (k a : Nat) (bs : List Byte) : (s.deckWrite k a bs).checkpointTo = s.checkpointTo := rfl
@[simp] theorem State.deckWrite_bootStopped (k a : Nat) (bs : List Byte) : (s.deckWrite k a bs).bootStopped = s.bootStopped := rfl
@[simp] theorem State.deckWrite_refuge (k a : Nat) (bs : List Byte) : (s.deckWrite k a bs).refuge = s.refuge := rfl
@[simp] theorem State.deckWrite_power (k a : Nat) (bs : List Byte) : (s.deckWrite k a bs).power = s.power := rfl
@[simp] theorem State.deckWrite_powerLimit (k a : Nat) (bs : List Byte) : (s.deckWrite k a bs).powerLimit = s.powerLimit := rfl

/-! ### What the updates change -/

@[simp] theorem State.setThread_threads (t : Nat) (x : Thread) : (s.setThread t x).threads = s.threads.put t x := rfl
@[simp] theorem State.modThread_threads (t : Nat) (f : Thread → Thread) :
    (s.modThread t f).threads = s.threads.put t (f (s.thread t)) := rfl
@[simp] theorem State.setCore_cores (c : Nat) (x : Core) : (s.setCore c x).cores = s.cores.put c x := rfl
@[simp] theorem State.modCore_cores (c : Nat) (f : Core → Core) :
    (s.modCore c f).cores = s.cores.put c (f (s.core c)) := rfl
@[simp] theorem State.modSite_sites (k : Nat) (f : Site → Site) :
    (s.modSite k f).sites = s.sites.put k (f (s.site k)) := rfl
@[simp] theorem State.emit_events (i : Instr) : (s.emit i).events = s.events ++ [i] := rfl
@[simp] theorem State.later_timers (n : Nat) (i : Instr) : (s.later n i).timers = s.timers ++ [(n, i)] := rfl
@[simp] theorem State.memWrite_mem (a : Nat) (bs : List Byte) : (s.memWrite a bs).mem = s.mem.writeList a bs := rfl
@[simp] theorem State.tcmWrite_tcm (c a : Nat) (bs : List Byte) :
    (s.tcmWrite c a bs).tcm = putBytes s.tcm (c * 2 ^ 16 + a) bs := rfl
@[simp] theorem State.deckWrite_deck (k a : Nat) (bs : List Byte) :
    (s.deckWrite k a bs).deck = putBytes s.deck (k * 2 ^ 21 + a) bs := rfl

end Sys2Proof.Machine
end

