-- ==== Sys2Proof/Laws/Ops.lean ====
section
/-! SUPPORT. What the shared operations do, said once: reaching threads and cores, the checks of a unit's fields, register
writes of an ordinary thread, the end of a unit. -/

namespace Sys2Proof.Machine

/-! ### Threads and cores -/

@[simp] theorem State.thread_setThread (s : State) (t u : Nat) (x : Thread) :
    (s.setThread t x).thread u = if u = t then x else s.thread u := by
  simp only [State.thread, State.setThread, Tab.get_put]

@[simp] theorem State.thread_modThread (s : State) (t u : Nat) (f : Thread → Thread) :
    (s.modThread t f).thread u = if u = t then f (s.thread t) else s.thread u := s.thread_setThread t u _

@[simp] theorem State.core_setCore (s : State) (c k : Nat) (x : Core) :
    (s.setCore c x).core k = if k = c then x else s.core k := by
  simp only [State.core, State.setCore, Tab.get_put]

@[simp] theorem State.core_modCore (s : State) (c k : Nat) (f : Core → Core) :
    (s.modCore c f).core k = if k = c then f (s.core c) else s.core k := s.core_setCore c k _

@[simp] theorem State.thread_setCore (s : State) (c t : Nat) (x : Core) : (s.setCore c x).thread t = s.thread t := rfl
@[simp] theorem State.thread_modCore (s : State) (c t : Nat) (f : Core → Core) : (s.modCore c f).thread t = s.thread t := rfl
@[simp] theorem State.core_setThread (s : State) (t c : Nat) (x : Thread) : (s.setThread t x).core c = s.core c := rfl
@[simp] theorem State.core_modThread (s : State) (t c : Nat) (f : Thread → Thread) :
    (s.modThread t f).core c = s.core c := rfl

/-- Of two changes of one thread the later one is made to what the earlier one left. -/
@[simp] theorem State.modThread_modThread (s : State) (t : Nat) (f g : Thread → Thread) :
    (s.modThread t f).modThread t g = s.modThread t fun x => g (f x) := by
  simp only [State.modThread, State.setThread, State.thread, Tab.get_put_same, Tab.put_put]

@[simp] theorem State.setThread_setThread (s : State) (t : Nat) (x y : Thread) :
    (s.setThread t x).setThread t y = s.setThread t y := by
  simp only [State.setThread, Tab.put_put]

/-! ### The checks of a unit's fields -/

@[simp] theorem Gate.next_go {α β : Type} (a : α) (f : α → Gate β) : (Gate.go a).next f = f a := rfl

/-- Usable fields pass the checks. -/
theorem State.guardRegs_of_usable {s : State} {rs : List Reg} (h : s.usable rs) : s.guardRegs s.cur rs = .go () := by
  unfold State.guardRegs
  have h1 : (rs.any fun r => (s.thread s.cur).pendingFaults.any fun p => p.key == some r.key) = false := by
    rw [List.any_eq_false]; intro r hr
    simp only [Bool.not_eq_true, List.any_eq_false, beq_iff_eq]
    exact (h r hr).1
  have h3 : (rs.find? fun r => (s.thread s.cur).awaited.contains r.key) = none := by
    rw [List.find?_eq_none]; intro r hr
    have ha := (h r hr).2.2
    simpa [State.me] using ha
  simp only [h1, h3, Bool.false_eq_true, if_false]
  rw [if_neg]
  intro hany
  obtain ⟨r, hr, hm⟩ := List.any_eq_true.1 hany
  have hp := (h r hr).2.1
  cases hd : r.port with
  | none => simp [hd] at hm
  | some d => simp [hd, hp d hd] at hm

/-- A unit whose fields are usable is its own checks and effect. -/
theorem State.unit_of_usable {s : State} {rs : List Reg} (h : s.usable rs) (g : Gate State) :
    s.unit rs g = s.finish s.cur g := by
  rw [State.unit, State.guardRegs_of_usable h, Gate.next_go]

@[simp] theorem State.finish_go (s s1 : State) (t : Nat) : s.finish t (.go s1) = .next s1 := rfl
@[simp] theorem State.finish_trap (s : State) (t : Nat) (c : Cause) (a : Word) :
    s.finish t (.trap c a) = .next ((s.foundBy c t).trap t c a) := rfl
@[simp] theorem State.finish_wait (s : State) (t : Nat) (st : SlotState) (c : Cond) :
    s.finish t (.wait st c) = .next (s.hold t st (s.pinned t c)) := rfl

/-- Only a poisoned granule is counted where it is found (R380). -/
theorem State.foundBy_of_ne {s : State} {c : Cause} (h : c ≠ .poison) (t : Nat) : s.foundBy c t = s := if_neg h

/-- A destination that takes the value passes its check. -/
theorem State.destS_of_takes {s : State} {d : RegField} {v : Word} (h : s.takes d v) : s.destS s.cur d v = .go () := by
  unfold State.destS
  cases hp : (sreg d).port with
  | some dir => simp [h.1 dir hp]
  | none =>
    simp only
    rw [if_neg]
    rintro ⟨h1, h2⟩
    rw [h.2 h1] at h2
    exact absurd h2 (by decide)

theorem State.destV_of_takesV {s : State} {d : RegField} (h : s.takesV d) : s.destV s.cur d = .go () := by
  unfold State.destV
  cases hp : (vreg d).port with
  | some dir => simp [h dir hp]
  | none => rfl

/-! ### Register writes of an ordinary thread -/

theorem bitAt63_of_lt {n : Nat} (h : n < 2 ^ 63) : bitAt n 63 = false := by
  unfold bitAt
  rw [Nat.div_eq_of_lt h]
  rfl

/-- Without an armed injector a value is written as it is. -/
theorem State.inject_of_noInjector {s : State} {t : Nat} (h : s.noInjector t) (major v w : Nat) :
    s.inject (coreOf t) major v w = (v, s) := by
  unfold State.inject
  cases hk : s.siteKey (coreOf t) with
  | none => rfl
  | some k => simp only [bitAt63_of_lt (h k hk), Bool.false_eq_true, if_false]

/-- Outside twin mode nothing enters a fingerprint. -/
theorem State.note_of_plain {s : State} {t : Nat} (h : s.plain t) (bs : List Byte) : s.note t bs = s := by
  simp [State.note, State.noteFor, h.1, h.2.1]

/-- Outside twin mode a unit changes no second thread. -/
theorem State.mirror_of_untwinned {s : State} {t : Nat} (h : (s.thread t).twin = false) : s.mirror t = s := by
  simp [State.mirror, h]

/-- The write of an ordinary unit is the bare write of its destination. -/
theorem State.write_of_plain {s : State} {t : Nat} (h : s.plain t) (d : Dest) (v : VWord) (delay : Nat) :
    s.write t d v delay = s.placeAt t d v delay := by
  unfold State.write State.placeAt
  simp only [State.inject_of_noInjector h.2.2, State.note_of_plain h, BitVec.ofNat_toNat, BitVec.setWidth_eq, h.2.1,
    Bool.false_eq_true, if_false]

theorem State.writeS_of_plain {s : State} {t : Nat} (h : s.plain t) (d : RegField) (v : Word) (delay : Nat) :
    s.writeS t d v delay = s.placeS t d v delay := State.write_of_plain h ..

theorem State.writeV_of_plain {s : State} {t : Nat} (h : s.plain t) (d : RegField) (v : VWord) (delay : Nat) :
    s.writeV t d v delay = s.placeV t d v delay := State.write_of_plain h ..

theorem Thread.completed_twin (x : Thread) : x.completed.twin = x.twin := by
  unfold Thread.completed Thread.goOn
  split
  · split <;> rfl
  · rfl

theorem State.complete_of_untwinned {s : State} {t : Nat} (h : (s.thread t).twin = false) :
    s.complete t = s.modThread t Thread.completed := by
  rw [State.complete, State.mirror_of_untwinned]
  simp [Thread.completed_twin, h]

theorem State.jump_of_untwinned {s : State} {t : Nat} (h : (s.thread t).twin = false) (pc : BitVec 57) :
    s.jump t pc = s.modThread t fun x => x.goOn pc := by
  rw [State.jump, State.mirror_of_untwinned]
  simp [Thread.goOn, h]

/-! ### What a placed value changes: one own register, or the core's list of writes -/

@[simp] theorem State.thread_pend (s : State) (t u delay : Nat) (d : Dest) (v : VWord) :
    (s.pend t delay d v).thread u = s.thread u := rfl

@[simp] theorem State.pend_cur (s : State) (t delay : Nat) (d : Dest) (v : VWord) : (s.pend t delay d v).cur = s.cur := rfl

theorem State.placeOwn_cur (s : State) (t : Nat) (d : Dest) (v : VWord) : (s.placeOwn t d v).cur = s.cur := by
  cases d <;> rfl

/-- Placing a value changes no thread's mode. -/
theorem State.placeOwn_twin (s : State) (t u : Nat) (d : Dest) (v : VWord) :
    ((s.placeOwn t d v).thread u).twin = (s.thread u).twin := by
  cases d with
  | own n => simp only [State.placeOwn, State.thread_modThread]; split <;> simp_all [Thread.putS]
  | ownV n => simp only [State.placeOwn, State.thread_modThread]; split <;> simp_all [Thread.putV, Thread.clearLatches]
  | _ => rfl

/-- A write that is performed later stands in its core's list and changes nothing else. -/
theorem State.placeAt_of_delay {s : State} {t delay : Nat} (h : 0 < delay) (d : Dest) (v : VWord) :
    s.placeAt t d v delay = s.pend t delay d v := if_neg fun hd => absurd hd.1 (Nat.ne_of_gt h)

theorem State.placeAt_cur (s : State) (t delay : Nat) (d : Dest) (v : VWord) : (s.placeAt t d v delay).cur = s.cur := by
  unfold State.placeAt; split
  · exact s.placeOwn_cur t d v
  · rfl

theorem State.placeAt_twin (s : State) (t u delay : Nat) (d : Dest) (v : VWord) :
    ((s.placeAt t d v delay).thread u).twin = (s.thread u).twin := by
  unfold State.placeAt; split
  · exact s.placeOwn_twin t u d v
  · rfl

theorem State.placeS_cur (s : State) (t : Nat) (d : RegField) (v : Word) (delay : Nat) :
    (s.placeS t d v delay).cur = s.cur := s.placeAt_cur ..
theorem State.placeV_cur (s : State) (t : Nat) (d : RegField) (v : VWord) (delay : Nat) :
    (s.placeV t d v delay).cur = s.cur := s.placeAt_cur ..
theorem State.placeS_twin (s : State) (t u : Nat) (d : RegField) (v : Word) (delay : Nat) :
    ((s.placeS t d v delay).thread u).twin = (s.thread u).twin := s.placeAt_twin ..
theorem State.placeV_twin (s : State) (t u : Nat) (d : RegField) (v : VWord) (delay : Nat) :
    ((s.placeV t d v delay).thread u).twin = (s.thread u).twin := s.placeAt_twin ..

/-- Raising flags changes no thread's mode. -/
theorem State.raiseAt_cur (s : State) (t delay : Nat) (fl : BitVec 5) : (s.raiseAt t fl delay).cur = s.cur := by
  unfold State.raiseAt; split <;> rfl
theorem State.raiseAt_twin (s : State) (t u delay : Nat) (fl : BitVec 5) :
    ((s.raiseAt t fl delay).thread u).twin = (s.thread u).twin := by
  unfold State.raiseAt; split <;> rfl

/-- An ordinary thread's scalar result, from the checks of its destination to the end of its unit. -/
theorem State.putS_complete {s : State} {d : RegField} {v : Word} {delay : Nat} (hp : s.plain s.cur) (ht : s.takes d v) :
    ((s.putS s.cur d v delay).next fun s2 => .go (s2.complete s.cur)) = Gate.go (s.wrote d v delay) := by
  unfold State.putS State.wrote State.done
  rw [State.destS_of_takes ht, Gate.next_go, Gate.next_go, State.writeS_of_plain hp, State.complete_of_untwinned,
    State.placeS_cur]
  rw [State.placeS_twin]; exact hp.1

/-- The shapes of scalar units. -/
theorem completes2_unitS2 (d a b : RegField) (delay : Nat) (f : Word → Word → Word) (s s1 : State) (x y : Word)
    (hu : s.usable [sreg a, sreg b, sreg d]) (hr : s.read2 a b = .go (x, y, s1)) (hc : s1.cur = s.cur)
    (hp : s1.plain s.cur) (ht : s1.takes d (f x y)) : s.unitS2 d a b delay f = .next (s1.wrote d (f x y) delay) := by
  rw [State.unitS2, State.unit_of_usable hu, hr]
  simp only [Gate.next_go]
  rw [← hc] at hp ⊢
  rw [State.putS_complete hp ht, State.finish_go]

theorem completes1_unitS1 (d a : RegField) (delay : Nat) (f : Word → Word) (s s1 : State) (x : Word)
    (hu : s.usable [sreg a, sreg d]) (hr : s.readS s.cur a = .go (x, s1)) (hc : s1.cur = s.cur)
    (hp : s1.plain s.cur) (ht : s1.takes d (f x)) : s.unitS1 d a delay f = .next (s1.wrote d (f x) delay) := by
  rw [State.unitS1, State.unit_of_usable hu, hr]
  simp only [Gate.next_go]
  rw [← hc] at hp ⊢
  rw [State.putS_complete hp ht, State.finish_go]

theorem completes0_unitS0 (d : RegField) (v : Word) (s : State) (hu : s.usable [sreg d]) (hp : s.plain s.cur)
    (ht : s.takes d v) : s.unitS0 d v = .next (s.wrote d v 2) := by
  rw [State.unitS0, State.unit_of_usable hu, State.putS_complete hp ht, State.finish_go]

end Sys2Proof.Machine
end

