-- ==== Sys2Proof/Laws/PerInstr.lean ====
section
/-! SUPPORT. The round trip of every instruction's encoding, one lemma per constructor: the bits of a well-formed instruction
decode to it. The steps that have no encoding meet it because the premise on their size fails. -/

-- One theorem after another, as in Laws/Encode.
set_option Elab.async false

namespace Sys2Proof

open Machine

/-- The bits of a well-formed instruction that has an encoding decode to it, and bit 0 says how many halfwords they fill. -/
def Laws.RoundTrip.Statement (i : Instr) : Prop :=
  i.wellFormed = true → i.size ≠ 0 → decodeWord i.bits = some i ∧ halfwords i.bits = i.size ∧ i.bits < 2 ^ (16 * i.size)

theorem halfwords_major {w : Nat} (h : w % 2 = 1) : halfwords w = 2 := if_pos h
theorem halfwords_compact {w : Nat} (h : w % 2 = 0) : halfwords w = 1 := if_neg (by omega)

theorem decodeMajor_op {w : Nat} (h : field w 1 6 = 0) : decodeMajor w = decodeOp w := by simp only [decodeMajor, h]
theorem decodeMajor_mul {w : Nat} (h : field w 1 6 = 1) : decodeMajor w = decodeMul w := by simp only [decodeMajor, h]
theorem decodeMajor_bit {w : Nat} (h : field w 1 6 = 2) : decodeMajor w = decodeBit w := by simp only [decodeMajor, h]
theorem decodeMajor_shiftimm {w : Nat} (h : field w 1 6 = 9) : decodeMajor w = decodeShiftImm w := by simp only [decodeMajor, h]
theorem decodeMajor_masktest {w : Nat} (h : field w 1 6 = 21) : decodeMajor w = decodeMaskTest w := by simp only [decodeMajor, h]
theorem decodeMajor_indexed {w : Nat} (h : field w 1 6 = 37) : decodeMajor w = decodeIndexed w := by simp only [decodeMajor, h]
theorem decodeMajor_block {w : Nat} (h : field w 1 6 = 38) : decodeMajor w = decodeBlock w := by simp only [decodeMajor, h]
theorem decodeMajor_amow {w : Nat} (h : field w 1 6 = 39) : decodeMajor w = decodeAmoW w := by simp only [decodeMajor, h]
theorem decodeMajor_amod {w : Nat} (h : field w 1 6 = 40) : decodeMajor w = decodeAmoD w := by simp only [decodeMajor, h]
theorem decodeMajor_fence {w : Nat} (h : field w 1 6 = 41) : decodeMajor w = decodeFence w := by simp only [decodeMajor, h]
theorem decodeMajor_vint {w : Nat} (h : field w 1 6 = 44) : decodeMajor w = decodeVint w := by simp only [decodeMajor, h]
theorem decodeMajor_vlog {w : Nat} (h : field w 1 6 = 45) : decodeMajor w = decodeVlog w := by simp only [decodeMajor, h]
theorem decodeMajor_vcmp {w : Nat} (h : field w 1 6 = 46) : decodeMajor w = decodeVcmp w := by simp only [decodeMajor, h]
theorem decodeMajor_vperm {w : Nat} (h : field w 1 6 = 47) : decodeMajor w = decodeVperm w := by simp only [decodeMajor, h]
theorem decodeMajor_vfp {w : Nat} (h : field w 1 6 = 48) : decodeMajor w = decodeVfp w := by simp only [decodeMajor, h]
theorem decodeMajor_vfma {w : Nat} (h : field w 1 6 = 49) : decodeMajor w = decodeVfma w := by simp only [decodeMajor, h]
theorem decodeMajor_vcvt {w : Nat} (h : field w 1 6 = 50) : decodeMajor w = decodeVcvt w := by simp only [decodeMajor, h]
theorem decodeMajor_vred {w : Nat} (h : field w 1 6 = 51) : decodeMajor w = decodeVred w := by simp only [decodeMajor, h]
theorem decodeMajor_vmov {w : Nat} (h : field w 1 6 = 52) : decodeMajor w = decodeVmov w := by simp only [decodeMajor, h]
theorem decodeMajor_vspec {w : Nat} (h : field w 1 6 = 53) : decodeMajor w = decodeVspec w := by simp only [decodeMajor, h]
theorem decodeMajor_matrix {w : Nat} (h : field w 1 6 = 54) : decodeMajor w = decodeMatrix w := by simp only [decodeMajor, h]
theorem decodeMajor_copy {w : Nat} (h : field w 1 6 = 55) : decodeMajor w = decodeCopy w := by simp only [decodeMajor, h]
theorem decodeMajor_stream {w : Nat} (h : field w 1 6 = 56) : decodeMajor w = decodeStream w := by simp only [decodeMajor, h]
theorem decodeMajor_tbarrier {w : Nat} (h : field w 1 6 = 57) : decodeMajor w = decodeTBarrier w := by simp only [decodeMajor, h]
theorem decodeMajor_window {w : Nat} (h : field w 1 6 = 58) : decodeMajor w = decodeWindow w := by simp only [decodeMajor, h]
theorem decodeMajor_sequencer {w : Nat} (h : field w 1 6 = 59) : decodeMajor w = decodeSequencer w := by simp only [decodeMajor, h]
theorem decodeMajor_thread {w : Nat} (h : field w 1 6 = 60) : decodeMajor w = decodeThread w := by simp only [decodeMajor, h]
theorem decodeMajor_sync {w : Nat} (h : field w 1 6 = 61) : decodeMajor w = decodeSync w := by simp only [decodeMajor, h]
theorem decodeMajor_sys {w : Nat} (h : field w 1 6 = 62) : decodeMajor w = decodeSys w := by simp only [decodeMajor, h]

theorem Laws.RoundTrip.divisionWrite (t : Nat) : Statement (.divisionWrite t) := fun _ h => absurd rfl h
theorem Laws.RoundTrip.loadReply (r : Nat) : Statement (.loadReply r) := fun _ h => absurd rfl h
theorem Laws.RoundTrip.illegalUnit (raw : Word) : Statement (.illegalUnit raw) := fun _ h => absurd rfl h
theorem Laws.RoundTrip.specialFunctionWrite (t : Nat) : Statement (.specialFunctionWrite t) := fun _ h => absurd rfl h
theorem Laws.RoundTrip.matrixOperationStart (core : Nat) : Statement (.matrixOperationStart core) := fun _ h => absurd rfl h
theorem Laws.RoundTrip.matrixOperationEnd (core : Nat) : Statement (.matrixOperationEnd core) := fun _ h => absurd rfl h
theorem Laws.RoundTrip.copyAcceptance (core : Nat) : Statement (.copyAcceptance core) := fun _ h => absurd rfl h
theorem Laws.RoundTrip.copyUnitRequest (core : Nat) : Statement (.copyUnitRequest core) := fun _ h => absurd rfl h
theorem Laws.RoundTrip.copyUnitDone (copy : Nat) (u : Nat) : Statement (.copyUnitDone copy u) := fun _ h => absurd rfl h
theorem Laws.RoundTrip.streamRefill (t : Nat) (v : Nat) : Statement (.streamRefill t v) := fun _ h => absurd rfl h
theorem Laws.RoundTrip.streamUnitArrival (t : Nat) (v : Nat) : Statement (.streamUnitArrival t v) := fun _ h => absurd rfl h
theorem Laws.RoundTrip.windowFetchReply (cluster : Nat) (win : Nat) (blk : Nat) : Statement (.windowFetchReply cluster win blk) := fun _ h => absurd rfl h
theorem Laws.RoundTrip.sequencerEmit (core : Nat) : Statement (.sequencerEmit core) := fun _ h => absurd rfl h
theorem Laws.RoundTrip.parkTimeout (t : Nat) : Statement (.parkTimeout t) := fun _ h => absurd rfl h
theorem Laws.RoundTrip.wakeArrival (t : Nat) (launch : Nat) : Statement (.wakeArrival t launch) := fun _ h => absurd rfl h
theorem Laws.RoundTrip.messageDelivery (core : Nat) : Statement (.messageDelivery core) := fun _ h => absurd rfl h
theorem Laws.RoundTrip.routineSpawn (core : Nat) : Statement (.routineSpawn core) := fun _ h => absurd rfl h
theorem Laws.RoundTrip.overflowMove (core : Nat) : Statement (.overflowMove core) := fun _ h => absurd rfl h
theorem Laws.RoundTrip.flowControlRelease (t : Nat) : Statement (.flowControlRelease t) := fun _ h => absurd rfl h
theorem Laws.RoundTrip.eventArrival (t : Nat) (launch : Nat) : Statement (.eventArrival t launch) := fun _ h => absurd rfl h
theorem Laws.RoundTrip.twinCompare (t : Nat) : Statement (.twinCompare t) := fun _ h => absurd rfl h
theorem Laws.RoundTrip.translationWalk (span : Nat) (entry : Nat) : Statement (.translationWalk span entry) := fun _ h => absurd rfl h
theorem Laws.RoundTrip.faultServe (span : Nat) (entry : Nat) : Statement (.faultServe span entry) := fun _ h => absurd rfl h
theorem Laws.RoundTrip.faultReject (span : Nat) (entry : Nat) : Statement (.faultReject span entry) := fun _ h => absurd rfl h
theorem Laws.RoundTrip.pageFaultWake (t : Nat) (park : Nat) (reject : Bool) : Statement (.pageFaultWake t park reject) := fun _ h => absurd rfl h
theorem Laws.RoundTrip.setAside (t : Nat) : Statement (.setAside t) := fun _ h => absurd rfl h
theorem Laws.RoundTrip.setAsideReturn (t : Nat) : Statement (.setAsideReturn t) := fun _ h => absurd rfl h
theorem Laws.RoundTrip.homeLoad (r : Nat) : Statement (.homeLoad r) := fun _ h => absurd rfl h
theorem Laws.RoundTrip.homeCoveringStore (r : Nat) : Statement (.homeCoveringStore r) := fun _ h => absurd rfl h
theorem Laws.RoundTrip.homeBfin (r : Nat) : Statement (.homeBfin r) := fun _ h => absurd rfl h
theorem Laws.RoundTrip.homeBhold (r : Nat) : Statement (.homeBhold r) := fun _ h => absurd rfl h
theorem Laws.RoundTrip.homeBarm (r : Nat) : Statement (.homeBarm r) := fun _ h => absurd rfl h
theorem Laws.RoundTrip.homeClear (r : Nat) : Statement (.homeClear r) := fun _ h => absurd rfl h
theorem Laws.RoundTrip.waiterWithdrawal (blk : Nat) (waiter : Word) : Statement (.waiterWithdrawal blk waiter) := fun _ h => absurd rfl h
theorem Laws.RoundTrip.holdWithdrawal (blk : Nat) (r : Nat) : Statement (.holdWithdrawal blk r) := fun _ h => absurd rfl h
theorem Laws.RoundTrip.poolBlockFreed (span : Nat) : Statement (.poolBlockFreed span) := fun _ h => absurd rfl h
theorem Laws.RoundTrip.blockPoisoning (blk : Nat) : Statement (.blockPoisoning blk) := fun _ h => absurd rfl h
theorem Laws.RoundTrip.gets (cluster : Nat) (sector : Nat) : Statement (.gets cluster sector) := fun _ h => absurd rfl h
theorem Laws.RoundTrip.getm (cluster : Nat) (sector : Nat) : Statement (.getm cluster sector) := fun _ h => absurd rfl h
theorem Laws.RoundTrip.upg (cluster : Nat) (sector : Nat) : Statement (.upg cluster sector) := fun _ h => absurd rfl h
theorem Laws.RoundTrip.wb (cluster : Nat) (sector : Nat) : Statement (.wb cluster sector) := fun _ h => absurd rfl h
theorem Laws.RoundTrip.rcl (span : Nat) (sector : Nat) : Statement (.rcl span sector) := fun _ h => absurd rfl h
theorem Laws.RoundTrip.inv (span : Nat) (sector : Nat) : Statement (.inv span sector) := fun _ h => absurd rfl h
theorem Laws.RoundTrip.wrw (r : Nat) : Statement (.wrw r) := fun _ h => absurd rfl h
theorem Laws.RoundTrip.writebackArrival (w : Nat) : Statement (.writebackArrival w) := fun _ h => absurd rfl h
theorem Laws.RoundTrip.recallReply (w : Nat) : Statement (.recallReply w) := fun _ h => absurd rfl h
theorem Laws.RoundTrip.recallTimeout (w : Nat) : Statement (.recallTimeout w) := fun _ h => absurd rfl h
theorem Laws.RoundTrip.holderFailure (holder : Nat) : Statement (.holderFailure holder) := fun _ h => absurd rfl h
theorem Laws.RoundTrip.rowActivation (channel : Nat) (row : Nat) : Statement (.rowActivation channel row) := fun _ h => absurd rfl h
theorem Laws.RoundTrip.refreshWindowEnd (channel : Nat) : Statement (.refreshWindowEnd channel) := fun _ h => absurd rfl h
theorem Laws.RoundTrip.placementDecision (span : Nat) : Statement (.placementDecision span) := fun _ h => absurd rfl h
theorem Laws.RoundTrip.crewRetirement (crew : Nat) : Statement (.crewRetirement crew) := fun _ h => absurd rfl h
theorem Laws.RoundTrip.relief (span : Nat) : Statement (.relief span) := fun _ h => absurd rfl h
theorem Laws.RoundTrip.preemptionRequest (crew : Nat) : Statement (.preemptionRequest crew) := fun _ h => absurd rfl h
theorem Laws.RoundTrip.threadStop (t : Nat) : Statement (.threadStop t) := fun _ h => absurd rfl h
theorem Laws.RoundTrip.contextSave (crew : Nat) : Statement (.contextSave crew) := fun _ h => absurd rfl h
theorem Laws.RoundTrip.killScrubEnd (t : Nat) : Statement (.killScrubEnd t) := fun _ h => absurd rfl h
theorem Laws.RoundTrip.joinNotice (group : Nat) (home : Nat) (stage : Nat) (dev : Nat) (retired : Bool) : Statement (.joinNotice group home stage dev retired) := fun _ h => absurd rfl h
theorem Laws.RoundTrip.packetTake (cp : Nat) : Statement (.packetTake cp) := fun _ h => absurd rfl h
theorem Laws.RoundTrip.proofRunRetirement (crew : Nat) : Statement (.proofRunRetirement crew) := fun _ h => absurd rfl h
theorem Laws.RoundTrip.journalSpaceFreed (span : Nat) : Statement (.journalSpaceFreed span) := fun _ h => absurd rfl h
theorem Laws.RoundTrip.rowRemap (site : Nat) : Statement (.rowRemap site) := fun _ h => absurd rfl h
theorem Laws.RoundTrip.siteInjectorWrite (site : Nat) (w : Word) : Statement (.siteInjectorWrite site w) := fun _ h => absurd rfl h
theorem Laws.RoundTrip.strainLimitWrite (limit : Nat) : Statement (.strainLimitWrite limit) := fun _ h => absurd rfl h
theorem Laws.RoundTrip.siteReopen (site : Nat) (auth : Bool) : Statement (.siteReopen site auth) := fun _ h => absurd rfl h
theorem Laws.RoundTrip.flitReceive (port : Nat) (seq : Nat) (typ : Nat) (crcOk : Bool) (payload : List Byte) : Statement (.flitReceive port seq typ crcOk payload) := fun _ h => absurd rfl h
theorem Laws.RoundTrip.ack (port : Nat) (seq : Nat) : Statement (.ack port seq) := fun _ h => absurd rfl h
theorem Laws.RoundTrip.nak (port : Nat) (seq : Nat) : Statement (.nak port seq) := fun _ h => absurd rfl h
theorem Laws.RoundTrip.ackTimer (port : Nat) : Statement (.ackTimer port) := fun _ h => absurd rfl h
theorem Laws.RoundTrip.retrain (port : Nat) : Statement (.retrain port) := fun _ h => absurd rfl h
theorem Laws.RoundTrip.portDown (port : Nat) : Statement (.portDown port) := fun _ h => absurd rfl h
theorem Laws.RoundTrip.laneInjectorWrite (port : Nat) (lane : Nat) (w : Word) : Statement (.laneInjectorWrite port lane w) := fun _ h => absurd rfl h
theorem Laws.RoundTrip.routeTableWrite (dev : Nat) (mask : BitVec 12) : Statement (.routeTableWrite dev mask) := fun _ h => absurd rfl h
theorem Laws.RoundTrip.notify (iface : Nat) (j : Nat) (w : Word) : Statement (.notify iface j w) := fun _ h => absurd rfl h
theorem Laws.RoundTrip.qctl (iface : Nat) (j : Nat) (w : Word) : Statement (.qctl iface j w) := fun _ h => absurd rfl h
theorem Laws.RoundTrip.qring (iface : Nat) (j : Nat) (w : Word) : Statement (.qring iface j w) := fun _ h => absurd rfl h
theorem Laws.RoundTrip.qstop (iface : Nat) (j : Nat) (w : Word) : Statement (.qstop iface j w) := fun _ h => absurd rfl h
theorem Laws.RoundTrip.registerWrite (iface : Nat) (off : Nat) (w : Word) : Statement (.registerWrite iface off w) := fun _ h => absurd rfl h
theorem Laws.RoundTrip.hostRead (iface : Nat) (off : Nat) (n : Nat) : Statement (.hostRead iface off n) := fun _ h => absurd rfl h
theorem Laws.RoundTrip.hostWrite (iface : Nat) (off : Nat) (data : List Byte) (mask : List Bool) : Statement (.hostWrite iface off data mask) := fun _ h => absurd rfl h
theorem Laws.RoundTrip.hostSectorRequest (port : Nat) (sector : Nat) (kind : SectorState) : Statement (.hostSectorRequest port sector kind) := fun _ h => absurd rfl h
theorem Laws.RoundTrip.functionLevelReset (iface : Nat) : Statement (.functionLevelReset iface) := fun _ h => absurd rfl h
theorem Laws.RoundTrip.claunch (cp : Nat) (w : Word) : Statement (.claunch cp w) := fun _ h => absurd rfl h
theorem Laws.RoundTrip.cstat (cp : Nat) : Statement (.cstat cp) := fun _ h => absurd rfl h
theorem Laws.RoundTrip.cdec (cp : Nat) (w : Word) : Statement (.cdec cp w) := fun _ h => absurd rfl h
theorem Laws.RoundTrip.attestationRequest (port : Nat) (nonce : BitVec 512) : Statement (.attestationRequest port nonce) := fun _ h => absurd rfl h
theorem Laws.RoundTrip.keyLoad (id : Nat) (key : BitVec 512) (ranges : List (Nat × Nat)) : Statement (.keyLoad id key ranges) := fun _ h => absurd rfl h
theorem Laws.RoundTrip.keyDestroy (id : Nat) : Statement (.keyDestroy id) := fun _ h => absurd rfl h
theorem Laws.RoundTrip.keyClearingDone (id : Nat) : Statement (.keyClearingDone id) := fun _ h => absurd rfl h
theorem Laws.RoundTrip.keyRelease (id : Nat) : Statement (.keyRelease id) := fun _ h => absurd rfl h
theorem Laws.RoundTrip.packageReset : Statement (.packageReset) := fun _ h => absurd rfl h
theorem Laws.RoundTrip.checkpoint (buddy : Nat) : Statement (.checkpoint buddy) := fun _ h => absurd rfl h
theorem Laws.RoundTrip.powerLimitWrite (watts : Nat) : Statement (.powerLimitWrite watts) := fun _ h => absurd rfl h
theorem Laws.RoundTrip.powerStepDown : Statement (.powerStepDown) := fun _ h => absurd rfl h
theorem Laws.RoundTrip.powerStepUp : Statement (.powerStepUp) := fun _ h => absurd rfl h
theorem Laws.RoundTrip.memoryReply (r : Nat) : Statement (.memoryReply r) := fun _ h => absurd rfl h
theorem Laws.RoundTrip.tick : Statement (.tick) := fun _ h => absurd rfl h
theorem Laws.RoundTrip.retrainCompletion (port : Nat) (ok : Bool) : Statement (.retrainCompletion port ok) := fun _ h => absurd rfl h
theorem Laws.RoundTrip.injectedDelayExpiry (port : Nat) : Statement (.injectedDelayExpiry port) := fun _ h => absurd rfl h
theorem Laws.RoundTrip.checkpointRestore (buddy : Nat) : Statement (.checkpointRestore buddy) := fun _ h => absurd rfl h
theorem Laws.RoundTrip.measurementExtension (reg : Nat) (digest : BitVec 512) (signed : Bool) : Statement (.measurementExtension reg digest signed) := fun _ h => absurd rfl h
theorem Laws.RoundTrip.configurationChange (field : Nat) (value : Word) (signed : Bool) : Statement (.configurationChange field value signed) := fun _ h => absurd rfl h
theorem Laws.RoundTrip.add (d : RegField) (a : RegField) (b : RegField) : Statement (.add d a b) := by
  intro hwf _
  have key : ∀ q, q = encDAB (1 + 0 * 2 ^ 25) d a b → decodeWord q = some (.add d a b) ∧ halfwords q = 2 ∧ q < 2 ^ 32 := by
    intro q hq
    obtain ⟨odd, lt, f1_6, f25_7, e_d, e_a, e_b⟩ := encDAB_fields 1 0 d a b (by decide) (by decide) (by decide) hq
    refine ⟨decodeWord_of_major _ _ odd lt ?_ hwf, halfwords_major odd, lt⟩
    rw [decodeMajor_op f1_6]; unfold decodeOp; rw [f25_7, e_d, e_a, e_b]
    rfl
  exact key _ rfl
theorem Laws.RoundTrip.sub (d : RegField) (a : RegField) (b : RegField) : Statement (.sub d a b) := by
  intro hwf _
  have key : ∀ q, q = encDAB (1 + 1 * 2 ^ 25) d a b → decodeWord q = some (.sub d a b) ∧ halfwords q = 2 ∧ q < 2 ^ 32 := by
    intro q hq
    obtain ⟨odd, lt, f1_6, f25_7, e_d, e_a, e_b⟩ := encDAB_fields 1 1 d a b (by decide) (by decide) (by decide) hq
    refine ⟨decodeWord_of_major _ _ odd lt ?_ hwf, halfwords_major odd, lt⟩
    rw [decodeMajor_op f1_6]; unfold decodeOp; rw [f25_7, e_d, e_a, e_b]
    rfl
  exact key _ rfl
theorem Laws.RoundTrip.and (d : RegField) (a : RegField) (b : RegField) : Statement (.and d a b) := by
  intro hwf _
  have key : ∀ q, q = encDAB (1 + 2 * 2 ^ 25) d a b → decodeWord q = some (.and d a b) ∧ halfwords q = 2 ∧ q < 2 ^ 32 := by
    intro q hq
    obtain ⟨odd, lt, f1_6, f25_7, e_d, e_a, e_b⟩ := encDAB_fields 1 2 d a b (by decide) (by decide) (by decide) hq
    refine ⟨decodeWord_of_major _ _ odd lt ?_ hwf, halfwords_major odd, lt⟩
    rw [decodeMajor_op f1_6]; unfold decodeOp; rw [f25_7, e_d, e_a, e_b]
    rfl
  exact key _ rfl
theorem Laws.RoundTrip.or (d : RegField) (a : RegField) (b : RegField) : Statement (.or d a b) := by
  intro hwf _
  have key : ∀ q, q = encDAB (1 + 3 * 2 ^ 25) d a b → decodeWord q = some (.or d a b) ∧ halfwords q = 2 ∧ q < 2 ^ 32 := by
    intro q hq
    obtain ⟨odd, lt, f1_6, f25_7, e_d, e_a, e_b⟩ := encDAB_fields 1 3 d a b (by decide) (by decide) (by decide) hq
    refine ⟨decodeWord_of_major _ _ odd lt ?_ hwf, halfwords_major odd, lt⟩
    rw [decodeMajor_op f1_6]; unfold decodeOp; rw [f25_7, e_d, e_a, e_b]
    rfl
  exact key _ rfl
theorem Laws.RoundTrip.xor (d : RegField) (a : RegField) (b : RegField) : Statement (.xor d a b) := by
  intro hwf _
  have key : ∀ q, q = encDAB (1 + 4 * 2 ^ 25) d a b → decodeWord q = some (.xor d a b) ∧ halfwords q = 2 ∧ q < 2 ^ 32 := by
    intro q hq
    obtain ⟨odd, lt, f1_6, f25_7, e_d, e_a, e_b⟩ := encDAB_fields 1 4 d a b (by decide) (by decide) (by decide) hq
    refine ⟨decodeWord_of_major _ _ odd lt ?_ hwf, halfwords_major odd, lt⟩
    rw [decodeMajor_op f1_6]; unfold decodeOp; rw [f25_7, e_d, e_a, e_b]
    rfl
  exact key _ rfl
theorem Laws.RoundTrip.andn (d : RegField) (a : RegField) (b : RegField) : Statement (.andn d a b) := by
  intro hwf _
  have key : ∀ q, q = encDAB (1 + 5 * 2 ^ 25) d a b → decodeWord q = some (.andn d a b) ∧ halfwords q = 2 ∧ q < 2 ^ 32 := by
    intro q hq
    obtain ⟨odd, lt, f1_6, f25_7, e_d, e_a, e_b⟩ := encDAB_fields 1 5 d a b (by decide) (by decide) (by decide) hq
    refine ⟨decodeWord_of_major _ _ odd lt ?_ hwf, halfwords_major odd, lt⟩
    rw [decodeMajor_op f1_6]; unfold decodeOp; rw [f25_7, e_d, e_a, e_b]
    rfl
  exact key _ rfl
theorem Laws.RoundTrip.orn (d : RegField) (a : RegField) (b : RegField) : Statement (.orn d a b) := by
  intro hwf _
  have key : ∀ q, q = encDAB (1 + 6 * 2 ^ 25) d a b → decodeWord q = some (.orn d a b) ∧ halfwords q = 2 ∧ q < 2 ^ 32 := by
    intro q hq
    obtain ⟨odd, lt, f1_6, f25_7, e_d, e_a, e_b⟩ := encDAB_fields 1 6 d a b (by decide) (by decide) (by decide) hq
    refine ⟨decodeWord_of_major _ _ odd lt ?_ hwf, halfwords_major odd, lt⟩
    rw [decodeMajor_op f1_6]; unfold decodeOp; rw [f25_7, e_d, e_a, e_b]
    rfl
  exact key _ rfl
theorem Laws.RoundTrip.sll (d : RegField) (a : RegField) (b : RegField) : Statement (.sll d a b) := by
  intro hwf _
  have key : ∀ q, q = encDAB (1 + 7 * 2 ^ 25) d a b → decodeWord q = some (.sll d a b) ∧ halfwords q = 2 ∧ q < 2 ^ 32 := by
    intro q hq
    obtain ⟨odd, lt, f1_6, f25_7, e_d, e_a, e_b⟩ := encDAB_fields 1 7 d a b (by decide) (by decide) (by decide) hq
    refine ⟨decodeWord_of_major _ _ odd lt ?_ hwf, halfwords_major odd, lt⟩
    rw [decodeMajor_op f1_6]; unfold decodeOp; rw [f25_7, e_d, e_a, e_b]
    rfl
  exact key _ rfl
theorem Laws.RoundTrip.srl (d : RegField) (a : RegField) (b : RegField) : Statement (.srl d a b) := by
  intro hwf _
  have key : ∀ q, q = encDAB (1 + 8 * 2 ^ 25) d a b → decodeWord q = some (.srl d a b) ∧ halfwords q = 2 ∧ q < 2 ^ 32 := by
    intro q hq
    obtain ⟨odd, lt, f1_6, f25_7, e_d, e_a, e_b⟩ := encDAB_fields 1 8 d a b (by decide) (by decide) (by decide) hq
    refine ⟨decodeWord_of_major _ _ odd lt ?_ hwf, halfwords_major odd, lt⟩
    rw [decodeMajor_op f1_6]; unfold decodeOp; rw [f25_7, e_d, e_a, e_b]
    rfl
  exact key _ rfl
theorem Laws.RoundTrip.sra (d : RegField) (a : RegField) (b : RegField) : Statement (.sra d a b) := by
  intro hwf _
  have key : ∀ q, q = encDAB (1 + 9 * 2 ^ 25) d a b → decodeWord q = some (.sra d a b) ∧ halfwords q = 2 ∧ q < 2 ^ 32 := by
    intro q hq
    obtain ⟨odd, lt, f1_6, f25_7, e_d, e_a, e_b⟩ := encDAB_fields 1 9 d a b (by decide) (by decide) (by decide) hq
    refine ⟨decodeWord_of_major _ _ odd lt ?_ hwf, halfwords_major odd, lt⟩
    rw [decodeMajor_op f1_6]; unfold decodeOp; rw [f25_7, e_d, e_a, e_b]
    rfl
  exact key _ rfl
theorem Laws.RoundTrip.rol (d : RegField) (a : RegField) (b : RegField) : Statement (.rol d a b) := by
  intro hwf _
  have key : ∀ q, q = encDAB (1 + 10 * 2 ^ 25) d a b → decodeWord q = some (.rol d a b) ∧ halfwords q = 2 ∧ q < 2 ^ 32 := by
    intro q hq
    obtain ⟨odd, lt, f1_6, f25_7, e_d, e_a, e_b⟩ := encDAB_fields 1 10 d a b (by decide) (by decide) (by decide) hq
    refine ⟨decodeWord_of_major _ _ odd lt ?_ hwf, halfwords_major odd, lt⟩
    rw [decodeMajor_op f1_6]; unfold decodeOp; rw [f25_7, e_d, e_a, e_b]
    rfl
  exact key _ rfl
theorem Laws.RoundTrip.ror (d : RegField) (a : RegField) (b : RegField) : Statement (.ror d a b) := by
  intro hwf _
  have key : ∀ q, q = encDAB (1 + 11 * 2 ^ 25) d a b → decodeWord q = some (.ror d a b) ∧ halfwords q = 2 ∧ q < 2 ^ 32 := by
    intro q hq
    obtain ⟨odd, lt, f1_6, f25_7, e_d, e_a, e_b⟩ := encDAB_fields 1 11 d a b (by decide) (by decide) (by decide) hq
    refine ⟨decodeWord_of_major _ _ odd lt ?_ hwf, halfwords_major odd, lt⟩
    rw [decodeMajor_op f1_6]; unfold decodeOp; rw [f25_7, e_d, e_a, e_b]
    rfl
  exact key _ rfl
theorem Laws.RoundTrip.slt (d : RegField) (a : RegField) (b : RegField) : Statement (.slt d a b) := by
  intro hwf _
  have key : ∀ q, q = encDAB (1 + 12 * 2 ^ 25) d a b → decodeWord q = some (.slt d a b) ∧ halfwords q = 2 ∧ q < 2 ^ 32 := by
    intro q hq
    obtain ⟨odd, lt, f1_6, f25_7, e_d, e_a, e_b⟩ := encDAB_fields 1 12 d a b (by decide) (by decide) (by decide) hq
    refine ⟨decodeWord_of_major _ _ odd lt ?_ hwf, halfwords_major odd, lt⟩
    rw [decodeMajor_op f1_6]; unfold decodeOp; rw [f25_7, e_d, e_a, e_b]
    rfl
  exact key _ rfl
theorem Laws.RoundTrip.sltu (d : RegField) (a : RegField) (b : RegField) : Statement (.sltu d a b) := by
  intro hwf _
  have key : ∀ q, q = encDAB (1 + 13 * 2 ^ 25) d a b → decodeWord q = some (.sltu d a b) ∧ halfwords q = 2 ∧ q < 2 ^ 32 := by
    intro q hq
    obtain ⟨odd, lt, f1_6, f25_7, e_d, e_a, e_b⟩ := encDAB_fields 1 13 d a b (by decide) (by decide) (by decide) hq
    refine ⟨decodeWord_of_major _ _ odd lt ?_ hwf, halfwords_major odd, lt⟩
    rw [decodeMajor_op f1_6]; unfold decodeOp; rw [f25_7, e_d, e_a, e_b]
    rfl
  exact key _ rfl
theorem Laws.RoundTrip.min (d : RegField) (a : RegField) (b : RegField) : Statement (.min d a b) := by
  intro hwf _
  have key : ∀ q, q = encDAB (1 + 14 * 2 ^ 25) d a b → decodeWord q = some (.min d a b) ∧ halfwords q = 2 ∧ q < 2 ^ 32 := by
    intro q hq
    obtain ⟨odd, lt, f1_6, f25_7, e_d, e_a, e_b⟩ := encDAB_fields 1 14 d a b (by decide) (by decide) (by decide) hq
    refine ⟨decodeWord_of_major _ _ odd lt ?_ hwf, halfwords_major odd, lt⟩
    rw [decodeMajor_op f1_6]; unfold decodeOp; rw [f25_7, e_d, e_a, e_b]
    rfl
  exact key _ rfl
theorem Laws.RoundTrip.max (d : RegField) (a : RegField) (b : RegField) : Statement (.max d a b) := by
  intro hwf _
  have key : ∀ q, q = encDAB (1 + 15 * 2 ^ 25) d a b → decodeWord q = some (.max d a b) ∧ halfwords q = 2 ∧ q < 2 ^ 32 := by
    intro q hq
    obtain ⟨odd, lt, f1_6, f25_7, e_d, e_a, e_b⟩ := encDAB_fields 1 15 d a b (by decide) (by decide) (by decide) hq
    refine ⟨decodeWord_of_major _ _ odd lt ?_ hwf, halfwords_major odd, lt⟩
    rw [decodeMajor_op f1_6]; unfold decodeOp; rw [f25_7, e_d, e_a, e_b]
    rfl
  exact key _ rfl
theorem Laws.RoundTrip.minu (d : RegField) (a : RegField) (b : RegField) : Statement (.minu d a b) := by
  intro hwf _
  have key : ∀ q, q = encDAB (1 + 16 * 2 ^ 25) d a b → decodeWord q = some (.minu d a b) ∧ halfwords q = 2 ∧ q < 2 ^ 32 := by
    intro q hq
    obtain ⟨odd, lt, f1_6, f25_7, e_d, e_a, e_b⟩ := encDAB_fields 1 16 d a b (by decide) (by decide) (by decide) hq
    refine ⟨decodeWord_of_major _ _ odd lt ?_ hwf, halfwords_major odd, lt⟩
    rw [decodeMajor_op f1_6]; unfold decodeOp; rw [f25_7, e_d, e_a, e_b]
    rfl
  exact key _ rfl
theorem Laws.RoundTrip.maxu (d : RegField) (a : RegField) (b : RegField) : Statement (.maxu d a b) := by
  intro hwf _
  have key : ∀ q, q = encDAB (1 + 17 * 2 ^ 25) d a b → decodeWord q = some (.maxu d a b) ∧ halfwords q = 2 ∧ q < 2 ^ 32 := by
    intro q hq
    obtain ⟨odd, lt, f1_6, f25_7, e_d, e_a, e_b⟩ := encDAB_fields 1 17 d a b (by decide) (by decide) (by decide) hq
    refine ⟨decodeWord_of_major _ _ odd lt ?_ hwf, halfwords_major odd, lt⟩
    rw [decodeMajor_op f1_6]; unfold decodeOp; rw [f25_7, e_d, e_a, e_b]
    rfl
  exact key _ rfl
theorem Laws.RoundTrip.cmov (d : RegField) (a : RegField) (b : RegField) : Statement (.cmov d a b) := by
  intro hwf _
  have key : ∀ q, q = encDAB (1 + 18 * 2 ^ 25) d a b → decodeWord q = some (.cmov d a b) ∧ halfwords q = 2 ∧ q < 2 ^ 32 := by
    intro q hq
    obtain ⟨odd, lt, f1_6, f25_7, e_d, e_a, e_b⟩ := encDAB_fields 1 18 d a b (by decide) (by decide) (by decide) hq
    refine ⟨decodeWord_of_major _ _ odd lt ?_ hwf, halfwords_major odd, lt⟩
    rw [decodeMajor_op f1_6]; unfold decodeOp; rw [f25_7, e_d, e_a, e_b]
    rfl
  exact key _ rfl
theorem Laws.RoundTrip.addw (d : RegField) (a : RegField) (b : RegField) : Statement (.addw d a b) := by
  intro hwf _
  have key : ∀ q, q = encDAB (1 + 19 * 2 ^ 25) d a b → decodeWord q = some (.addw d a b) ∧ halfwords q = 2 ∧ q < 2 ^ 32 := by
    intro q hq
    obtain ⟨odd, lt, f1_6, f25_7, e_d, e_a, e_b⟩ := encDAB_fields 1 19 d a b (by decide) (by decide) (by decide) hq
    refine ⟨decodeWord_of_major _ _ odd lt ?_ hwf, halfwords_major odd, lt⟩
    rw [decodeMajor_op f1_6]; unfold decodeOp; rw [f25_7, e_d, e_a, e_b]
    rfl
  exact key _ rfl
theorem Laws.RoundTrip.subw (d : RegField) (a : RegField) (b : RegField) : Statement (.subw d a b) := by
  intro hwf _
  have key : ∀ q, q = encDAB (1 + 20 * 2 ^ 25) d a b → decodeWord q = some (.subw d a b) ∧ halfwords q = 2 ∧ q < 2 ^ 32 := by
    intro q hq
    obtain ⟨odd, lt, f1_6, f25_7, e_d, e_a, e_b⟩ := encDAB_fields 1 20 d a b (by decide) (by decide) (by decide) hq
    refine ⟨decodeWord_of_major _ _ odd lt ?_ hwf, halfwords_major odd, lt⟩
    rw [decodeMajor_op f1_6]; unfold decodeOp; rw [f25_7, e_d, e_a, e_b]
    rfl
  exact key _ rfl
theorem Laws.RoundTrip.sllw (d : RegField) (a : RegField) (b : RegField) : Statement (.sllw d a b) := by
  intro hwf _
  have key : ∀ q, q = encDAB (1 + 21 * 2 ^ 25) d a b → decodeWord q = some (.sllw d a b) ∧ halfwords q = 2 ∧ q < 2 ^ 32 := by
    intro q hq
    obtain ⟨odd, lt, f1_6, f25_7, e_d, e_a, e_b⟩ := encDAB_fields 1 21 d a b (by decide) (by decide) (by decide) hq
    refine ⟨decodeWord_of_major _ _ odd lt ?_ hwf, halfwords_major odd, lt⟩
    rw [decodeMajor_op f1_6]; unfold decodeOp; rw [f25_7, e_d, e_a, e_b]
    rfl
  exact key _ rfl
theorem Laws.RoundTrip.srlw (d : RegField) (a : RegField) (b : RegField) : Statement (.srlw d a b) := by
  intro hwf _
  have key : ∀ q, q = encDAB (1 + 22 * 2 ^ 25) d a b → decodeWord q = some (.srlw d a b) ∧ halfwords q = 2 ∧ q < 2 ^ 32 := by
    intro q hq
    obtain ⟨odd, lt, f1_6, f25_7, e_d, e_a, e_b⟩ := encDAB_fields 1 22 d a b (by decide) (by decide) (by decide) hq
    refine ⟨decodeWord_of_major _ _ odd lt ?_ hwf, halfwords_major odd, lt⟩
    rw [decodeMajor_op f1_6]; unfold decodeOp; rw [f25_7, e_d, e_a, e_b]
    rfl
  exact key _ rfl
theorem Laws.RoundTrip.sraw (d : RegField) (a : RegField) (b : RegField) : Statement (.sraw d a b) := by
  intro hwf _
  have key : ∀ q, q = encDAB (1 + 23 * 2 ^ 25) d a b → decodeWord q = some (.sraw d a b) ∧ halfwords q = 2 ∧ q < 2 ^ 32 := by
    intro q hq
    obtain ⟨odd, lt, f1_6, f25_7, e_d, e_a, e_b⟩ := encDAB_fields 1 23 d a b (by decide) (by decide) (by decide) hq
    refine ⟨decodeWord_of_major _ _ odd lt ?_ hwf, halfwords_major odd, lt⟩
    rw [decodeMajor_op f1_6]; unfold decodeOp; rw [f25_7, e_d, e_a, e_b]
    rfl
  exact key _ rfl
theorem Laws.RoundTrip.mul (d : RegField) (a : RegField) (b : RegField) : Statement (.mul d a b) := by
  intro hwf _
  have key : ∀ q, q = encDAB (3 + 0 * 2 ^ 25) d a b → decodeWord q = some (.mul d a b) ∧ halfwords q = 2 ∧ q < 2 ^ 32 := by
    intro q hq
    obtain ⟨odd, lt, f1_6, f25_7, e_d, e_a, e_b⟩ := encDAB_fields 3 0 d a b (by decide) (by decide) (by decide) hq
    refine ⟨decodeWord_of_major _ _ odd lt ?_ hwf, halfwords_major odd, lt⟩
    rw [decodeMajor_mul f1_6]; unfold decodeMul; rw [f25_7, e_d, e_a, e_b]
    rfl
  exact key _ rfl
theorem Laws.RoundTrip.mulh (d : RegField) (a : RegField) (b : RegField) : Statement (.mulh d a b) := by
  intro hwf _
  have key : ∀ q, q = encDAB (3 + 1 * 2 ^ 25) d a b → decodeWord q = some (.mulh d a b) ∧ halfwords q = 2 ∧ q < 2 ^ 32 := by
    intro q hq
    obtain ⟨odd, lt, f1_6, f25_7, e_d, e_a, e_b⟩ := encDAB_fields 3 1 d a b (by decide) (by decide) (by decide) hq
    refine ⟨decodeWord_of_major _ _ odd lt ?_ hwf, halfwords_major odd, lt⟩
    rw [decodeMajor_mul f1_6]; unfold decodeMul; rw [f25_7, e_d, e_a, e_b]
    rfl
  exact key _ rfl
theorem Laws.RoundTrip.mulhu (d : RegField) (a : RegField) (b : RegField) : Statement (.mulhu d a b) := by
  intro hwf _
  have key : ∀ q, q = encDAB (3 + 2 * 2 ^ 25) d a b → decodeWord q = some (.mulhu d a b) ∧ halfwords q = 2 ∧ q < 2 ^ 32 := by
    intro q hq
    obtain ⟨odd, lt, f1_6, f25_7, e_d, e_a, e_b⟩ := encDAB_fields 3 2 d a b (by decide) (by decide) (by decide) hq
    refine ⟨decodeWord_of_major _ _ odd lt ?_ hwf, halfwords_major odd, lt⟩
    rw [decodeMajor_mul f1_6]; unfold decodeMul; rw [f25_7, e_d, e_a, e_b]
    rfl
  exact key _ rfl
theorem Laws.RoundTrip.mulhsu (d : RegField) (a : RegField) (b : RegField) : Statement (.mulhsu d a b) := by
  intro hwf _
  have key : ∀ q, q = encDAB (3 + 3 * 2 ^ 25) d a b → decodeWord q = some (.mulhsu d a b) ∧ halfwords q = 2 ∧ q < 2 ^ 32 := by
    intro q hq
    obtain ⟨odd, lt, f1_6, f25_7, e_d, e_a, e_b⟩ := encDAB_fields 3 3 d a b (by decide) (by decide) (by decide) hq
    refine ⟨decodeWord_of_major _ _ odd lt ?_ hwf, halfwords_major odd, lt⟩
    rw [decodeMajor_mul f1_6]; unfold decodeMul; rw [f25_7, e_d, e_a, e_b]
    rfl
  exact key _ rfl
theorem Laws.RoundTrip.div (d : RegField) (a : RegField) (b : RegField) : Statement (.div d a b) := by
  intro hwf _
  have key : ∀ q, q = encDAB (3 + 4 * 2 ^ 25) d a b → decodeWord q = some (.div d a b) ∧ halfwords q = 2 ∧ q < 2 ^ 32 := by
    intro q hq
    obtain ⟨odd, lt, f1_6, f25_7, e_d, e_a, e_b⟩ := encDAB_fields 3 4 d a b (by decide) (by decide) (by decide) hq
    refine ⟨decodeWord_of_major _ _ odd lt ?_ hwf, halfwords_major odd, lt⟩
    rw [decodeMajor_mul f1_6]; unfold decodeMul; rw [f25_7, e_d, e_a, e_b]
    rfl
  exact key _ rfl
theorem Laws.RoundTrip.divu (d : RegField) (a : RegField) (b : RegField) : Statement (.divu d a b) := by
  intro hwf _
  have key : ∀ q, q = encDAB (3 + 5 * 2 ^ 25) d a b → decodeWord q = some (.divu d a b) ∧ halfwords q = 2 ∧ q < 2 ^ 32 := by
    intro q hq
    obtain ⟨odd, lt, f1_6, f25_7, e_d, e_a, e_b⟩ := encDAB_fields 3 5 d a b (by decide) (by decide) (by decide) hq
    refine ⟨decodeWord_of_major _ _ odd lt ?_ hwf, halfwords_major odd, lt⟩
    rw [decodeMajor_mul f1_6]; unfold decodeMul; rw [f25_7, e_d, e_a, e_b]
    rfl
  exact key _ rfl
theorem Laws.RoundTrip.rem (d : RegField) (a : RegField) (b : RegField) : Statement (.rem d a b) := by
  intro hwf _
  have key : ∀ q, q = encDAB (3 + 6 * 2 ^ 25) d a b → decodeWord q = some (.rem d a b) ∧ halfwords q = 2 ∧ q < 2 ^ 32 := by
    intro q hq
    obtain ⟨odd, lt, f1_6, f25_7, e_d, e_a, e_b⟩ := encDAB_fields 3 6 d a b (by decide) (by decide) (by decide) hq
    refine ⟨decodeWord_of_major _ _ odd lt ?_ hwf, halfwords_major odd, lt⟩
    rw [decodeMajor_mul f1_6]; unfold decodeMul; rw [f25_7, e_d, e_a, e_b]
    rfl
  exact key _ rfl
theorem Laws.RoundTrip.remu (d : RegField) (a : RegField) (b : RegField) : Statement (.remu d a b) := by
  intro hwf _
  have key : ∀ q, q = encDAB (3 + 7 * 2 ^ 25) d a b → decodeWord q = some (.remu d a b) ∧ halfwords q = 2 ∧ q < 2 ^ 32 := by
    intro q hq
    obtain ⟨odd, lt, f1_6, f25_7, e_d, e_a, e_b⟩ := encDAB_fields 3 7 d a b (by decide) (by decide) (by decide) hq
    refine ⟨decodeWord_of_major _ _ odd lt ?_ hwf, halfwords_major odd, lt⟩
    rw [decodeMajor_mul f1_6]; unfold decodeMul; rw [f25_7, e_d, e_a, e_b]
    rfl
  exact key _ rfl
theorem Laws.RoundTrip.mulw (d : RegField) (a : RegField) (b : RegField) : Statement (.mulw d a b) := by
  intro hwf _
  have key : ∀ q, q = encDAB (3 + 8 * 2 ^ 25) d a b → decodeWord q = some (.mulw d a b) ∧ halfwords q = 2 ∧ q < 2 ^ 32 := by
    intro q hq
    obtain ⟨odd, lt, f1_6, f25_7, e_d, e_a, e_b⟩ := encDAB_fields 3 8 d a b (by decide) (by decide) (by decide) hq
    refine ⟨decodeWord_of_major _ _ odd lt ?_ hwf, halfwords_major odd, lt⟩
    rw [decodeMajor_mul f1_6]; unfold decodeMul; rw [f25_7, e_d, e_a, e_b]
    rfl
  exact key _ rfl
theorem Laws.RoundTrip.divw (d : RegField) (a : RegField) (b : RegField) : Statement (.divw d a b) := by
  intro hwf _
  have key : ∀ q, q = encDAB (3 + 9 * 2 ^ 25) d a b → decodeWord q = some (.divw d a b) ∧ halfwords q = 2 ∧ q < 2 ^ 32 := by
    intro q hq
    obtain ⟨odd, lt, f1_6, f25_7, e_d, e_a, e_b⟩ := encDAB_fields 3 9 d a b (by decide) (by decide) (by decide) hq
    refine ⟨decodeWord_of_major _ _ odd lt ?_ hwf, halfwords_major odd, lt⟩
    rw [decodeMajor_mul f1_6]; unfold decodeMul; rw [f25_7, e_d, e_a, e_b]
    rfl
  exact key _ rfl
theorem Laws.RoundTrip.remw (d : RegField) (a : RegField) (b : RegField) : Statement (.remw d a b) := by
  intro hwf _
  have key : ∀ q, q = encDAB (3 + 10 * 2 ^ 25) d a b → decodeWord q = some (.remw d a b) ∧ halfwords q = 2 ∧ q < 2 ^ 32 := by
    intro q hq
    obtain ⟨odd, lt, f1_6, f25_7, e_d, e_a, e_b⟩ := encDAB_fields 3 10 d a b (by decide) (by decide) (by decide) hq
    refine ⟨decodeWord_of_major _ _ odd lt ?_ hwf, halfwords_major odd, lt⟩
    rw [decodeMajor_mul f1_6]; unfold decodeMul; rw [f25_7, e_d, e_a, e_b]
    rfl
  exact key _ rfl
theorem Laws.RoundTrip.popc (d : RegField) (a : RegField) : Statement (.popc d a) := by
  intro hwf _
  have key : ∀ q, q = encDA (5 + 0 * 2 ^ 19) d a → decodeWord q = some (.popc d a) ∧ halfwords q = 2 ∧ q < 2 ^ 32 := by
    intro q hq
    obtain ⟨odd, lt, f1_6, f19_13, -, -, e_d, e_a⟩ := encDA_fields 5 0 d a (by decide) (by decide) (by decide) hq
    refine ⟨decodeWord_of_major _ _ odd lt ?_ hwf, halfwords_major odd, lt⟩
    rw [decodeMajor_bit f1_6]; unfold decodeBit; rw [f19_13, e_d, e_a]
    rfl
  exact key _ rfl
theorem Laws.RoundTrip.clz (d : RegField) (a : RegField) : Statement (.clz d a) := by
  intro hwf _
  have key : ∀ q, q = encDA (5 + 64 * 2 ^ 19) d a → decodeWord q = some (.clz d a) ∧ halfwords q = 2 ∧ q < 2 ^ 32 := by
    intro q hq
    obtain ⟨odd, lt, f1_6, f19_13, -, -, e_d, e_a⟩ := encDA_fields 5 64 d a (by decide) (by decide) (by decide) hq
    refine ⟨decodeWord_of_major _ _ odd lt ?_ hwf, halfwords_major odd, lt⟩
    rw [decodeMajor_bit f1_6]; unfold decodeBit; rw [f19_13, e_d, e_a]
    rfl
  exact key _ rfl
theorem Laws.RoundTrip.ctz (d : RegField) (a : RegField) : Statement (.ctz d a) := by
  intro hwf _
  have key : ∀ q, q = encDA (5 + 128 * 2 ^ 19) d a → decodeWord q = some (.ctz d a) ∧ halfwords q = 2 ∧ q < 2 ^ 32 := by
    intro q hq
    obtain ⟨odd, lt, f1_6, f19_13, -, -, e_d, e_a⟩ := encDA_fields 5 128 d a (by decide) (by decide) (by decide) hq
    refine ⟨decodeWord_of_major _ _ odd lt ?_ hwf, halfwords_major odd, lt⟩
    rw [decodeMajor_bit f1_6]; unfold decodeBit; rw [f19_13, e_d, e_a]
    rfl
  exact key _ rfl
theorem Laws.RoundTrip.brev (d : RegField) (a : RegField) : Statement (.brev d a) := by
  intro hwf _
  have key : ∀ q, q = encDA (5 + 192 * 2 ^ 19) d a → decodeWord q = some (.brev d a) ∧ halfwords q = 2 ∧ q < 2 ^ 32 := by
    intro q hq
    obtain ⟨odd, lt, f1_6, f19_13, -, -, e_d, e_a⟩ := encDA_fields 5 192 d a (by decide) (by decide) (by decide) hq
    refine ⟨decodeWord_of_major _ _ odd lt ?_ hwf, halfwords_major odd, lt⟩
    rw [decodeMajor_bit f1_6]; unfold decodeBit; rw [f19_13, e_d, e_a]
    rfl
  exact key _ rfl
theorem Laws.RoundTrip.bswap (d : RegField) (a : RegField) : Statement (.bswap d a) := by
  intro hwf _
  have key : ∀ q, q = encDA (5 + 256 * 2 ^ 19) d a → decodeWord q = some (.bswap d a) ∧ halfwords q = 2 ∧ q < 2 ^ 32 := by
    intro q hq
    obtain ⟨odd, lt, f1_6, f19_13, -, -, e_d, e_a⟩ := encDA_fields 5 256 d a (by decide) (by decide) (by decide) hq
    refine ⟨decodeWord_of_major _ _ odd lt ?_ hwf, halfwords_major odd, lt⟩
    rw [decodeMajor_bit f1_6]; unfold decodeBit; rw [f19_13, e_d, e_a]
    rfl
  exact key _ rfl
theorem Laws.RoundTrip.bext (d : RegField) (a : RegField) (b : RegField) : Statement (.bext d a b) := by
  intro hwf _
  have key : ∀ q, q = encDAB (5 + 5 * 2 ^ 25) d a b → decodeWord q = some (.bext d a b) ∧ halfwords q = 2 ∧ q < 2 ^ 32 := by
    intro q hq
    obtain ⟨odd, lt, f1_6, f25_7, e_d, e_a, e_b⟩ := encDAB_fields 5 5 d a b (by decide) (by decide) (by decide) hq
    refine ⟨decodeWord_of_major _ _ odd lt ?_ hwf, halfwords_major odd, lt⟩
    replace f25_7 : field _ 25 7 = 5 := f25_7
    rw [decodeMajor_bit f1_6]; unfold decodeBit
    rw [if_neg (fun h => field_ne 0 f25_7 (by decide) (by decide) (by decide) h),
      if_neg (fun h => field_ne 64 f25_7 (by decide) (by decide) (by decide) h),
      if_neg (fun h => field_ne 128 f25_7 (by decide) (by decide) (by decide) h),
      if_neg (fun h => field_ne 192 f25_7 (by decide) (by decide) (by decide) h),
      if_neg (fun h => field_ne 256 f25_7 (by decide) (by decide) (by decide) h),
      if_pos f25_7,
      e_d, e_a, e_b]
  exact key _ rfl
theorem Laws.RoundTrip.bins (d : RegField) (a : RegField) (b : RegField) : Statement (.bins d a b) := by
  intro hwf _
  have key : ∀ q, q = encDAB (5 + 6 * 2 ^ 25) d a b → decodeWord q = some (.bins d a b) ∧ halfwords q = 2 ∧ q < 2 ^ 32 := by
    intro q hq
    obtain ⟨odd, lt, f1_6, f25_7, e_d, e_a, e_b⟩ := encDAB_fields 5 6 d a b (by decide) (by decide) (by decide) hq
    refine ⟨decodeWord_of_major _ _ odd lt ?_ hwf, halfwords_major odd, lt⟩
    replace f25_7 : field _ 25 7 = 6 := f25_7
    rw [decodeMajor_bit f1_6]; unfold decodeBit
    rw [if_neg (fun h => field_ne 0 f25_7 (by decide) (by decide) (by decide) h),
      if_neg (fun h => field_ne 64 f25_7 (by decide) (by decide) (by decide) h),
      if_neg (fun h => field_ne 128 f25_7 (by decide) (by decide) (by decide) h),
      if_neg (fun h => field_ne 192 f25_7 (by decide) (by decide) (by decide) h),
      if_neg (fun h => field_ne 256 f25_7 (by decide) (by decide) (by decide) h),
      if_neg (fun h => absurd (f25_7.symm.trans h) (by decide)),
      if_pos f25_7,
      e_d, e_a, e_b]
  exact key _ rfl
theorem Laws.RoundTrip.sextB (d : RegField) (a : RegField) : Statement (.sextB d a) := by
  intro hwf _
  have key : ∀ q, q = encDA (5 + 448 * 2 ^ 19) d a → decodeWord q = some (.sextB d a) ∧ halfwords q = 2 ∧ q < 2 ^ 32 := by
    intro q hq
    obtain ⟨odd, lt, f1_6, f19_13, f25_7, -, e_d, e_a⟩ := encDA_fields 5 448 d a (by decide) (by decide) (by decide) hq
    refine ⟨decodeWord_of_major _ _ odd lt ?_ hwf, halfwords_major odd, lt⟩
    rw [decodeMajor_bit f1_6]; unfold decodeBit; rw [f19_13, f25_7, e_d, e_a]
    rfl
  exact key _ rfl
theorem Laws.RoundTrip.sextH (d : RegField) (a : RegField) : Statement (.sextH d a) := by
  intro hwf _
  have key : ∀ q, q = encDA (5 + 512 * 2 ^ 19) d a → decodeWord q = some (.sextH d a) ∧ halfwords q = 2 ∧ q < 2 ^ 32 := by
    intro q hq
    obtain ⟨odd, lt, f1_6, f19_13, f25_7, -, e_d, e_a⟩ := encDA_fields 5 512 d a (by decide) (by decide) (by decide) hq
    refine ⟨decodeWord_of_major _ _ odd lt ?_ hwf, halfwords_major odd, lt⟩
    rw [decodeMajor_bit f1_6]; unfold decodeBit; rw [f19_13, f25_7, e_d, e_a]
    rfl
  exact key _ rfl
theorem Laws.RoundTrip.sextW (d : RegField) (a : RegField) : Statement (.sextW d a) := by
  intro hwf _
  have key : ∀ q, q = encDA (5 + 576 * 2 ^ 19) d a → decodeWord q = some (.sextW d a) ∧ halfwords q = 2 ∧ q < 2 ^ 32 := by
    intro q hq
    obtain ⟨odd, lt, f1_6, f19_13, f25_7, -, e_d, e_a⟩ := encDA_fields 5 576 d a (by decide) (by decide) (by decide) hq
    refine ⟨decodeWord_of_major _ _ odd lt ?_ hwf, halfwords_major odd, lt⟩
    rw [decodeMajor_bit f1_6]; unfold decodeBit; rw [f19_13, f25_7, e_d, e_a]
    rfl
  exact key _ rfl
theorem Laws.RoundTrip.zextB (d : RegField) (a : RegField) : Statement (.zextB d a) := by
  intro hwf _
  have key : ∀ q, q = encDA (5 + 640 * 2 ^ 19) d a → decodeWord q = some (.zextB d a) ∧ halfwords q = 2 ∧ q < 2 ^ 32 := by
    intro q hq
    obtain ⟨odd, lt, f1_6, f19_13, f25_7, -, e_d, e_a⟩ := encDA_fields 5 640 d a (by decide) (by decide) (by decide) hq
    refine ⟨decodeWord_of_major _ _ odd lt ?_ hwf, halfwords_major odd, lt⟩
    rw [decodeMajor_bit f1_6]; unfold decodeBit; rw [f19_13, f25_7, e_d, e_a]
    rfl
  exact key _ rfl
theorem Laws.RoundTrip.zextH (d : RegField) (a : RegField) : Statement (.zextH d a) := by
  intro hwf _
  have key : ∀ q, q = encDA (5 + 704 * 2 ^ 19) d a → decodeWord q = some (.zextH d a) ∧ halfwords q = 2 ∧ q < 2 ^ 32 := by
    intro q hq
    obtain ⟨odd, lt, f1_6, f19_13, f25_7, -, e_d, e_a⟩ := encDA_fields 5 704 d a (by decide) (by decide) (by decide) hq
    refine ⟨decodeWord_of_major _ _ odd lt ?_ hwf, halfwords_major odd, lt⟩
    rw [decodeMajor_bit f1_6]; unfold decodeBit; rw [f19_13, f25_7, e_d, e_a]
    rfl
  exact key _ rfl
theorem Laws.RoundTrip.zextW (d : RegField) (a : RegField) : Statement (.zextW d a) := by
  intro hwf _
  have key : ∀ q, q = encDA (5 + 768 * 2 ^ 19) d a → decodeWord q = some (.zextW d a) ∧ halfwords q = 2 ∧ q < 2 ^ 32 := by
    intro q hq
    obtain ⟨odd, lt, f1_6, f19_13, f25_7, -, e_d, e_a⟩ := encDA_fields 5 768 d a (by decide) (by decide) (by decide) hq
    refine ⟨decodeWord_of_major _ _ odd lt ?_ hwf, halfwords_major odd, lt⟩
    rw [decodeMajor_bit f1_6]; unfold decodeBit; rw [f19_13, f25_7, e_d, e_a]
    rfl
  exact key _ rfl
theorem Laws.RoundTrip.lsb (d : RegField) (a : RegField) : Statement (.lsb d a) := by
  intro hwf _
  have key : ∀ q, q = encDA (5 + 832 * 2 ^ 19) d a → decodeWord q = some (.lsb d a) ∧ halfwords q = 2 ∧ q < 2 ^ 32 := by
    intro q hq
    obtain ⟨odd, lt, f1_6, f19_13, f25_7, -, e_d, e_a⟩ := encDA_fields 5 832 d a (by decide) (by decide) (by decide) hq
    refine ⟨decodeWord_of_major _ _ odd lt ?_ hwf, halfwords_major odd, lt⟩
    rw [decodeMajor_bit f1_6]; unfold decodeBit; rw [f19_13, f25_7, e_d, e_a]
    rfl
  exact key _ rfl
theorem Laws.RoundTrip.msk (d : RegField) (a : RegField) : Statement (.msk d a) := by
  intro hwf _
  have key : ∀ q, q = encDA (5 + 896 * 2 ^ 19) d a → decodeWord q = some (.msk d a) ∧ halfwords q = 2 ∧ q < 2 ^ 32 := by
    intro q hq
    obtain ⟨odd, lt, f1_6, f19_13, f25_7, -, e_d, e_a⟩ := encDA_fields 5 896 d a (by decide) (by decide) (by decide) hq
    refine ⟨decodeWord_of_major _ _ odd lt ?_ hwf, halfwords_major odd, lt⟩
    rw [decodeMajor_bit f1_6]; unfold decodeBit; rw [f19_13, f25_7, e_d, e_a]
    rfl
  exact key _ rfl
theorem Laws.RoundTrip.addi (d : RegField) (a : RegField) (i : BitVec 13) : Statement (.addi d a i) := by
  intro hwf _
  have key : ∀ q, q = encDAI 7 d a i → decodeWord q = some (.addi d a i) ∧ halfwords q = 2 ∧ q < 2 ^ 32 := by
    intro q hq
    obtain ⟨odd, lt, f1_6, e_d, e_a, e_i⟩ := encDAI_fields 7 d a i (by decide) (by decide) hq
    refine ⟨decodeWord_of_major _ _ odd lt ?_ hwf, halfwords_major odd, lt⟩
    unfold decodeMajor; rw [f1_6, e_d, e_a, e_i]; rfl
  exact key _ rfl
theorem Laws.RoundTrip.andi (d : RegField) (a : RegField) (i : BitVec 13) : Statement (.andi d a i) := by
  intro hwf _
  have key : ∀ q, q = encDAI 9 d a i → decodeWord q = some (.andi d a i) ∧ halfwords q = 2 ∧ q < 2 ^ 32 := by
    intro q hq
    obtain ⟨odd, lt, f1_6, e_d, e_a, e_i⟩ := encDAI_fields 9 d a i (by decide) (by decide) hq
    refine ⟨decodeWord_of_major _ _ odd lt ?_ hwf, halfwords_major odd, lt⟩
    unfold decodeMajor; rw [f1_6, e_d, e_a, e_i]; rfl
  exact key _ rfl
theorem Laws.RoundTrip.ori (d : RegField) (a : RegField) (i : BitVec 13) : Statement (.ori d a i) := by
  intro hwf _
  have key : ∀ q, q = encDAI 11 d a i → decodeWord q = some (.ori d a i) ∧ halfwords q = 2 ∧ q < 2 ^ 32 := by
    intro q hq
    obtain ⟨odd, lt, f1_6, e_d, e_a, e_i⟩ := encDAI_fields 11 d a i (by decide) (by decide) hq
    refine ⟨decodeWord_of_major _ _ odd lt ?_ hwf, halfwords_major odd, lt⟩
    unfold decodeMajor; rw [f1_6, e_d, e_a, e_i]; rfl
  exact key _ rfl
theorem Laws.RoundTrip.xori (d : RegField) (a : RegField) (i : BitVec 13) : Statement (.xori d a i) := by
  intro hwf _
  have key : ∀ q, q = encDAI 13 d a i → decodeWord q = some (.xori d a i) ∧ halfwords q = 2 ∧ q < 2 ^ 32 := by
    intro q hq
    obtain ⟨odd, lt, f1_6, e_d, e_a, e_i⟩ := encDAI_fields 13 d a i (by decide) (by decide) hq
    refine ⟨decodeWord_of_major _ _ odd lt ?_ hwf, halfwords_major odd, lt⟩
    unfold decodeMajor; rw [f1_6, e_d, e_a, e_i]; rfl
  exact key _ rfl
theorem Laws.RoundTrip.slti (d : RegField) (a : RegField) (i : BitVec 13) : Statement (.slti d a i) := by
  intro hwf _
  have key : ∀ q, q = encDAI 15 d a i → decodeWord q = some (.slti d a i) ∧ halfwords q = 2 ∧ q < 2 ^ 32 := by
    intro q hq
    obtain ⟨odd, lt, f1_6, e_d, e_a, e_i⟩ := encDAI_fields 15 d a i (by decide) (by decide) hq
    refine ⟨decodeWord_of_major _ _ odd lt ?_ hwf, halfwords_major odd, lt⟩
    unfold decodeMajor; rw [f1_6, e_d, e_a, e_i]; rfl
  exact key _ rfl
theorem Laws.RoundTrip.sltiu (d : RegField) (a : RegField) (i : BitVec 13) : Statement (.sltiu d a i) := by
  intro hwf _
  have key : ∀ q, q = encDAI 17 d a i → decodeWord q = some (.sltiu d a i) ∧ halfwords q = 2 ∧ q < 2 ^ 32 := by
    intro q hq
    obtain ⟨odd, lt, f1_6, e_d, e_a, e_i⟩ := encDAI_fields 17 d a i (by decide) (by decide) hq
    refine ⟨decodeWord_of_major _ _ odd lt ?_ hwf, halfwords_major odd, lt⟩
    unfold decodeMajor; rw [f1_6, e_d, e_a, e_i]; rfl
  exact key _ rfl
theorem Laws.RoundTrip.addiw (d : RegField) (a : RegField) (i : BitVec 13) : Statement (.addiw d a i) := by
  intro hwf _
  have key : ∀ q, q = encDAI 21 d a i → decodeWord q = some (.addiw d a i) ∧ halfwords q = 2 ∧ q < 2 ^ 32 := by
    intro q hq
    obtain ⟨odd, lt, f1_6, e_d, e_a, e_i⟩ := encDAI_fields 21 d a i (by decide) (by decide) hq
    refine ⟨decodeWord_of_major _ _ odd lt ?_ hwf, halfwords_major odd, lt⟩
    unfold decodeMajor; rw [f1_6, e_d, e_a, e_i]; rfl
  exact key _ rfl
theorem Laws.RoundTrip.slli (d : RegField) (a : RegField) (s : BitVec 6) : Statement (.slli d a s) := by
  intro hwf _
  have key : ∀ q, q = encDAS (19 + 0 * 2 ^ 25) d a s → decodeWord q = some (.slli d a s) ∧ halfwords q = 2 ∧ q < 2 ^ 32 := by
    intro q hq
    obtain ⟨odd, lt, f1_6, f25_7, e_d, e_a, e_s⟩ := encDAS_fields 19 0 d a s (by decide) (by decide) (by decide) hq
    refine ⟨decodeWord_of_major _ _ odd lt ?_ hwf, halfwords_major odd, lt⟩
    rw [decodeMajor_shiftimm f1_6]; unfold decodeShiftImm; rw [f25_7, e_d, e_a, e_s]
    rfl
  exact key _ rfl
theorem Laws.RoundTrip.srli (d : RegField) (a : RegField) (s : BitVec 6) : Statement (.srli d a s) := by
  intro hwf _
  have key : ∀ q, q = encDAS (19 + 2 * 2 ^ 25) d a s → decodeWord q = some (.srli d a s) ∧ halfwords q = 2 ∧ q < 2 ^ 32 := by
    intro q hq
    obtain ⟨odd, lt, f1_6, f25_7, e_d, e_a, e_s⟩ := encDAS_fields 19 2 d a s (by decide) (by decide) (by decide) hq
    refine ⟨decodeWord_of_major _ _ odd lt ?_ hwf, halfwords_major odd, lt⟩
    rw [decodeMajor_shiftimm f1_6]; unfold decodeShiftImm; rw [f25_7, e_d, e_a, e_s]
    rfl
  exact key _ rfl
theorem Laws.RoundTrip.srai (d : RegField) (a : RegField) (s : BitVec 6) : Statement (.srai d a s) := by
  intro hwf _
  have key : ∀ q, q = encDAS (19 + 4 * 2 ^ 25) d a s → decodeWord q = some (.srai d a s) ∧ halfwords q = 2 ∧ q < 2 ^ 32 := by
    intro q hq
    obtain ⟨odd, lt, f1_6, f25_7, e_d, e_a, e_s⟩ := encDAS_fields 19 4 d a s (by decide) (by decide) (by decide) hq
    refine ⟨decodeWord_of_major _ _ odd lt ?_ hwf, halfwords_major odd, lt⟩
    rw [decodeMajor_shiftimm f1_6]; unfold decodeShiftImm; rw [f25_7, e_d, e_a, e_s]
    rfl
  exact key _ rfl
theorem Laws.RoundTrip.slliw (d : RegField) (a : RegField) (s : BitVec 5) : Statement (.slliw d a s) := by
  intro hwf _
  have key : ∀ q, q = encDAS2 (19 + 12 * 2 ^ 24) d a s → decodeWord q = some (.slliw d a s) ∧ halfwords q = 2 ∧ q < 2 ^ 32 := by
    intro q hq
    obtain ⟨odd, lt, f1_6, f24_8, f25_7, e_d, e_a, e_s⟩ := encDAS2_fields 19 12 d a s (by decide) (by decide) (by decide) hq
    refine ⟨decodeWord_of_major _ _ odd lt ?_ hwf, halfwords_major odd, lt⟩
    rw [decodeMajor_shiftimm f1_6]; unfold decodeShiftImm; rw [f24_8, f25_7, e_d, e_a, e_s]
    rfl
  exact key _ rfl
theorem Laws.RoundTrip.srliw (d : RegField) (a : RegField) (s : BitVec 5) : Statement (.srliw d a s) := by
  intro hwf _
  have key : ∀ q, q = encDAS2 (19 + 16 * 2 ^ 24) d a s → decodeWord q = some (.srliw d a s) ∧ halfwords q = 2 ∧ q < 2 ^ 32 := by
    intro q hq
    obtain ⟨odd, lt, f1_6, f24_8, f25_7, e_d, e_a, e_s⟩ := encDAS2_fields 19 16 d a s (by decide) (by decide) (by decide) hq
    refine ⟨decodeWord_of_major _ _ odd lt ?_ hwf, halfwords_major odd, lt⟩
    rw [decodeMajor_shiftimm f1_6]; unfold decodeShiftImm; rw [f24_8, f25_7, e_d, e_a, e_s]
    rfl
  exact key _ rfl
theorem Laws.RoundTrip.sraiw (d : RegField) (a : RegField) (s : BitVec 5) : Statement (.sraiw d a s) := by
  intro hwf _
  have key : ∀ q, q = encDAS2 (19 + 20 * 2 ^ 24) d a s → decodeWord q = some (.sraiw d a s) ∧ halfwords q = 2 ∧ q < 2 ^ 32 := by
    intro q hq
    obtain ⟨odd, lt, f1_6, f24_8, f25_7, e_d, e_a, e_s⟩ := encDAS2_fields 19 20 d a s (by decide) (by decide) (by decide) hq
    refine ⟨decodeWord_of_major _ _ odd lt ?_ hwf, halfwords_major odd, lt⟩
    rw [decodeMajor_shiftimm f1_6]; unfold decodeShiftImm; rw [f24_8, f25_7, e_d, e_a, e_s]
    rfl
  exact key _ rfl
theorem Laws.RoundTrip.lui (d : RegField) (i : BitVec 19) : Statement (.lui d i) := by
  intro hwf _
  have key : ∀ q, q = encDI 23 d i → decodeWord q = some (.lui d i) ∧ halfwords q = 2 ∧ q < 2 ^ 32 := by
    intro q hq
    obtain ⟨odd, lt, f1_6, e_d, e_i⟩ := encDI_fields 23 d i (by decide) (by decide) hq
    refine ⟨decodeWord_of_major _ _ odd lt ?_ hwf, halfwords_major odd, lt⟩
    unfold decodeMajor; rw [f1_6, e_d, e_i]; rfl
  exact key _ rfl
theorem Laws.RoundTrip.lpc (d : RegField) (i : BitVec 19) : Statement (.lpc d i) := by
  intro hwf _
  have key : ∀ q, q = encDI 25 d i → decodeWord q = some (.lpc d i) ∧ halfwords q = 2 ∧ q < 2 ^ 32 := by
    intro q hq
    obtain ⟨odd, lt, f1_6, e_d, e_i⟩ := encDI_fields 25 d i (by decide) (by decide) hq
    refine ⟨decodeWord_of_major _ _ odd lt ?_ hwf, halfwords_major odd, lt⟩
    unfold decodeMajor; rw [f1_6, e_d, e_i]; rfl
  exact key _ rfl
theorem Laws.RoundTrip.jal (d : RegField) (i : BitVec 19) : Statement (.jal d i) := by
  intro hwf _
  have key : ∀ q, q = encDI 27 d i → decodeWord q = some (.jal d i) ∧ halfwords q = 2 ∧ q < 2 ^ 32 := by
    intro q hq
    obtain ⟨odd, lt, f1_6, e_d, e_i⟩ := encDI_fields 27 d i (by decide) (by decide) hq
    refine ⟨decodeWord_of_major _ _ odd lt ?_ hwf, halfwords_major odd, lt⟩
    unfold decodeMajor; rw [f1_6, e_d, e_i]; rfl
  exact key _ rfl
theorem Laws.RoundTrip.jalr (d : RegField) (a : RegField) (i : BitVec 13) : Statement (.jalr d a i) := by
  intro hwf _
  have key : ∀ q, q = encDAI 29 d a i → decodeWord q = some (.jalr d a i) ∧ halfwords q = 2 ∧ q < 2 ^ 32 := by
    intro q hq
    obtain ⟨odd, lt, f1_6, e_d, e_a, e_i⟩ := encDAI_fields 29 d a i (by decide) (by decide) hq
    refine ⟨decodeWord_of_major _ _ odd lt ?_ hwf, halfwords_major odd, lt⟩
    unfold decodeMajor; rw [f1_6, e_d, e_a, e_i]; rfl
  exact key _ rfl
theorem Laws.RoundTrip.beq (a : RegField) (b : RegField) (i : BitVec 13) : Statement (.beq a b i) := by
  intro hwf _
  have key : ∀ q, q = encABI 31 a b i → decodeWord q = some (.beq a b i) ∧ halfwords q = 2 ∧ q < 2 ^ 32 := by
    intro q hq
    obtain ⟨odd, lt, f1_6, e_a, e_b, e_i⟩ := encABI_fields 31 a b i (by decide) (by decide) hq
    refine ⟨decodeWord_of_major _ _ odd lt ?_ hwf, halfwords_major odd, lt⟩
    unfold decodeMajor; rw [f1_6, e_a, e_b, e_i]; rfl
  exact key _ rfl
theorem Laws.RoundTrip.bne (a : RegField) (b : RegField) (i : BitVec 13) : Statement (.bne a b i) := by
  intro hwf _
  have key : ∀ q, q = encABI 33 a b i → decodeWord q = some (.bne a b i) ∧ halfwords q = 2 ∧ q < 2 ^ 32 := by
    intro q hq
    obtain ⟨odd, lt, f1_6, e_a, e_b, e_i⟩ := encABI_fields 33 a b i (by decide) (by decide) hq
    refine ⟨decodeWord_of_major _ _ odd lt ?_ hwf, halfwords_major odd, lt⟩
    unfold decodeMajor; rw [f1_6, e_a, e_b, e_i]; rfl
  exact key _ rfl
theorem Laws.RoundTrip.blt (a : RegField) (b : RegField) (i : BitVec 13) : Statement (.blt a b i) := by
  intro hwf _
  have key : ∀ q, q = encABI 35 a b i → decodeWord q = some (.blt a b i) ∧ halfwords q = 2 ∧ q < 2 ^ 32 := by
    intro q hq
    obtain ⟨odd, lt, f1_6, e_a, e_b, e_i⟩ := encABI_fields 35 a b i (by decide) (by decide) hq
    refine ⟨decodeWord_of_major _ _ odd lt ?_ hwf, halfwords_major odd, lt⟩
    unfold decodeMajor; rw [f1_6, e_a, e_b, e_i]; rfl
  exact key _ rfl
theorem Laws.RoundTrip.bge (a : RegField) (b : RegField) (i : BitVec 13) : Statement (.bge a b i) := by
  intro hwf _
  have key : ∀ q, q = encABI 37 a b i → decodeWord q = some (.bge a b i) ∧ halfwords q = 2 ∧ q < 2 ^ 32 := by
    intro q hq
    obtain ⟨odd, lt, f1_6, e_a, e_b, e_i⟩ := encABI_fields 37 a b i (by decide) (by decide) hq
    refine ⟨decodeWord_of_major _ _ odd lt ?_ hwf, halfwords_major odd, lt⟩
    unfold decodeMajor; rw [f1_6, e_a, e_b, e_i]; rfl
  exact key _ rfl
theorem Laws.RoundTrip.bltu (a : RegField) (b : RegField) (i : BitVec 13) : Statement (.bltu a b i) := by
  intro hwf _
  have key : ∀ q, q = encABI 39 a b i → decodeWord q = some (.bltu a b i) ∧ halfwords q = 2 ∧ q < 2 ^ 32 := by
    intro q hq
    obtain ⟨odd, lt, f1_6, e_a, e_b, e_i⟩ := encABI_fields 39 a b i (by decide) (by decide) hq
    refine ⟨decodeWord_of_major _ _ odd lt ?_ hwf, halfwords_major odd, lt⟩
    unfold decodeMajor; rw [f1_6, e_a, e_b, e_i]; rfl
  exact key _ rfl
theorem Laws.RoundTrip.bgeu (a : RegField) (b : RegField) (i : BitVec 13) : Statement (.bgeu a b i) := by
  intro hwf _
  have key : ∀ q, q = encABI 41 a b i → decodeWord q = some (.bgeu a b i) ∧ halfwords q = 2 ∧ q < 2 ^ 32 := by
    intro q hq
    obtain ⟨odd, lt, f1_6, e_a, e_b, e_i⟩ := encABI_fields 41 a b i (by decide) (by decide) hq
    refine ⟨decodeWord_of_major _ _ odd lt ?_ hwf, halfwords_major odd, lt⟩
    unfold decodeMajor; rw [f1_6, e_a, e_b, e_i]; rfl
  exact key _ rfl
theorem Laws.RoundTrip.bany (a : RegField) (b : RegField) (i : BitVec 10) : Statement (.bany a b i) := by
  intro hwf _
  have key : ∀ q, q = encABI2 (43 + 0 * 2 ^ 19) a b i → decodeWord q = some (.bany a b i) ∧ halfwords q = 2 ∧ q < 2 ^ 32 := by
    intro q hq
    obtain ⟨odd, lt, f1_6, f19_3, e_a, e_b, e_i⟩ := encABI2_fields 43 0 a b i (by decide) (by decide) (by decide) hq
    refine ⟨decodeWord_of_major _ _ odd lt ?_ hwf, halfwords_major odd, lt⟩
    rw [decodeMajor_masktest f1_6]; unfold decodeMaskTest; rw [f19_3, e_a, e_b, e_i]
    rfl
  exact key _ rfl
theorem Laws.RoundTrip.ball (a : RegField) (b : RegField) (i : BitVec 10) : Statement (.ball a b i) := by
  intro hwf _
  have key : ∀ q, q = encABI2 (43 + 1 * 2 ^ 19) a b i → decodeWord q = some (.ball a b i) ∧ halfwords q = 2 ∧ q < 2 ^ 32 := by
    intro q hq
    obtain ⟨odd, lt, f1_6, f19_3, e_a, e_b, e_i⟩ := encABI2_fields 43 1 a b i (by decide) (by decide) (by decide) hq
    refine ⟨decodeWord_of_major _ _ odd lt ?_ hwf, halfwords_major odd, lt⟩
    rw [decodeMajor_masktest f1_6]; unfold decodeMaskTest; rw [f19_3, e_a, e_b, e_i]
    rfl
  exact key _ rfl
theorem Laws.RoundTrip.bnone (a : RegField) (b : RegField) (i : BitVec 10) : Statement (.bnone a b i) := by
  intro hwf _
  have key : ∀ q, q = encABI2 (43 + 2 * 2 ^ 19) a b i → decodeWord q = some (.bnone a b i) ∧ halfwords q = 2 ∧ q < 2 ^ 32 := by
    intro q hq
    obtain ⟨odd, lt, f1_6, f19_3, e_a, e_b, e_i⟩ := encABI2_fields 43 2 a b i (by decide) (by decide) (by decide) hq
    refine ⟨decodeWord_of_major _ _ odd lt ?_ hwf, halfwords_major odd, lt⟩
    rw [decodeMajor_masktest f1_6]; unfold decodeMaskTest; rw [f19_3, e_a, e_b, e_i]
    rfl
  exact key _ rfl
theorem Laws.RoundTrip.bbs (a : RegField) (n : BitVec 6) (i : BitVec 10) : Statement (.bbs a n i) := by
  intro hwf _
  have key : ∀ q, q = encANI (43 + 3 * 2 ^ 19) a n i → decodeWord q = some (.bbs a n i) ∧ halfwords q = 2 ∧ q < 2 ^ 32 := by
    intro q hq
    obtain ⟨odd, lt, f1_6, f19_3, e_a, e_n, e_i⟩ := encANI_fields 43 3 a n i (by decide) (by decide) (by decide) hq
    refine ⟨decodeWord_of_major _ _ odd lt ?_ hwf, halfwords_major odd, lt⟩
    rw [decodeMajor_masktest f1_6]; unfold decodeMaskTest; rw [f19_3, e_a, e_n, e_i]
    rfl
  exact key _ rfl
theorem Laws.RoundTrip.bbc (a : RegField) (n : BitVec 6) (i : BitVec 10) : Statement (.bbc a n i) := by
  intro hwf _
  have key : ∀ q, q = encANI (43 + 4 * 2 ^ 19) a n i → decodeWord q = some (.bbc a n i) ∧ halfwords q = 2 ∧ q < 2 ^ 32 := by
    intro q hq
    obtain ⟨odd, lt, f1_6, f19_3, e_a, e_n, e_i⟩ := encANI_fields 43 4 a n i (by decide) (by decide) (by decide) hq
    refine ⟨decodeWord_of_major _ _ odd lt ?_ hwf, halfwords_major odd, lt⟩
    rw [decodeMajor_masktest f1_6]; unfold decodeMaskTest; rw [f19_3, e_a, e_n, e_i]
    rfl
  exact key _ rfl
theorem Laws.RoundTrip.ldB (d : RegField) (base : RegField) (seg : SegField) (imm : BitVec 10) : Statement (.ldB d base seg imm) := by
  intro hwf _
  have key : ∀ q, q = encDBaseSegImm 49 d base seg imm → decodeWord q = some (.ldB d base seg imm) ∧ halfwords q = 2 ∧ q < 2 ^ 32 := by
    intro q hq
    obtain ⟨odd, lt, f1_6, e_d, e_base, e_seg, e_imm⟩ := encDBaseSegImm_fields 49 d base seg imm (by decide) (by decide) hq
    refine ⟨decodeWord_of_major _ _ odd lt ?_ hwf, halfwords_major odd, lt⟩
    unfold decodeMajor; rw [f1_6, e_d, e_base, e_seg, e_imm]; rfl
  exact key _ rfl
theorem Laws.RoundTrip.ldBu (d : RegField) (base : RegField) (seg : SegField) (imm : BitVec 10) : Statement (.ldBu d base seg imm) := by
  intro hwf _
  have key : ∀ q, q = encDBaseSegImm 51 d base seg imm → decodeWord q = some (.ldBu d base seg imm) ∧ halfwords q = 2 ∧ q < 2 ^ 32 := by
    intro q hq
    obtain ⟨odd, lt, f1_6, e_d, e_base, e_seg, e_imm⟩ := encDBaseSegImm_fields 51 d base seg imm (by decide) (by decide) hq
    refine ⟨decodeWord_of_major _ _ odd lt ?_ hwf, halfwords_major odd, lt⟩
    unfold decodeMajor; rw [f1_6, e_d, e_base, e_seg, e_imm]; rfl
  exact key _ rfl
theorem Laws.RoundTrip.ldH (d : RegField) (base : RegField) (seg : SegField) (imm : BitVec 10) : Statement (.ldH d base seg imm) := by
  intro hwf _
  have key : ∀ q, q = encDBaseSegImm 53 d base seg imm → decodeWord q = some (.ldH d base seg imm) ∧ halfwords q = 2 ∧ q < 2 ^ 32 := by
    intro q hq
    obtain ⟨odd, lt, f1_6, e_d, e_base, e_seg, e_imm⟩ := encDBaseSegImm_fields 53 d base seg imm (by decide) (by decide) hq
    refine ⟨decodeWord_of_major _ _ odd lt ?_ hwf, halfwords_major odd, lt⟩
    unfold decodeMajor; rw [f1_6, e_d, e_base, e_seg, e_imm]; rfl
  exact key _ rfl
theorem Laws.RoundTrip.ldHu (d : RegField) (base : RegField) (seg : SegField) (imm : BitVec 10) : Statement (.ldHu d base seg imm) := by
  intro hwf _
  have key : ∀ q, q = encDBaseSegImm 55 d base seg imm → decodeWord q = some (.ldHu d base seg imm) ∧ halfwords q = 2 ∧ q < 2 ^ 32 := by
    intro q hq
    obtain ⟨odd, lt, f1_6, e_d, e_base, e_seg, e_imm⟩ := encDBaseSegImm_fields 55 d base seg imm (by decide) (by decide) hq
    refine ⟨decodeWord_of_major _ _ odd lt ?_ hwf, halfwords_major odd, lt⟩
    unfold decodeMajor; rw [f1_6, e_d, e_base, e_seg, e_imm]; rfl
  exact key _ rfl
theorem Laws.RoundTrip.ldW (d : RegField) (base : RegField) (seg : SegField) (imm : BitVec 10) : Statement (.ldW d base seg imm) := by
  intro hwf _
  have key : ∀ q, q = encDBaseSegImm 57 d base seg imm → decodeWord q = some (.ldW d base seg imm) ∧ halfwords q = 2 ∧ q < 2 ^ 32 := by
    intro q hq
    obtain ⟨odd, lt, f1_6, e_d, e_base, e_seg, e_imm⟩ := encDBaseSegImm_fields 57 d base seg imm (by decide) (by decide) hq
    refine ⟨decodeWord_of_major _ _ odd lt ?_ hwf, halfwords_major odd, lt⟩
    unfold decodeMajor; rw [f1_6, e_d, e_base, e_seg, e_imm]; rfl
  exact key _ rfl
theorem Laws.RoundTrip.ldWu (d : RegField) (base : RegField) (seg : SegField) (imm : BitVec 10) : Statement (.ldWu d base seg imm) := by
  intro hwf _
  have key : ∀ q, q = encDBaseSegImm 59 d base seg imm → decodeWord q = some (.ldWu d base seg imm) ∧ halfwords q = 2 ∧ q < 2 ^ 32 := by
    intro q hq
    obtain ⟨odd, lt, f1_6, e_d, e_base, e_seg, e_imm⟩ := encDBaseSegImm_fields 59 d base seg imm (by decide) (by decide) hq
    refine ⟨decodeWord_of_major _ _ odd lt ?_ hwf, halfwords_major odd, lt⟩
    unfold decodeMajor; rw [f1_6, e_d, e_base, e_seg, e_imm]; rfl
  exact key _ rfl
theorem Laws.RoundTrip.ldD (d : RegField) (base : RegField) (seg : SegField) (imm : BitVec 10) : Statement (.ldD d base seg imm) := by
  intro hwf _
  have key : ∀ q, q = encDBaseSegImm 61 d base seg imm → decodeWord q = some (.ldD d base seg imm) ∧ halfwords q = 2 ∧ q < 2 ^ 32 := by
    intro q hq
    obtain ⟨odd, lt, f1_6, e_d, e_base, e_seg, e_imm⟩ := encDBaseSegImm_fields 61 d base seg imm (by decide) (by decide) hq
    refine ⟨decodeWord_of_major _ _ odd lt ?_ hwf, halfwords_major odd, lt⟩
    unfold decodeMajor; rw [f1_6, e_d, e_base, e_seg, e_imm]; rfl
  exact key _ rfl
theorem Laws.RoundTrip.stB (d : RegField) (base : RegField) (seg : SegField) (imm : BitVec 10) : Statement (.stB d base seg imm) := by
  intro hwf _
  have key : ∀ q, q = encDBaseSegImm 63 d base seg imm → decodeWord q = some (.stB d base seg imm) ∧ halfwords q = 2 ∧ q < 2 ^ 32 := by
    intro q hq
    obtain ⟨odd, lt, f1_6, e_d, e_base, e_seg, e_imm⟩ := encDBaseSegImm_fields 63 d base seg imm (by decide) (by decide) hq
    refine ⟨decodeWord_of_major _ _ odd lt ?_ hwf, halfwords_major odd, lt⟩
    unfold decodeMajor; rw [f1_6, e_d, e_base, e_seg, e_imm]; rfl
  exact key _ rfl
theorem Laws.RoundTrip.stH (d : RegField) (base : RegField) (seg : SegField) (imm : BitVec 10) : Statement (.stH d base seg imm) := by
  intro hwf _
  have key : ∀ q, q = encDBaseSegImm 65 d base seg imm → decodeWord q = some (.stH d base seg imm) ∧ halfwords q = 2 ∧ q < 2 ^ 32 := by
    intro q hq
    obtain ⟨odd, lt, f1_6, e_d, e_base, e_seg, e_imm⟩ := encDBaseSegImm_fields 65 d base seg imm (by decide) (by decide) hq
    refine ⟨decodeWord_of_major _ _ odd lt ?_ hwf, halfwords_major odd, lt⟩
    unfold decodeMajor; rw [f1_6, e_d, e_base, e_seg, e_imm]; rfl
  exact key _ rfl
theorem Laws.RoundTrip.stW (d : RegField) (base : RegField) (seg : SegField) (imm : BitVec 10) : Statement (.stW d base seg imm) := by
  intro hwf _
  have key : ∀ q, q = encDBaseSegImm 67 d base seg imm → decodeWord q = some (.stW d base seg imm) ∧ halfwords q = 2 ∧ q < 2 ^ 32 := by
    intro q hq
    obtain ⟨odd, lt, f1_6, e_d, e_base, e_seg, e_imm⟩ := encDBaseSegImm_fields 67 d base seg imm (by decide) (by decide) hq
    refine ⟨decodeWord_of_major _ _ odd lt ?_ hwf, halfwords_major odd, lt⟩
    unfold decodeMajor; rw [f1_6, e_d, e_base, e_seg, e_imm]; rfl
  exact key _ rfl
theorem Laws.RoundTrip.stD (d : RegField) (base : RegField) (seg : SegField) (imm : BitVec 10) : Statement (.stD d base seg imm) := by
  intro hwf _
  have key : ∀ q, q = encDBaseSegImm 69 d base seg imm → decodeWord q = some (.stD d base seg imm) ∧ halfwords q = 2 ∧ q < 2 ^ 32 := by
    intro q hq
    obtain ⟨odd, lt, f1_6, e_d, e_base, e_seg, e_imm⟩ := encDBaseSegImm_fields 69 d base seg imm (by decide) (by decide) hq
    refine ⟨decodeWord_of_major _ _ odd lt ?_ hwf, halfwords_major odd, lt⟩
    unfold decodeMajor; rw [f1_6, e_d, e_base, e_seg, e_imm]; rfl
  exact key _ rfl
theorem Laws.RoundTrip.vld (d : RegField) (base : RegField) (seg : SegField) (imm : BitVec 10) : Statement (.vld d base seg imm) := by
  intro hwf _
  have key : ∀ q, q = encDBaseSegImm 71 d base seg imm → decodeWord q = some (.vld d base seg imm) ∧ halfwords q = 2 ∧ q < 2 ^ 32 := by
    intro q hq
    obtain ⟨odd, lt, f1_6, e_d, e_base, e_seg, e_imm⟩ := encDBaseSegImm_fields 71 d base seg imm (by decide) (by decide) hq
    refine ⟨decodeWord_of_major _ _ odd lt ?_ hwf, halfwords_major odd, lt⟩
    unfold decodeMajor; rw [f1_6, e_d, e_base, e_seg, e_imm]; rfl
  exact key _ rfl
theorem Laws.RoundTrip.vst (d : RegField) (base : RegField) (seg : SegField) (imm : BitVec 10) : Statement (.vst d base seg imm) := by
  intro hwf _
  have key : ∀ q, q = encDBaseSegImm 73 d base seg imm → decodeWord q = some (.vst d base seg imm) ∧ halfwords q = 2 ∧ q < 2 ^ 32 := by
    intro q hq
    obtain ⟨odd, lt, f1_6, e_d, e_base, e_seg, e_imm⟩ := encDBaseSegImm_fields 73 d base seg imm (by decide) (by decide) hq
    refine ⟨decodeWord_of_major _ _ odd lt ?_ hwf, halfwords_major odd, lt⟩
    unfold decodeMajor; rw [f1_6, e_d, e_base, e_seg, e_imm]; rfl
  exact key _ rfl
theorem Laws.RoundTrip.ldBIndexed (d : RegField) (base : RegField) (idx : RegField) (seg : SegField) : Statement (.ldBIndexed d base idx seg) := by
  intro hwf _
  have key : ∀ q, q = encDBaseIdxSeg (75 + 0 * 2 ^ 28) d base idx seg → decodeWord q = some (.ldBIndexed d base idx seg) ∧ halfwords q = 2 ∧ q < 2 ^ 32 := by
    intro q hq
    obtain ⟨odd, lt, f1_6, f28_4, e_d, e_base, e_idx, e_seg⟩ := encDBaseIdxSeg_fields 75 0 d base idx seg (by decide) (by decide) (by decide) hq
    refine ⟨decodeWord_of_major _ _ odd lt ?_ hwf, halfwords_major odd, lt⟩
    rw [decodeMajor_indexed f1_6]; unfold decodeIndexed; rw [f28_4, e_d, e_base, e_idx, e_seg]
    rfl
  exact key _ rfl
theorem Laws.RoundTrip.ldBuIndexed (d : RegField) (base : RegField) (idx : RegField) (seg : SegField) : Statement (.ldBuIndexed d base idx seg) := by
  intro hwf _
  have key : ∀ q, q = encDBaseIdxSeg (75 + 1 * 2 ^ 28) d base idx seg → decodeWord q = some (.ldBuIndexed d base idx seg) ∧ halfwords q = 2 ∧ q < 2 ^ 32 := by
    intro q hq
    obtain ⟨odd, lt, f1_6, f28_4, e_d, e_base, e_idx, e_seg⟩ := encDBaseIdxSeg_fields 75 1 d base idx seg (by decide) (by decide) (by decide) hq
    refine ⟨decodeWord_of_major _ _ odd lt ?_ hwf, halfwords_major odd, lt⟩
    rw [decodeMajor_indexed f1_6]; unfold decodeIndexed; rw [f28_4, e_d, e_base, e_idx, e_seg]
    rfl
  exact key _ rfl
theorem Laws.RoundTrip.ldHIndexed (d : RegField) (base : RegField) (idx : RegField) (seg : SegField) : Statement (.ldHIndexed d base idx seg) := by
  intro hwf _
  have key : ∀ q, q = encDBaseIdxSeg (75 + 2 * 2 ^ 28) d base idx seg → decodeWord q = some (.ldHIndexed d base idx seg) ∧ halfwords q = 2 ∧ q < 2 ^ 32 := by
    intro q hq
    obtain ⟨odd, lt, f1_6, f28_4, e_d, e_base, e_idx, e_seg⟩ := encDBaseIdxSeg_fields 75 2 d base idx seg (by decide) (by decide) (by decide) hq
    refine ⟨decodeWord_of_major _ _ odd lt ?_ hwf, halfwords_major odd, lt⟩
    rw [decodeMajor_indexed f1_6]; unfold decodeIndexed; rw [f28_4, e_d, e_base, e_idx, e_seg]
    rfl
  exact key _ rfl
theorem Laws.RoundTrip.ldHuIndexed (d : RegField) (base : RegField) (idx : RegField) (seg : SegField) : Statement (.ldHuIndexed d base idx seg) := by
  intro hwf _
  have key : ∀ q, q = encDBaseIdxSeg (75 + 3 * 2 ^ 28) d base idx seg → decodeWord q = some (.ldHuIndexed d base idx seg) ∧ halfwords q = 2 ∧ q < 2 ^ 32 := by
    intro q hq
    obtain ⟨odd, lt, f1_6, f28_4, e_d, e_base, e_idx, e_seg⟩ := encDBaseIdxSeg_fields 75 3 d base idx seg (by decide) (by decide) (by decide) hq
    refine ⟨decodeWord_of_major _ _ odd lt ?_ hwf, halfwords_major odd, lt⟩
    rw [decodeMajor_indexed f1_6]; unfold decodeIndexed; rw [f28_4, e_d, e_base, e_idx, e_seg]
    rfl
  exact key _ rfl
theorem Laws.RoundTrip.ldWIndexed (d : RegField) (base : RegField) (idx : RegField) (seg : SegField) : Statement (.ldWIndexed d base idx seg) := by
  intro hwf _
  have key : ∀ q, q = encDBaseIdxSeg (75 + 4 * 2 ^ 28) d base idx seg → decodeWord q = some (.ldWIndexed d base idx seg) ∧ halfwords q = 2 ∧ q < 2 ^ 32 := by
    intro q hq
    obtain ⟨odd, lt, f1_6, f28_4, e_d, e_base, e_idx, e_seg⟩ := encDBaseIdxSeg_fields 75 4 d base idx seg (by decide) (by decide) (by decide) hq
    refine ⟨decodeWord_of_major _ _ odd lt ?_ hwf, halfwords_major odd, lt⟩
    rw [decodeMajor_indexed f1_6]; unfold decodeIndexed; rw [f28_4, e_d, e_base, e_idx, e_seg]
    rfl
  exact key _ rfl
theorem Laws.RoundTrip.ldWuIndexed (d : RegField) (base : RegField) (idx : RegField) (seg : SegField) : Statement (.ldWuIndexed d base idx seg) := by
  intro hwf _
  have key : ∀ q, q = encDBaseIdxSeg (75 + 5 * 2 ^ 28) d base idx seg → decodeWord q = some (.ldWuIndexed d base idx seg) ∧ halfwords q = 2 ∧ q < 2 ^ 32 := by
    intro q hq
    obtain ⟨odd, lt, f1_6, f28_4, e_d, e_base, e_idx, e_seg⟩ := encDBaseIdxSeg_fields 75 5 d base idx seg (by decide) (by decide) (by decide) hq
    refine ⟨decodeWord_of_major _ _ odd lt ?_ hwf, halfwords_major odd, lt⟩
    rw [decodeMajor_indexed f1_6]; unfold decodeIndexed; rw [f28_4, e_d, e_base, e_idx, e_seg]
    rfl
  exact key _ rfl
theorem Laws.RoundTrip.ldDIndexed (d : RegField) (base : RegField) (idx : RegField) (seg : SegField) : Statement (.ldDIndexed d base idx seg) := by
  intro hwf _
  have key : ∀ q, q = encDBaseIdxSeg (75 + 6 * 2 ^ 28) d base idx seg → decodeWord q = some (.ldDIndexed d base idx seg) ∧ halfwords q = 2 ∧ q < 2 ^ 32 := by
    intro q hq
    obtain ⟨odd, lt, f1_6, f28_4, e_d, e_base, e_idx, e_seg⟩ := encDBaseIdxSeg_fields 75 6 d base idx seg (by decide) (by decide) (by decide) hq
    refine ⟨decodeWord_of_major _ _ odd lt ?_ hwf, halfwords_major odd, lt⟩
    rw [decodeMajor_indexed f1_6]; unfold decodeIndexed; rw [f28_4, e_d, e_base, e_idx, e_seg]
    rfl
  exact key _ rfl
theorem Laws.RoundTrip.stBIndexed (d : RegField) (base : RegField) (idx : RegField) (seg : SegField) : Statement (.stBIndexed d base idx seg) := by
  intro hwf _
  have key : ∀ q, q = encDBaseIdxSeg (75 + 7 * 2 ^ 28) d base idx seg → decodeWord q = some (.stBIndexed d base idx seg) ∧ halfwords q = 2 ∧ q < 2 ^ 32 := by
    intro q hq
    obtain ⟨odd, lt, f1_6, f28_4, e_d, e_base, e_idx, e_seg⟩ := encDBaseIdxSeg_fields 75 7 d base idx seg (by decide) (by decide) (by decide) hq
    refine ⟨decodeWord_of_major _ _ odd lt ?_ hwf, halfwords_major odd, lt⟩
    rw [decodeMajor_indexed f1_6]; unfold decodeIndexed; rw [f28_4, e_d, e_base, e_idx, e_seg]
    rfl
  exact key _ rfl
theorem Laws.RoundTrip.stHIndexed (d : RegField) (base : RegField) (idx : RegField) (seg : SegField) : Statement (.stHIndexed d base idx seg) := by
  intro hwf _
  have key : ∀ q, q = encDBaseIdxSeg (75 + 8 * 2 ^ 28) d base idx seg → decodeWord q = some (.stHIndexed d base idx seg) ∧ halfwords q = 2 ∧ q < 2 ^ 32 := by
    intro q hq
    obtain ⟨odd, lt, f1_6, f28_4, e_d, e_base, e_idx, e_seg⟩ := encDBaseIdxSeg_fields 75 8 d base idx seg (by decide) (by decide) (by decide) hq
    refine ⟨decodeWord_of_major _ _ odd lt ?_ hwf, halfwords_major odd, lt⟩
    rw [decodeMajor_indexed f1_6]; unfold decodeIndexed; rw [f28_4, e_d, e_base, e_idx, e_seg]
    rfl
  exact key _ rfl
theorem Laws.RoundTrip.stWIndexed (d : RegField) (base : RegField) (idx : RegField) (seg : SegField) : Statement (.stWIndexed d base idx seg) := by
  intro hwf _
  have key : ∀ q, q = encDBaseIdxSeg (75 + 9 * 2 ^ 28) d base idx seg → decodeWord q = some (.stWIndexed d base idx seg) ∧ halfwords q = 2 ∧ q < 2 ^ 32 := by
    intro q hq
    obtain ⟨odd, lt, f1_6, f28_4, e_d, e_base, e_idx, e_seg⟩ := encDBaseIdxSeg_fields 75 9 d base idx seg (by decide) (by decide) (by decide) hq
    refine ⟨decodeWord_of_major _ _ odd lt ?_ hwf, halfwords_major odd, lt⟩
    rw [decodeMajor_indexed f1_6]; unfold decodeIndexed; rw [f28_4, e_d, e_base, e_idx, e_seg]
    rfl
  exact key _ rfl
theorem Laws.RoundTrip.stDIndexed (d : RegField) (base : RegField) (idx : RegField) (seg : SegField) : Statement (.stDIndexed d base idx seg) := by
  intro hwf _
  have key : ∀ q, q = encDBaseIdxSeg (75 + 10 * 2 ^ 28) d base idx seg → decodeWord q = some (.stDIndexed d base idx seg) ∧ halfwords q = 2 ∧ q < 2 ^ 32 := by
    intro q hq
    obtain ⟨odd, lt, f1_6, f28_4, e_d, e_base, e_idx, e_seg⟩ := encDBaseIdxSeg_fields 75 10 d base idx seg (by decide) (by decide) (by decide) hq
    refine ⟨decodeWord_of_major _ _ odd lt ?_ hwf, halfwords_major odd, lt⟩
    rw [decodeMajor_indexed f1_6]; unfold decodeIndexed; rw [f28_4, e_d, e_base, e_idx, e_seg]
    rfl
  exact key _ rfl
theorem Laws.RoundTrip.vldIndexed (d : RegField) (base : RegField) (idx : RegField) (seg : SegField) : Statement (.vldIndexed d base idx seg) := by
  intro hwf _
  have key : ∀ q, q = encDBaseIdxSeg (75 + 11 * 2 ^ 28) d base idx seg → decodeWord q = some (.vldIndexed d base idx seg) ∧ halfwords q = 2 ∧ q < 2 ^ 32 := by
    intro q hq
    obtain ⟨odd, lt, f1_6, f28_4, e_d, e_base, e_idx, e_seg⟩ := encDBaseIdxSeg_fields 75 11 d base idx seg (by decide) (by decide) (by decide) hq
    refine ⟨decodeWord_of_major _ _ odd lt ?_ hwf, halfwords_major odd, lt⟩
    rw [decodeMajor_indexed f1_6]; unfold decodeIndexed; rw [f28_4, e_d, e_base, e_idx, e_seg]
    rfl
  exact key _ rfl
theorem Laws.RoundTrip.vstIndexed (d : RegField) (base : RegField) (idx : RegField) (seg : SegField) : Statement (.vstIndexed d base idx seg) := by
  intro hwf _
  have key : ∀ q, q = encDBaseIdxSeg (75 + 12 * 2 ^ 28) d base idx seg → decodeWord q = some (.vstIndexed d base idx seg) ∧ halfwords q = 2 ∧ q < 2 ^ 32 := by
    intro q hq
    obtain ⟨odd, lt, f1_6, f28_4, e_d, e_base, e_idx, e_seg⟩ := encDBaseIdxSeg_fields 75 12 d base idx seg (by decide) (by decide) (by decide) hq
    refine ⟨decodeWord_of_major _ _ odd lt ?_ hwf, halfwords_major odd, lt⟩
    rw [decodeMajor_indexed f1_6]; unfold decodeIndexed; rw [f28_4, e_d, e_base, e_idx, e_seg]
    rfl
  exact key _ rfl
theorem Laws.RoundTrip.bwait (base : RegField) (seg : SegField) : Statement (.bwait base seg) := by
  intro hwf _
  have key : ∀ q, q = encBaseSeg (77 + 0 * 2 ^ 19 + 0 * 2 ^ 28) base seg → decodeWord q = some (.bwait base seg) ∧ halfwords q = 2 ∧ q < 2 ^ 32 := by
    intro q hq
    obtain ⟨odd, lt, f1_6, f7_6, f19_6, f28_4, e_base, e_seg⟩ := encBaseSeg_fields 77 0 0 base seg (by decide) (by decide) (by decide) (by decide) hq
    refine ⟨decodeWord_of_major _ _ odd lt ?_ hwf, halfwords_major odd, lt⟩
    rw [decodeMajor_block f1_6]; unfold decodeBlock; rw [f7_6, f19_6, f28_4, e_base, e_seg]
    rfl
  exact key _ rfl
theorem Laws.RoundTrip.bhold (d : RegField) (base : RegField) (seg : SegField) : Statement (.bhold d base seg) := by
  intro hwf _
  have key : ∀ q, q = encDBaseSeg (77 + 0 * 2 ^ 19 + 1 * 2 ^ 28) d base seg → decodeWord q = some (.bhold d base seg) ∧ halfwords q = 2 ∧ q < 2 ^ 32 := by
    intro q hq
    obtain ⟨odd, lt, f1_6, f19_6, f28_4, e_d, e_base, e_seg⟩ := encDBaseSeg_fields 77 0 1 d base seg (by decide) (by decide) (by decide) (by decide) hq
    refine ⟨decodeWord_of_major _ _ odd lt ?_ hwf, halfwords_major odd, lt⟩
    rw [decodeMajor_block f1_6]; unfold decodeBlock; rw [f19_6, f28_4, e_d, e_base, e_seg]
    rfl
  exact key _ rfl
theorem Laws.RoundTrip.barm (base : RegField) (idx : RegField) (seg : SegField) : Statement (.barm base idx seg) := by
  intro hwf _
  have key : ∀ q, q = encBaseIdxSeg (77 + 2 * 2 ^ 28) base idx seg → decodeWord q = some (.barm base idx seg) ∧ halfwords q = 2 ∧ q < 2 ^ 32 := by
    intro q hq
    obtain ⟨odd, lt, f1_6, f7_6, f28_4, e_base, e_idx, e_seg⟩ := encBaseIdxSeg_fields 77 2 base idx seg (by decide) (by decide) (by decide) hq
    refine ⟨decodeWord_of_major _ _ odd lt ?_ hwf, halfwords_major odd, lt⟩
    rw [decodeMajor_block f1_6]; unfold decodeBlock; rw [f7_6, f28_4, e_base, e_idx, e_seg]
    rfl
  exact key _ rfl
theorem Laws.RoundTrip.bpoll (d : RegField) (base : RegField) (seg : SegField) : Statement (.bpoll d base seg) := by
  intro hwf _
  have key : ∀ q, q = encDBaseSeg (77 + 0 * 2 ^ 19 + 3 * 2 ^ 28) d base seg → decodeWord q = some (.bpoll d base seg) ∧ halfwords q = 2 ∧ q < 2 ^ 32 := by
    intro q hq
    obtain ⟨odd, lt, f1_6, f19_6, f28_4, e_d, e_base, e_seg⟩ := encDBaseSeg_fields 77 0 3 d base seg (by decide) (by decide) (by decide) (by decide) hq
    refine ⟨decodeWord_of_major _ _ odd lt ?_ hwf, halfwords_major odd, lt⟩
    rw [decodeMajor_block f1_6]; unfold decodeBlock; rw [f19_6, f28_4, e_d, e_base, e_seg]
    rfl
  exact key _ rfl
theorem Laws.RoundTrip.bgen (d : RegField) (base : RegField) (seg : SegField) : Statement (.bgen d base seg) := by
  intro hwf _
  have key : ∀ q, q = encDBaseSeg (77 + 0 * 2 ^ 19 + 4 * 2 ^ 28) d base seg → decodeWord q = some (.bgen d base seg) ∧ halfwords q = 2 ∧ q < 2 ^ 32 := by
    intro q hq
    obtain ⟨odd, lt, f1_6, f19_6, f28_4, e_d, e_base, e_seg⟩ := encDBaseSeg_fields 77 0 4 d base seg (by decide) (by decide) (by decide) (by decide) hq
    refine ⟨decodeWord_of_major _ _ odd lt ?_ hwf, halfwords_major odd, lt⟩
    rw [decodeMajor_block f1_6]; unfold decodeBlock; rw [f19_6, f28_4, e_d, e_base, e_seg]
    rfl
  exact key _ rfl
theorem Laws.RoundTrip.bclr (base : RegField) (seg : SegField) : Statement (.bclr base seg) := by
  intro hwf _
  have key : ∀ q, q = encBaseSeg (77 + 0 * 2 ^ 19 + 5 * 2 ^ 28) base seg → decodeWord q = some (.bclr base seg) ∧ halfwords q = 2 ∧ q < 2 ^ 32 := by
    intro q hq
    obtain ⟨odd, lt, f1_6, f7_6, f19_6, f28_4, e_base, e_seg⟩ := encBaseSeg_fields 77 0 5 base seg (by decide) (by decide) (by decide) (by decide) hq
    refine ⟨decodeWord_of_major _ _ odd lt ?_ hwf, halfwords_major odd, lt⟩
    rw [decodeMajor_block f1_6]; unfold decodeBlock; rw [f7_6, f19_6, f28_4, e_base, e_seg]
    rfl
  exact key _ rfl
theorem Laws.RoundTrip.bclrG (base : RegField) (idx : RegField) (seg : SegField) : Statement (.bclrG base idx seg) := by
  intro hwf _
  have key : ∀ q, q = encBaseIdxSeg (77 + 6 * 2 ^ 28) base idx seg → decodeWord q = some (.bclrG base idx seg) ∧ halfwords q = 2 ∧ q < 2 ^ 32 := by
    intro q hq
    obtain ⟨odd, lt, f1_6, f7_6, f28_4, e_base, e_idx, e_seg⟩ := encBaseIdxSeg_fields 77 6 base idx seg (by decide) (by decide) (by decide) hq
    refine ⟨decodeWord_of_major _ _ odd lt ?_ hwf, halfwords_major odd, lt⟩
    rw [decodeMajor_block f1_6]; unfold decodeBlock; rw [f7_6, f28_4, e_base, e_idx, e_seg]
    rfl
  exact key _ rfl
theorem Laws.RoundTrip.bfin (base : RegField) (seg : SegField) : Statement (.bfin base seg) := by
  intro hwf _
  have key : ∀ q, q = encBaseSeg (77 + 0 * 2 ^ 19 + 7 * 2 ^ 28) base seg → decodeWord q = some (.bfin base seg) ∧ halfwords q = 2 ∧ q < 2 ^ 32 := by
    intro q hq
    obtain ⟨odd, lt, f1_6, f7_6, f19_6, f28_4, e_base, e_seg⟩ := encBaseSeg_fields 77 0 7 base seg (by decide) (by decide) (by decide) (by decide) hq
    refine ⟨decodeWord_of_major _ _ odd lt ?_ hwf, halfwords_major odd, lt⟩
    rw [decodeMajor_block f1_6]; unfold decodeBlock; rw [f7_6, f19_6, f28_4, e_base, e_seg]
    rfl
  exact key _ rfl
theorem Laws.RoundTrip.amoAddW (d : RegField) (base : RegField) (idx : RegField) (seg : SegField) : Statement (.amoAddW d base idx seg) := by
  intro hwf _
  have key : ∀ q, q = encDBaseIdxSeg (79 + 0 * 2 ^ 28) d base idx seg → decodeWord q = some (.amoAddW d base idx seg) ∧ halfwords q = 2 ∧ q < 2 ^ 32 := by
    intro q hq
    obtain ⟨odd, lt, f1_6, f28_4, e_d, e_base, e_idx, e_seg⟩ := encDBaseIdxSeg_fields 79 0 d base idx seg (by decide) (by decide) (by decide) hq
    refine ⟨decodeWord_of_major _ _ odd lt ?_ hwf, halfwords_major odd, lt⟩
    rw [decodeMajor_amow f1_6]; unfold decodeAmoW; rw [f28_4, e_d, e_base, e_idx, e_seg]
    rfl
  exact key _ rfl
theorem Laws.RoundTrip.amoAndW (d : RegField) (base : RegField) (idx : RegField) (seg : SegField) : Statement (.amoAndW d base idx seg) := by
  intro hwf _
  have key : ∀ q, q = encDBaseIdxSeg (79 + 1 * 2 ^ 28) d base idx seg → decodeWord q = some (.amoAndW d base idx seg) ∧ halfwords q = 2 ∧ q < 2 ^ 32 := by
    intro q hq
    obtain ⟨odd, lt, f1_6, f28_4, e_d, e_base, e_idx, e_seg⟩ := encDBaseIdxSeg_fields 79 1 d base idx seg (by decide) (by decide) (by decide) hq
    refine ⟨decodeWord_of_major _ _ odd lt ?_ hwf, halfwords_major odd, lt⟩
    rw [decodeMajor_amow f1_6]; unfold decodeAmoW; rw [f28_4, e_d, e_base, e_idx, e_seg]
    rfl
  exact key _ rfl
theorem Laws.RoundTrip.amoOrW (d : RegField) (base : RegField) (idx : RegField) (seg : SegField) : Statement (.amoOrW d base idx seg) := by
  intro hwf _
  have key : ∀ q, q = encDBaseIdxSeg (79 + 2 * 2 ^ 28) d base idx seg → decodeWord q = some (.amoOrW d base idx seg) ∧ halfwords q = 2 ∧ q < 2 ^ 32 := by
    intro q hq
    obtain ⟨odd, lt, f1_6, f28_4, e_d, e_base, e_idx, e_seg⟩ := encDBaseIdxSeg_fields 79 2 d base idx seg (by decide) (by decide) (by decide) hq
    refine ⟨decodeWord_of_major _ _ odd lt ?_ hwf, halfwords_major odd, lt⟩
    rw [decodeMajor_amow f1_6]; unfold decodeAmoW; rw [f28_4, e_d, e_base, e_idx, e_seg]
    rfl
  exact key _ rfl
theorem Laws.RoundTrip.amoXorW (d : RegField) (base : RegField) (idx : RegField) (seg : SegField) : Statement (.amoXorW d base idx seg) := by
  intro hwf _
  have key : ∀ q, q = encDBaseIdxSeg (79 + 3 * 2 ^ 28) d base idx seg → decodeWord q = some (.amoXorW d base idx seg) ∧ halfwords q = 2 ∧ q < 2 ^ 32 := by
    intro q hq
    obtain ⟨odd, lt, f1_6, f28_4, e_d, e_base, e_idx, e_seg⟩ := encDBaseIdxSeg_fields 79 3 d base idx seg (by decide) (by decide) (by decide) hq
    refine ⟨decodeWord_of_major _ _ odd lt ?_ hwf, halfwords_major odd, lt⟩
    rw [decodeMajor_amow f1_6]; unfold decodeAmoW; rw [f28_4, e_d, e_base, e_idx, e_seg]
    rfl
  exact key _ rfl
theorem Laws.RoundTrip.amoMinW (d : RegField) (base : RegField) (idx : RegField) (seg : SegField) : Statement (.amoMinW d base idx seg) := by
  intro hwf _
  have key : ∀ q, q = encDBaseIdxSeg (79 + 4 * 2 ^ 28) d base idx seg → decodeWord q = some (.amoMinW d base idx seg) ∧ halfwords q = 2 ∧ q < 2 ^ 32 := by
    intro q hq
    obtain ⟨odd, lt, f1_6, f28_4, e_d, e_base, e_idx, e_seg⟩ := encDBaseIdxSeg_fields 79 4 d base idx seg (by decide) (by decide) (by decide) hq
    refine ⟨decodeWord_of_major _ _ odd lt ?_ hwf, halfwords_major odd, lt⟩
    rw [decodeMajor_amow f1_6]; unfold decodeAmoW; rw [f28_4, e_d, e_base, e_idx, e_seg]
    rfl
  exact key _ rfl
theorem Laws.RoundTrip.amoMaxW (d : RegField) (base : RegField) (idx : RegField) (seg : SegField) : Statement (.amoMaxW d base idx seg) := by
  intro hwf _
  have key : ∀ q, q = encDBaseIdxSeg (79 + 5 * 2 ^ 28) d base idx seg → decodeWord q = some (.amoMaxW d base idx seg) ∧ halfwords q = 2 ∧ q < 2 ^ 32 := by
    intro q hq
    obtain ⟨odd, lt, f1_6, f28_4, e_d, e_base, e_idx, e_seg⟩ := encDBaseIdxSeg_fields 79 5 d base idx seg (by decide) (by decide) (by decide) hq
    refine ⟨decodeWord_of_major _ _ odd lt ?_ hwf, halfwords_major odd, lt⟩
    rw [decodeMajor_amow f1_6]; unfold decodeAmoW; rw [f28_4, e_d, e_base, e_idx, e_seg]
    rfl
  exact key _ rfl
theorem Laws.RoundTrip.amoMinuW (d : RegField) (base : RegField) (idx : RegField) (seg : SegField) : Statement (.amoMinuW d base idx seg) := by
  intro hwf _
  have key : ∀ q, q = encDBaseIdxSeg (79 + 6 * 2 ^ 28) d base idx seg → decodeWord q = some (.amoMinuW d base idx seg) ∧ halfwords q = 2 ∧ q < 2 ^ 32 := by
    intro q hq
    obtain ⟨odd, lt, f1_6, f28_4, e_d, e_base, e_idx, e_seg⟩ := encDBaseIdxSeg_fields 79 6 d base idx seg (by decide) (by decide) (by decide) hq
    refine ⟨decodeWord_of_major _ _ odd lt ?_ hwf, halfwords_major odd, lt⟩
    rw [decodeMajor_amow f1_6]; unfold decodeAmoW; rw [f28_4, e_d, e_base, e_idx, e_seg]
    rfl
  exact key _ rfl
theorem Laws.RoundTrip.amoMaxuW (d : RegField) (base : RegField) (idx : RegField) (seg : SegField) : Statement (.amoMaxuW d base idx seg) := by
  intro hwf _
  have key : ∀ q, q = encDBaseIdxSeg (79 + 7 * 2 ^ 28) d base idx seg → decodeWord q = some (.amoMaxuW d base idx seg) ∧ halfwords q = 2 ∧ q < 2 ^ 32 := by
    intro q hq
    obtain ⟨odd, lt, f1_6, f28_4, e_d, e_base, e_idx, e_seg⟩ := encDBaseIdxSeg_fields 79 7 d base idx seg (by decide) (by decide) (by decide) hq
    refine ⟨decodeWord_of_major _ _ odd lt ?_ hwf, halfwords_major odd, lt⟩
    rw [decodeMajor_amow f1_6]; unfold decodeAmoW; rw [f28_4, e_d, e_base, e_idx, e_seg]
    rfl
  exact key _ rfl
theorem Laws.RoundTrip.amoSwapW (d : RegField) (base : RegField) (idx : RegField) (seg : SegField) : Statement (.amoSwapW d base idx seg) := by
  intro hwf _
  have key : ∀ q, q = encDBaseIdxSeg (79 + 8 * 2 ^ 28) d base idx seg → decodeWord q = some (.amoSwapW d base idx seg) ∧ halfwords q = 2 ∧ q < 2 ^ 32 := by
    intro q hq
    obtain ⟨odd, lt, f1_6, f28_4, e_d, e_base, e_idx, e_seg⟩ := encDBaseIdxSeg_fields 79 8 d base idx seg (by decide) (by decide) (by decide) hq
    refine ⟨decodeWord_of_major _ _ odd lt ?_ hwf, halfwords_major odd, lt⟩
    rw [decodeMajor_amow f1_6]; unfold decodeAmoW; rw [f28_4, e_d, e_base, e_idx, e_seg]
    rfl
  exact key _ rfl
theorem Laws.RoundTrip.amoCasW (d : RegField) (base : RegField) (idx : RegField) (seg : SegField) : Statement (.amoCasW d base idx seg) := by
  intro hwf _
  have key : ∀ q, q = encDBaseIdxSeg (79 + 9 * 2 ^ 28) d base idx seg → decodeWord q = some (.amoCasW d base idx seg) ∧ halfwords q = 2 ∧ q < 2 ^ 32 := by
    intro q hq
    obtain ⟨odd, lt, f1_6, f28_4, e_d, e_base, e_idx, e_seg⟩ := encDBaseIdxSeg_fields 79 9 d base idx seg (by decide) (by decide) (by decide) hq
    refine ⟨decodeWord_of_major _ _ odd lt ?_ hwf, halfwords_major odd, lt⟩
    rw [decodeMajor_amow f1_6]; unfold decodeAmoW; rw [f28_4, e_d, e_base, e_idx, e_seg]
    rfl
  exact key _ rfl
theorem Laws.RoundTrip.amoFaddW (d : RegField) (base : RegField) (idx : RegField) (seg : SegField) : Statement (.amoFaddW d base idx seg) := by
  intro hwf _
  have key : ∀ q, q = encDBaseIdxSeg (79 + 10 * 2 ^ 28) d base idx seg → decodeWord q = some (.amoFaddW d base idx seg) ∧ halfwords q = 2 ∧ q < 2 ^ 32 := by
    intro q hq
    obtain ⟨odd, lt, f1_6, f28_4, e_d, e_base, e_idx, e_seg⟩ := encDBaseIdxSeg_fields 79 10 d base idx seg (by decide) (by decide) (by decide) hq
    refine ⟨decodeWord_of_major _ _ odd lt ?_ hwf, halfwords_major odd, lt⟩
    rw [decodeMajor_amow f1_6]; unfold decodeAmoW; rw [f28_4, e_d, e_base, e_idx, e_seg]
    rfl
  exact key _ rfl
theorem Laws.RoundTrip.amoIncW (d : RegField) (base : RegField) (idx : RegField) (seg : SegField) : Statement (.amoIncW d base idx seg) := by
  intro hwf _
  have key : ∀ q, q = encDBaseIdxSeg (79 + 11 * 2 ^ 28) d base idx seg → decodeWord q = some (.amoIncW d base idx seg) ∧ halfwords q = 2 ∧ q < 2 ^ 32 := by
    intro q hq
    obtain ⟨odd, lt, f1_6, f28_4, e_d, e_base, e_idx, e_seg⟩ := encDBaseIdxSeg_fields 79 11 d base idx seg (by decide) (by decide) (by decide) hq
    refine ⟨decodeWord_of_major _ _ odd lt ?_ hwf, halfwords_major odd, lt⟩
    rw [decodeMajor_amow f1_6]; unfold decodeAmoW; rw [f28_4, e_d, e_base, e_idx, e_seg]
    rfl
  exact key _ rfl
theorem Laws.RoundTrip.amoAddD (d : RegField) (base : RegField) (idx : RegField) (seg : SegField) : Statement (.amoAddD d base idx seg) := by
  intro hwf _
  have key : ∀ q, q = encDBaseIdxSeg (81 + 0 * 2 ^ 28) d base idx seg → decodeWord q = some (.amoAddD d base idx seg) ∧ halfwords q = 2 ∧ q < 2 ^ 32 := by
    intro q hq
    obtain ⟨odd, lt, f1_6, f28_4, e_d, e_base, e_idx, e_seg⟩ := encDBaseIdxSeg_fields 81 0 d base idx seg (by decide) (by decide) (by decide) hq
    refine ⟨decodeWord_of_major _ _ odd lt ?_ hwf, halfwords_major odd, lt⟩
    rw [decodeMajor_amod f1_6]; unfold decodeAmoD; rw [f28_4, e_d, e_base, e_idx, e_seg]
    rfl
  exact key _ rfl
theorem Laws.RoundTrip.amoAndD (d : RegField) (base : RegField) (idx : RegField) (seg : SegField) : Statement (.amoAndD d base idx seg) := by
  intro hwf _
  have key : ∀ q, q = encDBaseIdxSeg (81 + 1 * 2 ^ 28) d base idx seg → decodeWord q = some (.amoAndD d base idx seg) ∧ halfwords q = 2 ∧ q < 2 ^ 32 := by
    intro q hq
    obtain ⟨odd, lt, f1_6, f28_4, e_d, e_base, e_idx, e_seg⟩ := encDBaseIdxSeg_fields 81 1 d base idx seg (by decide) (by decide) (by decide) hq
    refine ⟨decodeWord_of_major _ _ odd lt ?_ hwf, halfwords_major odd, lt⟩
    rw [decodeMajor_amod f1_6]; unfold decodeAmoD; rw [f28_4, e_d, e_base, e_idx, e_seg]
    rfl
  exact key _ rfl
theorem Laws.RoundTrip.amoOrD (d : RegField) (base : RegField) (idx : RegField) (seg : SegField) : Statement (.amoOrD d base idx seg) := by
  intro hwf _
  have key : ∀ q, q = encDBaseIdxSeg (81 + 2 * 2 ^ 28) d base idx seg → decodeWord q = some (.amoOrD d base idx seg) ∧ halfwords q = 2 ∧ q < 2 ^ 32 := by
    intro q hq
    obtain ⟨odd, lt, f1_6, f28_4, e_d, e_base, e_idx, e_seg⟩ := encDBaseIdxSeg_fields 81 2 d base idx seg (by decide) (by decide) (by decide) hq
    refine ⟨decodeWord_of_major _ _ odd lt ?_ hwf, halfwords_major odd, lt⟩
    rw [decodeMajor_amod f1_6]; unfold decodeAmoD; rw [f28_4, e_d, e_base, e_idx, e_seg]
    rfl
  exact key _ rfl
theorem Laws.RoundTrip.amoXorD (d : RegField) (base : RegField) (idx : RegField) (seg : SegField) : Statement (.amoXorD d base idx seg) := by
  intro hwf _
  have key : ∀ q, q = encDBaseIdxSeg (81 + 3 * 2 ^ 28) d base idx seg → decodeWord q = some (.amoXorD d base idx seg) ∧ halfwords q = 2 ∧ q < 2 ^ 32 := by
    intro q hq
    obtain ⟨odd, lt, f1_6, f28_4, e_d, e_base, e_idx, e_seg⟩ := encDBaseIdxSeg_fields 81 3 d base idx seg (by decide) (by decide) (by decide) hq
    refine ⟨decodeWord_of_major _ _ odd lt ?_ hwf, halfwords_major odd, lt⟩
    rw [decodeMajor_amod f1_6]; unfold decodeAmoD; rw [f28_4, e_d, e_base, e_idx, e_seg]
    rfl
  exact key _ rfl
theorem Laws.RoundTrip.amoMinD (d : RegField) (base : RegField) (idx : RegField) (seg : SegField) : Statement (.amoMinD d base idx seg) := by
  intro hwf _
  have key : ∀ q, q = encDBaseIdxSeg (81 + 4 * 2 ^ 28) d base idx seg → decodeWord q = some (.amoMinD d base idx seg) ∧ halfwords q = 2 ∧ q < 2 ^ 32 := by
    intro q hq
    obtain ⟨odd, lt, f1_6, f28_4, e_d, e_base, e_idx, e_seg⟩ := encDBaseIdxSeg_fields 81 4 d base idx seg (by decide) (by decide) (by decide) hq
    refine ⟨decodeWord_of_major _ _ odd lt ?_ hwf, halfwords_major odd, lt⟩
    rw [decodeMajor_amod f1_6]; unfold decodeAmoD; rw [f28_4, e_d, e_base, e_idx, e_seg]
    rfl
  exact key _ rfl
theorem Laws.RoundTrip.amoMaxD (d : RegField) (base : RegField) (idx : RegField) (seg : SegField) : Statement (.amoMaxD d base idx seg) := by
  intro hwf _
  have key : ∀ q, q = encDBaseIdxSeg (81 + 5 * 2 ^ 28) d base idx seg → decodeWord q = some (.amoMaxD d base idx seg) ∧ halfwords q = 2 ∧ q < 2 ^ 32 := by
    intro q hq
    obtain ⟨odd, lt, f1_6, f28_4, e_d, e_base, e_idx, e_seg⟩ := encDBaseIdxSeg_fields 81 5 d base idx seg (by decide) (by decide) (by decide) hq
    refine ⟨decodeWord_of_major _ _ odd lt ?_ hwf, halfwords_major odd, lt⟩
    rw [decodeMajor_amod f1_6]; unfold decodeAmoD; rw [f28_4, e_d, e_base, e_idx, e_seg]
    rfl
  exact key _ rfl
theorem Laws.RoundTrip.amoMinuD (d : RegField) (base : RegField) (idx : RegField) (seg : SegField) : Statement (.amoMinuD d base idx seg) := by
  intro hwf _
  have key : ∀ q, q = encDBaseIdxSeg (81 + 6 * 2 ^ 28) d base idx seg → decodeWord q = some (.amoMinuD d base idx seg) ∧ halfwords q = 2 ∧ q < 2 ^ 32 := by
    intro q hq
    obtain ⟨odd, lt, f1_6, f28_4, e_d, e_base, e_idx, e_seg⟩ := encDBaseIdxSeg_fields 81 6 d base idx seg (by decide) (by decide) (by decide) hq
    refine ⟨decodeWord_of_major _ _ odd lt ?_ hwf, halfwords_major odd, lt⟩
    rw [decodeMajor_amod f1_6]; unfold decodeAmoD; rw [f28_4, e_d, e_base, e_idx, e_seg]
    rfl
  exact key _ rfl
theorem Laws.RoundTrip.amoMaxuD (d : RegField) (base : RegField) (idx : RegField) (seg : SegField) : Statement (.amoMaxuD d base idx seg) := by
  intro hwf _
  have key : ∀ q, q = encDBaseIdxSeg (81 + 7 * 2 ^ 28) d base idx seg → decodeWord q = some (.amoMaxuD d base idx seg) ∧ halfwords q = 2 ∧ q < 2 ^ 32 := by
    intro q hq
    obtain ⟨odd, lt, f1_6, f28_4, e_d, e_base, e_idx, e_seg⟩ := encDBaseIdxSeg_fields 81 7 d base idx seg (by decide) (by decide) (by decide) hq
    refine ⟨decodeWord_of_major _ _ odd lt ?_ hwf, halfwords_major odd, lt⟩
    rw [decodeMajor_amod f1_6]; unfold decodeAmoD; rw [f28_4, e_d, e_base, e_idx, e_seg]
    rfl
  exact key _ rfl
theorem Laws.RoundTrip.amoSwapD (d : RegField) (base : RegField) (idx : RegField) (seg : SegField) : Statement (.amoSwapD d base idx seg) := by
  intro hwf _
  have key : ∀ q, q = encDBaseIdxSeg (81 + 8 * 2 ^ 28) d base idx seg → decodeWord q = some (.amoSwapD d base idx seg) ∧ halfwords q = 2 ∧ q < 2 ^ 32 := by
    intro q hq
    obtain ⟨odd, lt, f1_6, f28_4, e_d, e_base, e_idx, e_seg⟩ := encDBaseIdxSeg_fields 81 8 d base idx seg (by decide) (by decide) (by decide) hq
    refine ⟨decodeWord_of_major _ _ odd lt ?_ hwf, halfwords_major odd, lt⟩
    rw [decodeMajor_amod f1_6]; unfold decodeAmoD; rw [f28_4, e_d, e_base, e_idx, e_seg]
    rfl
  exact key _ rfl
theorem Laws.RoundTrip.amoCasD (d : RegField) (base : RegField) (idx : RegField) (seg : SegField) : Statement (.amoCasD d base idx seg) := by
  intro hwf _
  have key : ∀ q, q = encDBaseIdxSeg (81 + 9 * 2 ^ 28) d base idx seg → decodeWord q = some (.amoCasD d base idx seg) ∧ halfwords q = 2 ∧ q < 2 ^ 32 := by
    intro q hq
    obtain ⟨odd, lt, f1_6, f28_4, e_d, e_base, e_idx, e_seg⟩ := encDBaseIdxSeg_fields 81 9 d base idx seg (by decide) (by decide) (by decide) hq
    refine ⟨decodeWord_of_major _ _ odd lt ?_ hwf, halfwords_major odd, lt⟩
    rw [decodeMajor_amod f1_6]; unfold decodeAmoD; rw [f28_4, e_d, e_base, e_idx, e_seg]
    rfl
  exact key _ rfl
theorem Laws.RoundTrip.amoIncD (d : RegField) (base : RegField) (idx : RegField) (seg : SegField) : Statement (.amoIncD d base idx seg) := by
  intro hwf _
  have key : ∀ q, q = encDBaseIdxSeg (81 + 11 * 2 ^ 28) d base idx seg → decodeWord q = some (.amoIncD d base idx seg) ∧ halfwords q = 2 ∧ q < 2 ^ 32 := by
    intro q hq
    obtain ⟨odd, lt, f1_6, f28_4, e_d, e_base, e_idx, e_seg⟩ := encDBaseIdxSeg_fields 81 11 d base idx seg (by decide) (by decide) (by decide) hq
    refine ⟨decodeWord_of_major _ _ odd lt ?_ hwf, halfwords_major odd, lt⟩
    rw [decodeMajor_amod f1_6]; unfold decodeAmoD; rw [f28_4, e_d, e_base, e_idx, e_seg]
    rfl
  exact key _ rfl
theorem Laws.RoundTrip.fenceAcq (s : Scope) : Statement (.fenceAcq s) := by
  intro hwf _
  have key : ∀ q, q = encS (83 + 0 * 2 ^ 23) s → decodeWord q = some (.fenceAcq s) ∧ halfwords q = 2 ∧ q < 2 ^ 32 := by
    intro q hq
    obtain ⟨odd, lt, f1_6, f7_14, f23_9, l_s, e_s⟩ := encS_fields 83 0 s (by decide) (by decide) (by decide) hq
    refine ⟨decodeWord_of_major _ _ odd lt ?_ hwf, halfwords_major odd, lt⟩
    rw [decodeMajor_fence f1_6]; unfold decodeFence; rw [f7_14, f23_9, l_s, e_s]
    cases s <;> rfl
  exact key _ rfl
theorem Laws.RoundTrip.fenceRel (s : Scope) : Statement (.fenceRel s) := by
  intro hwf _
  have key : ∀ q, q = encS (524371 + 0 * 2 ^ 23) s → decodeWord q = some (.fenceRel s) ∧ halfwords q = 2 ∧ q < 2 ^ 32 := by
    intro q hq
    obtain ⟨odd, lt, f1_6, f7_14, f23_9, l_s, e_s⟩ := encS_fields 524371 0 s (by decide) (by decide) (by decide) hq
    refine ⟨decodeWord_of_major _ _ odd lt ?_ hwf, halfwords_major odd, lt⟩
    rw [decodeMajor_fence f1_6]; unfold decodeFence; rw [f7_14, f23_9, l_s, e_s]
    cases s <;> rfl
  exact key _ rfl
theorem Laws.RoundTrip.fenceFull (s : Scope) : Statement (.fenceFull s) := by
  intro hwf _
  have key : ∀ q, q = encS (1048659 + 0 * 2 ^ 23) s → decodeWord q = some (.fenceFull s) ∧ halfwords q = 2 ∧ q < 2 ^ 32 := by
    intro q hq
    obtain ⟨odd, lt, f1_6, f7_14, f23_9, l_s, e_s⟩ := encS_fields 1048659 0 s (by decide) (by decide) (by decide) hq
    refine ⟨decodeWord_of_major _ _ odd lt ?_ hwf, halfwords_major odd, lt⟩
    rw [decodeMajor_fence f1_6]; unfold decodeFence; rw [f7_14, f23_9, l_s, e_s]
    cases s <;> rfl
  exact key _ rfl
theorem Laws.RoundTrip.rlx : Statement (.rlx) := by
  intro hwf _
  have key : ∀ q, q = encCCode 24 → decodeWord q = some (.rlx) ∧ halfwords q = 1 ∧ q < 2 ^ 16 := by
    intro q hq
    obtain ⟨odd, lt, f1_4, f5_11⟩ := encCCode_fields 24 (by decide) (by decide) hq
    refine ⟨decodeWord_of_compact _ _ odd lt ?_ hwf, halfwords_compact odd, lt⟩
    unfold decodeCompact; rw [f1_4, f5_11]; rfl
  exact key _ rfl
theorem Laws.RoundTrip.rep (count : BitVec 6) (stride : BitVec 5) : Statement (.rep count stride) := by
  intro hwf _
  have key : ∀ q, q = encCCountStride 26 count stride → decodeWord q = some (.rep count stride) ∧ halfwords q = 1 ∧ q < 2 ^ 16 := by
    intro q hq
    obtain ⟨odd, lt, f1_4, e_count, e_stride⟩ := encCCountStride_fields 26 count stride (by decide) (by decide) hq
    refine ⟨decodeWord_of_compact _ _ odd lt ?_ hwf, halfwords_compact odd, lt⟩
    unfold decodeCompact; rw [f1_4, e_count, e_stride]; rfl
  exact key _ rfl
theorem Laws.RoundTrip.cAddi (d : CReg) (a : CReg) (i : BitVec 5) : Statement (.cAddi d a i) := by
  intro hwf _
  have key : ∀ q, q = encCDAI 2 d a i → decodeWord q = some (.cAddi d a i) ∧ halfwords q = 1 ∧ q < 2 ^ 16 := by
    intro q hq
    obtain ⟨odd, lt, f1_4, e_d, e_a, e_i⟩ := encCDAI_fields 2 d a i (by decide) (by decide) hq
    refine ⟨decodeWord_of_compact _ _ odd lt ?_ hwf, halfwords_compact odd, lt⟩
    unfold decodeCompact; rw [f1_4, e_d, e_a, e_i]; rfl
  exact key _ rfl
theorem Laws.RoundTrip.cLi (d : CReg) (i : BitVec 8) : Statement (.cLi d i) := by
  intro hwf _
  have key : ∀ q, q = encCDI 4 d i → decodeWord q = some (.cLi d i) ∧ halfwords q = 1 ∧ q < 2 ^ 16 := by
    intro q hq
    obtain ⟨odd, lt, f1_4, e_d, e_i⟩ := encCDI_fields 4 d i (by decide) (by decide) hq
    refine ⟨decodeWord_of_compact _ _ odd lt ?_ hwf, halfwords_compact odd, lt⟩
    unfold decodeCompact; rw [f1_4, e_d, e_i]; rfl
  exact key _ rfl
theorem Laws.RoundTrip.cMv (d : CReg) (a : CReg) : Statement (.cMv d a) := by
  intro hwf _
  have key : ∀ q, q = encCDA (6 + 0 * 2 ^ 11) d a → decodeWord q = some (.cMv d a) ∧ halfwords q = 1 ∧ q < 2 ^ 16 := by
    intro q hq
    obtain ⟨odd, lt, f1_4, f11_5, e_d, e_a⟩ := encCDA_fields 6 0 d a (by decide) (by decide) (by decide) hq
    refine ⟨decodeWord_of_compact _ _ odd lt ?_ hwf, halfwords_compact odd, lt⟩
    unfold decodeCompact; rw [f1_4, f11_5, e_d, e_a]; rfl
  exact key _ rfl
theorem Laws.RoundTrip.cAdd (d : CReg) (a : CReg) : Statement (.cAdd d a) := by
  intro hwf _
  have key : ∀ q, q = encCDA (8 + 0 * 2 ^ 11) d a → decodeWord q = some (.cAdd d a) ∧ halfwords q = 1 ∧ q < 2 ^ 16 := by
    intro q hq
    obtain ⟨odd, lt, f1_4, f11_5, e_d, e_a⟩ := encCDA_fields 8 0 d a (by decide) (by decide) (by decide) hq
    refine ⟨decodeWord_of_compact _ _ odd lt ?_ hwf, halfwords_compact odd, lt⟩
    unfold decodeCompact; rw [f1_4, f11_5, e_d, e_a]; rfl
  exact key _ rfl
theorem Laws.RoundTrip.cSub (d : CReg) (a : CReg) : Statement (.cSub d a) := by
  intro hwf _
  have key : ∀ q, q = encCDA (10 + 0 * 2 ^ 11) d a → decodeWord q = some (.cSub d a) ∧ halfwords q = 1 ∧ q < 2 ^ 16 := by
    intro q hq
    obtain ⟨odd, lt, f1_4, f11_5, e_d, e_a⟩ := encCDA_fields 10 0 d a (by decide) (by decide) (by decide) hq
    refine ⟨decodeWord_of_compact _ _ odd lt ?_ hwf, halfwords_compact odd, lt⟩
    unfold decodeCompact; rw [f1_4, f11_5, e_d, e_a]; rfl
  exact key _ rfl
theorem Laws.RoundTrip.cAnd (d : CReg) (a : CReg) : Statement (.cAnd d a) := by
  intro hwf _
  have key : ∀ q, q = encCDA (10 + 1 * 2 ^ 11) d a → decodeWord q = some (.cAnd d a) ∧ halfwords q = 1 ∧ q < 2 ^ 16 := by
    intro q hq
    obtain ⟨odd, lt, f1_4, f11_5, e_d, e_a⟩ := encCDA_fields 10 1 d a (by decide) (by decide) (by decide) hq
    refine ⟨decodeWord_of_compact _ _ odd lt ?_ hwf, halfwords_compact odd, lt⟩
    unfold decodeCompact; rw [f1_4, f11_5, e_d, e_a]; rfl
  exact key _ rfl
theorem Laws.RoundTrip.cSlli (d : CReg) (s : BitVec 6) : Statement (.cSlli d s) := by
  intro hwf _
  have key : ∀ q, q = encCDS (12 + 0 * 2 ^ 14) d s → decodeWord q = some (.cSlli d s) ∧ halfwords q = 1 ∧ q < 2 ^ 16 := by
    intro q hq
    obtain ⟨odd, lt, f1_4, f14_2, e_d, e_s⟩ := encCDS_fields 12 0 d s (by decide) (by decide) (by decide) hq
    refine ⟨decodeWord_of_compact _ _ odd lt ?_ hwf, halfwords_compact odd, lt⟩
    unfold decodeCompact; rw [f1_4, f14_2, e_d, e_s]; rfl
  exact key _ rfl
theorem Laws.RoundTrip.cSrli (d : CReg) (s : BitVec 6) : Statement (.cSrli d s) := by
  intro hwf _
  have key : ∀ q, q = encCDS (12 + 2 * 2 ^ 14) d s → decodeWord q = some (.cSrli d s) ∧ halfwords q = 1 ∧ q < 2 ^ 16 := by
    intro q hq
    obtain ⟨odd, lt, f1_4, f14_2, e_d, e_s⟩ := encCDS_fields 12 2 d s (by decide) (by decide) (by decide) hq
    refine ⟨decodeWord_of_compact _ _ odd lt ?_ hwf, halfwords_compact odd, lt⟩
    unfold decodeCompact; rw [f1_4, f14_2, e_d, e_s]; rfl
  exact key _ rfl
theorem Laws.RoundTrip.cBeqz (a : CReg) (o : BitVec 7) : Statement (.cBeqz a o) := by
  intro hwf _
  have key : ∀ q, q = encCAO (14 + 0 * 2 ^ 15) a o → decodeWord q = some (.cBeqz a o) ∧ halfwords q = 1 ∧ q < 2 ^ 16 := by
    intro q hq
    obtain ⟨odd, lt, f1_4, f15_1, e_a, eo⟩ := encCAO_fields 14 0 a o (by decide) (by decide) (by decide) hq
    refine ⟨decodeWord_of_compact _ _ odd lt ?_ hwf, halfwords_compact odd, lt⟩
    unfold decodeCompact; rw [f1_4, f15_1, e_a, eo]; rfl
  exact key _ rfl
theorem Laws.RoundTrip.cBnez (a : CReg) (o : BitVec 7) : Statement (.cBnez a o) := by
  intro hwf _
  have key : ∀ q, q = encCAO (14 + 1 * 2 ^ 15) a o → decodeWord q = some (.cBnez a o) ∧ halfwords q = 1 ∧ q < 2 ^ 16 := by
    intro q hq
    obtain ⟨odd, lt, f1_4, f15_1, e_a, eo⟩ := encCAO_fields 14 1 a o (by decide) (by decide) (by decide) hq
    refine ⟨decodeWord_of_compact _ _ odd lt ?_ hwf, halfwords_compact odd, lt⟩
    unfold decodeCompact; rw [f1_4, f15_1, e_a, eo]; rfl
  exact key _ rfl
theorem Laws.RoundTrip.cLdD (d : CReg) (a : CReg) (i : BitVec 5) : Statement (.cLdD d a i) := by
  intro hwf _
  have key : ∀ q, q = encCDAI 16 d a i → decodeWord q = some (.cLdD d a i) ∧ halfwords q = 1 ∧ q < 2 ^ 16 := by
    intro q hq
    obtain ⟨odd, lt, f1_4, e_d, e_a, e_i⟩ := encCDAI_fields 16 d a i (by decide) (by decide) hq
    refine ⟨decodeWord_of_compact _ _ odd lt ?_ hwf, halfwords_compact odd, lt⟩
    unfold decodeCompact; rw [f1_4, e_d, e_a, e_i]; rfl
  exact key _ rfl
theorem Laws.RoundTrip.cStD (d : CReg) (a : CReg) (i : BitVec 5) : Statement (.cStD d a i) := by
  intro hwf _
  have key : ∀ q, q = encCDAI 18 d a i → decodeWord q = some (.cStD d a i) ∧ halfwords q = 1 ∧ q < 2 ^ 16 := by
    intro q hq
    obtain ⟨odd, lt, f1_4, e_d, e_a, e_i⟩ := encCDAI_fields 18 d a i (by decide) (by decide) hq
    refine ⟨decodeWord_of_compact _ _ odd lt ?_ hwf, halfwords_compact odd, lt⟩
    unfold decodeCompact; rw [f1_4, e_d, e_a, e_i]; rfl
  exact key _ rfl
theorem Laws.RoundTrip.cVld (d : CReg) (a : CReg) (i : BitVec 5) : Statement (.cVld d a i) := by
  intro hwf _
  have key : ∀ q, q = encCDAI 20 d a i → decodeWord q = some (.cVld d a i) ∧ halfwords q = 1 ∧ q < 2 ^ 16 := by
    intro q hq
    obtain ⟨odd, lt, f1_4, e_d, e_a, e_i⟩ := encCDAI_fields 20 d a i (by decide) (by decide) hq
    refine ⟨decodeWord_of_compact _ _ odd lt ?_ hwf, halfwords_compact odd, lt⟩
    unfold decodeCompact; rw [f1_4, e_d, e_a, e_i]; rfl
  exact key _ rfl
theorem Laws.RoundTrip.cVst (d : CReg) (a : CReg) (i : BitVec 5) : Statement (.cVst d a i) := by
  intro hwf _
  have key : ∀ q, q = encCDAI 22 d a i → decodeWord q = some (.cVst d a i) ∧ halfwords q = 1 ∧ q < 2 ^ 16 := by
    intro q hq
    obtain ⟨odd, lt, f1_4, e_d, e_a, e_i⟩ := encCDAI_fields 22 d a i (by decide) (by decide) hq
    refine ⟨decodeWord_of_compact _ _ odd lt ?_ hwf, halfwords_compact odd, lt⟩
    unfold decodeCompact; rw [f1_4, e_d, e_a, e_i]; rfl
  exact key _ rfl
theorem Laws.RoundTrip.cJ (o : BitVec 11) : Statement (.cJ o) := by
  intro hwf _
  have key : ∀ q, q = encCO 28 o → decodeWord q = some (.cJ o) ∧ halfwords q = 1 ∧ q < 2 ^ 16 := by
    intro q hq
    obtain ⟨odd, lt, f1_4, e_o⟩ := encCO_fields 28 o (by decide) (by decide) hq
    refine ⟨decodeWord_of_compact _ _ odd lt ?_ hwf, halfwords_compact odd, lt⟩
    unfold decodeCompact; rw [f1_4, e_o]; rfl
  exact key _ rfl
theorem Laws.RoundTrip.vadd (d : RegField) (a : RegField) (b : RegField) (w : Width) : Statement (.vadd d a b w) := by
  intro hwf _
  have key : ∀ q, q = encDABW (89 + 0 * 2 ^ 27) d a b w → decodeWord q = some (.vadd d a b w) ∧ halfwords q = 2 ∧ q < 2 ^ 32 := by
    intro q hq
    obtain ⟨odd, lt, f1_6, f27_5, e_d, e_a, e_b, e_w⟩ := encDABW_fields 89 0 d a b w (by decide) (by decide) (by decide) hq
    refine ⟨decodeWord_of_major _ _ odd lt ?_ hwf, halfwords_major odd, lt⟩
    rw [decodeMajor_vint f1_6]; unfold decodeVint; rw [f27_5, e_d, e_a, e_b, e_w]
    rfl
  exact key _ rfl
theorem Laws.RoundTrip.vsub (d : RegField) (a : RegField) (b : RegField) (w : Width) : Statement (.vsub d a b w) := by
  intro hwf _
  have key : ∀ q, q = encDABW (89 + 1 * 2 ^ 27) d a b w → decodeWord q = some (.vsub d a b w) ∧ halfwords q = 2 ∧ q < 2 ^ 32 := by
    intro q hq
    obtain ⟨odd, lt, f1_6, f27_5, e_d, e_a, e_b, e_w⟩ := encDABW_fields 89 1 d a b w (by decide) (by decide) (by decide) hq
    refine ⟨decodeWord_of_major _ _ odd lt ?_ hwf, halfwords_major odd, lt⟩
    rw [decodeMajor_vint f1_6]; unfold decodeVint; rw [f27_5, e_d, e_a, e_b, e_w]
    rfl
  exact key _ rfl
theorem Laws.RoundTrip.vadds (d : RegField) (a : RegField) (b : RegField) (w : Width) : Statement (.vadds d a b w) := by
  intro hwf _
  have key : ∀ q, q = encDABW (89 + 2 * 2 ^ 27) d a b w → decodeWord q = some (.vadds d a b w) ∧ halfwords q = 2 ∧ q < 2 ^ 32 := by
    intro q hq
    obtain ⟨odd, lt, f1_6, f27_5, e_d, e_a, e_b, e_w⟩ := encDABW_fields 89 2 d a b w (by decide) (by decide) (by decide) hq
    refine ⟨decodeWord_of_major _ _ odd lt ?_ hwf, halfwords_major odd, lt⟩
    rw [decodeMajor_vint f1_6]; unfold decodeVint; rw [f27_5, e_d, e_a, e_b, e_w]
    rfl
  exact key _ rfl
theorem Laws.RoundTrip.vaddsu (d : RegField) (a : RegField) (b : RegField) (w : Width) : Statement (.vaddsu d a b w) := by
  intro hwf _
  have key : ∀ q, q = encDABW (89 + 3 * 2 ^ 27) d a b w → decodeWord q = some (.vaddsu d a b w) ∧ halfwords q = 2 ∧ q < 2 ^ 32 := by
    intro q hq
    obtain ⟨odd, lt, f1_6, f27_5, e_d, e_a, e_b, e_w⟩ := encDABW_fields 89 3 d a b w (by decide) (by decide) (by decide) hq
    refine ⟨decodeWord_of_major _ _ odd lt ?_ hwf, halfwords_major odd, lt⟩
    rw [decodeMajor_vint f1_6]; unfold decodeVint; rw [f27_5, e_d, e_a, e_b, e_w]
    rfl
  exact key _ rfl
theorem Laws.RoundTrip.vsubs (d : RegField) (a : RegField) (b : RegField) (w : Width) : Statement (.vsubs d a b w) := by
  intro hwf _
  have key : ∀ q, q = encDABW (89 + 4 * 2 ^ 27) d a b w → decodeWord q = some (.vsubs d a b w) ∧ halfwords q = 2 ∧ q < 2 ^ 32 := by
    intro q hq
    obtain ⟨odd, lt, f1_6, f27_5, e_d, e_a, e_b, e_w⟩ := encDABW_fields 89 4 d a b w (by decide) (by decide) (by decide) hq
    refine ⟨decodeWord_of_major _ _ odd lt ?_ hwf, halfwords_major odd, lt⟩
    rw [decodeMajor_vint f1_6]; unfold decodeVint; rw [f27_5, e_d, e_a, e_b, e_w]
    rfl
  exact key _ rfl
theorem Laws.RoundTrip.vsubsu (d : RegField) (a : RegField) (b : RegField) (w : Width) : Statement (.vsubsu d a b w) := by
  intro hwf _
  have key : ∀ q, q = encDABW (89 + 5 * 2 ^ 27) d a b w → decodeWord q = some (.vsubsu d a b w) ∧ halfwords q = 2 ∧ q < 2 ^ 32 := by
    intro q hq
    obtain ⟨odd, lt, f1_6, f27_5, e_d, e_a, e_b, e_w⟩ := encDABW_fields 89 5 d a b w (by decide) (by decide) (by decide) hq
    refine ⟨decodeWord_of_major _ _ odd lt ?_ hwf, halfwords_major odd, lt⟩
    rw [decodeMajor_vint f1_6]; unfold decodeVint; rw [f27_5, e_d, e_a, e_b, e_w]
    rfl
  exact key _ rfl
theorem Laws.RoundTrip.vmul (d : RegField) (a : RegField) (b : RegField) (w : Width) : Statement (.vmul d a b w) := by
  intro hwf _
  have key : ∀ q, q = encDABW (89 + 6 * 2 ^ 27) d a b w → decodeWord q = some (.vmul d a b w) ∧ halfwords q = 2 ∧ q < 2 ^ 32 := by
    intro q hq
    obtain ⟨odd, lt, f1_6, f27_5, e_d, e_a, e_b, e_w⟩ := encDABW_fields 89 6 d a b w (by decide) (by decide) (by decide) hq
    refine ⟨decodeWord_of_major _ _ odd lt ?_ hwf, halfwords_major odd, lt⟩
    rw [decodeMajor_vint f1_6]; unfold decodeVint; rw [f27_5, e_d, e_a, e_b, e_w]
    rfl
  exact key _ rfl
theorem Laws.RoundTrip.vmulh (d : RegField) (a : RegField) (b : RegField) (w : Width) : Statement (.vmulh d a b w) := by
  intro hwf _
  have key : ∀ q, q = encDABW (89 + 7 * 2 ^ 27) d a b w → decodeWord q = some (.vmulh d a b w) ∧ halfwords q = 2 ∧ q < 2 ^ 32 := by
    intro q hq
    obtain ⟨odd, lt, f1_6, f27_5, e_d, e_a, e_b, e_w⟩ := encDABW_fields 89 7 d a b w (by decide) (by decide) (by decide) hq
    refine ⟨decodeWord_of_major _ _ odd lt ?_ hwf, halfwords_major odd, lt⟩
    rw [decodeMajor_vint f1_6]; unfold decodeVint; rw [f27_5, e_d, e_a, e_b, e_w]
    rfl
  exact key _ rfl
theorem Laws.RoundTrip.vmulhu (d : RegField) (a : RegField) (b : RegField) (w : Width) : Statement (.vmulhu d a b w) := by
  intro hwf _
  have key : ∀ q, q = encDABW (89 + 8 * 2 ^ 27) d a b w → decodeWord q = some (.vmulhu d a b w) ∧ halfwords q = 2 ∧ q < 2 ^ 32 := by
    intro q hq
    obtain ⟨odd, lt, f1_6, f27_5, e_d, e_a, e_b, e_w⟩ := encDABW_fields 89 8 d a b w (by decide) (by decide) (by decide) hq
    refine ⟨decodeWord_of_major _ _ odd lt ?_ hwf, halfwords_major odd, lt⟩
    rw [decodeMajor_vint f1_6]; unfold decodeVint; rw [f27_5, e_d, e_a, e_b, e_w]
    rfl
  exact key _ rfl
theorem Laws.RoundTrip.vmin (d : RegField) (a : RegField) (b : RegField) (w : Width) : Statement (.vmin d a b w) := by
  intro hwf _
  have key : ∀ q, q = encDABW (89 + 9 * 2 ^ 27) d a b w → decodeWord q = some (.vmin d a b w) ∧ halfwords q = 2 ∧ q < 2 ^ 32 := by
    intro q hq
    obtain ⟨odd, lt, f1_6, f27_5, e_d, e_a, e_b, e_w⟩ := encDABW_fields 89 9 d a b w (by decide) (by decide) (by decide) hq
    refine ⟨decodeWord_of_major _ _ odd lt ?_ hwf, halfwords_major odd, lt⟩
    rw [decodeMajor_vint f1_6]; unfold decodeVint; rw [f27_5, e_d, e_a, e_b, e_w]
    rfl
  exact key _ rfl
theorem Laws.RoundTrip.vminu (d : RegField) (a : RegField) (b : RegField) (w : Width) : Statement (.vminu d a b w) := by
  intro hwf _
  have key : ∀ q, q = encDABW (89 + 10 * 2 ^ 27) d a b w → decodeWord q = some (.vminu d a b w) ∧ halfwords q = 2 ∧ q < 2 ^ 32 := by
    intro q hq
    obtain ⟨odd, lt, f1_6, f27_5, e_d, e_a, e_b, e_w⟩ := encDABW_fields 89 10 d a b w (by decide) (by decide) (by decide) hq
    refine ⟨decodeWord_of_major _ _ odd lt ?_ hwf, halfwords_major odd, lt⟩
    rw [decodeMajor_vint f1_6]; unfold decodeVint; rw [f27_5, e_d, e_a, e_b, e_w]
    rfl
  exact key _ rfl
theorem Laws.RoundTrip.vmax (d : RegField) (a : RegField) (b : RegField) (w : Width) : Statement (.vmax d a b w) := by
  intro hwf _
  have key : ∀ q, q = encDABW (89 + 11 * 2 ^ 27) d a b w → decodeWord q = some (.vmax d a b w) ∧ halfwords q = 2 ∧ q < 2 ^ 32 := by
    intro q hq
    obtain ⟨odd, lt, f1_6, f27_5, e_d, e_a, e_b, e_w⟩ := encDABW_fields 89 11 d a b w (by decide) (by decide) (by decide) hq
    refine ⟨decodeWord_of_major _ _ odd lt ?_ hwf, halfwords_major odd, lt⟩
    rw [decodeMajor_vint f1_6]; unfold decodeVint; rw [f27_5, e_d, e_a, e_b, e_w]
    rfl
  exact key _ rfl
theorem Laws.RoundTrip.vmaxu (d : RegField) (a : RegField) (b : RegField) (w : Width) : Statement (.vmaxu d a b w) := by
  intro hwf _
  have key : ∀ q, q = encDABW (89 + 12 * 2 ^ 27) d a b w → decodeWord q = some (.vmaxu d a b w) ∧ halfwords q = 2 ∧ q < 2 ^ 32 := by
    intro q hq
    obtain ⟨odd, lt, f1_6, f27_5, e_d, e_a, e_b, e_w⟩ := encDABW_fields 89 12 d a b w (by decide) (by decide) (by decide) hq
    refine ⟨decodeWord_of_major _ _ odd lt ?_ hwf, halfwords_major odd, lt⟩
    rw [decodeMajor_vint f1_6]; unfold decodeVint; rw [f27_5, e_d, e_a, e_b, e_w]
    rfl
  exact key _ rfl
theorem Laws.RoundTrip.vabsd (d : RegField) (a : RegField) (b : RegField) (w : Width) : Statement (.vabsd d a b w) := by
  intro hwf _
  have key : ∀ q, q = encDABW (89 + 13 * 2 ^ 27) d a b w → decodeWord q = some (.vabsd d a b w) ∧ halfwords q = 2 ∧ q < 2 ^ 32 := by
    intro q hq
    obtain ⟨odd, lt, f1_6, f27_5, e_d, e_a, e_b, e_w⟩ := encDABW_fields 89 13 d a b w (by decide) (by decide) (by decide) hq
    refine ⟨decodeWord_of_major _ _ odd lt ?_ hwf, halfwords_major odd, lt⟩
    rw [decodeMajor_vint f1_6]; unfold decodeVint; rw [f27_5, e_d, e_a, e_b, e_w]
    rfl
  exact key _ rfl
theorem Laws.RoundTrip.vavgu (d : RegField) (a : RegField) (b : RegField) (w : Width) : Statement (.vavgu d a b w) := by
  intro hwf _
  have key : ∀ q, q = encDABW (89 + 14 * 2 ^ 27) d a b w → decodeWord q = some (.vavgu d a b w) ∧ halfwords q = 2 ∧ q < 2 ^ 32 := by
    intro q hq
    obtain ⟨odd, lt, f1_6, f27_5, e_d, e_a, e_b, e_w⟩ := encDABW_fields 89 14 d a b w (by decide) (by decide) (by decide) hq
    refine ⟨decodeWord_of_major _ _ odd lt ?_ hwf, halfwords_major odd, lt⟩
    rw [decodeMajor_vint f1_6]; unfold decodeVint; rw [f27_5, e_d, e_a, e_b, e_w]
    rfl
  exact key _ rfl
theorem Laws.RoundTrip.vand (d : RegField) (a : RegField) (b : RegField) : Statement (.vand d a b) := by
  intro hwf _
  have key : ∀ q, q = encDAB (91 + 0 * 2 ^ 25) d a b → decodeWord q = some (.vand d a b) ∧ halfwords q = 2 ∧ q < 2 ^ 32 := by
    intro q hq
    obtain ⟨odd, lt, f1_6, f25_7, e_d, e_a, e_b⟩ := encDAB_fields 91 0 d a b (by decide) (by decide) (by decide) hq
    refine ⟨decodeWord_of_major _ _ odd lt ?_ hwf, halfwords_major odd, lt⟩
    rw [decodeMajor_vlog f1_6]; unfold decodeVlog; rw [f25_7, e_d, e_a, e_b]
    rfl
  exact key _ rfl
theorem Laws.RoundTrip.vor (d : RegField) (a : RegField) (b : RegField) : Statement (.vor d a b) := by
  intro hwf _
  have key : ∀ q, q = encDAB (91 + 4 * 2 ^ 25) d a b → decodeWord q = some (.vor d a b) ∧ halfwords q = 2 ∧ q < 2 ^ 32 := by
    intro q hq
    obtain ⟨odd, lt, f1_6, f25_7, e_d, e_a, e_b⟩ := encDAB_fields 91 4 d a b (by decide) (by decide) (by decide) hq
    refine ⟨decodeWord_of_major _ _ odd lt ?_ hwf, halfwords_major odd, lt⟩
    rw [decodeMajor_vlog f1_6]; unfold decodeVlog; rw [f25_7, e_d, e_a, e_b]
    rfl
  exact key _ rfl
theorem Laws.RoundTrip.vxor (d : RegField) (a : RegField) (b : RegField) : Statement (.vxor d a b) := by
  intro hwf _
  have key : ∀ q, q = encDAB (91 + 8 * 2 ^ 25) d a b → decodeWord q = some (.vxor d a b) ∧ halfwords q = 2 ∧ q < 2 ^ 32 := by
    intro q hq
    obtain ⟨odd, lt, f1_6, f25_7, e_d, e_a, e_b⟩ := encDAB_fields 91 8 d a b (by decide) (by decide) (by decide) hq
    refine ⟨decodeWord_of_major _ _ odd lt ?_ hwf, halfwords_major odd, lt⟩
    rw [decodeMajor_vlog f1_6]; unfold decodeVlog; rw [f25_7, e_d, e_a, e_b]
    rfl
  exact key _ rfl
theorem Laws.RoundTrip.vandn (d : RegField) (a : RegField) (b : RegField) : Statement (.vandn d a b) := by
  intro hwf _
  have key : ∀ q, q = encDAB (91 + 12 * 2 ^ 25) d a b → decodeWord q = some (.vandn d a b) ∧ halfwords q = 2 ∧ q < 2 ^ 32 := by
    intro q hq
    obtain ⟨odd, lt, f1_6, f25_7, e_d, e_a, e_b⟩ := encDAB_fields 91 12 d a b (by decide) (by decide) (by decide) hq
    refine ⟨decodeWord_of_major _ _ odd lt ?_ hwf, halfwords_major odd, lt⟩
    rw [decodeMajor_vlog f1_6]; unfold decodeVlog; rw [f25_7, e_d, e_a, e_b]
    rfl
  exact key _ rfl
theorem Laws.RoundTrip.vbsl (d : RegField) (a : RegField) (b : RegField) : Statement (.vbsl d a b) := by
  intro hwf _
  have key : ∀ q, q = encDAB (91 + 16 * 2 ^ 25) d a b → decodeWord q = some (.vbsl d a b) ∧ halfwords q = 2 ∧ q < 2 ^ 32 := by
    intro q hq
    obtain ⟨odd, lt, f1_6, f25_7, e_d, e_a, e_b⟩ := encDAB_fields 91 16 d a b (by decide) (by decide) (by decide) hq
    refine ⟨decodeWord_of_major _ _ odd lt ?_ hwf, halfwords_major odd, lt⟩
    rw [decodeMajor_vlog f1_6]; unfold decodeVlog; rw [f25_7, e_d, e_a, e_b]
    rfl
  exact key _ rfl
theorem Laws.RoundTrip.vsll (d : RegField) (a : RegField) (b : RegField) (w : Width) : Statement (.vsll d a b w) := by
  intro hwf _
  have key : ∀ q, q = encDABW (91 + 5 * 2 ^ 27) d a b w → decodeWord q = some (.vsll d a b w) ∧ halfwords q = 2 ∧ q < 2 ^ 32 := by
    intro q hq
    obtain ⟨odd, lt, f1_6, f27_5, e_d, e_a, e_b, e_w⟩ := encDABW_fields 91 5 d a b w (by decide) (by decide) (by decide) hq
    refine ⟨decodeWord_of_major _ _ odd lt ?_ hwf, halfwords_major odd, lt⟩
    replace f27_5 : field _ 27 5 = 5 := f27_5
    rw [decodeMajor_vlog f1_6]; unfold decodeVlog
    rw [if_neg (fun h => field_ne 0 f27_5 (by decide) (by decide) (by decide) h),
      if_neg (fun h => field_ne 4 f27_5 (by decide) (by decide) (by decide) h),
      if_neg (fun h => field_ne 8 f27_5 (by decide) (by decide) (by decide) h),
      if_neg (fun h => field_ne 12 f27_5 (by decide) (by decide) (by decide) h),
      if_neg (fun h => field_ne 16 f27_5 (by decide) (by decide) (by decide) h),
      if_pos f27_5,
      e_d, e_a, e_b, e_w]
  exact key _ rfl
theorem Laws.RoundTrip.vsrl (d : RegField) (a : RegField) (b : RegField) (w : Width) : Statement (.vsrl d a b w) := by
  intro hwf _
  have key : ∀ q, q = encDABW (91 + 6 * 2 ^ 27) d a b w → decodeWord q = some (.vsrl d a b w) ∧ halfwords q = 2 ∧ q < 2 ^ 32 := by
    intro q hq
    obtain ⟨odd, lt, f1_6, f27_5, e_d, e_a, e_b, e_w⟩ := encDABW_fields 91 6 d a b w (by decide) (by decide) (by decide) hq
    refine ⟨decodeWord_of_major _ _ odd lt ?_ hwf, halfwords_major odd, lt⟩
    replace f27_5 : field _ 27 5 = 6 := f27_5
    rw [decodeMajor_vlog f1_6]; unfold decodeVlog
    rw [if_neg (fun h => field_ne 0 f27_5 (by decide) (by decide) (by decide) h),
      if_neg (fun h => field_ne 4 f27_5 (by decide) (by decide) (by decide) h),
      if_neg (fun h => field_ne 8 f27_5 (by decide) (by decide) (by decide) h),
      if_neg (fun h => field_ne 12 f27_5 (by decide) (by decide) (by decide) h),
      if_neg (fun h => field_ne 16 f27_5 (by decide) (by decide) (by decide) h),
      if_neg (fun h => absurd (f27_5.symm.trans h) (by decide)),
      if_pos f27_5,
      e_d, e_a, e_b, e_w]
  exact key _ rfl
theorem Laws.RoundTrip.vsra (d : RegField) (a : RegField) (b : RegField) (w : Width) : Statement (.vsra d a b w) := by
  intro hwf _
  have key : ∀ q, q = encDABW (91 + 7 * 2 ^ 27) d a b w → decodeWord q = some (.vsra d a b w) ∧ halfwords q = 2 ∧ q < 2 ^ 32 := by
    intro q hq
    obtain ⟨odd, lt, f1_6, f27_5, e_d, e_a, e_b, e_w⟩ := encDABW_fields 91 7 d a b w (by decide) (by decide) (by decide) hq
    refine ⟨decodeWord_of_major _ _ odd lt ?_ hwf, halfwords_major odd, lt⟩
    replace f27_5 : field _ 27 5 = 7 := f27_5
    rw [decodeMajor_vlog f1_6]; unfold decodeVlog
    rw [if_neg (fun h => field_ne 0 f27_5 (by decide) (by decide) (by decide) h),
      if_neg (fun h => field_ne 4 f27_5 (by decide) (by decide) (by decide) h),
      if_neg (fun h => field_ne 8 f27_5 (by decide) (by decide) (by decide) h),
      if_neg (fun h => field_ne 12 f27_5 (by decide) (by decide) (by decide) h),
      if_neg (fun h => field_ne 16 f27_5 (by decide) (by decide) (by decide) h),
      if_neg (fun h => absurd (f27_5.symm.trans h) (by decide)),
      if_neg (fun h => absurd (f27_5.symm.trans h) (by decide)),
      if_pos f27_5,
      e_d, e_a, e_b, e_w]
  exact key _ rfl
theorem Laws.RoundTrip.vslli (d : RegField) (a : RegField) (k : BitVec 6) (w : Width) : Statement (.vslli d a k w) := by
  intro hwf _
  have key : ∀ q, q = encDAKW (91 + 8 * 2 ^ 27) d a k w → decodeWord q = some (.vslli d a k w) ∧ halfwords q = 2 ∧ q < 2 ^ 32 := by
    intro q hq
    obtain ⟨odd, lt, f1_6, f27_5, e_d, e_a, e_k, e_w⟩ := encDAKW_fields 91 8 d a k w (by decide) (by decide) (by decide) hq
    refine ⟨decodeWord_of_major _ _ odd lt ?_ hwf, halfwords_major odd, lt⟩
    replace f27_5 : field _ 27 5 = 8 := f27_5
    rw [decodeMajor_vlog f1_6]; unfold decodeVlog
    rw [if_neg (fun h => field_ne 0 f27_5 (by decide) (by decide) (by decide) h),
      if_neg (fun h => field_ne 4 f27_5 (by decide) (by decide) (by decide) h),
      if_neg (fun h => field_ne 8 f27_5 (by decide) (by decide) (by decide) h),
      if_neg (fun h => field_ne 12 f27_5 (by decide) (by decide) (by decide) h),
      if_neg (fun h => field_ne 16 f27_5 (by decide) (by decide) (by decide) h),
      if_neg (fun h => absurd (f27_5.symm.trans h) (by decide)),
      if_neg (fun h => absurd (f27_5.symm.trans h) (by decide)),
      if_neg (fun h => absurd (f27_5.symm.trans h) (by decide)),
      if_pos f27_5,
      e_d, e_a, e_k, e_w]
  exact key _ rfl
theorem Laws.RoundTrip.vsrli (d : RegField) (a : RegField) (k : BitVec 6) (w : Width) : Statement (.vsrli d a k w) := by
  intro hwf _
  have key : ∀ q, q = encDAKW (91 + 9 * 2 ^ 27) d a k w → decodeWord q = some (.vsrli d a k w) ∧ halfwords q = 2 ∧ q < 2 ^ 32 := by
    intro q hq
    obtain ⟨odd, lt, f1_6, f27_5, e_d, e_a, e_k, e_w⟩ := encDAKW_fields 91 9 d a k w (by decide) (by decide) (by decide) hq
    refine ⟨decodeWord_of_major _ _ odd lt ?_ hwf, halfwords_major odd, lt⟩
    replace f27_5 : field _ 27 5 = 9 := f27_5
    rw [decodeMajor_vlog f1_6]; unfold decodeVlog
    rw [if_neg (fun h => field_ne 0 f27_5 (by decide) (by decide) (by decide) h),
      if_neg (fun h => field_ne 4 f27_5 (by decide) (by decide) (by decide) h),
      if_neg (fun h => field_ne 8 f27_5 (by decide) (by decide) (by decide) h),
      if_neg (fun h => field_ne 12 f27_5 (by decide) (by decide) (by decide) h),
      if_neg (fun h => field_ne 16 f27_5 (by decide) (by decide) (by decide) h),
      if_neg (fun h => absurd (f27_5.symm.trans h) (by decide)),
      if_neg (fun h => absurd (f27_5.symm.trans h) (by decide)),
      if_neg (fun h => absurd (f27_5.symm.trans h) (by decide)),
      if_neg (fun h => absurd (f27_5.symm.trans h) (by decide)),
      if_pos f27_5,
      e_d, e_a, e_k, e_w]
  exact key _ rfl
theorem Laws.RoundTrip.vsrai (d : RegField) (a : RegField) (k : BitVec 6) (w : Width) : Statement (.vsrai d a k w) := by
  intro hwf _
  have key : ∀ q, q = encDAKW (91 + 10 * 2 ^ 27) d a k w → decodeWord q = some (.vsrai d a k w) ∧ halfwords q = 2 ∧ q < 2 ^ 32 := by
    intro q hq
    obtain ⟨odd, lt, f1_6, f27_5, e_d, e_a, e_k, e_w⟩ := encDAKW_fields 91 10 d a k w (by decide) (by decide) (by decide) hq
    refine ⟨decodeWord_of_major _ _ odd lt ?_ hwf, halfwords_major odd, lt⟩
    replace f27_5 : field _ 27 5 = 10 := f27_5
    rw [decodeMajor_vlog f1_6]; unfold decodeVlog
    rw [if_neg (fun h => field_ne 0 f27_5 (by decide) (by decide) (by decide) h),
      if_neg (fun h => field_ne 4 f27_5 (by decide) (by decide) (by decide) h),
      if_neg (fun h => field_ne 8 f27_5 (by decide) (by decide) (by decide) h),
      if_neg (fun h => field_ne 12 f27_5 (by decide) (by decide) (by decide) h),
      if_neg (fun h => field_ne 16 f27_5 (by decide) (by decide) (by decide) h),
      if_neg (fun h => absurd (f27_5.symm.trans h) (by decide)),
      if_neg (fun h => absurd (f27_5.symm.trans h) (by decide)),
      if_neg (fun h => absurd (f27_5.symm.trans h) (by decide)),
      if_neg (fun h => absurd (f27_5.symm.trans h) (by decide)),
      if_neg (fun h => absurd (f27_5.symm.trans h) (by decide)),
      if_pos f27_5,
      e_d, e_a, e_k, e_w]
  exact key _ rfl
theorem Laws.RoundTrip.vceq (d : RegField) (a : RegField) (b : RegField) (w : Width) : Statement (.vceq d a b w) := by
  intro hwf _
  have key : ∀ q, q = encDABW (93 + 0 * 2 ^ 27) d a b w → decodeWord q = some (.vceq d a b w) ∧ halfwords q = 2 ∧ q < 2 ^ 32 := by
    intro q hq
    obtain ⟨odd, lt, f1_6, f27_5, e_d, e_a, e_b, e_w⟩ := encDABW_fields 93 0 d a b w (by decide) (by decide) (by decide) hq
    refine ⟨decodeWord_of_major _ _ odd lt ?_ hwf, halfwords_major odd, lt⟩
    rw [decodeMajor_vcmp f1_6]; unfold decodeVcmp; rw [f27_5, e_d, e_a, e_b, e_w]
    rfl
  exact key _ rfl
theorem Laws.RoundTrip.vcne (d : RegField) (a : RegField) (b : RegField) (w : Width) : Statement (.vcne d a b w) := by
  intro hwf _
  have key : ∀ q, q = encDABW (93 + 1 * 2 ^ 27) d a b w → decodeWord q = some (.vcne d a b w) ∧ halfwords q = 2 ∧ q < 2 ^ 32 := by
    intro q hq
    obtain ⟨odd, lt, f1_6, f27_5, e_d, e_a, e_b, e_w⟩ := encDABW_fields 93 1 d a b w (by decide) (by decide) (by decide) hq
    refine ⟨decodeWord_of_major _ _ odd lt ?_ hwf, halfwords_major odd, lt⟩
    rw [decodeMajor_vcmp f1_6]; unfold decodeVcmp; rw [f27_5, e_d, e_a, e_b, e_w]
    rfl
  exact key _ rfl
theorem Laws.RoundTrip.vclt (d : RegField) (a : RegField) (b : RegField) (w : Width) : Statement (.vclt d a b w) := by
  intro hwf _
  have key : ∀ q, q = encDABW (93 + 2 * 2 ^ 27) d a b w → decodeWord q = some (.vclt d a b w) ∧ halfwords q = 2 ∧ q < 2 ^ 32 := by
    intro q hq
    obtain ⟨odd, lt, f1_6, f27_5, e_d, e_a, e_b, e_w⟩ := encDABW_fields 93 2 d a b w (by decide) (by decide) (by decide) hq
    refine ⟨decodeWord_of_major _ _ odd lt ?_ hwf, halfwords_major odd, lt⟩
    rw [decodeMajor_vcmp f1_6]; unfold decodeVcmp; rw [f27_5, e_d, e_a, e_b, e_w]
    rfl
  exact key _ rfl
theorem Laws.RoundTrip.vcltu (d : RegField) (a : RegField) (b : RegField) (w : Width) : Statement (.vcltu d a b w) := by
  intro hwf _
  have key : ∀ q, q = encDABW (93 + 3 * 2 ^ 27) d a b w → decodeWord q = some (.vcltu d a b w) ∧ halfwords q = 2 ∧ q < 2 ^ 32 := by
    intro q hq
    obtain ⟨odd, lt, f1_6, f27_5, e_d, e_a, e_b, e_w⟩ := encDABW_fields 93 3 d a b w (by decide) (by decide) (by decide) hq
    refine ⟨decodeWord_of_major _ _ odd lt ?_ hwf, halfwords_major odd, lt⟩
    rw [decodeMajor_vcmp f1_6]; unfold decodeVcmp; rw [f27_5, e_d, e_a, e_b, e_w]
    rfl
  exact key _ rfl
theorem Laws.RoundTrip.vcle (d : RegField) (a : RegField) (b : RegField) (w : Width) : Statement (.vcle d a b w) := by
  intro hwf _
  have key : ∀ q, q = encDABW (93 + 4 * 2 ^ 27) d a b w → decodeWord q = some (.vcle d a b w) ∧ halfwords q = 2 ∧ q < 2 ^ 32 := by
    intro q hq
    obtain ⟨odd, lt, f1_6, f27_5, e_d, e_a, e_b, e_w⟩ := encDABW_fields 93 4 d a b w (by decide) (by decide) (by decide) hq
    refine ⟨decodeWord_of_major _ _ odd lt ?_ hwf, halfwords_major odd, lt⟩
    rw [decodeMajor_vcmp f1_6]; unfold decodeVcmp; rw [f27_5, e_d, e_a, e_b, e_w]
    rfl
  exact key _ rfl
theorem Laws.RoundTrip.vcleu (d : RegField) (a : RegField) (b : RegField) (w : Width) : Statement (.vcleu d a b w) := by
  intro hwf _
  have key : ∀ q, q = encDABW (93 + 5 * 2 ^ 27) d a b w → decodeWord q = some (.vcleu d a b w) ∧ halfwords q = 2 ∧ q < 2 ^ 32 := by
    intro q hq
    obtain ⟨odd, lt, f1_6, f27_5, e_d, e_a, e_b, e_w⟩ := encDABW_fields 93 5 d a b w (by decide) (by decide) (by decide) hq
    refine ⟨decodeWord_of_major _ _ odd lt ?_ hwf, halfwords_major odd, lt⟩
    rw [decodeMajor_vcmp f1_6]; unfold decodeVcmp; rw [f27_5, e_d, e_a, e_b, e_w]
    rfl
  exact key _ rfl
theorem Laws.RoundTrip.vfceq (d : RegField) (a : RegField) (b : RegField) (t : FType) : Statement (.vfceq d a b t) := by
  intro hwf _
  have key : ∀ q, q = encDABT (93 + 6 * 2 ^ 27) d a b t → decodeWord q = some (.vfceq d a b t) ∧ halfwords q = 2 ∧ q < 2 ^ 32 := by
    intro q hq
    obtain ⟨odd, lt, f1_6, f27_5, e_d, e_a, e_b, l_t, e_t⟩ := encDABT_fields 93 6 d a b t (by decide) (by decide) (by decide) hq
    refine ⟨decodeWord_of_major _ _ odd lt ?_ hwf, halfwords_major odd, lt⟩
    rw [decodeMajor_vcmp f1_6]; unfold decodeVcmp; rw [f27_5, l_t, e_d, e_a, e_b, e_t]
    cases t <;> rfl
  exact key _ rfl
theorem Laws.RoundTrip.vfcne (d : RegField) (a : RegField) (b : RegField) (t : FType) : Statement (.vfcne d a b t) := by
  intro hwf _
  have key : ∀ q, q = encDABT (93 + 7 * 2 ^ 27) d a b t → decodeWord q = some (.vfcne d a b t) ∧ halfwords q = 2 ∧ q < 2 ^ 32 := by
    intro q hq
    obtain ⟨odd, lt, f1_6, f27_5, e_d, e_a, e_b, l_t, e_t⟩ := encDABT_fields 93 7 d a b t (by decide) (by decide) (by decide) hq
    refine ⟨decodeWord_of_major _ _ odd lt ?_ hwf, halfwords_major odd, lt⟩
    rw [decodeMajor_vcmp f1_6]; unfold decodeVcmp; rw [f27_5, l_t, e_d, e_a, e_b, e_t]
    cases t <;> rfl
  exact key _ rfl
theorem Laws.RoundTrip.vfclt (d : RegField) (a : RegField) (b : RegField) (t : FType) : Statement (.vfclt d a b t) := by
  intro hwf _
  have key : ∀ q, q = encDABT (93 + 8 * 2 ^ 27) d a b t → decodeWord q = some (.vfclt d a b t) ∧ halfwords q = 2 ∧ q < 2 ^ 32 := by
    intro q hq
    obtain ⟨odd, lt, f1_6, f27_5, e_d, e_a, e_b, l_t, e_t⟩ := encDABT_fields 93 8 d a b t (by decide) (by decide) (by decide) hq
    refine ⟨decodeWord_of_major _ _ odd lt ?_ hwf, halfwords_major odd, lt⟩
    rw [decodeMajor_vcmp f1_6]; unfold decodeVcmp; rw [f27_5, l_t, e_d, e_a, e_b, e_t]
    cases t <;> rfl
  exact key _ rfl
theorem Laws.RoundTrip.vfcle (d : RegField) (a : RegField) (b : RegField) (t : FType) : Statement (.vfcle d a b t) := by
  intro hwf _
  have key : ∀ q, q = encDABT (93 + 9 * 2 ^ 27) d a b t → decodeWord q = some (.vfcle d a b t) ∧ halfwords q = 2 ∧ q < 2 ^ 32 := by
    intro q hq
    obtain ⟨odd, lt, f1_6, f27_5, e_d, e_a, e_b, l_t, e_t⟩ := encDABT_fields 93 9 d a b t (by decide) (by decide) (by decide) hq
    refine ⟨decodeWord_of_major _ _ odd lt ?_ hwf, halfwords_major odd, lt⟩
    rw [decodeMajor_vcmp f1_6]; unfold decodeVcmp; rw [f27_5, l_t, e_d, e_a, e_b, e_t]
    cases t <;> rfl
  exact key _ rfl
theorem Laws.RoundTrip.vfcun (d : RegField) (a : RegField) (b : RegField) (t : FType) : Statement (.vfcun d a b t) := by
  intro hwf _
  have key : ∀ q, q = encDABT (93 + 10 * 2 ^ 27) d a b t → decodeWord q = some (.vfcun d a b t) ∧ halfwords q = 2 ∧ q < 2 ^ 32 := by
    intro q hq
    obtain ⟨odd, lt, f1_6, f27_5, e_d, e_a, e_b, l_t, e_t⟩ := encDABT_fields 93 10 d a b t (by decide) (by decide) (by decide) hq
    refine ⟨decodeWord_of_major _ _ odd lt ?_ hwf, halfwords_major odd, lt⟩
    rw [decodeMajor_vcmp f1_6]; unfold decodeVcmp; rw [f27_5, l_t, e_d, e_a, e_b, e_t]
    cases t <;> rfl
  exact key _ rfl
theorem Laws.RoundTrip.vshuf (d : RegField) (a : RegField) (b : RegField) (w : Width) : Statement (.vshuf d a b w) := by
  intro hwf _
  have key : ∀ q, q = encDABW (95 + 0 * 2 ^ 27) d a b w → decodeWord q = some (.vshuf d a b w) ∧ halfwords q = 2 ∧ q < 2 ^ 32 := by
    intro q hq
    obtain ⟨odd, lt, f1_6, f27_5, e_d, e_a, e_b, e_w⟩ := encDABW_fields 95 0 d a b w (by decide) (by decide) (by decide) hq
    refine ⟨decodeWord_of_major _ _ odd lt ?_ hwf, halfwords_major odd, lt⟩
    rw [decodeMajor_vperm f1_6]; unfold decodeVperm; rw [f27_5, e_d, e_a, e_b, e_w]
    rfl
  exact key _ rfl
theorem Laws.RoundTrip.vzipl (d : RegField) (a : RegField) (b : RegField) (w : Width) : Statement (.vzipl d a b w) := by
  intro hwf _
  have key : ∀ q, q = encDABW (95 + 1 * 2 ^ 27) d a b w → decodeWord q = some (.vzipl d a b w) ∧ halfwords q = 2 ∧ q < 2 ^ 32 := by
    intro q hq
    obtain ⟨odd, lt, f1_6, f27_5, e_d, e_a, e_b, e_w⟩ := encDABW_fields 95 1 d a b w (by decide) (by decide) (by decide) hq
    refine ⟨decodeWord_of_major _ _ odd lt ?_ hwf, halfwords_major odd, lt⟩
    rw [decodeMajor_vperm f1_6]; unfold decodeVperm; rw [f27_5, e_d, e_a, e_b, e_w]
    rfl
  exact key _ rfl
theorem Laws.RoundTrip.vziph (d : RegField) (a : RegField) (b : RegField) (w : Width) : Statement (.vziph d a b w) := by
  intro hwf _
  have key : ∀ q, q = encDABW (95 + 2 * 2 ^ 27) d a b w → decodeWord q = some (.vziph d a b w) ∧ halfwords q = 2 ∧ q < 2 ^ 32 := by
    intro q hq
    obtain ⟨odd, lt, f1_6, f27_5, e_d, e_a, e_b, e_w⟩ := encDABW_fields 95 2 d a b w (by decide) (by decide) (by decide) hq
    refine ⟨decodeWord_of_major _ _ odd lt ?_ hwf, halfwords_major odd, lt⟩
    rw [decodeMajor_vperm f1_6]; unfold decodeVperm; rw [f27_5, e_d, e_a, e_b, e_w]
    rfl
  exact key _ rfl
theorem Laws.RoundTrip.vunzipe (d : RegField) (a : RegField) (b : RegField) (w : Width) : Statement (.vunzipe d a b w) := by
  intro hwf _
  have key : ∀ q, q = encDABW (95 + 3 * 2 ^ 27) d a b w → decodeWord q = some (.vunzipe d a b w) ∧ halfwords q = 2 ∧ q < 2 ^ 32 := by
    intro q hq
    obtain ⟨odd, lt, f1_6, f27_5, e_d, e_a, e_b, e_w⟩ := encDABW_fields 95 3 d a b w (by decide) (by decide) (by decide) hq
    refine ⟨decodeWord_of_major _ _ odd lt ?_ hwf, halfwords_major odd, lt⟩
    rw [decodeMajor_vperm f1_6]; unfold decodeVperm; rw [f27_5, e_d, e_a, e_b, e_w]
    rfl
  exact key _ rfl
theorem Laws.RoundTrip.vunzipo (d : RegField) (a : RegField) (b : RegField) (w : Width) : Statement (.vunzipo d a b w) := by
  intro hwf _
  have key : ∀ q, q = encDABW (95 + 4 * 2 ^ 27) d a b w → decodeWord q = some (.vunzipo d a b w) ∧ halfwords q = 2 ∧ q < 2 ^ 32 := by
    intro q hq
    obtain ⟨odd, lt, f1_6, f27_5, e_d, e_a, e_b, e_w⟩ := encDABW_fields 95 4 d a b w (by decide) (by decide) (by decide) hq
    refine ⟨decodeWord_of_major _ _ odd lt ?_ hwf, halfwords_major odd, lt⟩
    rw [decodeMajor_vperm f1_6]; unfold decodeVperm; rw [f27_5, e_d, e_a, e_b, e_w]
    rfl
  exact key _ rfl
theorem Laws.RoundTrip.vrev (d : RegField) (a : RegField) (w : Width) : Statement (.vrev d a w) := by
  intro hwf _
  have key : ∀ q, q = encDAW (95 + 0 * 2 ^ 19 + 5 * 2 ^ 27) d a w → decodeWord q = some (.vrev d a w) ∧ halfwords q = 2 ∧ q < 2 ^ 32 := by
    intro q hq
    obtain ⟨odd, lt, f1_6, f19_6, f27_5, e_d, e_a, e_w⟩ := encDAW_fields 95 0 5 d a w (by decide) (by decide) (by decide) (by decide) hq
    refine ⟨decodeWord_of_major _ _ odd lt ?_ hwf, halfwords_major odd, lt⟩
    rw [decodeMajor_vperm f1_6]; unfold decodeVperm; rw [f19_6, f27_5, e_d, e_a, e_w]
    rfl
  exact key _ rfl
theorem Laws.RoundTrip.vpacks (d : RegField) (a : RegField) (b : RegField) (w : Width) : Statement (.vpacks d a b w) := by
  intro hwf _
  have key : ∀ q, q = encDABW (95 + 6 * 2 ^ 27) d a b w → decodeWord q = some (.vpacks d a b w) ∧ halfwords q = 2 ∧ q < 2 ^ 32 := by
    intro q hq
    obtain ⟨odd, lt, f1_6, f27_5, e_d, e_a, e_b, e_w⟩ := encDABW_fields 95 6 d a b w (by decide) (by decide) (by decide) hq
    refine ⟨decodeWord_of_major _ _ odd lt ?_ hwf, halfwords_major odd, lt⟩
    rw [decodeMajor_vperm f1_6]; unfold decodeVperm; rw [f27_5, e_d, e_a, e_b, e_w]
    rfl
  exact key _ rfl
theorem Laws.RoundTrip.vpacksu (d : RegField) (a : RegField) (b : RegField) (w : Width) : Statement (.vpacksu d a b w) := by
  intro hwf _
  have key : ∀ q, q = encDABW (95 + 7 * 2 ^ 27) d a b w → decodeWord q = some (.vpacksu d a b w) ∧ halfwords q = 2 ∧ q < 2 ^ 32 := by
    intro q hq
    obtain ⟨odd, lt, f1_6, f27_5, e_d, e_a, e_b, e_w⟩ := encDABW_fields 95 7 d a b w (by decide) (by decide) (by decide) hq
    refine ⟨decodeWord_of_major _ _ odd lt ?_ hwf, halfwords_major odd, lt⟩
    rw [decodeMajor_vperm f1_6]; unfold decodeVperm; rw [f27_5, e_d, e_a, e_b, e_w]
    rfl
  exact key _ rfl
theorem Laws.RoundTrip.vwidenl (d : RegField) (a : RegField) (w : Width) : Statement (.vwidenl d a w) := by
  intro hwf _
  have key : ∀ q, q = encDAW (95 + 0 * 2 ^ 19 + 8 * 2 ^ 27) d a w → decodeWord q = some (.vwidenl d a w) ∧ halfwords q = 2 ∧ q < 2 ^ 32 := by
    intro q hq
    obtain ⟨odd, lt, f1_6, f19_6, f27_5, e_d, e_a, e_w⟩ := encDAW_fields 95 0 8 d a w (by decide) (by decide) (by decide) (by decide) hq
    refine ⟨decodeWord_of_major _ _ odd lt ?_ hwf, halfwords_major odd, lt⟩
    rw [decodeMajor_vperm f1_6]; unfold decodeVperm; rw [f19_6, f27_5, e_d, e_a, e_w]
    rfl
  exact key _ rfl
theorem Laws.RoundTrip.vwidenh (d : RegField) (a : RegField) (w : Width) : Statement (.vwidenh d a w) := by
  intro hwf _
  have key : ∀ q, q = encDAW (95 + 0 * 2 ^ 19 + 9 * 2 ^ 27) d a w → decodeWord q = some (.vwidenh d a w) ∧ halfwords q = 2 ∧ q < 2 ^ 32 := by
    intro q hq
    obtain ⟨odd, lt, f1_6, f19_6, f27_5, e_d, e_a, e_w⟩ := encDAW_fields 95 0 9 d a w (by decide) (by decide) (by decide) (by decide) hq
    refine ⟨decodeWord_of_major _ _ odd lt ?_ hwf, halfwords_major odd, lt⟩
    rw [decodeMajor_vperm f1_6]; unfold decodeVperm; rw [f19_6, f27_5, e_d, e_a, e_w]
    rfl
  exact key _ rfl
theorem Laws.RoundTrip.vwidenlu (d : RegField) (a : RegField) (w : Width) : Statement (.vwidenlu d a w) := by
  intro hwf _
  have key : ∀ q, q = encDAW (95 + 0 * 2 ^ 19 + 10 * 2 ^ 27) d a w → decodeWord q = some (.vwidenlu d a w) ∧ halfwords q = 2 ∧ q < 2 ^ 32 := by
    intro q hq
    obtain ⟨odd, lt, f1_6, f19_6, f27_5, e_d, e_a, e_w⟩ := encDAW_fields 95 0 10 d a w (by decide) (by decide) (by decide) (by decide) hq
    refine ⟨decodeWord_of_major _ _ odd lt ?_ hwf, halfwords_major odd, lt⟩
    rw [decodeMajor_vperm f1_6]; unfold decodeVperm; rw [f19_6, f27_5, e_d, e_a, e_w]
    rfl
  exact key _ rfl
theorem Laws.RoundTrip.vwidenhu (d : RegField) (a : RegField) (w : Width) : Statement (.vwidenhu d a w) := by
  intro hwf _
  have key : ∀ q, q = encDAW (95 + 0 * 2 ^ 19 + 11 * 2 ^ 27) d a w → decodeWord q = some (.vwidenhu d a w) ∧ halfwords q = 2 ∧ q < 2 ^ 32 := by
    intro q hq
    obtain ⟨odd, lt, f1_6, f19_6, f27_5, e_d, e_a, e_w⟩ := encDAW_fields 95 0 11 d a w (by decide) (by decide) (by decide) (by decide) hq
    refine ⟨decodeWord_of_major _ _ odd lt ?_ hwf, halfwords_major odd, lt⟩
    rw [decodeMajor_vperm f1_6]; unfold decodeVperm; rw [f19_6, f27_5, e_d, e_a, e_w]
    rfl
  exact key _ rfl
theorem Laws.RoundTrip.vfadd (d : RegField) (a : RegField) (b : RegField) (t : FType) : Statement (.vfadd d a b t) := by
  intro hwf _
  have key : ∀ q, q = encDABT (97 + 0 * 2 ^ 27) d a b t → decodeWord q = some (.vfadd d a b t) ∧ halfwords q = 2 ∧ q < 2 ^ 32 := by
    intro q hq
    obtain ⟨odd, lt, f1_6, f27_5, e_d, e_a, e_b, l_t, e_t⟩ := encDABT_fields 97 0 d a b t (by decide) (by decide) (by decide) hq
    refine ⟨decodeWord_of_major _ _ odd lt ?_ hwf, halfwords_major odd, lt⟩
    rw [decodeMajor_vfp f1_6]; unfold decodeVfp; rw [f27_5, l_t, e_d, e_a, e_b, e_t]
    cases t <;> rfl
  exact key _ rfl
theorem Laws.RoundTrip.vfsub (d : RegField) (a : RegField) (b : RegField) (t : FType) : Statement (.vfsub d a b t) := by
  intro hwf _
  have key : ∀ q, q = encDABT (97 + 1 * 2 ^ 27) d a b t → decodeWord q = some (.vfsub d a b t) ∧ halfwords q = 2 ∧ q < 2 ^ 32 := by
    intro q hq
    obtain ⟨odd, lt, f1_6, f27_5, e_d, e_a, e_b, l_t, e_t⟩ := encDABT_fields 97 1 d a b t (by decide) (by decide) (by decide) hq
    refine ⟨decodeWord_of_major _ _ odd lt ?_ hwf, halfwords_major odd, lt⟩
    rw [decodeMajor_vfp f1_6]; unfold decodeVfp; rw [f27_5, l_t, e_d, e_a, e_b, e_t]
    cases t <;> rfl
  exact key _ rfl
theorem Laws.RoundTrip.vfmul (d : RegField) (a : RegField) (b : RegField) (t : FType) : Statement (.vfmul d a b t) := by
  intro hwf _
  have key : ∀ q, q = encDABT (97 + 2 * 2 ^ 27) d a b t → decodeWord q = some (.vfmul d a b t) ∧ halfwords q = 2 ∧ q < 2 ^ 32 := by
    intro q hq
    obtain ⟨odd, lt, f1_6, f27_5, e_d, e_a, e_b, l_t, e_t⟩ := encDABT_fields 97 2 d a b t (by decide) (by decide) (by decide) hq
    refine ⟨decodeWord_of_major _ _ odd lt ?_ hwf, halfwords_major odd, lt⟩
    rw [decodeMajor_vfp f1_6]; unfold decodeVfp; rw [f27_5, l_t, e_d, e_a, e_b, e_t]
    cases t <;> rfl
  exact key _ rfl
theorem Laws.RoundTrip.vfmin (d : RegField) (a : RegField) (b : RegField) (t : FType) : Statement (.vfmin d a b t) := by
  intro hwf _
  have key : ∀ q, q = encDABT (97 + 3 * 2 ^ 27) d a b t → decodeWord q = some (.vfmin d a b t) ∧ halfwords q = 2 ∧ q < 2 ^ 32 := by
    intro q hq
    obtain ⟨odd, lt, f1_6, f27_5, e_d, e_a, e_b, l_t, e_t⟩ := encDABT_fields 97 3 d a b t (by decide) (by decide) (by decide) hq
    refine ⟨decodeWord_of_major _ _ odd lt ?_ hwf, halfwords_major odd, lt⟩
    rw [decodeMajor_vfp f1_6]; unfold decodeVfp; rw [f27_5, l_t, e_d, e_a, e_b, e_t]
    cases t <;> rfl
  exact key _ rfl
theorem Laws.RoundTrip.vfmax (d : RegField) (a : RegField) (b : RegField) (t : FType) : Statement (.vfmax d a b t) := by
  intro hwf _
  have key : ∀ q, q = encDABT (97 + 4 * 2 ^ 27) d a b t → decodeWord q = some (.vfmax d a b t) ∧ halfwords q = 2 ∧ q < 2 ^ 32 := by
    intro q hq
    obtain ⟨odd, lt, f1_6, f27_5, e_d, e_a, e_b, l_t, e_t⟩ := encDABT_fields 97 4 d a b t (by decide) (by decide) (by decide) hq
    refine ⟨decodeWord_of_major _ _ odd lt ?_ hwf, halfwords_major odd, lt⟩
    rw [decodeMajor_vfp f1_6]; unfold decodeVfp; rw [f27_5, l_t, e_d, e_a, e_b, e_t]
    cases t <;> rfl
  exact key _ rfl
theorem Laws.RoundTrip.vfabs (d : RegField) (a : RegField) (t : FType) : Statement (.vfabs d a t) := by
  intro hwf _
  have key : ∀ q, q = encDAT (97 + 0 * 2 ^ 19 + 5 * 2 ^ 27) d a t → decodeWord q = some (.vfabs d a t) ∧ halfwords q = 2 ∧ q < 2 ^ 32 := by
    intro q hq
    obtain ⟨odd, lt, f1_6, f19_6, f27_5, e_d, e_a, l_t, e_t⟩ := encDAT_fields 97 0 5 d a t (by decide) (by decide) (by decide) (by decide) hq
    refine ⟨decodeWord_of_major _ _ odd lt ?_ hwf, halfwords_major odd, lt⟩
    rw [decodeMajor_vfp f1_6]; unfold decodeVfp; rw [f19_6, f27_5, l_t, e_d, e_a, e_t]
    cases t <;> rfl
  exact key _ rfl
theorem Laws.RoundTrip.vfneg (d : RegField) (a : RegField) (t : FType) : Statement (.vfneg d a t) := by
  intro hwf _
  have key : ∀ q, q = encDAT (97 + 0 * 2 ^ 19 + 6 * 2 ^ 27) d a t → decodeWord q = some (.vfneg d a t) ∧ halfwords q = 2 ∧ q < 2 ^ 32 := by
    intro q hq
    obtain ⟨odd, lt, f1_6, f19_6, f27_5, e_d, e_a, l_t, e_t⟩ := encDAT_fields 97 0 6 d a t (by decide) (by decide) (by decide) (by decide) hq
    refine ⟨decodeWord_of_major _ _ odd lt ?_ hwf, halfwords_major odd, lt⟩
    rw [decodeMajor_vfp f1_6]; unfold decodeVfp; rw [f19_6, f27_5, l_t, e_d, e_a, e_t]
    cases t <;> rfl
  exact key _ rfl
theorem Laws.RoundTrip.vfround (d : RegField) (a : RegField) (t : FType) : Statement (.vfround d a t) := by
  intro hwf _
  have key : ∀ q, q = encDAT (97 + 0 * 2 ^ 19 + 7 * 2 ^ 27) d a t → decodeWord q = some (.vfround d a t) ∧ halfwords q = 2 ∧ q < 2 ^ 32 := by
    intro q hq
    obtain ⟨odd, lt, f1_6, f19_6, f27_5, e_d, e_a, l_t, e_t⟩ := encDAT_fields 97 0 7 d a t (by decide) (by decide) (by decide) (by decide) hq
    refine ⟨decodeWord_of_major _ _ odd lt ?_ hwf, halfwords_major odd, lt⟩
    rw [decodeMajor_vfp f1_6]; unfold decodeVfp; rw [f19_6, f27_5, l_t, e_d, e_a, e_t]
    cases t <;> rfl
  exact key _ rfl
theorem Laws.RoundTrip.vfma (d : RegField) (a : RegField) (b : RegField) (l : BitVec 3) (bc : Bool) (t : FType) : Statement (.vfma d a b l bc t) := by
  intro hwf _
  have key : ∀ q, q = encDABLBcT (99 + 0 * 2 ^ 29) d a b l bc t → decodeWord q = some (.vfma d a b l bc t) ∧ halfwords q = 2 ∧ q < 2 ^ 32 := by
    intro q hq
    obtain ⟨odd, lt, f1_6, f29_1, e_d, e_a, e_b, e_l, e_bc, l_t, e_t⟩ := encDABLBcT_fields 99 0 d a b l bc t (by decide) (by decide) (by decide) hq
    refine ⟨decodeWord_of_major _ _ odd lt ?_ hwf, halfwords_major odd, lt⟩
    rw [decodeMajor_vfma f1_6]; unfold decodeVfma; rw [f29_1, l_t, e_d, e_a, e_b, e_l, e_bc, e_t]
    cases t <;> rfl
  exact key _ rfl
theorem Laws.RoundTrip.vfms (d : RegField) (a : RegField) (b : RegField) (l : BitVec 3) (bc : Bool) (t : FType) : Statement (.vfms d a b l bc t) := by
  intro hwf _
  have key : ∀ q, q = encDABLBcT (99 + 1 * 2 ^ 29) d a b l bc t → decodeWord q = some (.vfms d a b l bc t) ∧ halfwords q = 2 ∧ q < 2 ^ 32 := by
    intro q hq
    obtain ⟨odd, lt, f1_6, f29_1, e_d, e_a, e_b, e_l, e_bc, l_t, e_t⟩ := encDABLBcT_fields 99 1 d a b l bc t (by decide) (by decide) (by decide) hq
    refine ⟨decodeWord_of_major _ _ odd lt ?_ hwf, halfwords_major odd, lt⟩
    rw [decodeMajor_vfma f1_6]; unfold decodeVfma; rw [f29_1, l_t, e_d, e_a, e_b, e_l, e_bc, e_t]
    cases t <;> rfl
  exact key _ rfl
theorem Laws.RoundTrip.vcvtF16F32 (d : RegField) (a : RegField) (p : BitVec 3) : Statement (.vcvtF16F32 d a p) := by
  intro hwf _
  have key : ∀ q, q = encDAP (101 + 0 * 2 ^ 19 + 0 * 2 ^ 28) d a p → decodeWord q = some (.vcvtF16F32 d a p) ∧ halfwords q = 2 ∧ q < 2 ^ 32 := by
    intro q hq
    obtain ⟨odd, lt, f1_6, f19_6, f28_4, e_d, e_a, e_p⟩ := encDAP_fields 101 0 0 d a p (by decide) (by decide) (by decide) (by decide) hq
    refine ⟨decodeWord_of_major _ _ odd lt ?_ hwf, halfwords_major odd, lt⟩
    rw [decodeMajor_vcvt f1_6]; unfold decodeVcvt; rw [f19_6, f28_4, e_d, e_a, e_p]
    rfl
  exact key _ rfl
theorem Laws.RoundTrip.vcvtBf16F32 (d : RegField) (a : RegField) (p : BitVec 3) : Statement (.vcvtBf16F32 d a p) := by
  intro hwf _
  have key : ∀ q, q = encDAP (101 + 0 * 2 ^ 19 + 1 * 2 ^ 28) d a p → decodeWord q = some (.vcvtBf16F32 d a p) ∧ halfwords q = 2 ∧ q < 2 ^ 32 := by
    intro q hq
    obtain ⟨odd, lt, f1_6, f19_6, f28_4, e_d, e_a, e_p⟩ := encDAP_fields 101 0 1 d a p (by decide) (by decide) (by decide) (by decide) hq
    refine ⟨decodeWord_of_major _ _ odd lt ?_ hwf, halfwords_major odd, lt⟩
    rw [decodeMajor_vcvt f1_6]; unfold decodeVcvt; rw [f19_6, f28_4, e_d, e_a, e_p]
    rfl
  exact key _ rfl
theorem Laws.RoundTrip.vcvtE4m3F32 (d : RegField) (a : RegField) (b : RegField) (p : BitVec 3) : Statement (.vcvtE4m3F32 d a b p) := by
  intro hwf _
  have key : ∀ q, q = encDABP (101 + 2 * 2 ^ 28) d a b p → decodeWord q = some (.vcvtE4m3F32 d a b p) ∧ halfwords q = 2 ∧ q < 2 ^ 32 := by
    intro q hq
    obtain ⟨odd, lt, f1_6, f28_4, e_d, e_a, e_b, e_p⟩ := encDABP_fields 101 2 d a b p (by decide) (by decide) (by decide) hq
    refine ⟨decodeWord_of_major _ _ odd lt ?_ hwf, halfwords_major odd, lt⟩
    rw [decodeMajor_vcvt f1_6]; unfold decodeVcvt; rw [f28_4, e_d, e_a, e_b, e_p]
    rfl
  exact key _ rfl
theorem Laws.RoundTrip.vcvtE5m2F32 (d : RegField) (a : RegField) (b : RegField) (p : BitVec 3) : Statement (.vcvtE5m2F32 d a b p) := by
  intro hwf _
  have key : ∀ q, q = encDABP (101 + 3 * 2 ^ 28) d a b p → decodeWord q = some (.vcvtE5m2F32 d a b p) ∧ halfwords q = 2 ∧ q < 2 ^ 32 := by
    intro q hq
    obtain ⟨odd, lt, f1_6, f28_4, e_d, e_a, e_b, e_p⟩ := encDABP_fields 101 3 d a b p (by decide) (by decide) (by decide) hq
    refine ⟨decodeWord_of_major _ _ odd lt ?_ hwf, halfwords_major odd, lt⟩
    rw [decodeMajor_vcvt f1_6]; unfold decodeVcvt; rw [f28_4, e_d, e_a, e_b, e_p]
    rfl
  exact key _ rfl
theorem Laws.RoundTrip.vcvtE2m1F32 (d : RegField) (a : RegField) (b : RegField) (p : BitVec 3) : Statement (.vcvtE2m1F32 d a b p) := by
  intro hwf _
  have key : ∀ q, q = encDABP (101 + 4 * 2 ^ 28) d a b p → decodeWord q = some (.vcvtE2m1F32 d a b p) ∧ halfwords q = 2 ∧ q < 2 ^ 32 := by
    intro q hq
    obtain ⟨odd, lt, f1_6, f28_4, e_d, e_a, e_b, e_p⟩ := encDABP_fields 101 4 d a b p (by decide) (by decide) (by decide) hq
    refine ⟨decodeWord_of_major _ _ odd lt ?_ hwf, halfwords_major odd, lt⟩
    rw [decodeMajor_vcvt f1_6]; unfold decodeVcvt; rw [f28_4, e_d, e_a, e_b, e_p]
    rfl
  exact key _ rfl
theorem Laws.RoundTrip.vcvtF16F32Sat (d : RegField) (a : RegField) (p : BitVec 3) : Statement (.vcvtF16F32Sat d a p) := by
  intro hwf _
  have key : ∀ q, q = encDAP (101 + 0 * 2 ^ 19 + 5 * 2 ^ 28) d a p → decodeWord q = some (.vcvtF16F32Sat d a p) ∧ halfwords q = 2 ∧ q < 2 ^ 32 := by
    intro q hq
    obtain ⟨odd, lt, f1_6, f19_6, f28_4, e_d, e_a, e_p⟩ := encDAP_fields 101 0 5 d a p (by decide) (by decide) (by decide) (by decide) hq
    refine ⟨decodeWord_of_major _ _ odd lt ?_ hwf, halfwords_major odd, lt⟩
    rw [decodeMajor_vcvt f1_6]; unfold decodeVcvt; rw [f19_6, f28_4, e_d, e_a, e_p]
    rfl
  exact key _ rfl
theorem Laws.RoundTrip.vcvtBf16F32Sat (d : RegField) (a : RegField) (p : BitVec 3) : Statement (.vcvtBf16F32Sat d a p) := by
  intro hwf _
  have key : ∀ q, q = encDAP (101 + 0 * 2 ^ 19 + 6 * 2 ^ 28) d a p → decodeWord q = some (.vcvtBf16F32Sat d a p) ∧ halfwords q = 2 ∧ q < 2 ^ 32 := by
    intro q hq
    obtain ⟨odd, lt, f1_6, f19_6, f28_4, e_d, e_a, e_p⟩ := encDAP_fields 101 0 6 d a p (by decide) (by decide) (by decide) (by decide) hq
    refine ⟨decodeWord_of_major _ _ odd lt ?_ hwf, halfwords_major odd, lt⟩
    rw [decodeMajor_vcvt f1_6]; unfold decodeVcvt; rw [f19_6, f28_4, e_d, e_a, e_p]
    rfl
  exact key _ rfl
theorem Laws.RoundTrip.vcvtE4m3F32Sat (d : RegField) (a : RegField) (b : RegField) (p : BitVec 3) : Statement (.vcvtE4m3F32Sat d a b p) := by
  intro hwf _
  have key : ∀ q, q = encDABP (101 + 7 * 2 ^ 28) d a b p → decodeWord q = some (.vcvtE4m3F32Sat d a b p) ∧ halfwords q = 2 ∧ q < 2 ^ 32 := by
    intro q hq
    obtain ⟨odd, lt, f1_6, f28_4, e_d, e_a, e_b, e_p⟩ := encDABP_fields 101 7 d a b p (by decide) (by decide) (by decide) hq
    refine ⟨decodeWord_of_major _ _ odd lt ?_ hwf, halfwords_major odd, lt⟩
    rw [decodeMajor_vcvt f1_6]; unfold decodeVcvt; rw [f28_4, e_d, e_a, e_b, e_p]
    rfl
  exact key _ rfl
theorem Laws.RoundTrip.vcvtE5m2F32Sat (d : RegField) (a : RegField) (b : RegField) (p : BitVec 3) : Statement (.vcvtE5m2F32Sat d a b p) := by
  intro hwf _
  have key : ∀ q, q = encDABP (101 + 8 * 2 ^ 28) d a b p → decodeWord q = some (.vcvtE5m2F32Sat d a b p) ∧ halfwords q = 2 ∧ q < 2 ^ 32 := by
    intro q hq
    obtain ⟨odd, lt, f1_6, f28_4, e_d, e_a, e_b, e_p⟩ := encDABP_fields 101 8 d a b p (by decide) (by decide) (by decide) hq
    refine ⟨decodeWord_of_major _ _ odd lt ?_ hwf, halfwords_major odd, lt⟩
    rw [decodeMajor_vcvt f1_6]; unfold decodeVcvt; rw [f28_4, e_d, e_a, e_b, e_p]
    rfl
  exact key _ rfl
theorem Laws.RoundTrip.vcvtE2m1F32Sat (d : RegField) (a : RegField) (b : RegField) (p : BitVec 3) : Statement (.vcvtE2m1F32Sat d a b p) := by
  intro hwf _
  have key : ∀ q, q = encDABP (101 + 9 * 2 ^ 28) d a b p → decodeWord q = some (.vcvtE2m1F32Sat d a b p) ∧ halfwords q = 2 ∧ q < 2 ^ 32 := by
    intro q hq
    obtain ⟨odd, lt, f1_6, f28_4, e_d, e_a, e_b, e_p⟩ := encDABP_fields 101 9 d a b p (by decide) (by decide) (by decide) hq
    refine ⟨decodeWord_of_major _ _ odd lt ?_ hwf, halfwords_major odd, lt⟩
    rw [decodeMajor_vcvt f1_6]; unfold decodeVcvt; rw [f28_4, e_d, e_a, e_b, e_p]
    rfl
  exact key _ rfl
theorem Laws.RoundTrip.vcvtF32F16 (d : RegField) (a : RegField) (p : BitVec 3) : Statement (.vcvtF32F16 d a p) := by
  intro hwf _
  have key : ∀ q, q = encDAP (101 + 0 * 2 ^ 19 + 10 * 2 ^ 28) d a p → decodeWord q = some (.vcvtF32F16 d a p) ∧ halfwords q = 2 ∧ q < 2 ^ 32 := by
    intro q hq
    obtain ⟨odd, lt, f1_6, f19_6, f28_4, e_d, e_a, e_p⟩ := encDAP_fields 101 0 10 d a p (by decide) (by decide) (by decide) (by decide) hq
    refine ⟨decodeWord_of_major _ _ odd lt ?_ hwf, halfwords_major odd, lt⟩
    rw [decodeMajor_vcvt f1_6]; unfold decodeVcvt; rw [f19_6, f28_4, e_d, e_a, e_p]
    rfl
  exact key _ rfl
theorem Laws.RoundTrip.vcvtF32Bf16 (d : RegField) (a : RegField) (p : BitVec 3) : Statement (.vcvtF32Bf16 d a p) := by
  intro hwf _
  have key : ∀ q, q = encDAP (101 + 0 * 2 ^ 19 + 11 * 2 ^ 28) d a p → decodeWord q = some (.vcvtF32Bf16 d a p) ∧ halfwords q = 2 ∧ q < 2 ^ 32 := by
    intro q hq
    obtain ⟨odd, lt, f1_6, f19_6, f28_4, e_d, e_a, e_p⟩ := encDAP_fields 101 0 11 d a p (by decide) (by decide) (by decide) (by decide) hq
    refine ⟨decodeWord_of_major _ _ odd lt ?_ hwf, halfwords_major odd, lt⟩
    rw [decodeMajor_vcvt f1_6]; unfold decodeVcvt; rw [f19_6, f28_4, e_d, e_a, e_p]
    rfl
  exact key _ rfl
theorem Laws.RoundTrip.vcvtF32E4m3 (d : RegField) (a : RegField) (b : RegField) (p : BitVec 3) : Statement (.vcvtF32E4m3 d a b p) := by
  intro hwf _
  have key : ∀ q, q = encDABP (101 + 12 * 2 ^ 28) d a b p → decodeWord q = some (.vcvtF32E4m3 d a b p) ∧ halfwords q = 2 ∧ q < 2 ^ 32 := by
    intro q hq
    obtain ⟨odd, lt, f1_6, f28_4, e_d, e_a, e_b, e_p⟩ := encDABP_fields 101 12 d a b p (by decide) (by decide) (by decide) hq
    refine ⟨decodeWord_of_major _ _ odd lt ?_ hwf, halfwords_major odd, lt⟩
    rw [decodeMajor_vcvt f1_6]; unfold decodeVcvt; rw [f28_4, e_d, e_a, e_b, e_p]
    rfl
  exact key _ rfl
theorem Laws.RoundTrip.vcvtF32E5m2 (d : RegField) (a : RegField) (b : RegField) (p : BitVec 3) : Statement (.vcvtF32E5m2 d a b p) := by
  intro hwf _
  have key : ∀ q, q = encDABP (101 + 13 * 2 ^ 28) d a b p → decodeWord q = some (.vcvtF32E5m2 d a b p) ∧ halfwords q = 2 ∧ q < 2 ^ 32 := by
    intro q hq
    obtain ⟨odd, lt, f1_6, f28_4, e_d, e_a, e_b, e_p⟩ := encDABP_fields 101 13 d a b p (by decide) (by decide) (by decide) hq
    refine ⟨decodeWord_of_major _ _ odd lt ?_ hwf, halfwords_major odd, lt⟩
    rw [decodeMajor_vcvt f1_6]; unfold decodeVcvt; rw [f28_4, e_d, e_a, e_b, e_p]
    rfl
  exact key _ rfl
theorem Laws.RoundTrip.vcvtF32E2m1 (d : RegField) (a : RegField) (b : RegField) (p : BitVec 3) : Statement (.vcvtF32E2m1 d a b p) := by
  intro hwf _
  have key : ∀ q, q = encDABP (101 + 14 * 2 ^ 28) d a b p → decodeWord q = some (.vcvtF32E2m1 d a b p) ∧ halfwords q = 2 ∧ q < 2 ^ 32 := by
    intro q hq
    obtain ⟨odd, lt, f1_6, f28_4, e_d, e_a, e_b, e_p⟩ := encDABP_fields 101 14 d a b p (by decide) (by decide) (by decide) hq
    refine ⟨decodeWord_of_major _ _ odd lt ?_ hwf, halfwords_major odd, lt⟩
    rw [decodeMajor_vcvt f1_6]; unfold decodeVcvt; rw [f28_4, e_d, e_a, e_b, e_p]
    rfl
  exact key _ rfl
theorem Laws.RoundTrip.vcvtI32F32 (d : RegField) (a : RegField) : Statement (.vcvtI32F32 d a) := by
  intro hwf _
  have key : ∀ q, q = encDA (101 + 7680 * 2 ^ 19) d a → decodeWord q = some (.vcvtI32F32 d a) ∧ halfwords q = 2 ∧ q < 2 ^ 32 := by
    intro q hq
    obtain ⟨odd, lt, f1_6, f19_13, -, f28_4, e_d, e_a⟩ := encDA_fields 101 7680 d a (by decide) (by decide) (by decide) hq
    refine ⟨decodeWord_of_major _ _ odd lt ?_ hwf, halfwords_major odd, lt⟩
    rw [decodeMajor_vcvt f1_6]; unfold decodeVcvt; rw [f19_13, f28_4, e_d, e_a]
    rfl
  exact key _ rfl
theorem Laws.RoundTrip.vcvtF32I32 (d : RegField) (a : RegField) : Statement (.vcvtF32I32 d a) := by
  intro hwf _
  have key : ∀ q, q = encDA (101 + 7744 * 2 ^ 19) d a → decodeWord q = some (.vcvtF32I32 d a) ∧ halfwords q = 2 ∧ q < 2 ^ 32 := by
    intro q hq
    obtain ⟨odd, lt, f1_6, f19_13, -, f28_4, e_d, e_a⟩ := encDA_fields 101 7744 d a (by decide) (by decide) (by decide) hq
    refine ⟨decodeWord_of_major _ _ odd lt ?_ hwf, halfwords_major odd, lt⟩
    rw [decodeMajor_vcvt f1_6]; unfold decodeVcvt; rw [f19_13, f28_4, e_d, e_a]
    rfl
  exact key _ rfl
theorem Laws.RoundTrip.vrsum (d : RegField) (a : RegField) (w : Width) : Statement (.vrsum d a w) := by
  intro hwf _
  have key : ∀ q, q = encDAW (103 + 0 * 2 ^ 19 + 0 * 2 ^ 27) d a w → decodeWord q = some (.vrsum d a w) ∧ halfwords q = 2 ∧ q < 2 ^ 32 := by
    intro q hq
    obtain ⟨odd, lt, f1_6, f19_6, f27_5, e_d, e_a, e_w⟩ := encDAW_fields 103 0 0 d a w (by decide) (by decide) (by decide) (by decide) hq
    refine ⟨decodeWord_of_major _ _ odd lt ?_ hwf, halfwords_major odd, lt⟩
    rw [decodeMajor_vred f1_6]; unfold decodeVred; rw [f19_6, f27_5, e_d, e_a, e_w]
    rfl
  exact key _ rfl
theorem Laws.RoundTrip.vrsumu (d : RegField) (a : RegField) (w : Width) : Statement (.vrsumu d a w) := by
  intro hwf _
  have key : ∀ q, q = encDAW (103 + 0 * 2 ^ 19 + 1 * 2 ^ 27) d a w → decodeWord q = some (.vrsumu d a w) ∧ halfwords q = 2 ∧ q < 2 ^ 32 := by
    intro q hq
    obtain ⟨odd, lt, f1_6, f19_6, f27_5, e_d, e_a, e_w⟩ := encDAW_fields 103 0 1 d a w (by decide) (by decide) (by decide) (by decide) hq
    refine ⟨decodeWord_of_major _ _ odd lt ?_ hwf, halfwords_major odd, lt⟩
    rw [decodeMajor_vred f1_6]; unfold decodeVred; rw [f19_6, f27_5, e_d, e_a, e_w]
    rfl
  exact key _ rfl
theorem Laws.RoundTrip.vrmin (d : RegField) (a : RegField) (w : Width) : Statement (.vrmin d a w) := by
  intro hwf _
  have key : ∀ q, q = encDAW (103 + 0 * 2 ^ 19 + 2 * 2 ^ 27) d a w → decodeWord q = some (.vrmin d a w) ∧ halfwords q = 2 ∧ q < 2 ^ 32 := by
    intro q hq
    obtain ⟨odd, lt, f1_6, f19_6, f27_5, e_d, e_a, e_w⟩ := encDAW_fields 103 0 2 d a w (by decide) (by decide) (by decide) (by decide) hq
    refine ⟨decodeWord_of_major _ _ odd lt ?_ hwf, halfwords_major odd, lt⟩
    rw [decodeMajor_vred f1_6]; unfold decodeVred; rw [f19_6, f27_5, e_d, e_a, e_w]
    rfl
  exact key _ rfl
theorem Laws.RoundTrip.vrminu (d : RegField) (a : RegField) (w : Width) : Statement (.vrminu d a w) := by
  intro hwf _
  have key : ∀ q, q = encDAW (103 + 0 * 2 ^ 19 + 3 * 2 ^ 27) d a w → decodeWord q = some (.vrminu d a w) ∧ halfwords q = 2 ∧ q < 2 ^ 32 := by
    intro q hq
    obtain ⟨odd, lt, f1_6, f19_6, f27_5, e_d, e_a, e_w⟩ := encDAW_fields 103 0 3 d a w (by decide) (by decide) (by decide) (by decide) hq
    refine ⟨decodeWord_of_major _ _ odd lt ?_ hwf, halfwords_major odd, lt⟩
    rw [decodeMajor_vred f1_6]; unfold decodeVred; rw [f19_6, f27_5, e_d, e_a, e_w]
    rfl
  exact key _ rfl
theorem Laws.RoundTrip.vrmax (d : RegField) (a : RegField) (w : Width) : Statement (.vrmax d a w) := by
  intro hwf _
  have key : ∀ q, q = encDAW (103 + 0 * 2 ^ 19 + 4 * 2 ^ 27) d a w → decodeWord q = some (.vrmax d a w) ∧ halfwords q = 2 ∧ q < 2 ^ 32 := by
    intro q hq
    obtain ⟨odd, lt, f1_6, f19_6, f27_5, e_d, e_a, e_w⟩ := encDAW_fields 103 0 4 d a w (by decide) (by decide) (by decide) (by decide) hq
    refine ⟨decodeWord_of_major _ _ odd lt ?_ hwf, halfwords_major odd, lt⟩
    rw [decodeMajor_vred f1_6]; unfold decodeVred; rw [f19_6, f27_5, e_d, e_a, e_w]
    rfl
  exact key _ rfl
theorem Laws.RoundTrip.vrmaxu (d : RegField) (a : RegField) (w : Width) : Statement (.vrmaxu d a w) := by
  intro hwf _
  have key : ∀ q, q = encDAW (103 + 0 * 2 ^ 19 + 5 * 2 ^ 27) d a w → decodeWord q = some (.vrmaxu d a w) ∧ halfwords q = 2 ∧ q < 2 ^ 32 := by
    intro q hq
    obtain ⟨odd, lt, f1_6, f19_6, f27_5, e_d, e_a, e_w⟩ := encDAW_fields 103 0 5 d a w (by decide) (by decide) (by decide) (by decide) hq
    refine ⟨decodeWord_of_major _ _ odd lt ?_ hwf, halfwords_major odd, lt⟩
    rw [decodeMajor_vred f1_6]; unfold decodeVred; rw [f19_6, f27_5, e_d, e_a, e_w]
    rfl
  exact key _ rfl
theorem Laws.RoundTrip.vfrsum (d : RegField) (a : RegField) (t : FType) : Statement (.vfrsum d a t) := by
  intro hwf _
  have key : ∀ q, q = encDAT (103 + 0 * 2 ^ 19 + 6 * 2 ^ 27) d a t → decodeWord q = some (.vfrsum d a t) ∧ halfwords q = 2 ∧ q < 2 ^ 32 := by
    intro q hq
    obtain ⟨odd, lt, f1_6, f19_6, f27_5, e_d, e_a, l_t, e_t⟩ := encDAT_fields 103 0 6 d a t (by decide) (by decide) (by decide) (by decide) hq
    refine ⟨decodeWord_of_major _ _ odd lt ?_ hwf, halfwords_major odd, lt⟩
    rw [decodeMajor_vred f1_6]; unfold decodeVred; rw [f19_6, f27_5, l_t, e_d, e_a, e_t]
    cases t <;> rfl
  exact key _ rfl
theorem Laws.RoundTrip.vfrmin (d : RegField) (a : RegField) (t : FType) : Statement (.vfrmin d a t) := by
  intro hwf _
  have key : ∀ q, q = encDAT (103 + 0 * 2 ^ 19 + 7 * 2 ^ 27) d a t → decodeWord q = some (.vfrmin d a t) ∧ halfwords q = 2 ∧ q < 2 ^ 32 := by
    intro q hq
    obtain ⟨odd, lt, f1_6, f19_6, f27_5, e_d, e_a, l_t, e_t⟩ := encDAT_fields 103 0 7 d a t (by decide) (by decide) (by decide) (by decide) hq
    refine ⟨decodeWord_of_major _ _ odd lt ?_ hwf, halfwords_major odd, lt⟩
    rw [decodeMajor_vred f1_6]; unfold decodeVred; rw [f19_6, f27_5, l_t, e_d, e_a, e_t]
    cases t <;> rfl
  exact key _ rfl
theorem Laws.RoundTrip.vfrmax (d : RegField) (a : RegField) (t : FType) : Statement (.vfrmax d a t) := by
  intro hwf _
  have key : ∀ q, q = encDAT (103 + 0 * 2 ^ 19 + 8 * 2 ^ 27) d a t → decodeWord q = some (.vfrmax d a t) ∧ halfwords q = 2 ∧ q < 2 ^ 32 := by
    intro q hq
    obtain ⟨odd, lt, f1_6, f19_6, f27_5, e_d, e_a, l_t, e_t⟩ := encDAT_fields 103 0 8 d a t (by decide) (by decide) (by decide) (by decide) hq
    refine ⟨decodeWord_of_major _ _ odd lt ?_ hwf, halfwords_major odd, lt⟩
    rw [decodeMajor_vred f1_6]; unfold decodeVred; rw [f19_6, f27_5, l_t, e_d, e_a, e_t]
    cases t <;> rfl
  exact key _ rfl
theorem Laws.RoundTrip.vmv (d : RegField) (a : RegField) : Statement (.vmv d a) := by
  intro hwf _
  have key : ∀ q, q = encDA (105 + 0 * 2 ^ 19) d a → decodeWord q = some (.vmv d a) ∧ halfwords q = 2 ∧ q < 2 ^ 32 := by
    intro q hq
    obtain ⟨odd, lt, f1_6, f19_13, -, -, e_d, e_a⟩ := encDA_fields 105 0 d a (by decide) (by decide) (by decide) hq
    refine ⟨decodeWord_of_major _ _ odd lt ?_ hwf, halfwords_major odd, lt⟩
    rw [decodeMajor_vmov f1_6]; unfold decodeVmov; rw [f19_13, e_d, e_a]
    rfl
  exact key _ rfl
theorem Laws.RoundTrip.vbcst (d : RegField) (a : RegField) (w : Width) : Statement (.vbcst d a w) := by
  intro hwf _
  have key : ∀ q, q = encDAW (105 + 0 * 2 ^ 19 + 1 * 2 ^ 27) d a w → decodeWord q = some (.vbcst d a w) ∧ halfwords q = 2 ∧ q < 2 ^ 32 := by
    intro q hq
    obtain ⟨odd, lt, f1_6, f19_6, f27_5, e_d, e_a, e_w⟩ := encDAW_fields 105 0 1 d a w (by decide) (by decide) (by decide) (by decide) hq
    refine ⟨decodeWord_of_major _ _ odd lt ?_ hwf, halfwords_major odd, lt⟩
    replace f19_6 : field _ 19 6 = 0 := f19_6
    replace f27_5 : field _ 27 5 = 1 := f27_5
    rw [decodeMajor_vmov f1_6]; unfold decodeVmov
    rw [if_neg (fun h => field_ne 0 f27_5 (by decide) (by decide) (by decide) h),
      if_pos ⟨f27_5, f19_6⟩,
      e_d, e_a, e_w]
  exact key _ rfl
theorem Laws.RoundTrip.vins (d : RegField) (a : RegField) (l : BitVec 5) (w : Width) : Statement (.vins d a l w) := by
  intro hwf _
  have key : ∀ q, q = encDALW (105 + 0 * 2 ^ 24 + 2 * 2 ^ 27) d a l w → decodeWord q = some (.vins d a l w) ∧ halfwords q = 2 ∧ q < 2 ^ 32 := by
    intro q hq
    obtain ⟨odd, lt, f1_6, f24_1, f27_5, e_d, e_a, e_l, e_w⟩ := encDALW_fields 105 0 2 d a l w (by decide) (by decide) (by decide) (by decide) hq
    refine ⟨decodeWord_of_major _ _ odd lt ?_ hwf, halfwords_major odd, lt⟩
    replace f24_1 : field _ 24 1 = 0 := f24_1
    replace f27_5 : field _ 27 5 = 2 := f27_5
    rw [decodeMajor_vmov f1_6]; unfold decodeVmov
    rw [if_neg (fun h => field_ne 0 f27_5 (by decide) (by decide) (by decide) h),
      if_neg (fun h => absurd (f27_5.symm.trans h.1) (by decide)),
      if_pos ⟨f27_5, f24_1⟩,
      e_d, e_a, e_l, e_w]
  exact key _ rfl
theorem Laws.RoundTrip.vextr (d : RegField) (a : RegField) (l : BitVec 5) (w : Width) : Statement (.vextr d a l w) := by
  intro hwf _
  have key : ∀ q, q = encDALW (105 + 0 * 2 ^ 24 + 3 * 2 ^ 27) d a l w → decodeWord q = some (.vextr d a l w) ∧ halfwords q = 2 ∧ q < 2 ^ 32 := by
    intro q hq
    obtain ⟨odd, lt, f1_6, f24_1, f27_5, e_d, e_a, e_l, e_w⟩ := encDALW_fields 105 0 3 d a l w (by decide) (by decide) (by decide) (by decide) hq
    refine ⟨decodeWord_of_major _ _ odd lt ?_ hwf, halfwords_major odd, lt⟩
    replace f24_1 : field _ 24 1 = 0 := f24_1
    replace f27_5 : field _ 27 5 = 3 := f27_5
    rw [decodeMajor_vmov f1_6]; unfold decodeVmov
    rw [if_neg (fun h => field_ne 0 f27_5 (by decide) (by decide) (by decide) h),
      if_neg (fun h => absurd (f27_5.symm.trans h.1) (by decide)),
      if_neg (fun h => absurd (f27_5.symm.trans h.1) (by decide)),
      if_pos ⟨f27_5, f24_1⟩,
      e_d, e_a, e_l, e_w]
  exact key _ rfl
theorem Laws.RoundTrip.vextru (d : RegField) (a : RegField) (l : BitVec 5) (w : Width) : Statement (.vextru d a l w) := by
  intro hwf _
  have key : ∀ q, q = encDALW (105 + 0 * 2 ^ 24 + 4 * 2 ^ 27) d a l w → decodeWord q = some (.vextru d a l w) ∧ halfwords q = 2 ∧ q < 2 ^ 32 := by
    intro q hq
    obtain ⟨odd, lt, f1_6, f24_1, f27_5, e_d, e_a, e_l, e_w⟩ := encDALW_fields 105 0 4 d a l w (by decide) (by decide) (by decide) (by decide) hq
    refine ⟨decodeWord_of_major _ _ odd lt ?_ hwf, halfwords_major odd, lt⟩
    replace f24_1 : field _ 24 1 = 0 := f24_1
    replace f27_5 : field _ 27 5 = 4 := f27_5
    rw [decodeMajor_vmov f1_6]; unfold decodeVmov
    rw [if_neg (fun h => field_ne 0 f27_5 (by decide) (by decide) (by decide) h),
      if_neg (fun h => absurd (f27_5.symm.trans h.1) (by decide)),
      if_neg (fun h => absurd (f27_5.symm.trans h.1) (by decide)),
      if_neg (fun h => absurd (f27_5.symm.trans h.1) (by decide)),
      if_pos ⟨f27_5, f24_1⟩,
      e_d, e_a, e_l, e_w]
  exact key _ rfl
theorem Laws.RoundTrip.vmexp (d : RegField) (a : RegField) (w : Width) : Statement (.vmexp d a w) := by
  intro hwf _
  have key : ∀ q, q = encDAW (105 + 0 * 2 ^ 19 + 5 * 2 ^ 27) d a w → decodeWord q = some (.vmexp d a w) ∧ halfwords q = 2 ∧ q < 2 ^ 32 := by
    intro q hq
    obtain ⟨odd, lt, f1_6, f19_6, f27_5, e_d, e_a, e_w⟩ := encDAW_fields 105 0 5 d a w (by decide) (by decide) (by decide) (by decide) hq
    refine ⟨decodeWord_of_major _ _ odd lt ?_ hwf, halfwords_major odd, lt⟩
    replace f19_6 : field _ 19 6 = 0 := f19_6
    replace f27_5 : field _ 27 5 = 5 := f27_5
    rw [decodeMajor_vmov f1_6]; unfold decodeVmov
    rw [if_neg (fun h => field_ne 0 f27_5 (by decide) (by decide) (by decide) h),
      if_neg (fun h => absurd (f27_5.symm.trans h.1) (by decide)),
      if_neg (fun h => absurd (f27_5.symm.trans h.1) (by decide)),
      if_neg (fun h => absurd (f27_5.symm.trans h.1) (by decide)),
      if_neg (fun h => absurd (f27_5.symm.trans h.1) (by decide)),
      if_pos ⟨f27_5, f19_6⟩,
      e_d, e_a, e_w]
  exact key _ rfl
theorem Laws.RoundTrip.vfrcp (d : RegField) (a : RegField) : Statement (.vfrcp d a) := by
  intro hwf _
  have key : ∀ q, q = encDA (107 + 0 * 2 ^ 19) d a → decodeWord q = some (.vfrcp d a) ∧ halfwords q = 2 ∧ q < 2 ^ 32 := by
    intro q hq
    obtain ⟨odd, lt, f1_6, f19_13, -, -, e_d, e_a⟩ := encDA_fields 107 0 d a (by decide) (by decide) (by decide) hq
    refine ⟨decodeWord_of_major _ _ odd lt ?_ hwf, halfwords_major odd, lt⟩
    rw [decodeMajor_vspec f1_6]; unfold decodeVspec; rw [f19_13, e_d, e_a]
    rfl
  exact key _ rfl
theorem Laws.RoundTrip.vfrsq (d : RegField) (a : RegField) : Statement (.vfrsq d a) := by
  intro hwf _
  have key : ∀ q, q = encDA (107 + 256 * 2 ^ 19) d a → decodeWord q = some (.vfrsq d a) ∧ halfwords q = 2 ∧ q < 2 ^ 32 := by
    intro q hq
    obtain ⟨odd, lt, f1_6, f19_13, -, -, e_d, e_a⟩ := encDA_fields 107 256 d a (by decide) (by decide) (by decide) hq
    refine ⟨decodeWord_of_major _ _ odd lt ?_ hwf, halfwords_major odd, lt⟩
    rw [decodeMajor_vspec f1_6]; unfold decodeVspec; rw [f19_13, e_d, e_a]
    rfl
  exact key _ rfl
theorem Laws.RoundTrip.vfexp2 (d : RegField) (a : RegField) : Statement (.vfexp2 d a) := by
  intro hwf _
  have key : ∀ q, q = encDA (107 + 512 * 2 ^ 19) d a → decodeWord q = some (.vfexp2 d a) ∧ halfwords q = 2 ∧ q < 2 ^ 32 := by
    intro q hq
    obtain ⟨odd, lt, f1_6, f19_13, -, -, e_d, e_a⟩ := encDA_fields 107 512 d a (by decide) (by decide) (by decide) hq
    refine ⟨decodeWord_of_major _ _ odd lt ?_ hwf, halfwords_major odd, lt⟩
    rw [decodeMajor_vspec f1_6]; unfold decodeVspec; rw [f19_13, e_d, e_a]
    rfl
  exact key _ rfl
theorem Laws.RoundTrip.vflog2 (d : RegField) (a : RegField) : Statement (.vflog2 d a) := by
  intro hwf _
  have key : ∀ q, q = encDA (107 + 768 * 2 ^ 19) d a → decodeWord q = some (.vflog2 d a) ∧ halfwords q = 2 ∧ q < 2 ^ 32 := by
    intro q hq
    obtain ⟨odd, lt, f1_6, f19_13, -, -, e_d, e_a⟩ := encDA_fields 107 768 d a (by decide) (by decide) (by decide) hq
    refine ⟨decodeWord_of_major _ _ odd lt ?_ hwf, halfwords_major odd, lt⟩
    rw [decodeMajor_vspec f1_6]; unfold decodeVspec; rw [f19_13, e_d, e_a]
    rfl
  exact key _ rfl
theorem Laws.RoundTrip.vfdiv (d : RegField) (a : RegField) (b : RegField) : Statement (.vfdiv d a b) := by
  intro hwf _
  have key : ∀ q, q = encDAB (107 + 16 * 2 ^ 25) d a b → decodeWord q = some (.vfdiv d a b) ∧ halfwords q = 2 ∧ q < 2 ^ 32 := by
    intro q hq
    obtain ⟨odd, lt, f1_6, f25_7, e_d, e_a, e_b⟩ := encDAB_fields 107 16 d a b (by decide) (by decide) (by decide) hq
    refine ⟨decodeWord_of_major _ _ odd lt ?_ hwf, halfwords_major odd, lt⟩
    replace f25_7 : field _ 25 7 = 16 := f25_7
    rw [decodeMajor_vspec f1_6]; unfold decodeVspec
    rw [if_neg (fun h => field_ne 0 f25_7 (by decide) (by decide) (by decide) h),
      if_neg (fun h => field_ne 256 f25_7 (by decide) (by decide) (by decide) h),
      if_neg (fun h => field_ne 512 f25_7 (by decide) (by decide) (by decide) h),
      if_neg (fun h => field_ne 768 f25_7 (by decide) (by decide) (by decide) h),
      if_pos f25_7,
      e_d, e_a, e_b]
  exact key _ rfl
theorem Laws.RoundTrip.vfsqrt (d : RegField) (a : RegField) : Statement (.vfsqrt d a) := by
  intro hwf _
  have key : ∀ q, q = encDA (107 + 1280 * 2 ^ 19) d a → decodeWord q = some (.vfsqrt d a) ∧ halfwords q = 2 ∧ q < 2 ^ 32 := by
    intro q hq
    obtain ⟨odd, lt, f1_6, f19_13, f25_7, -, e_d, e_a⟩ := encDA_fields 107 1280 d a (by decide) (by decide) (by decide) hq
    refine ⟨decodeWord_of_major _ _ odd lt ?_ hwf, halfwords_major odd, lt⟩
    rw [decodeMajor_vspec f1_6]; unfold decodeVspec; rw [f19_13, f25_7, e_d, e_a]
    rfl
  exact key _ rfl
theorem Laws.RoundTrip.mxCfg (a : RegField) : Statement (.mxCfg a) := by
  intro hwf _
  have key : ∀ q, q = encA (109 + 0 * 2 ^ 19) a → decodeWord q = some (.mxCfg a) ∧ halfwords q = 2 ∧ q < 2 ^ 32 := by
    intro q hq
    obtain ⟨odd, lt, f1_6, f7_6, f19_13, -, -, e_a⟩ := encA_fields 109 0 a (by decide) (by decide) (by decide) hq
    refine ⟨decodeWord_of_major _ _ odd lt ?_ hwf, halfwords_major odd, lt⟩
    rw [decodeMajor_matrix f1_6]; unfold decodeMatrix; rw [f7_6, f19_13, e_a]
    rfl
  exact key _ rfl
theorem Laws.RoundTrip.mxRing (a : RegField) (n : BitVec 2) : Statement (.mxRing a n) := by
  intro hwf _
  have key : ∀ q, q = encAN (109 + 0 * 2 ^ 9 + 512 * 2 ^ 19) a n → decodeWord q = some (.mxRing a n) ∧ halfwords q = 2 ∧ q < 2 ^ 32 := by
    intro q hq
    obtain ⟨odd, lt, f1_6, f9_4, f19_13, e_a, e_n⟩ := encAN_fields 109 0 512 a n (by decide) (by decide) (by decide) (by decide) hq
    refine ⟨decodeWord_of_major _ _ odd lt ?_ hwf, halfwords_major odd, lt⟩
    rw [decodeMajor_matrix f1_6]; unfold decodeMatrix; rw [f9_4, f19_13, e_a, e_n]
    rfl
  exact key _ rfl
theorem Laws.RoundTrip.mxZero (acc : BitVec 2) (int : Bool) : Statement (.mxZero acc int) := by
  intro hwf _
  have key : ∀ q, q = encAccInt (109 + 0 * 2 ^ 9 + 8 * 2 ^ 26) acc int → decodeWord q = some (.mxZero acc int) ∧ halfwords q = 2 ∧ q < 2 ^ 32 := by
    intro q hq
    obtain ⟨odd, lt, f1_6, f9_16, f26_6, e_acc, e_int⟩ := encAccInt_fields 109 0 8 acc int (by decide) (by decide) (by decide) (by decide) hq
    refine ⟨decodeWord_of_major _ _ odd lt ?_ hwf, halfwords_major odd, lt⟩
    replace f9_16 : field _ 9 16 = 0 := f9_16
    replace f26_6 : field _ 26 6 = 8 := f26_6
    rw [decodeMajor_matrix f1_6]; unfold decodeMatrix
    rw [if_neg (fun h => field_ne 0 f26_6 (by decide) (by decide) (by decide) h.1),
      if_neg (fun h => field_ne 512 f26_6 (by decide) (by decide) (by decide) h.1),
      if_pos ⟨f26_6, f9_16⟩,
      e_acc, e_int]
  exact key _ rfl
theorem Laws.RoundTrip.mxMma (acc : BitVec 2) (ra : BitVec 2) (rb : BitVec 2) (ka : Bool) (kb : Bool) (ret : Bool) : Statement (.mxMma acc ra rb ka kb ret) := by
  intro hwf _
  have key : ∀ q, q = encAccRaRbKaKbRet (109 + 0 * 2 ^ 9 + 0 * 2 ^ 15 + 0 * 2 ^ 21 + 3 * 2 ^ 28) acc ra rb ka kb ret → decodeWord q = some (.mxMma acc ra rb ka kb ret) ∧ halfwords q = 2 ∧ q < 2 ^ 32 := by
    intro q hq
    obtain ⟨odd, lt, f1_6, f9_4, f15_4, f21_4, f28_4, e_acc, e_ra, e_rb, e_ka, e_kb, e_ret⟩ := encAccRaRbKaKbRet_fields 109 0 0 0 3 acc ra rb ka kb ret (by decide) (by decide) (by decide) (by decide) (by decide) (by decide) hq
    refine ⟨decodeWord_of_major _ _ odd lt ?_ hwf, halfwords_major odd, lt⟩
    replace f9_4 : field _ 9 4 = 0 := f9_4
    replace f15_4 : field _ 15 4 = 0 := f15_4
    replace f21_4 : field _ 21 4 = 0 := f21_4
    replace f28_4 : field _ 28 4 = 3 := f28_4
    rw [decodeMajor_matrix f1_6]; unfold decodeMatrix
    rw [if_neg (fun h => field_ne 0 f28_4 (by decide) (by decide) (by decide) h.1),
      if_neg (fun h => field_ne 512 f28_4 (by decide) (by decide) (by decide) h.1),
      if_neg (fun h => field_ne 8 f28_4 (by decide) (by decide) (by decide) h.1),
      if_pos ⟨f28_4, f21_4, f15_4, f9_4⟩,
      e_acc, e_ra, e_rb, e_ka, e_kb, e_ret]
  exact key _ rfl
theorem Laws.RoundTrip.mxMma4 (ra : BitVec 2) (rb : BitVec 2) (ka : Bool) (kb : Bool) (ret : Bool) : Statement (.mxMma4 ra rb ka kb ret) := by
  intro hwf _
  have key : ∀ q, q = encRaRbKaKbRet (109 + 0 * 2 ^ 15 + 0 * 2 ^ 21 + 4 * 2 ^ 28) ra rb ka kb ret → decodeWord q = some (.mxMma4 ra rb ka kb ret) ∧ halfwords q = 2 ∧ q < 2 ^ 32 := by
    intro q hq
    obtain ⟨odd, lt, f1_6, f7_6, f15_4, f21_4, f28_4, e_ra, e_rb, e_ka, e_kb, e_ret⟩ := encRaRbKaKbRet_fields 109 0 0 4 ra rb ka kb ret (by decide) (by decide) (by decide) (by decide) (by decide) hq
    refine ⟨decodeWord_of_major _ _ odd lt ?_ hwf, halfwords_major odd, lt⟩
    replace f7_6 : field _ 7 6 = 0 := f7_6
    replace f15_4 : field _ 15 4 = 0 := f15_4
    replace f21_4 : field _ 21 4 = 0 := f21_4
    replace f28_4 : field _ 28 4 = 4 := f28_4
    rw [decodeMajor_matrix f1_6]; unfold decodeMatrix
    rw [if_neg (fun h => field_ne 0 f28_4 (by decide) (by decide) (by decide) h.1),
      if_neg (fun h => field_ne 512 f28_4 (by decide) (by decide) (by decide) h.1),
      if_neg (fun h => field_ne 8 f28_4 (by decide) (by decide) (by decide) h.1),
      if_neg (fun h => absurd (f28_4.symm.trans h.1) (by decide)),
      if_pos ⟨f28_4, f21_4, f15_4, f7_6⟩,
      e_ra, e_rb, e_ka, e_kb, e_ret]
  exact key _ rfl
theorem Laws.RoundTrip.mxScale (a : RegField) (b : RegField) : Statement (.mxScale a b) := by
  intro hwf _
  have key : ∀ q, q = encAB (109 + 40 * 2 ^ 25) a b → decodeWord q = some (.mxScale a b) ∧ halfwords q = 2 ∧ q < 2 ^ 32 := by
    intro q hq
    obtain ⟨odd, lt, f1_6, f7_6, f25_7, f26_6, f28_4, e_a, e_b⟩ := encAB_fields 109 40 a b (by decide) (by decide) (by decide) hq
    refine ⟨decodeWord_of_major _ _ odd lt ?_ hwf, halfwords_major odd, lt⟩
    replace f7_6 : field _ 7 6 = 0 := f7_6
    replace f25_7 : field _ 25 7 = 40 := f25_7
    replace f26_6 : field _ 26 6 = 20 := f26_6
    replace f28_4 : field _ 28 4 = 5 := f28_4
    rw [decodeMajor_matrix f1_6]; unfold decodeMatrix
    rw [if_neg (fun h => field_ne 0 f25_7 (by decide) (by decide) (by decide) h.1),
      if_neg (fun h => field_ne 512 f25_7 (by decide) (by decide) (by decide) h.1),
      if_neg (fun h => absurd (f26_6.symm.trans h.1) (by decide)),
      if_neg (fun h => absurd (f28_4.symm.trans h.1) (by decide)),
      if_neg (fun h => absurd (f28_4.symm.trans h.1) (by decide)),
      if_pos ⟨f25_7, f7_6⟩,
      e_a, e_b]
  exact key _ rfl
theorem Laws.RoundTrip.mxDrain (acc : BitVec 2) (a : RegField) (b : RegField) (clr : Bool) (ret : Bool) : Statement (.mxDrain acc a b clr ret) := by
  intro hwf _
  have key : ∀ q, q = encAccABClrRet (109 + 0 * 2 ^ 9 + 0 * 2 ^ 26 + 6 * 2 ^ 28) acc a b clr ret → decodeWord q = some (.mxDrain acc a b clr ret) ∧ halfwords q = 2 ∧ q < 2 ^ 32 := by
    intro q hq
    obtain ⟨odd, lt, f1_6, f9_4, f26_1, f28_4, e_acc, e_a, e_b, e_clr, e_ret⟩ := encAccABClrRet_fields 109 0 0 6 acc a b clr ret (by decide) (by decide) (by decide) (by decide) (by decide) hq
    refine ⟨decodeWord_of_major _ _ odd lt ?_ hwf, halfwords_major odd, lt⟩
    replace f9_4 : field _ 9 4 = 0 := f9_4
    replace f26_1 : field _ 26 1 = 0 := f26_1
    replace f28_4 : field _ 28 4 = 6 := f28_4
    rw [decodeMajor_matrix f1_6]; unfold decodeMatrix
    rw [if_neg (fun h => field_ne 0 f28_4 (by decide) (by decide) (by decide) h.1),
      if_neg (fun h => field_ne 512 f28_4 (by decide) (by decide) (by decide) h.1),
      if_neg (fun h => field_ne 8 f28_4 (by decide) (by decide) (by decide) h.1),
      if_neg (fun h => absurd (f28_4.symm.trans h.1) (by decide)),
      if_neg (fun h => absurd (f28_4.symm.trans h.1) (by decide)),
      if_neg (fun h => field_ne 40 f28_4 (by decide) (by decide) (by decide) h.1),
      if_pos ⟨f28_4, f26_1, f9_4⟩,
      e_acc, e_a, e_b, e_clr, e_ret]
  exact key _ rfl
theorem Laws.RoundTrip.mxLoad (acc : BitVec 2) (a : RegField) (b : RegField) (int : Bool) : Statement (.mxLoad acc a b int) := by
  intro hwf _
  have key : ∀ q, q = encAccABInt (109 + 0 * 2 ^ 9 + 28 * 2 ^ 26) acc a b int → decodeWord q = some (.mxLoad acc a b int) ∧ halfwords q = 2 ∧ q < 2 ^ 32 := by
    intro q hq
    obtain ⟨odd, lt, f1_6, f9_4, f26_6, f28_4, e_acc, e_a, e_b, e_int⟩ := encAccABInt_fields 109 0 28 acc a b int (by decide) (by decide) (by decide) (by decide) hq
    refine ⟨decodeWord_of_major _ _ odd lt ?_ hwf, halfwords_major odd, lt⟩
    replace f9_4 : field _ 9 4 = 0 := f9_4
    replace f26_6 : field _ 26 6 = 28 := f26_6
    replace f28_4 : field _ 28 4 = 7 := f28_4
    rw [decodeMajor_matrix f1_6]; unfold decodeMatrix
    rw [if_neg (fun h => field_ne 0 f26_6 (by decide) (by decide) (by decide) h.1),
      if_neg (fun h => field_ne 512 f26_6 (by decide) (by decide) (by decide) h.1),
      if_neg (fun h => absurd (f26_6.symm.trans h.1) (by decide)),
      if_neg (fun h => absurd (f28_4.symm.trans h.1) (by decide)),
      if_neg (fun h => absurd (f28_4.symm.trans h.1) (by decide)),
      if_neg (fun h => field_ne 40 f26_6 (by decide) (by decide) (by decide) h.1),
      if_neg (fun h => absurd (f28_4.symm.trans h.1) (by decide)),
      if_pos ⟨f26_6, f9_4⟩,
      e_acc, e_a, e_b, e_int]
  exact key _ rfl
theorem Laws.RoundTrip.mxPush (n : BitVec 2) : Statement (.mxPush n) := by
  intro hwf _
  have key : ∀ q, q = encN (109 + 4194304 * 2 ^ 9) n → decodeWord q = some (.mxPush n) ∧ halfwords q = 2 ∧ q < 2 ^ 32 := by
    intro q hq
    obtain ⟨odd, lt, f1_6, f9_23, f19_13, f25_7, f26_6, f28_4, e_n⟩ := encN_fields 109 4194304 n (by decide) (by decide) (by decide) hq
    refine ⟨decodeWord_of_major _ _ odd lt ?_ hwf, halfwords_major odd, lt⟩
    rw [decodeMajor_matrix f1_6]; unfold decodeMatrix; rw [f9_23, f19_13, f25_7, f26_6, f28_4, e_n]
    rfl
  exact key _ rfl
theorem Laws.RoundTrip.mxPop (n : BitVec 2) : Statement (.mxPop n) := by
  intro hwf _
  have key : ∀ q, q = encN (109 + 4718592 * 2 ^ 9) n → decodeWord q = some (.mxPop n) ∧ halfwords q = 2 ∧ q < 2 ^ 32 := by
    intro q hq
    obtain ⟨odd, lt, f1_6, f9_23, f19_13, f25_7, f26_6, f28_4, e_n⟩ := encN_fields 109 4718592 n (by decide) (by decide) (by decide) hq
    refine ⟨decodeWord_of_major _ _ odd lt ?_ hwf, halfwords_major odd, lt⟩
    rw [decodeMajor_matrix f1_6]; unfold decodeMatrix; rw [f9_23, f19_13, f25_7, f26_6, f28_4, e_n]
    rfl
  exact key _ rfl
theorem Laws.RoundTrip.cpIn (d : RegField) (a : RegField) (b : RegField) (ring : Bool) (ret : Bool) : Statement (.cpIn d a b ring ret) := by
  intro hwf _
  have key : ∀ q, q = encDABRingRet (111 + 0 * 2 ^ 25 + 0 * 2 ^ 28) d a b ring ret → decodeWord q = some (.cpIn d a b ring ret) ∧ halfwords q = 2 ∧ q < 2 ^ 32 := by
    intro q hq
    obtain ⟨odd, lt, f1_6, f25_1, f28_4, e_d, e_a, e_b, e_ring, e_ret⟩ := encDABRingRet_fields 111 0 0 d a b ring ret (by decide) (by decide) (by decide) (by decide) hq
    refine ⟨decodeWord_of_major _ _ odd lt ?_ hwf, halfwords_major odd, lt⟩
    rw [decodeMajor_copy f1_6]; unfold decodeCopy; rw [f25_1, f28_4, e_d, e_a, e_b, e_ring, e_ret]
    rfl
  exact key _ rfl
theorem Laws.RoundTrip.cpOut (d : RegField) (a : RegField) (b : RegField) (sys : Bool) (ret : Bool) : Statement (.cpOut d a b sys ret) := by
  intro hwf _
  have key : ∀ q, q = encDABSysRet (111 + 0 * 2 ^ 26 + 1 * 2 ^ 28) d a b sys ret → decodeWord q = some (.cpOut d a b sys ret) ∧ halfwords q = 2 ∧ q < 2 ^ 32 := by
    intro q hq
    obtain ⟨odd, lt, f1_6, f26_1, f28_4, e_d, e_a, e_b, e_sys, e_ret⟩ := encDABSysRet_fields 111 0 1 d a b sys ret (by decide) (by decide) (by decide) (by decide) hq
    refine ⟨decodeWord_of_major _ _ odd lt ?_ hwf, halfwords_major odd, lt⟩
    rw [decodeMajor_copy f1_6]; unfold decodeCopy; rw [f26_1, f28_4, e_d, e_a, e_b, e_sys, e_ret]
    rfl
  exact key _ rfl
theorem Laws.RoundTrip.cpDd (d : RegField) (a : RegField) (b : RegField) (ret : Bool) : Statement (.cpDd d a b ret) := by
  intro hwf _
  have key : ∀ q, q = encDABRet (111 + 0 * 2 ^ 25 + 2 * 2 ^ 28) d a b ret → decodeWord q = some (.cpDd d a b ret) ∧ halfwords q = 2 ∧ q < 2 ^ 32 := by
    intro q hq
    obtain ⟨odd, lt, f1_6, f25_2, f28_4, e_d, e_a, e_b, e_ret⟩ := encDABRet_fields 111 0 2 d a b ret (by decide) (by decide) (by decide) (by decide) hq
    refine ⟨decodeWord_of_major _ _ odd lt ?_ hwf, halfwords_major odd, lt⟩
    rw [decodeMajor_copy f1_6]; unfold decodeCopy; rw [f25_2, f28_4, e_d, e_a, e_b, e_ret]
    rfl
  exact key _ rfl
theorem Laws.RoundTrip.cpGather (d : RegField) (a : RegField) (b : RegField) (ring : Bool) (ret : Bool) : Statement (.cpGather d a b ring ret) := by
  intro hwf _
  have key : ∀ q, q = encDABRingRet (111 + 0 * 2 ^ 25 + 3 * 2 ^ 28) d a b ring ret → decodeWord q = some (.cpGather d a b ring ret) ∧ halfwords q = 2 ∧ q < 2 ^ 32 := by
    intro q hq
    obtain ⟨odd, lt, f1_6, f25_1, f28_4, e_d, e_a, e_b, e_ring, e_ret⟩ := encDABRingRet_fields 111 0 3 d a b ring ret (by decide) (by decide) (by decide) (by decide) hq
    refine ⟨decodeWord_of_major _ _ odd lt ?_ hwf, halfwords_major odd, lt⟩
    rw [decodeMajor_copy f1_6]; unfold decodeCopy; rw [f25_1, f28_4, e_d, e_a, e_b, e_ring, e_ret]
    rfl
  exact key _ rfl
theorem Laws.RoundTrip.cpPf (a : RegField) (b : RegField) : Statement (.cpPf a b) := by
  intro hwf _
  have key : ∀ q, q = encAB (111 + 32 * 2 ^ 25) a b → decodeWord q = some (.cpPf a b) ∧ halfwords q = 2 ∧ q < 2 ^ 32 := by
    intro q hq
    obtain ⟨odd, lt, f1_6, f7_6, f25_7, -, f28_4, e_a, e_b⟩ := encAB_fields 111 32 a b (by decide) (by decide) (by decide) hq
    refine ⟨decodeWord_of_major _ _ odd lt ?_ hwf, halfwords_major odd, lt⟩
    rw [decodeMajor_copy f1_6]; unfold decodeCopy; rw [f7_6, f25_7, f28_4, e_a, e_b]
    rfl
  exact key _ rfl
theorem Laws.RoundTrip.smBind (d : BitVec 5) (a : RegField) : Statement (.smBind d a) := by
  intro hwf _
  have key : ∀ q, q = encDA2 (113 + 0 * 2 ^ 12 + 0 * 2 ^ 19) d a → decodeWord q = some (.smBind d a) ∧ halfwords q = 2 ∧ q < 2 ^ 32 := by
    intro q hq
    obtain ⟨odd, lt, f1_6, f12_1, f19_13, e_d, e_a⟩ := encDA2_fields 113 0 0 d a (by decide) (by decide) (by decide) (by decide) hq
    refine ⟨decodeWord_of_major _ _ odd lt ?_ hwf, halfwords_major odd, lt⟩
    rw [decodeMajor_stream f1_6]; unfold decodeStream; rw [f12_1, f19_13, e_d, e_a]
    rfl
  exact key _ rfl
theorem Laws.RoundTrip.smFree (d : BitVec 5) : Statement (.smFree d) := by
  intro hwf _
  have key : ∀ q, q = encD (113 + 65536 * 2 ^ 12) d → decodeWord q = some (.smFree d) ∧ halfwords q = 2 ∧ q < 2 ^ 32 := by
    intro q hq
    obtain ⟨odd, lt, f1_6, f12_20, f19_13, e_d⟩ := encD_fields 113 65536 d (by decide) (by decide) (by decide) hq
    refine ⟨decodeWord_of_major _ _ odd lt ?_ hwf, halfwords_major odd, lt⟩
    rw [decodeMajor_stream f1_6]; unfold decodeStream; rw [f12_20, f19_13, e_d]
    rfl
  exact key _ rfl
theorem Laws.RoundTrip.smSkip (d : BitVec 5) (a : RegField) : Statement (.smSkip d a) := by
  intro hwf _
  have key : ∀ q, q = encDA2 (113 + 0 * 2 ^ 12 + 1024 * 2 ^ 19) d a → decodeWord q = some (.smSkip d a) ∧ halfwords q = 2 ∧ q < 2 ^ 32 := by
    intro q hq
    obtain ⟨odd, lt, f1_6, f12_1, f19_13, e_d, e_a⟩ := encDA2_fields 113 0 1024 d a (by decide) (by decide) (by decide) (by decide) hq
    refine ⟨decodeWord_of_major _ _ odd lt ?_ hwf, halfwords_major odd, lt⟩
    replace f12_1 : field _ 12 1 = 0 := f12_1
    replace f19_13 : field _ 19 13 = 1024 := f19_13
    rw [decodeMajor_stream f1_6]; unfold decodeStream
    rw [if_neg (fun h => absurd (f19_13.symm.trans h.1) (by decide)),
      if_neg (fun h => field_ne 65536 f19_13 (by decide) (by decide) (by decide) h),
      if_pos ⟨f19_13, f12_1⟩,
      e_d, e_a]
  exact key _ rfl
theorem Laws.RoundTrip.tbInit (a : RegField) (b : RegField) : Statement (.tbInit a b) := by
  intro hwf _
  have key : ∀ q, q = encAB (115 + 0 * 2 ^ 25) a b → decodeWord q = some (.tbInit a b) ∧ halfwords q = 2 ∧ q < 2 ^ 32 := by
    intro q hq
    obtain ⟨odd, lt, f1_6, f7_6, f25_7, -, -, e_a, e_b⟩ := encAB_fields 115 0 a b (by decide) (by decide) (by decide) hq
    refine ⟨decodeWord_of_major _ _ odd lt ?_ hwf, halfwords_major odd, lt⟩
    rw [decodeMajor_tbarrier f1_6]; unfold decodeTBarrier; rw [f7_6, f25_7, e_a, e_b]
    rfl
  exact key _ rfl
theorem Laws.RoundTrip.tbArrive (d : RegField) (a : RegField) : Statement (.tbArrive d a) := by
  intro hwf _
  have key : ∀ q, q = encDA (115 + 512 * 2 ^ 19) d a → decodeWord q = some (.tbArrive d a) ∧ halfwords q = 2 ∧ q < 2 ^ 32 := by
    intro q hq
    obtain ⟨odd, lt, f1_6, f19_13, f25_7, -, e_d, e_a⟩ := encDA_fields 115 512 d a (by decide) (by decide) (by decide) hq
    refine ⟨decodeWord_of_major _ _ odd lt ?_ hwf, halfwords_major odd, lt⟩
    rw [decodeMajor_tbarrier f1_6]; unfold decodeTBarrier; rw [f19_13, f25_7, e_d, e_a]
    rfl
  exact key _ rfl
theorem Laws.RoundTrip.tbWait (a : RegField) (b : RegField) : Statement (.tbWait a b) := by
  intro hwf _
  have key : ∀ q, q = encAB (115 + 16 * 2 ^ 25) a b → decodeWord q = some (.tbWait a b) ∧ halfwords q = 2 ∧ q < 2 ^ 32 := by
    intro q hq
    obtain ⟨odd, lt, f1_6, f7_6, f25_7, -, -, e_a, e_b⟩ := encAB_fields 115 16 a b (by decide) (by decide) (by decide) hq
    refine ⟨decodeWord_of_major _ _ odd lt ?_ hwf, halfwords_major odd, lt⟩
    replace f7_6 : field _ 7 6 = 0 := f7_6
    replace f25_7 : field _ 25 7 = 16 := f25_7
    rw [decodeMajor_tbarrier f1_6]; unfold decodeTBarrier
    rw [if_neg (fun h => absurd (f25_7.symm.trans h.1) (by decide)),
      if_neg (fun h => field_ne 512 f25_7 (by decide) (by decide) (by decide) h),
      if_pos ⟨f25_7, f7_6⟩,
      e_a, e_b]
  exact key _ rfl
theorem Laws.RoundTrip.tbTest (d : RegField) (a : RegField) (b : RegField) : Statement (.tbTest d a b) := by
  intro hwf _
  have key : ∀ q, q = encDAB (115 + 24 * 2 ^ 25) d a b → decodeWord q = some (.tbTest d a b) ∧ halfwords q = 2 ∧ q < 2 ^ 32 := by
    intro q hq
    obtain ⟨odd, lt, f1_6, f25_7, e_d, e_a, e_b⟩ := encDAB_fields 115 24 d a b (by decide) (by decide) (by decide) hq
    refine ⟨decodeWord_of_major _ _ odd lt ?_ hwf, halfwords_major odd, lt⟩
    replace f25_7 : field _ 25 7 = 24 := f25_7
    rw [decodeMajor_tbarrier f1_6]; unfold decodeTBarrier
    rw [if_neg (fun h => absurd (f25_7.symm.trans h.1) (by decide)),
      if_neg (fun h => field_ne 512 f25_7 (by decide) (by decide) (by decide) h),
      if_neg (fun h => absurd (f25_7.symm.trans h.1) (by decide)),
      if_pos f25_7,
      e_d, e_a, e_b]
  exact key _ rfl
theorem Laws.RoundTrip.winOpen (a : RegField) (b : RegField) (w : BitVec 3) (seg : SegField) : Statement (.winOpen a b w seg) := by
  intro hwf _
  have key : ∀ q, q = encABWSeg (117 + 0 * 2 ^ 10 + 0 * 2 ^ 28) a b w seg → decodeWord q = some (.winOpen a b w seg) ∧ halfwords q = 2 ∧ q < 2 ^ 32 := by
    intro q hq
    obtain ⟨odd, lt, f1_6, f10_3, f28_4, e_a, e_b, e_w, e_seg⟩ := encABWSeg_fields 117 0 0 a b w seg (by decide) (by decide) (by decide) (by decide) hq
    refine ⟨decodeWord_of_major _ _ odd lt ?_ hwf, halfwords_major odd, lt⟩
    rw [decodeMajor_window f1_6]; unfold decodeWindow; rw [f10_3, f28_4, e_a, e_b, e_w, e_seg]
    rfl
  exact key _ rfl
theorem Laws.RoundTrip.winFlush (w : BitVec 3) : Statement (.winFlush w) := by
  intro hwf _
  have key : ∀ q, q = encW (117 + 262144 * 2 ^ 10) w → decodeWord q = some (.winFlush w) ∧ halfwords q = 2 ∧ q < 2 ^ 32 := by
    intro q hq
    obtain ⟨odd, lt, f1_6, f10_22, f28_4, e_w⟩ := encW_fields 117 262144 w (by decide) (by decide) (by decide) hq
    refine ⟨decodeWord_of_major _ _ odd lt ?_ hwf, halfwords_major odd, lt⟩
    rw [decodeMajor_window f1_6]; unfold decodeWindow; rw [f10_22, f28_4, e_w]
    rfl
  exact key _ rfl
theorem Laws.RoundTrip.winClose (w : BitVec 3) : Statement (.winClose w) := by
  intro hwf _
  have key : ∀ q, q = encW (117 + 524288 * 2 ^ 10) w → decodeWord q = some (.winClose w) ∧ halfwords q = 2 ∧ q < 2 ^ 32 := by
    intro q hq
    obtain ⟨odd, lt, f1_6, f10_22, f28_4, e_w⟩ := encW_fields 117 524288 w (by decide) (by decide) (by decide) hq
    refine ⟨decodeWord_of_major _ _ odd lt ?_ hwf, halfwords_major odd, lt⟩
    rw [decodeMajor_window f1_6]; unfold decodeWindow; rw [f10_22, f28_4, e_w]
    rfl
  exact key _ rfl
theorem Laws.RoundTrip.winDrop (w : BitVec 3) : Statement (.winDrop w) := by
  intro hwf _
  have key : ∀ q, q = encW (117 + 786432 * 2 ^ 10) w → decodeWord q = some (.winDrop w) ∧ halfwords q = 2 ∧ q < 2 ^ 32 := by
    intro q hq
    obtain ⟨odd, lt, f1_6, f10_22, f28_4, e_w⟩ := encW_fields 117 786432 w (by decide) (by decide) (by decide) hq
    refine ⟨decodeWord_of_major _ _ odd lt ?_ hwf, halfwords_major odd, lt⟩
    rw [decodeMajor_window f1_6]; unfold decodeWindow; rw [f10_22, f28_4, e_w]
    rfl
  exact key _ rfl
theorem Laws.RoundTrip.seqCfg (a : RegField) : Statement (.seqCfg a) := by
  intro hwf _
  have key : ∀ q, q = encA (119 + 0 * 2 ^ 19) a → decodeWord q = some (.seqCfg a) ∧ halfwords q = 2 ∧ q < 2 ^ 32 := by
    intro q hq
    obtain ⟨odd, lt, f1_6, f7_6, f19_13, -, -, e_a⟩ := encA_fields 119 0 a (by decide) (by decide) (by decide) hq
    refine ⟨decodeWord_of_major _ _ odd lt ?_ hwf, halfwords_major odd, lt⟩
    rw [decodeMajor_sequencer f1_6]; unfold decodeSequencer; rw [f7_6, f19_13, e_a]
    rfl
  exact key _ rfl
theorem Laws.RoundTrip.seqStart (a : RegField) : Statement (.seqStart a) := by
  intro hwf _
  have key : ∀ q, q = encA (119 + 512 * 2 ^ 19) a → decodeWord q = some (.seqStart a) ∧ halfwords q = 2 ∧ q < 2 ^ 32 := by
    intro q hq
    obtain ⟨odd, lt, f1_6, f7_6, f19_13, -, -, e_a⟩ := encA_fields 119 512 a (by decide) (by decide) (by decide) hq
    refine ⟨decodeWord_of_major _ _ odd lt ?_ hwf, halfwords_major odd, lt⟩
    rw [decodeMajor_sequencer f1_6]; unfold decodeSequencer; rw [f7_6, f19_13, e_a]
    rfl
  exact key _ rfl
theorem Laws.RoundTrip.seqStop : Statement (.seqStop) := by
  intro hwf _
  have key : ∀ q, q = encCode 536871031 → decodeWord q = some (.seqStop) ∧ halfwords q = 2 ∧ q < 2 ^ 32 := by
    intro q hq
    obtain ⟨odd, lt, f1_6, f7_25, -, f19_13, -, -, -⟩ := encCode_fields 536871031 (by decide) (by decide) hq
    refine ⟨decodeWord_of_major _ _ odd lt ?_ hwf, halfwords_major odd, lt⟩
    rw [decodeMajor_sequencer f1_6]; unfold decodeSequencer; rw [f7_25, f19_13]
    rfl
  exact key _ rfl
theorem Laws.RoundTrip.seqRet : Statement (.seqRet) := by
  intro hwf _
  have key : ∀ q, q = encCode 805306487 → decodeWord q = some (.seqRet) ∧ halfwords q = 2 ∧ q < 2 ^ 32 := by
    intro q hq
    obtain ⟨odd, lt, f1_6, f7_25, -, f19_13, -, -, -⟩ := encCode_fields 805306487 (by decide) (by decide) hq
    refine ⟨decodeWord_of_major _ _ odd lt ?_ hwf, halfwords_major odd, lt⟩
    rw [decodeMajor_sequencer f1_6]; unfold decodeSequencer; rw [f7_25, f19_13]
    rfl
  exact key _ rfl
theorem Laws.RoundTrip.spawn (d : RegField) (a : RegField) (b : RegField) : Statement (.spawn d a b) := by
  intro hwf _
  have key : ∀ q, q = encDAB (121 + 0 * 2 ^ 25) d a b → decodeWord q = some (.spawn d a b) ∧ halfwords q = 2 ∧ q < 2 ^ 32 := by
    intro q hq
    obtain ⟨odd, lt, f1_6, f25_7, e_d, e_a, e_b⟩ := encDAB_fields 121 0 d a b (by decide) (by decide) (by decide) hq
    refine ⟨decodeWord_of_major _ _ odd lt ?_ hwf, halfwords_major odd, lt⟩
    rw [decodeMajor_thread f1_6]; unfold decodeThread; rw [f25_7, e_d, e_a, e_b]
    rfl
  exact key _ rfl
theorem Laws.RoundTrip.exit : Statement (.exit) := by
  intro hwf _
  have key : ∀ q, q = encCode 33554553 → decodeWord q = some (.exit) ∧ halfwords q = 2 ∧ q < 2 ^ 32 := by
    intro q hq
    obtain ⟨odd, lt, f1_6, f7_25, -, -, f25_7, -, -⟩ := encCode_fields 33554553 (by decide) (by decide) hq
    refine ⟨decodeWord_of_major _ _ odd lt ?_ hwf, halfwords_major odd, lt⟩
    rw [decodeMajor_thread f1_6]; unfold decodeThread; rw [f7_25, f25_7]
    rfl
  exact key _ rfl
theorem Laws.RoundTrip.yield : Statement (.yield) := by
  intro hwf _
  have key : ∀ q, q = encCode 67108985 → decodeWord q = some (.yield) ∧ halfwords q = 2 ∧ q < 2 ^ 32 := by
    intro q hq
    obtain ⟨odd, lt, f1_6, f7_25, -, -, f25_7, -, -⟩ := encCode_fields 67108985 (by decide) (by decide) hq
    refine ⟨decodeWord_of_major _ _ odd lt ?_ hwf, halfwords_major odd, lt⟩
    rw [decodeMajor_thread f1_6]; unfold decodeThread; rw [f7_25, f25_7]
    rfl
  exact key _ rfl
theorem Laws.RoundTrip.park (d : RegField) (a : RegField) : Statement (.park d a) := by
  intro hwf _
  have key : ∀ q, q = encDA (121 + 192 * 2 ^ 19) d a → decodeWord q = some (.park d a) ∧ halfwords q = 2 ∧ q < 2 ^ 32 := by
    intro q hq
    obtain ⟨odd, lt, f1_6, f19_13, f25_7, -, e_d, e_a⟩ := encDA_fields 121 192 d a (by decide) (by decide) (by decide) hq
    refine ⟨decodeWord_of_major _ _ odd lt ?_ hwf, halfwords_major odd, lt⟩
    replace f19_13 : field _ 19 13 = 192 := f19_13
    replace f25_7 : field _ 25 7 = 3 := f25_7
    rw [decodeMajor_thread f1_6]; unfold decodeThread
    rw [if_neg (fun h => absurd (f25_7.symm.trans h) (by decide)),
      if_neg (fun h => field_ne 262144 f19_13 (by decide) (by decide) (by decide) h),
      if_neg (fun h => field_ne 524288 f19_13 (by decide) (by decide) (by decide) h),
      if_pos f19_13,
      e_d, e_a]
  exact key _ rfl
theorem Laws.RoundTrip.wake (a : RegField) : Statement (.wake a) := by
  intro hwf _
  have key : ∀ q, q = encA (121 + 256 * 2 ^ 19) a → decodeWord q = some (.wake a) ∧ halfwords q = 2 ∧ q < 2 ^ 32 := by
    intro q hq
    obtain ⟨odd, lt, f1_6, f7_6, f19_13, f25_7, -, e_a⟩ := encA_fields 121 256 a (by decide) (by decide) (by decide) hq
    refine ⟨decodeWord_of_major _ _ odd lt ?_ hwf, halfwords_major odd, lt⟩
    replace f7_6 : field _ 7 6 = 0 := f7_6
    replace f19_13 : field _ 19 13 = 256 := f19_13
    replace f25_7 : field _ 25 7 = 4 := f25_7
    rw [decodeMajor_thread f1_6]; unfold decodeThread
    rw [if_neg (fun h => absurd (f25_7.symm.trans h) (by decide)),
      if_neg (fun h => field_ne 262144 f19_13 (by decide) (by decide) (by decide) h),
      if_neg (fun h => field_ne 524288 f19_13 (by decide) (by decide) (by decide) h),
      if_neg (fun h => absurd (f19_13.symm.trans h) (by decide)),
      if_pos ⟨f19_13, f7_6⟩,
      e_a]
  exact key _ rfl
theorem Laws.RoundTrip.fuse (d : RegField) (a : RegField) : Statement (.fuse d a) := by
  intro hwf _
  have key : ∀ q, q = encDA (121 + 320 * 2 ^ 19) d a → decodeWord q = some (.fuse d a) ∧ halfwords q = 2 ∧ q < 2 ^ 32 := by
    intro q hq
    obtain ⟨odd, lt, f1_6, f19_13, f25_7, -, e_d, e_a⟩ := encDA_fields 121 320 d a (by decide) (by decide) (by decide) hq
    refine ⟨decodeWord_of_major _ _ odd lt ?_ hwf, halfwords_major odd, lt⟩
    replace f19_13 : field _ 19 13 = 320 := f19_13
    replace f25_7 : field _ 25 7 = 5 := f25_7
    rw [decodeMajor_thread f1_6]; unfold decodeThread
    rw [if_neg (fun h => absurd (f25_7.symm.trans h) (by decide)),
      if_neg (fun h => field_ne 262144 f19_13 (by decide) (by decide) (by decide) h),
      if_neg (fun h => field_ne 524288 f19_13 (by decide) (by decide) (by decide) h),
      if_neg (fun h => absurd (f19_13.symm.trans h) (by decide)),
      if_neg (fun h => absurd (f19_13.symm.trans h.1) (by decide)),
      if_pos f19_13,
      e_d, e_a]
  exact key _ rfl
theorem Laws.RoundTrip.split : Statement (.split) := by
  intro hwf _
  have key : ∀ q, q = encCode 201326713 → decodeWord q = some (.split) ∧ halfwords q = 2 ∧ q < 2 ^ 32 := by
    intro q hq
    obtain ⟨odd, lt, f1_6, f7_25, -, f19_13, f25_7, -, -⟩ := encCode_fields 201326713 (by decide) (by decide) hq
    refine ⟨decodeWord_of_major _ _ odd lt ?_ hwf, halfwords_major odd, lt⟩
    rw [decodeMajor_thread f1_6]; unfold decodeThread; rw [f7_25, f19_13, f25_7]
    rfl
  exact key _ rfl
theorem Laws.RoundTrip.send (a : RegField) (b : RegField) : Statement (.send a b) := by
  intro hwf _
  have key : ∀ q, q = encAB (121 + 7 * 2 ^ 25) a b → decodeWord q = some (.send a b) ∧ halfwords q = 2 ∧ q < 2 ^ 32 := by
    intro q hq
    obtain ⟨odd, lt, f1_6, f7_6, f25_7, -, -, e_a, e_b⟩ := encAB_fields 121 7 a b (by decide) (by decide) (by decide) hq
    refine ⟨decodeWord_of_major _ _ odd lt ?_ hwf, halfwords_major odd, lt⟩
    replace f7_6 : field _ 7 6 = 0 := f7_6
    replace f25_7 : field _ 25 7 = 7 := f25_7
    rw [decodeMajor_thread f1_6]; unfold decodeThread
    rw [if_neg (fun h => absurd (f25_7.symm.trans h) (by decide)),
      if_neg (fun h => field_ne 262144 f25_7 (by decide) (by decide) (by decide) h),
      if_neg (fun h => field_ne 524288 f25_7 (by decide) (by decide) (by decide) h),
      if_neg (fun h => field_ne 192 f25_7 (by decide) (by decide) (by decide) h),
      if_neg (fun h => field_ne 256 f25_7 (by decide) (by decide) (by decide) h.1),
      if_neg (fun h => field_ne 320 f25_7 (by decide) (by decide) (by decide) h),
      if_neg (fun h => field_ne 1572864 f25_7 (by decide) (by decide) (by decide) h),
      if_pos ⟨f25_7, f7_6⟩,
      e_a, e_b]
  exact key _ rfl
theorem Laws.RoundTrip.recv (d : RegField) (a : RegField) : Statement (.recv d a) := by
  intro hwf _
  have key : ∀ q, q = encDA (121 + 512 * 2 ^ 19) d a → decodeWord q = some (.recv d a) ∧ halfwords q = 2 ∧ q < 2 ^ 32 := by
    intro q hq
    obtain ⟨odd, lt, f1_6, f19_13, f25_7, -, e_d, e_a⟩ := encDA_fields 121 512 d a (by decide) (by decide) (by decide) hq
    refine ⟨decodeWord_of_major _ _ odd lt ?_ hwf, halfwords_major odd, lt⟩
    replace f19_13 : field _ 19 13 = 512 := f19_13
    replace f25_7 : field _ 25 7 = 8 := f25_7
    rw [decodeMajor_thread f1_6]; unfold decodeThread
    rw [if_neg (fun h => absurd (f25_7.symm.trans h) (by decide)),
      if_neg (fun h => field_ne 262144 f19_13 (by decide) (by decide) (by decide) h),
      if_neg (fun h => field_ne 524288 f19_13 (by decide) (by decide) (by decide) h),
      if_neg (fun h => absurd (f19_13.symm.trans h) (by decide)),
      if_neg (fun h => absurd (f19_13.symm.trans h.1) (by decide)),
      if_neg (fun h => absurd (f19_13.symm.trans h) (by decide)),
      if_neg (fun h => field_ne 1572864 f19_13 (by decide) (by decide) (by decide) h),
      if_neg (fun h => absurd (f25_7.symm.trans h.1) (by decide)),
      if_pos f19_13,
      e_d, e_a]
  exact key _ rfl
theorem Laws.RoundTrip.recvp (d : RegField) (a : RegField) : Statement (.recvp d a) := by
  intro hwf _
  have key : ∀ q, q = encDA (121 + 576 * 2 ^ 19) d a → decodeWord q = some (.recvp d a) ∧ halfwords q = 2 ∧ q < 2 ^ 32 := by
    intro q hq
    obtain ⟨odd, lt, f1_6, f19_13, f25_7, -, e_d, e_a⟩ := encDA_fields 121 576 d a (by decide) (by decide) (by decide) hq
    refine ⟨decodeWord_of_major _ _ odd lt ?_ hwf, halfwords_major odd, lt⟩
    replace f19_13 : field _ 19 13 = 576 := f19_13
    replace f25_7 : field _ 25 7 = 9 := f25_7
    rw [decodeMajor_thread f1_6]; unfold decodeThread
    rw [if_neg (fun h => absurd (f25_7.symm.trans h) (by decide)),
      if_neg (fun h => field_ne 262144 f19_13 (by decide) (by decide) (by decide) h),
      if_neg (fun h => field_ne 524288 f19_13 (by decide) (by decide) (by decide) h),
      if_neg (fun h => absurd (f19_13.symm.trans h) (by decide)),
      if_neg (fun h => absurd (f19_13.symm.trans h.1) (by decide)),
      if_neg (fun h => absurd (f19_13.symm.trans h) (by decide)),
      if_neg (fun h => field_ne 1572864 f19_13 (by decide) (by decide) (by decide) h),
      if_neg (fun h => absurd (f25_7.symm.trans h.1) (by decide)),
      if_neg (fun h => absurd (f19_13.symm.trans h) (by decide)),
      if_pos f19_13,
      e_d, e_a]
  exact key _ rfl
theorem Laws.RoundTrip.mig (a : RegField) : Statement (.mig a) := by
  intro hwf _
  have key : ∀ q, q = encA (121 + 640 * 2 ^ 19) a → decodeWord q = some (.mig a) ∧ halfwords q = 2 ∧ q < 2 ^ 32 := by
    intro q hq
    obtain ⟨odd, lt, f1_6, f7_6, f19_13, f25_7, -, e_a⟩ := encA_fields 121 640 a (by decide) (by decide) (by decide) hq
    refine ⟨decodeWord_of_major _ _ odd lt ?_ hwf, halfwords_major odd, lt⟩
    replace f7_6 : field _ 7 6 = 0 := f7_6
    replace f19_13 : field _ 19 13 = 640 := f19_13
    replace f25_7 : field _ 25 7 = 10 := f25_7
    rw [decodeMajor_thread f1_6]; unfold decodeThread
    rw [if_neg (fun h => absurd (f25_7.symm.trans h) (by decide)),
      if_neg (fun h => field_ne 262144 f19_13 (by decide) (by decide) (by decide) h),
      if_neg (fun h => field_ne 524288 f19_13 (by decide) (by decide) (by decide) h),
      if_neg (fun h => absurd (f19_13.symm.trans h) (by decide)),
      if_neg (fun h => absurd (f19_13.symm.trans h.1) (by decide)),
      if_neg (fun h => absurd (f19_13.symm.trans h) (by decide)),
      if_neg (fun h => field_ne 1572864 f19_13 (by decide) (by decide) (by decide) h),
      if_neg (fun h => absurd (f25_7.symm.trans h.1) (by decide)),
      if_neg (fun h => absurd (f19_13.symm.trans h) (by decide)),
      if_neg (fun h => absurd (f19_13.symm.trans h) (by decide)),
      if_pos ⟨f19_13, f7_6⟩,
      e_a]
  exact key _ rfl
theorem Laws.RoundTrip.barInit (a : RegField) (n : BitVec 8) : Statement (.barInit a n) := by
  intro hwf _
  have key : ∀ q, q = encAN2 (123 + 0 * 2 ^ 27) a n → decodeWord q = some (.barInit a n) ∧ halfwords q = 2 ∧ q < 2 ^ 32 := by
    intro q hq
    obtain ⟨odd, lt, f1_6, f7_6, f27_5, e_a, e_n⟩ := encAN2_fields 123 0 a n (by decide) (by decide) (by decide) hq
    refine ⟨decodeWord_of_major _ _ odd lt ?_ hwf, halfwords_major odd, lt⟩
    rw [decodeMajor_sync f1_6]; unfold decodeSync; rw [f7_6, f27_5, e_a, e_n]
    rfl
  exact key _ rfl
theorem Laws.RoundTrip.barArrive (d : RegField) (n : BitVec 8) : Statement (.barArrive d n) := by
  intro hwf _
  have key : ∀ q, q = encDN (123 + 0 * 2 ^ 13 + 4 * 2 ^ 27) d n → decodeWord q = some (.barArrive d n) ∧ halfwords q = 2 ∧ q < 2 ^ 32 := by
    intro q hq
    obtain ⟨odd, lt, f1_6, f13_6, f27_5, e_d, e_n⟩ := encDN_fields 123 0 4 d n (by decide) (by decide) (by decide) (by decide) hq
    refine ⟨decodeWord_of_major _ _ odd lt ?_ hwf, halfwords_major odd, lt⟩
    rw [decodeMajor_sync f1_6]; unfold decodeSync; rw [f13_6, f27_5, e_d, e_n]
    rfl
  exact key _ rfl
theorem Laws.RoundTrip.barWait (a : RegField) (n : BitVec 8) : Statement (.barWait a n) := by
  intro hwf _
  have key : ∀ q, q = encAN2 (123 + 8 * 2 ^ 27) a n → decodeWord q = some (.barWait a n) ∧ halfwords q = 2 ∧ q < 2 ^ 32 := by
    intro q hq
    obtain ⟨odd, lt, f1_6, f7_6, f27_5, e_a, e_n⟩ := encAN2_fields 123 8 a n (by decide) (by decide) (by decide) hq
    refine ⟨decodeWord_of_major _ _ odd lt ?_ hwf, halfwords_major odd, lt⟩
    rw [decodeMajor_sync f1_6]; unfold decodeSync; rw [f7_6, f27_5, e_a, e_n]
    rfl
  exact key _ rfl
theorem Laws.RoundTrip.barSync (n : BitVec 8) : Statement (.barSync n) := by
  intro hwf _
  have key : ∀ q, q = encN2 (123 + 12 * 2 ^ 27) n → decodeWord q = some (.barSync n) ∧ halfwords q = 2 ∧ q < 2 ^ 32 := by
    intro q hq
    obtain ⟨odd, lt, f1_6, f7_12, f27_5, e_n⟩ := encN2_fields 123 12 n (by decide) (by decide) (by decide) hq
    refine ⟨decodeWord_of_major _ _ odd lt ?_ hwf, halfwords_major odd, lt⟩
    rw [decodeMajor_sync f1_6]; unfold decodeSync; rw [f7_12, f27_5, e_n]
    rfl
  exact key _ rfl
theorem Laws.RoundTrip.wfe : Statement (.wfe) := by
  intro hwf _
  have key : ∀ q, q = encCode 2147483771 → decodeWord q = some (.wfe) ∧ halfwords q = 2 ∧ q < 2 ^ 32 := by
    intro q hq
    obtain ⟨odd, lt, f1_6, f7_25, -, -, -, f27_5, -⟩ := encCode_fields 2147483771 (by decide) (by decide) hq
    refine ⟨decodeWord_of_major _ _ odd lt ?_ hwf, halfwords_major odd, lt⟩
    rw [decodeMajor_sync f1_6]; unfold decodeSync; rw [f7_25, f27_5]
    rfl
  exact key _ rfl
theorem Laws.RoundTrip.sev (a : RegField) : Statement (.sev a) := by
  intro hwf _
  have key : ∀ q, q = encA (123 + 5120 * 2 ^ 19) a → decodeWord q = some (.sev a) ∧ halfwords q = 2 ∧ q < 2 ^ 32 := by
    intro q hq
    obtain ⟨odd, lt, f1_6, f7_6, f19_13, -, f27_5, e_a⟩ := encA_fields 123 5120 a (by decide) (by decide) (by decide) hq
    refine ⟨decodeWord_of_major _ _ odd lt ?_ hwf, halfwords_major odd, lt⟩
    replace f7_6 : field _ 7 6 = 0 := f7_6
    replace f19_13 : field _ 19 13 = 5120 := f19_13
    replace f27_5 : field _ 27 5 = 20 := f27_5
    rw [decodeMajor_sync f1_6]; unfold decodeSync
    rw [if_neg (fun h => absurd (f27_5.symm.trans h.1) (by decide)),
      if_neg (fun h => absurd (f27_5.symm.trans h.1) (by decide)),
      if_neg (fun h => absurd (f27_5.symm.trans h.1) (by decide)),
      if_neg (fun h => absurd (f27_5.symm.trans h.1) (by decide)),
      if_neg (fun h => field_ne 16777216 f19_13 (by decide) (by decide) (by decide) h),
      if_pos ⟨f19_13, f7_6⟩,
      e_a]
  exact key _ rfl
theorem Laws.RoundTrip.csrr (d : RegField) (csr : BitVec 12) : Statement (.csrr d csr) := by
  intro hwf _
  have key : ∀ q, q = encDCsr (125 + 0 * 2 ^ 25) d csr → decodeWord q = some (.csrr d csr) ∧ halfwords q = 2 ∧ q < 2 ^ 32 := by
    intro q hq
    obtain ⟨odd, lt, f1_6, f25_7, e_d, e_csr⟩ := encDCsr_fields 125 0 d csr (by decide) (by decide) (by decide) hq
    refine ⟨decodeWord_of_major _ _ odd lt ?_ hwf, halfwords_major odd, lt⟩
    rw [decodeMajor_sys f1_6]; unfold decodeSys; rw [f25_7, e_d, e_csr]
    rfl
  exact key _ rfl
theorem Laws.RoundTrip.csrw (x : RegField) (csr : BitVec 12) : Statement (.csrw x csr) := by
  intro hwf _
  have key : ∀ q, q = encXCsr (125 + 8 * 2 ^ 25) x csr → decodeWord q = some (.csrw x csr) ∧ halfwords q = 2 ∧ q < 2 ^ 32 := by
    intro q hq
    obtain ⟨odd, lt, f1_6, f25_7, e_x, e_csr⟩ := encXCsr_fields 125 8 x csr (by decide) (by decide) (by decide) hq
    refine ⟨decodeWord_of_major _ _ odd lt ?_ hwf, halfwords_major odd, lt⟩
    rw [decodeMajor_sys f1_6]; unfold decodeSys; rw [f25_7, e_x, e_csr]
    rfl
  exact key _ rfl
theorem Laws.RoundTrip.csrs (x : RegField) (csr : BitVec 12) : Statement (.csrs x csr) := by
  intro hwf _
  have key : ∀ q, q = encXCsr (125 + 16 * 2 ^ 25) x csr → decodeWord q = some (.csrs x csr) ∧ halfwords q = 2 ∧ q < 2 ^ 32 := by
    intro q hq
    obtain ⟨odd, lt, f1_6, f25_7, e_x, e_csr⟩ := encXCsr_fields 125 16 x csr (by decide) (by decide) (by decide) hq
    refine ⟨decodeWord_of_major _ _ odd lt ?_ hwf, halfwords_major odd, lt⟩
    rw [decodeMajor_sys f1_6]; unfold decodeSys; rw [f25_7, e_x, e_csr]
    rfl
  exact key _ rfl
theorem Laws.RoundTrip.csrc (x : RegField) (csr : BitVec 12) : Statement (.csrc x csr) := by
  intro hwf _
  have key : ∀ q, q = encXCsr (125 + 24 * 2 ^ 25) x csr → decodeWord q = some (.csrc x csr) ∧ halfwords q = 2 ∧ q < 2 ^ 32 := by
    intro q hq
    obtain ⟨odd, lt, f1_6, f25_7, e_x, e_csr⟩ := encXCsr_fields 125 24 x csr (by decide) (by decide) (by decide) hq
    refine ⟨decodeWord_of_major _ _ odd lt ?_ hwf, halfwords_major odd, lt⟩
    rw [decodeMajor_sys f1_6]; unfold decodeSys; rw [f25_7, e_x, e_csr]
    rfl
  exact key _ rfl
theorem Laws.RoundTrip.trap (k : BitVec 12) : Statement (.trap k) := by
  intro hwf _
  have key : ∀ q, q = encK (125 + 32 * 2 ^ 25) k → decodeWord q = some (.trap k) ∧ halfwords q = 2 ∧ q < 2 ^ 32 := by
    intro q hq
    obtain ⟨odd, lt, f1_6, f7_6, f25_7, e_k⟩ := encK_fields 125 32 k (by decide) (by decide) (by decide) hq
    refine ⟨decodeWord_of_major _ _ odd lt ?_ hwf, halfwords_major odd, lt⟩
    rw [decodeMajor_sys f1_6]; unfold decodeSys; rw [f7_6, f25_7, e_k]
    rfl
  exact key _ rfl
theorem Laws.RoundTrip.brk : Statement (.brk) := by
  intro hwf _
  have key : ∀ q, q = encCode 1342177405 → decodeWord q = some (.brk) ∧ halfwords q = 2 ∧ q < 2 ^ 32 := by
    intro q hq
    obtain ⟨odd, lt, f1_6, f7_25, -, -, f25_7, -, -⟩ := encCode_fields 1342177405 (by decide) (by decide) hq
    refine ⟨decodeWord_of_major _ _ odd lt ?_ hwf, halfwords_major odd, lt⟩
    rw [decodeMajor_sys f1_6]; unfold decodeSys; rw [f7_25, f25_7]
    rfl
  exact key _ rfl
theorem Laws.RoundTrip.eret : Statement (.eret) := by
  intro hwf _
  have key : ∀ q, q = encCode 1610612861 → decodeWord q = some (.eret) ∧ halfwords q = 2 ∧ q < 2 ^ 32 := by
    intro q hq
    obtain ⟨odd, lt, f1_6, f7_25, -, -, f25_7, -, -⟩ := encCode_fields 1610612861 (by decide) (by decide) hq
    refine ⟨decodeWord_of_major _ _ odd lt ?_ hwf, halfwords_major odd, lt⟩
    rw [decodeMajor_sys f1_6]; unfold decodeSys; rw [f7_25, f25_7]
    rfl
  exact key _ rfl
theorem Laws.RoundTrip.segw (a : RegField) (b : RegField) (c : RegField) (seg : SegField) : Statement (.segw a b c seg) := by
  intro hwf _
  have key : ∀ q, q = encABCSeg (125 + 7 * 2 ^ 28) a b c seg → decodeWord q = some (.segw a b c seg) ∧ halfwords q = 2 ∧ q < 2 ^ 32 := by
    intro q hq
    obtain ⟨odd, lt, f1_6, f28_4, e_a, e_b, e_c, e_seg⟩ := encABCSeg_fields 125 7 a b c seg (by decide) (by decide) (by decide) hq
    refine ⟨decodeWord_of_major _ _ odd lt ?_ hwf, halfwords_major odd, lt⟩
    replace f28_4 : field _ 28 4 = 7 := f28_4
    rw [decodeMajor_sys f1_6]; unfold decodeSys
    rw [if_neg (fun h => field_ne 0 f28_4 (by decide) (by decide) (by decide) h),
      if_neg (fun h => field_ne 8 f28_4 (by decide) (by decide) (by decide) h),
      if_neg (fun h => field_ne 16 f28_4 (by decide) (by decide) (by decide) h),
      if_neg (fun h => field_ne 24 f28_4 (by decide) (by decide) (by decide) h),
      if_neg (fun h => field_ne 32 f28_4 (by decide) (by decide) (by decide) h.1),
      if_neg (fun h => field_ne 10485760 f28_4 (by decide) (by decide) (by decide) h),
      if_neg (fun h => field_ne 12582912 f28_4 (by decide) (by decide) (by decide) h),
      if_pos f28_4,
      e_a, e_b, e_c, e_seg]
  exact key _ rfl
theorem Laws.RoundTrip.tlbinv (a : RegField) (b : RegField) : Statement (.tlbinv a b) := by
  intro hwf _
  have key : ∀ q, q = encAB (125 + 64 * 2 ^ 25) a b → decodeWord q = some (.tlbinv a b) ∧ halfwords q = 2 ∧ q < 2 ^ 32 := by
    intro q hq
    obtain ⟨odd, lt, f1_6, f7_6, f25_7, -, f28_4, e_a, e_b⟩ := encAB_fields 125 64 a b (by decide) (by decide) (by decide) hq
    refine ⟨decodeWord_of_major _ _ odd lt ?_ hwf, halfwords_major odd, lt⟩
    replace f7_6 : field _ 7 6 = 0 := f7_6
    replace f25_7 : field _ 25 7 = 64 := f25_7
    replace f28_4 : field _ 28 4 = 8 := f28_4
    rw [decodeMajor_sys f1_6]; unfold decodeSys
    rw [if_neg (fun h => absurd (f25_7.symm.trans h) (by decide)),
      if_neg (fun h => absurd (f25_7.symm.trans h) (by decide)),
      if_neg (fun h => absurd (f25_7.symm.trans h) (by decide)),
      if_neg (fun h => absurd (f25_7.symm.trans h) (by decide)),
      if_neg (fun h => absurd (f25_7.symm.trans h.1) (by decide)),
      if_neg (fun h => field_ne 10485760 f25_7 (by decide) (by decide) (by decide) h),
      if_neg (fun h => field_ne 12582912 f25_7 (by decide) (by decide) (by decide) h),
      if_neg (fun h => absurd (f28_4.symm.trans h) (by decide)),
      if_pos ⟨f25_7, f7_6⟩,
      e_a, e_b]
  exact key _ rfl
theorem Laws.RoundTrip.scrub (a : RegField) (b : RegField) (seg : SegField) : Statement (.scrub a b seg) := by
  intro hwf _
  have key : ∀ q, q = encABSeg (125 + 9 * 2 ^ 28) a b seg → decodeWord q = some (.scrub a b seg) ∧ halfwords q = 2 ∧ q < 2 ^ 32 := by
    intro q hq
    obtain ⟨odd, lt, f1_6, f7_6, f28_4, e_a, e_b, e_seg⟩ := encABSeg_fields 125 9 a b seg (by decide) (by decide) (by decide) hq
    refine ⟨decodeWord_of_major _ _ odd lt ?_ hwf, halfwords_major odd, lt⟩
    replace f7_6 : field _ 7 6 = 0 := f7_6
    replace f28_4 : field _ 28 4 = 9 := f28_4
    rw [decodeMajor_sys f1_6]; unfold decodeSys
    rw [if_neg (fun h => field_ne 0 f28_4 (by decide) (by decide) (by decide) h),
      if_neg (fun h => field_ne 8 f28_4 (by decide) (by decide) (by decide) h),
      if_neg (fun h => field_ne 16 f28_4 (by decide) (by decide) (by decide) h),
      if_neg (fun h => field_ne 24 f28_4 (by decide) (by decide) (by decide) h),
      if_neg (fun h => field_ne 32 f28_4 (by decide) (by decide) (by decide) h.1),
      if_neg (fun h => field_ne 10485760 f28_4 (by decide) (by decide) (by decide) h),
      if_neg (fun h => field_ne 12582912 f28_4 (by decide) (by decide) (by decide) h),
      if_neg (fun h => absurd (f28_4.symm.trans h) (by decide)),
      if_neg (fun h => field_ne 64 f28_4 (by decide) (by decide) (by decide) h.1),
      if_pos ⟨f28_4, f7_6⟩,
      e_a, e_b, e_seg]
  exact key _ rfl
theorem Laws.RoundTrip.twinOn (d : RegField) : Statement (.twinOn d) := by
  intro hwf _
  have key : ∀ q, q = encD2 (125 + 327680 * 2 ^ 13) d → decodeWord q = some (.twinOn d) ∧ halfwords q = 2 ∧ q < 2 ^ 32 := by
    intro q hq
    obtain ⟨odd, lt, f1_6, f13_19, f25_7, f28_4, e_d⟩ := encD2_fields 125 327680 d (by decide) (by decide) (by decide) hq
    refine ⟨decodeWord_of_major _ _ odd lt ?_ hwf, halfwords_major odd, lt⟩
    replace f13_19 : field _ 13 19 = 327680 := f13_19
    replace f25_7 : field _ 25 7 = 80 := f25_7
    replace f28_4 : field _ 28 4 = 10 := f28_4
    rw [decodeMajor_sys f1_6]; unfold decodeSys
    rw [if_neg (fun h => absurd (f25_7.symm.trans h) (by decide)),
      if_neg (fun h => absurd (f25_7.symm.trans h) (by decide)),
      if_neg (fun h => absurd (f25_7.symm.trans h) (by decide)),
      if_neg (fun h => absurd (f25_7.symm.trans h) (by decide)),
      if_neg (fun h => absurd (f25_7.symm.trans h.1) (by decide)),
      if_neg (fun h => field_ne 10485760 f13_19 (by decide) (by decide) (by decide) h),
      if_neg (fun h => field_ne 12582912 f13_19 (by decide) (by decide) (by decide) h),
      if_neg (fun h => absurd (f28_4.symm.trans h) (by decide)),
      if_neg (fun h => absurd (f25_7.symm.trans h.1) (by decide)),
      if_neg (fun h => absurd (f28_4.symm.trans h.1) (by decide)),
      if_pos f13_19,
      e_d]
  exact key _ rfl
theorem Laws.RoundTrip.twinOff : Statement (.twinOff) := by
  intro hwf _
  have key : ∀ q, q = encCode 2952790141 → decodeWord q = some (.twinOff) ∧ halfwords q = 2 ∧ q < 2 ^ 32 := by
    intro q hq
    obtain ⟨odd, lt, f1_6, f7_25, f13_19, -, f25_7, -, f28_4⟩ := encCode_fields 2952790141 (by decide) (by decide) hq
    refine ⟨decodeWord_of_major _ _ odd lt ?_ hwf, halfwords_major odd, lt⟩
    rw [decodeMajor_sys f1_6]; unfold decodeSys; rw [f7_25, f13_19, f25_7, f28_4]
    rfl
  exact key _ rfl

end Sys2Proof
end

