-- ==== Sys2Proof/Machine/Cipher.lean ====
section
/-! DEFINITION. What the HBM4 holds of a block (R437): AES-256-XTS at its boundary. The spec takes the cipher from its standards,
which define every byte by arithmetic on polynomials; the caches and the windows, like `State.mem`, hold plaintext. -/

namespace Sys2Proof.Machine

/-! ### Polynomials of degree 7 over one bit, modulo x^8 + x^4 + x^3 + x + 1 -/

def timesX (b : Byte) : Byte := if b.getLsbD 7 then b <<< 1 ^^^ 0x1B else b <<< 1

/-- A product, from the highest bit of the second factor. -/
def polyMul (a b : Byte) : Byte :=
  (List.range 8).foldl (fun p i => if b.getLsbD (7 - i) then timesX p ^^^ a else timesX p) 0

/-- The inverse, 0 for 0: the product of the squares of squares from the second power to the 128th. -/
def polyInv (a : Byte) : Byte :=
  ((List.range 7).foldl (fun (p : Byte × Byte) _ => let q := polyMul p.1 p.1; (q, polyMul p.2 q)) (a, 1)).2

/-- The substitution of one byte. -/
def substitute (b : Byte) : Byte :=
  let v := polyInv b
  [1, 2, 3, 4].foldl (fun y n => y ^^^ v.rotateLeft n) (v ^^^ 0x63)

/-! ### AES-256 -/

/-- The bytewise exclusive or of two lists. -/
def xorBytes (xs ys : List Byte) : List Byte := List.zipWith (· ^^^ ·) xs ys

/-- The words of the key schedule, the newest in front: `n` more after `i`, with the round constant of the next eighth. -/
def keyWords (i : Nat) (rc : Byte) : Nat → List (List Byte) → List (List Byte)
  | 0, ws => ws
  | n + 1, ws =>
    let t := ws.headD []
    let u := if i % 8 = 0 then xorBytes ((t.drop 1 ++ t.take 1).map substitute) [rc, 0, 0, 0]
      else if i % 8 = 4 then t.map substitute else t
    keyWords (i + 1) (if i % 8 = 0 then timesX rc else rc) n (xorBytes u (ws.getD 7 []) :: ws)

/-- The 15 round keys of a key of 32 bytes. -/
def roundKeys (key : List Byte) : List (List Byte) :=
  let first := (List.range 8).map fun i => (key.drop (4 * i)).take 4
  let ws := (keyWords 8 1 52 first.reverse).reverse
  (List.range 15).map fun r => ((ws.drop (4 * r)).take 4).flatten

/-- Row r of the four columns turned by r places. -/
def shiftRows (x : List Byte) : List Byte := (List.range 16).map fun i => x.getD ((i + i % 4 * 4) % 16) 0

/-- Each column times the matrix of 2, 3, 1, 1. -/
def mixColumns (x : List Byte) : List Byte :=
  (List.range 16).map fun i =>
    let a (k : Nat) : Byte := x.getD (i / 4 * 4 + (i + k) % 4) 0
    timesX (a 0) ^^^ timesX (a 1) ^^^ a 1 ^^^ a 2 ^^^ a 3

/-- The rounds of a block: the last mixes no columns. -/
def cipherRounds : List Byte → List (List Byte) → List Byte
  | x, [] => x
  | x, [k] => xorBytes (shiftRows (x.map substitute)) k
  | x, k :: ks => cipherRounds (xorBytes (mixColumns (shiftRows (x.map substitute))) k) ks

/-- A block of 16 bytes under a key of 32. -/
def aes256 (key block : List Byte) : List Byte :=
  let ks := roundKeys key
  cipherRounds (xorBytes block (ks.headD [])) ks.tail

/-! ### XTS over a block of 256 bytes -/

/-- The tweak of the next 16 bytes: a little-endian number times x, modulo x^128 + x^7 + x^2 + x + 1. -/
def nextTweak (t : BitVec 128) : BitVec 128 := if t.getLsbD 127 then t <<< 1 ^^^ 0x87 else t <<< 1

/-- The rest of a data unit, 16 bytes at a time. -/
def xtsFrom (key : List Byte) (t : BitVec 128) : Nat → List Byte → List Byte
  | 0, _ => []
  | n + 1, bs =>
    let m := toBytesLE t.toNat 16
    xorBytes (aes256 key (xorBytes (bs.take 16) m)) m ++ xtsFrom key (nextTweak t) n (bs.drop 16)

/-- A data unit of a number of 16-byte parts under a key of 64 bytes, of which the second half encrypts the tweak (PRESUMED,
assumption 129). -/
def xts (key : List Byte) (tweak n : Nat) (bs : List Byte) : List Byte :=
  xtsFrom (key.take 32) (BitVec.ofNat 128 (ofBytesLE (aes256 (key.drop 32) (toBytesLE tweak 16)))) n bs

/-- The key of a local block: that of the ID in whose ranges it lies, and otherwise the one drawn at reset for ID 0, a free
value (assumption 129). -/
def State.blockKey (s : State) (n : Nat) : BitVec 512 :=
  match s.keys.find? fun (p : Nat × Key) =>
      p.2.state != .free && p.2.ranges.any fun r => decide (r.1 ≤ 256 * n ∧ 256 * n < r.1 + r.2) with
  | some p => p.2.key
  | none => ((List.range 4).map fun i => (Config.drawnKey s.resets (3 + i)).toNat * 2 ^ (128 * i)).sum

/-- The 256 bytes that the HBM4 holds for local block `n`: its bytes under its key, with its number as the tweak. -/
def State.hbmBlock (s : State) (n : Nat) : List Byte :=
  xts (toBytesLE (s.blockKey n).toNat 64) n 16 (readBytes s.mem.read (s.dev.toNat * 2 ^ 48 + 256 * n) 256)

end Sys2Proof.Machine
end

