-- ==== Sys2Proof/Tests/Slice0.lean ====
section
/-! SUPPORT. Tests: words of the spec's encodings, terms that the checks of operand values refuse, results of single steps,
and for every statement a state and operands that meet its premises. -/

namespace Sys2Proof.Tests

-- One theorem after another: most are evaluated by the kernel.
set_option Elab.async false

open Machine

/-! ### Small states -/

/-- A thread alone in slot 0 of core 0, with its segments. -/
def thread0 : Thread :=
  { state := .ready, pc := 0x100, iss := { ipc := 0x100, npc := 0x104, raw := 0xABCD }
    s := [(1, 5), (2, 7)]
    v := [(1, 0x00010002000300040005000600070008), (2, 3)]
    seg := [(0, { base := 0, length := 65536, space := .tcm, w := true, rd := true }),
            (1, { base := 0, length := 0x200000, space := .deck, w := true, rd := true }),
            (2, { base := 0x10000, length := 0x10000, space := .global, w := true, rd := true }),
            (3, { base := 0x40000, length := 0x10000, space := .peer, w := true, rd := true }),
            (7, { base := 0, length := 65536, space := .tcm, x := true, rd := true })] }

def base : State := { threads := [(0, thread0)] }

/-- The same thread after a change. -/
def withMe (f : Thread → Thread) : State := { threads := [(0, f thread0)] }

/-- With this core. -/
def withCore (c : Core) : State := { threads := [(0, thread0)], cores := [(0, c)] }

/-- With these values in `s1` and `s2`. -/
def regs (x y : Word) : State := withMe fun t => { t with s := [(1, x), (2, y)] }

/-! ### Checks of the premises that Lean evaluates -/

def okRegs (s : State) (rs : List Reg) : Bool :=
  s.me.pendingFaults.isEmpty && s.me.awaited.isEmpty && rs.all fun r => r.port.isNone

theorem usable_of {s : State} {rs : List Reg} (h : okRegs s rs = true) : s.usable rs := by
  simp only [okRegs, Bool.and_eq_true, List.isEmpty_iff, List.all_eq_true, Option.isNone_iff_eq_none] at h
  obtain ⟨⟨h1, h2⟩, h3⟩ := h
  intro r hr
  refine ⟨?_, ?_, ?_⟩
  · rw [h1]; intro p hp; cases hp
  · intro dir hd; rw [h3 r hr] at hd; cases hd
  · rw [h2]; intro hm; cases hm

def okPlain (s : State) (u : Nat) : Bool :=
  !(s.thread u).twin && !(s.thread u).iss.alone &&
    match s.siteKey (coreOf u) with
    | none => true
    | some k => decide ((s.site k).injector.toNat < 2 ^ 63)

theorem plain_of {s : State} {u : Nat} (h : okPlain s u = true) : s.plain u := by
  simp only [okPlain, Bool.and_eq_true, Bool.not_eq_true'] at h
  refine ⟨h.1.1, h.1.2, ?_⟩
  intro k hk
  have h2 := h.2
  rw [hk] at h2
  exact of_decide_eq_true h2

theorem takes_of {s : State} {d : RegField} (h : (sreg d).port = none) (h2 : d.toNat ≠ 61) (v : Word) : s.takes d v :=
  ⟨fun dir hd => absurd (h.symm.trans hd) (by simp), fun h3 => absurd h3 h2⟩

theorem takesV_of {s : State} {d : RegField} (h : (vreg d).port = none) : s.takesV d :=
  fun dir hd => absurd (h.symm.trans hd) (by simp)

/-! ### Words written out from the encodings -/

theorem test_words_1 :
    decodeWord 0x1A4C281 = some (.add 5 38 52) ∧ decodeWord 0x3A4C281 = some (.sub 5 38 52) ∧
    decodeWord 0x5A4C281 = some (.and 5 38 52) ∧ decodeWord 0x7A4C281 = some (.or 5 38 52) ∧
    decodeWord 0x9A4C281 = some (.xor 5 38 52) ∧ decodeWord 0xBA4C281 = some (.andn 5 38 52) ∧
    decodeWord 0xDA4C281 = some (.orn 5 38 52) ∧ decodeWord 0xFA4C281 = some (.sll 5 38 52) ∧
    decodeWord 0x11A4C281 = some (.srl 5 38 52) ∧ decodeWord 0x13A4C281 = some (.sra 5 38 52) ∧
    decodeWord 0x15A4C281 = some (.rol 5 38 52) ∧ decodeWord 0x17A4C281 = some (.ror 5 38 52) ∧
    decodeWord 0x19A4C281 = some (.slt 5 38 52) ∧ decodeWord 0x1BA4C281 = some (.sltu 5 38 52) ∧
    decodeWord 0x1DA4C281 = some (.min 5 38 52) ∧ decodeWord 0x1FA4C281 = some (.max 5 38 52) ∧
    decodeWord 0x21A4C281 = some (.minu 5 38 52) ∧ decodeWord 0x23A4C281 = some (.maxu 5 38 52) ∧
    decodeWord 0x25A4C281 = some (.cmov 5 38 52) ∧ decodeWord 0x27A4C281 = some (.addw 5 38 52) ∧
    decodeWord 0x29A4C281 = some (.subw 5 38 52) ∧ decodeWord 0x2BA4C281 = some (.sllw 5 38 52) ∧
    decodeWord 0x2DA4C281 = some (.srlw 5 38 52) ∧ decodeWord 0x2FA4C281 = some (.sraw 5 38 52) ∧
    decodeWord 0x1A4C283 = some (.mul 5 38 52) ∧ decodeWord 0x3A4C283 = some (.mulh 5 38 52) ∧
    decodeWord 0x5A4C283 = some (.mulhu 5 38 52) ∧ decodeWord 0x7A4C283 = some (.mulhsu 5 38 52) ∧
    decodeWord 0x9A4C283 = some (.div 5 38 52) := by
  decide +kernel

theorem test_words_2 :
    decodeWord 0xBA4C283 = some (.divu 5 38 52) ∧ decodeWord 0xDA4C283 = some (.rem 5 38 52) ∧
    decodeWord 0xFA4C283 = some (.remu 5 38 52) ∧ decodeWord 0x11A4C283 = some (.mulw 5 38 52) ∧
    decodeWord 0x13A4C283 = some (.divw 5 38 52) ∧ decodeWord 0x15A4C283 = some (.remw 5 38 52) ∧
    decodeWord 0x4C285 = some (.popc 5 38) ∧ decodeWord 0x204C285 = some (.clz 5 38) ∧
    decodeWord 0x404C285 = some (.ctz 5 38) ∧ decodeWord 0x604C285 = some (.brev 5 38) ∧
    decodeWord 0x804C285 = some (.bswap 5 38) ∧ decodeWord 0xBA4C285 = some (.bext 5 38 52) ∧
    decodeWord 0xDA4C285 = some (.bins 5 38 52) ∧ decodeWord 0xE04C285 = some (.sextB 5 38) ∧
    decodeWord 0x1004C285 = some (.sextH 5 38) ∧ decodeWord 0x1204C285 = some (.sextW 5 38) ∧
    decodeWord 0x1404C285 = some (.zextB 5 38) ∧ decodeWord 0x1604C285 = some (.zextH 5 38) ∧
    decodeWord 0x1804C285 = some (.zextW 5 38) ∧ decodeWord 0x1A04C285 = some (.lsb 5 38) ∧
    decodeWord 0x1C04C285 = some (.msk 5 38) ∧ decodeWord 0x91A4C287 = some (.addi 5 38 0x1234) ∧
    decodeWord 0x91A4C289 = some (.andi 5 38 0x1234) ∧ decodeWord 0x91A4C28B = some (.ori 5 38 0x1234) ∧
    decodeWord 0x91A4C28D = some (.xori 5 38 0x1234) ∧ decodeWord 0x91A4C28F = some (.slti 5 38 0x1234) ∧
    decodeWord 0x91A4C291 = some (.sltiu 5 38 0x1234) ∧ decodeWord 0x91A4C295 = some (.addiw 5 38 0x1234) ∧
    decodeWord 0x9CC293 = some (.slli 5 38 19) := by
  decide +kernel

theorem test_words_3 :
    decodeWord 0x49CC293 = some (.srli 5 38 19) ∧ decodeWord 0x89CC293 = some (.srai 5 38 19) ∧
    decodeWord 0xC6CC293 = some (.slliw 5 38 13) ∧ decodeWord 0x106CC293 = some (.srliw 5 38 13) ∧
    decodeWord 0x146CC293 = some (.sraiw 5 38 13) ∧ decodeWord 0xA2468297 = some (.lui 5 0x51234) ∧
    decodeWord 0xA2468299 = some (.lpc 5 0x51234) ∧ decodeWord 0xA246829B = some (.jal 5 0x51234) ∧
    decodeWord 0x91A4C29D = some (.jalr 5 38 0x1234) ∧ decodeWord 0x91A0B31F = some (.beq 5 38 0x1234) ∧
    decodeWord 0x91A0B321 = some (.bne 5 38 0x1234) ∧ decodeWord 0x91A0B323 = some (.blt 5 38 0x1234) ∧
    decodeWord 0x91A0B325 = some (.bge 5 38 0x1234) ∧ decodeWord 0x91A0B327 = some (.bltu 5 38 0x1234) ∧
    decodeWord 0x91A0B329 = some (.bgeu 5 38 0x1234) ∧ decodeWord 0xA940B32B = some (.bany 5 38 0x2A5) ∧
    decodeWord 0xA948B32B = some (.ball 5 38 0x2A5) ∧ decodeWord 0xA950B32B = some (.bnone 5 38 0x2A5) ∧
    decodeWord 0xA958A9AB = some (.bbs 5 19 0x2A5) ∧ decodeWord 0xA960A9AB = some (.bbc 5 19 0x2A5) ∧
    decodeWord 0xA974C2B1 = some (.ldB 5 38 6 0x2A5) ∧ decodeWord 0xA974C2B3 = some (.ldBu 5 38 6 0x2A5) ∧
    decodeWord 0xA974C2B5 = some (.ldH 5 38 6 0x2A5) ∧ decodeWord 0xA974C2B7 = some (.ldHu 5 38 6 0x2A5) ∧
    decodeWord 0xA974C2B9 = some (.ldW 5 38 6 0x2A5) ∧ decodeWord 0xA974C2BB = some (.ldWu 5 38 6 0x2A5) ∧
    decodeWord 0xA974C2BD = some (.ldD 5 38 6 0x2A5) ∧ decodeWord 0xA974C2BF = some (.stB 5 38 6 0x2A5) ∧
    decodeWord 0xA974C2C1 = some (.stH 5 38 6 0x2A5) := by
  decide +kernel

theorem test_words_4 :
    decodeWord 0xA974C2C3 = some (.stW 5 38 6 0x2A5) ∧ decodeWord 0xA974C2C5 = some (.stD 5 38 6 0x2A5) ∧
    decodeWord 0xA974C2C7 = some (.vld 5 38 6 0x2A5) ∧ decodeWord 0xA974C2C9 = some (.vst 5 38 6 0x2A5) ∧
    decodeWord 0xDA4C2CB = some (.ldBIndexed 5 38 52 6) ∧ decodeWord 0x1DA4C2CB = some (.ldBuIndexed 5 38 52 6) ∧
    decodeWord 0x2DA4C2CB = some (.ldHIndexed 5 38 52 6) ∧ decodeWord 0x3DA4C2CB = some (.ldHuIndexed 5 38 52 6) ∧
    decodeWord 0x4DA4C2CB = some (.ldWIndexed 5 38 52 6) ∧ decodeWord 0x5DA4C2CB = some (.ldWuIndexed 5 38 52 6) ∧
    decodeWord 0x6DA4C2CB = some (.ldDIndexed 5 38 52 6) ∧ decodeWord 0x7DA4C2CB = some (.stBIndexed 5 38 52 6) ∧
    decodeWord 0x8DA4C2CB = some (.stHIndexed 5 38 52 6) ∧ decodeWord 0x9DA4C2CB = some (.stWIndexed 5 38 52 6) ∧
    decodeWord 0xADA4C2CB = some (.stDIndexed 5 38 52 6) ∧ decodeWord 0xBDA4C2CB = some (.vldIndexed 5 38 52 6) ∧
    decodeWord 0xCDA4C2CB = some (.vstIndexed 5 38 52 6) ∧ decodeWord 0xC00A04D = some (.bwait 5 6) ∧
    decodeWord 0x1C04C2CD = some (.bhold 5 38 6) ∧ decodeWord 0x2D30A04D = some (.barm 5 38 6) ∧
    decodeWord 0x3C04C2CD = some (.bpoll 5 38 6) ∧ decodeWord 0x4C04C2CD = some (.bgen 5 38 6) ∧
    decodeWord 0x5C00A04D = some (.bclr 5 6) ∧ decodeWord 0x6D30A04D = some (.bclrG 5 38 6) ∧
    decodeWord 0x7C00A04D = some (.bfin 5 6) ∧ decodeWord 0xDA4C2CF = some (.amoAddW 5 38 52 6) ∧
    decodeWord 0x1DA4C2CF = some (.amoAndW 5 38 52 6) ∧ decodeWord 0x2DA4C2CF = some (.amoOrW 5 38 52 6) ∧
    decodeWord 0x3DA4C2CF = some (.amoXorW 5 38 52 6) := by
  decide +kernel

theorem test_words_5 :
    decodeWord 0x4DA4C2CF = some (.amoMinW 5 38 52 6) ∧ decodeWord 0x5DA4C2CF = some (.amoMaxW 5 38 52 6) ∧
    decodeWord 0x6DA4C2CF = some (.amoMinuW 5 38 52 6) ∧ decodeWord 0x7DA4C2CF = some (.amoMaxuW 5 38 52 6) ∧
    decodeWord 0x8DA4C2CF = some (.amoSwapW 5 38 52 6) ∧ decodeWord 0x9DA4C2CF = some (.amoCasW 5 38 52 6) ∧
    decodeWord 0xADA4C2CF = some (.amoFaddW 5 38 52 6) ∧ decodeWord 0xBDA4C2CF = some (.amoIncW 5 38 52 6) ∧
    decodeWord 0xDA4C2D1 = some (.amoAddD 5 38 52 6) ∧ decodeWord 0x1DA4C2D1 = some (.amoAndD 5 38 52 6) ∧
    decodeWord 0x2DA4C2D1 = some (.amoOrD 5 38 52 6) ∧ decodeWord 0x3DA4C2D1 = some (.amoXorD 5 38 52 6) ∧
    decodeWord 0x4DA4C2D1 = some (.amoMinD 5 38 52 6) ∧ decodeWord 0x5DA4C2D1 = some (.amoMaxD 5 38 52 6) ∧
    decodeWord 0x6DA4C2D1 = some (.amoMinuD 5 38 52 6) ∧ decodeWord 0x7DA4C2D1 = some (.amoMaxuD 5 38 52 6) ∧
    decodeWord 0x8DA4C2D1 = some (.amoSwapD 5 38 52 6) ∧ decodeWord 0x9DA4C2D1 = some (.amoCasD 5 38 52 6) ∧
    decodeWord 0xBDA4C2D1 = some (.amoIncD 5 38 52 6) ∧ decodeWord 0x200053 = some (.fenceAcq .package) ∧
    decodeWord 0x280053 = some (.fenceRel .package) ∧ decodeWord 0x300053 = some (.fenceFull .package) ∧
    decodeWord 0x18 = some .rlx ∧ decodeWord 0x6A7A = some (.rep 19 13) ∧ decodeWord 0x6D62 = some (.cAddi 3 5 13) ∧
    decodeWord 0xA564 = some (.cLi 3 0xA5) ∧ decodeWord 0x566 = some (.cMv 3 5) ∧ decodeWord 0x568 = some (.cAdd 3 5) ∧
    decodeWord 0x56A = some (.cSub 3 5) := by
  decide +kernel

theorem test_words_6 :
    decodeWord 0xD6A = some (.cAnd 3 5) ∧ decodeWord 0x136C = some (.cSlli 3 19) ∧
    decodeWord 0x936C = some (.cSrli 3 19) ∧ decodeWord 0x536E = some (.cBeqz 3 0x53) ∧
    decodeWord 0xD36E = some (.cBnez 3 0x53) ∧ decodeWord 0x6D70 = some (.cLdD 3 5 13) ∧
    decodeWord 0x6D72 = some (.cStD 3 5 13) ∧ decodeWord 0x6D74 = some (.cVld 3 5 13) ∧
    decodeWord 0x6D76 = some (.cVst 3 5 13) ∧ decodeWord 0x9A5C = some (.cJ 0x4D2) ∧
    decodeWord 0x5A4C2D9 = some (.vadd 5 38 52 .w32) ∧ decodeWord 0xDA4C2D9 = some (.vsub 5 38 52 .w32) ∧
    decodeWord 0x15A4C2D9 = some (.vadds 5 38 52 .w32) ∧ decodeWord 0x1DA4C2D9 = some (.vaddsu 5 38 52 .w32) ∧
    decodeWord 0x25A4C2D9 = some (.vsubs 5 38 52 .w32) ∧ decodeWord 0x2DA4C2D9 = some (.vsubsu 5 38 52 .w32) ∧
    decodeWord 0x35A4C2D9 = some (.vmul 5 38 52 .w32) ∧ decodeWord 0x3DA4C2D9 = some (.vmulh 5 38 52 .w32) ∧
    decodeWord 0x45A4C2D9 = some (.vmulhu 5 38 52 .w32) ∧ decodeWord 0x4DA4C2D9 = some (.vmin 5 38 52 .w32) ∧
    decodeWord 0x55A4C2D9 = some (.vminu 5 38 52 .w32) ∧ decodeWord 0x5DA4C2D9 = some (.vmax 5 38 52 .w32) ∧
    decodeWord 0x65A4C2D9 = some (.vmaxu 5 38 52 .w32) ∧ decodeWord 0x6DA4C2D9 = some (.vabsd 5 38 52 .w32) ∧
    decodeWord 0x75A4C2D9 = some (.vavgu 5 38 52 .w32) ∧ decodeWord 0x1A4C2DB = some (.vand 5 38 52) ∧
    decodeWord 0x9A4C2DB = some (.vor 5 38 52) ∧ decodeWord 0x11A4C2DB = some (.vxor 5 38 52) ∧
    decodeWord 0x19A4C2DB = some (.vandn 5 38 52) := by
  decide +kernel

theorem test_words_7 :
    decodeWord 0x21A4C2DB = some (.vbsl 5 38 52) ∧ decodeWord 0x2DA4C2DB = some (.vsll 5 38 52 .w32) ∧
    decodeWord 0x35A4C2DB = some (.vsrl 5 38 52 .w32) ∧ decodeWord 0x3DA4C2DB = some (.vsra 5 38 52 .w32) ∧
    decodeWord 0x449CC2DB = some (.vslli 5 38 19 .w32) ∧ decodeWord 0x4C9CC2DB = some (.vsrli 5 38 19 .w32) ∧
    decodeWord 0x549CC2DB = some (.vsrai 5 38 19 .w32) ∧ decodeWord 0x5A4C2DD = some (.vceq 5 38 52 .w32) ∧
    decodeWord 0xDA4C2DD = some (.vcne 5 38 52 .w32) ∧ decodeWord 0x15A4C2DD = some (.vclt 5 38 52 .w32) ∧
    decodeWord 0x1DA4C2DD = some (.vcltu 5 38 52 .w32) ∧ decodeWord 0x25A4C2DD = some (.vcle 5 38 52 .w32) ∧
    decodeWord 0x2DA4C2DD = some (.vcleu 5 38 52 .w32) ∧ decodeWord 0x33A4C2DD = some (.vfceq 5 38 52 .f16) ∧
    decodeWord 0x3BA4C2DD = some (.vfcne 5 38 52 .f16) ∧ decodeWord 0x43A4C2DD = some (.vfclt 5 38 52 .f16) ∧
    decodeWord 0x4BA4C2DD = some (.vfcle 5 38 52 .f16) ∧ decodeWord 0x53A4C2DD = some (.vfcun 5 38 52 .f16) ∧
    decodeWord 0x5A4C2DF = some (.vshuf 5 38 52 .w32) ∧ decodeWord 0xDA4C2DF = some (.vzipl 5 38 52 .w32) ∧
    decodeWord 0x15A4C2DF = some (.vziph 5 38 52 .w32) ∧ decodeWord 0x1DA4C2DF = some (.vunzipe 5 38 52 .w32) ∧
    decodeWord 0x25A4C2DF = some (.vunzipo 5 38 52 .w32) ∧ decodeWord 0x2C04C2DF = some (.vrev 5 38 .w32) ∧
    decodeWord 0x35A4C2DF = some (.vpacks 5 38 52 .w32) ∧ decodeWord 0x3DA4C2DF = some (.vpacksu 5 38 52 .w32) ∧
    decodeWord 0x4404C2DF = some (.vwidenl 5 38 .w32) ∧ decodeWord 0x4C04C2DF = some (.vwidenh 5 38 .w32) ∧
    decodeWord 0x5404C2DF = some (.vwidenlu 5 38 .w32) := by
  decide +kernel

theorem test_words_8 :
    decodeWord 0x5C04C2DF = some (.vwidenhu 5 38 .w32) ∧ decodeWord 0x3A4C2E1 = some (.vfadd 5 38 52 .f16) ∧
    decodeWord 0xBA4C2E1 = some (.vfsub 5 38 52 .f16) ∧ decodeWord 0x13A4C2E1 = some (.vfmul 5 38 52 .f16) ∧
    decodeWord 0x1BA4C2E1 = some (.vfmin 5 38 52 .f16) ∧ decodeWord 0x23A4C2E1 = some (.vfmax 5 38 52 .f16) ∧
    decodeWord 0x2A04C2E1 = some (.vfabs 5 38 .f16) ∧ decodeWord 0x3204C2E1 = some (.vfneg 5 38 .f16) ∧
    decodeWord 0x3A04C2E1 = some (.vfround 5 38 .f16) ∧ decodeWord 0x53A4C2E3 = some (.vfma 5 38 52 1 true .f16) ∧
    decodeWord 0x73A4C2E3 = some (.vfms 5 38 52 1 true .f16) ∧ decodeWord 0x204C2E5 = some (.vcvtF16F32 5 38 1) ∧
    decodeWord 0x1204C2E5 = some (.vcvtBf16F32 5 38 1) ∧ decodeWord 0x23A4C2E5 = some (.vcvtE4m3F32 5 38 52 1) ∧
    decodeWord 0x33A4C2E5 = some (.vcvtE5m2F32 5 38 52 1) ∧ decodeWord 0x43A4C2E5 = some (.vcvtE2m1F32 5 38 52 1) ∧
    decodeWord 0x5204C2E5 = some (.vcvtF16F32Sat 5 38 1) ∧ decodeWord 0x6204C2E5 = some (.vcvtBf16F32Sat 5 38 1) ∧
    decodeWord 0x73A4C2E5 = some (.vcvtE4m3F32Sat 5 38 52 1) ∧ decodeWord 0x83A4C2E5 = some (.vcvtE5m2F32Sat 5 38 52 1) ∧
    decodeWord 0x93A4C2E5 = some (.vcvtE2m1F32Sat 5 38 52 1) ∧ decodeWord 0xA204C2E5 = some (.vcvtF32F16 5 38 1) ∧
    decodeWord 0xB204C2E5 = some (.vcvtF32Bf16 5 38 1) ∧ decodeWord 0xC3A4C2E5 = some (.vcvtF32E4m3 5 38 52 1) ∧
    decodeWord 0xD3A4C2E5 = some (.vcvtF32E5m2 5 38 52 1) ∧ decodeWord 0xE3A4C2E5 = some (.vcvtF32E2m1 5 38 52 1) ∧
    decodeWord 0xF004C2E5 = some (.vcvtI32F32 5 38) ∧ decodeWord 0xF204C2E5 = some (.vcvtF32I32 5 38) ∧
    decodeWord 0x404C2E7 = some (.vrsum 5 38 .w32) := by
  decide +kernel

theorem test_words_9 :
    decodeWord 0xC04C2E7 = some (.vrsumu 5 38 .w32) ∧ decodeWord 0x1404C2E7 = some (.vrmin 5 38 .w32) ∧
    decodeWord 0x1C04C2E7 = some (.vrminu 5 38 .w32) ∧ decodeWord 0x2404C2E7 = some (.vrmax 5 38 .w32) ∧
    decodeWord 0x2C04C2E7 = some (.vrmaxu 5 38 .w32) ∧ decodeWord 0x3204C2E7 = some (.vfrsum 5 38 .f16) ∧
    decodeWord 0x3A04C2E7 = some (.vfrmin 5 38 .f16) ∧ decodeWord 0x4204C2E7 = some (.vfrmax 5 38 .f16) ∧
    decodeWord 0x4C2E9 = some (.vmv 5 38) ∧ decodeWord 0xC04C2E9 = some (.vbcst 5 38 .w32) ∧
    decodeWord 0x140CC2E9 = some (.vins 5 38 1 .w32) ∧ decodeWord 0x1C0CC2E9 = some (.vextr 5 38 1 .w32) ∧
    decodeWord 0x240CC2E9 = some (.vextru 5 38 1 .w32) ∧ decodeWord 0x2C04C2E9 = some (.vmexp 5 38 .w32) ∧
    decodeWord 0x4C2EB = some (.vfrcp 5 38) ∧ decodeWord 0x804C2EB = some (.vfrsq 5 38) ∧
    decodeWord 0x1004C2EB = some (.vfexp2 5 38) ∧ decodeWord 0x1804C2EB = some (.vflog2 5 38) ∧
    decodeWord 0x21A4C2EB = some (.vfdiv 5 38 52) ∧ decodeWord 0x2804C2EB = some (.vfsqrt 5 38) ∧
    decodeWord 0xA06D = some (.mxCfg 5) ∧ decodeWord 0x1000A16D = some (.mxRing 5 2) ∧
    decodeWord 0x220001ED = some (.mxZero 3 true) ∧ decodeWord 0x3A1021ED = some (.mxMma 3 1 2 true false true) ∧
    decodeWord 0x4A10206D = some (.mxMma4 1 2 true false true) ∧ decodeWord 0x5130A06D = some (.mxScale 5 38) ∧
    decodeWord 0x6930A1ED = some (.mxDrain 3 5 38 false true) ∧ decodeWord 0x7330A1ED = some (.mxLoad 3 5 38 true) ∧
    decodeWord 0x8000016D = some (.mxPush 2) := by
  decide +kernel

theorem test_words_10 :
    decodeWord 0x9000016D = some (.mxPop 2) ∧ decodeWord 0xDA4C2EF = some (.cpIn 5 38 52 true true) ∧
    decodeWord 0x1BA4C2EF = some (.cpOut 5 38 52 true true) ∧ decodeWord 0x29A4C2EF = some (.cpDd 5 38 52 true) ∧
    decodeWord 0x3DA4C2EF = some (.cpGather 5 38 52 true true) ∧ decodeWord 0x4130A06F = some (.cpPf 5 38) ∧
    decodeWord 0xA6F1 = some (.smBind 13 5) ∧ decodeWord 0x100006F1 = some (.smFree 13) ∧
    decodeWord 0x2000A6F1 = some (.smSkip 13 5) ∧ decodeWord 0x130A073 = some (.tbInit 5 38) ∧
    decodeWord 0x1004C2F3 = some (.tbArrive 5 38) ∧ decodeWord 0x2130A073 = some (.tbWait 5 38) ∧
    decodeWord 0x31A4C2F3 = some (.tbTest 5 38 52) ∧ decodeWord 0xD30A2F5 = some (.winOpen 5 38 5 6) ∧
    decodeWord 0x100002F5 = some (.winFlush 5) ∧ decodeWord 0x200002F5 = some (.winClose 5) ∧
    decodeWord 0x300002F5 = some (.winDrop 5) ∧ decodeWord 0xA077 = some (.seqCfg 5) ∧
    decodeWord 0x1000A077 = some (.seqStart 5) ∧ decodeWord 0x20000077 = some .seqStop ∧
    decodeWord 0x30000077 = some .seqRet ∧ decodeWord 0x1A4C2F9 = some (.spawn 5 38 52) ∧
    decodeWord 0x2000079 = some .exit ∧ decodeWord 0x4000079 = some .yield ∧ decodeWord 0x604C2F9 = some (.park 5 38) ∧
    decodeWord 0x800A079 = some (.wake 5) ∧ decodeWord 0xA04C2F9 = some (.fuse 5 38) ∧
    decodeWord 0xC000079 = some .split ∧ decodeWord 0xF30A079 = some (.send 5 38) := by
  decide +kernel

theorem test_words_11 :
    decodeWord 0x1004C2F9 = some (.recv 5 38) ∧ decodeWord 0x1204C2F9 = some (.recvp 5 38) ∧
    decodeWord 0x1400A079 = some (.mig 5) ∧ decodeWord 0x528A07B = some (.barInit 5 0xA5) ∧
    decodeWord 0x252802FB = some (.barArrive 5 0xA5) ∧ decodeWord 0x4528A07B = some (.barWait 5 0xA5) ∧
    decodeWord 0x6528007B = some (.barSync 0xA5) ∧ decodeWord 0x8000007B = some .wfe ∧
    decodeWord 0xA000A07B = some (.sev 5) ∧ decodeWord 0x10062FD = some (.csrr 5 0x803) ∧
    decodeWord 0x110062FD = some (.csrw 5 0x803) ∧ decodeWord 0x210062FD = some (.csrs 5 0x803) ∧
    decodeWord 0x310062FD = some (.csrc 5 0x803) ∧ decodeWord 0x4100607D = some (.trap 0x803) ∧
    decodeWord 0x5000007D = some .brk ∧ decodeWord 0x6000007D = some .eret ∧
    decodeWord 0x7D30BA7D = some (.segw 5 38 52 6) ∧ decodeWord 0x8130A07D = some (.tlbinv 5 38) ∧
    decodeWord 0x9D30A07D = some (.scrub 5 38 6) ∧ decodeWord 0xA00002FD = some (.twinOn 5) ∧
    decodeWord 0xB000007D = some .twinOff := by
  decide +kernel

/-- Worked words and patterns of the spec (R59, R61, R66, R84). -/
theorem test_worked_words :
    decodeWord 0x0110C281 = some (.add 5 6 34) ∧ decodeWord 0x0018 = some .rlx ∧ decodeWord 0x089A = some (.rep 4 1) ∧
    decodeWord 0xF89A = some (.rep 4 (-1)) ∧ decodeWord 0x0000 = none ∧ decodeWord 0x2D = none ∧ decodeWord 0x7F = none := by
  decide +kernel

/-- The halfwords of `rep 4, 1` and `rlx` before a load are one unit of four halfwords (R59, R66); a prefix that ends the
prefixes wrongly is barred (R84). -/
theorem test_units :
    unitOf (0x089A + 2 ^ 16 * 0x0018 + 2 ^ 32 * 0x00C0A33D) =
      ⟨some (1, 4), true, some (.ldD 6 5 0 3), 4⟩ ∧
    unitOf (0x0018 + 2 ^ 16 * 0x089A) = barred 2 ∧ unitOf 0x0110C281 = ⟨none, false, some (.add 5 6 34), 2⟩ := by
  decide +kernel

/-- A bit of a fixed field set makes a word of another instruction or of none (R63). -/
theorem test_reserved_fields :
    decodeWord (0x00000005 + 2 ^ 19) = none ∧ decodeWord (0x4D + 2 ^ 7) = none ∧ decodeWord (0x53 + 3 * 2 ^ 21) = none ∧
    decodeWord (6 + 2 ^ 11) = none := by decide +kernel

/-! ### Terms that the checks refuse -/

theorem test_ill_formed_shifts : (Instr.vslli 1 2 32 .w32).wellFormed = false ∧ (Instr.vslli 1 2 31 .w32).wellFormed = true ∧
    (Instr.vsrli 1 2 8 .b8).wellFormed = false ∧ (Instr.vsrai 1 2 16 .h16).wellFormed = false := by decide

theorem test_ill_formed_packs : (Instr.vpacks 1 2 3 .b8).wellFormed = false ∧ (Instr.vpacksu 1 2 3 .b8).wellFormed = false ∧
    (Instr.vwidenl 1 2 .b8).wellFormed = false ∧ (Instr.vwidenh 1 2 .b8).wellFormed = false ∧
    (Instr.vwidenlu 1 2 .b8).wellFormed = false ∧ (Instr.vwidenhu 1 2 .b8).wellFormed = false := by decide

theorem test_ill_formed_broadcasts : (Instr.vfma 1 2 3 1 false .f16).wellFormed = false ∧
    (Instr.vfms 1 2 3 4 true .f32).wellFormed = false ∧ (Instr.vfms 1 2 3 3 true .f32).wellFormed = true := by decide

theorem test_ill_formed_parts : (Instr.vcvtF16F32 1 2 2).wellFormed = false ∧ (Instr.vcvtBf16F32Sat 1 2 2).wellFormed = false ∧
    (Instr.vcvtF32Bf16 1 2 2).wellFormed = false ∧ (Instr.vcvtE4m3F32 1 2 3 4).wellFormed = false ∧
    (Instr.vcvtF32E5m2 1 2 3 4).wellFormed = false ∧ (Instr.vcvtE2m1F32 1 2 3 7).wellFormed = true := by decide

theorem test_ill_formed_lanes : (Instr.vins 1 2 4 .w32).wellFormed = false ∧ (Instr.vextr 1 2 16 .b8).wellFormed = false ∧
    (Instr.vextru 1 2 2 .d64).wellFormed = false := by decide

theorem test_ill_formed_rings : (Instr.mxMma 0 1 1 false false false).wellFormed = false ∧
    (Instr.mxMma4 2 2 false false false).wellFormed = false := by decide

/-- What the checks refuse is no instruction (R63): `vslli` of 32-bit lanes by 32. -/
theorem test_ill_formed_word : decodeWord (0x4000005B + 2 ^ 7 + 2 * 2 ^ 13 + 32 * 2 ^ 19 + 2 * 2 ^ 25) = none ∧
    decodeWord (0x4000005B + 2 ^ 7 + 2 * 2 ^ 13 + 31 * 2 ^ 19 + 2 * 2 ^ 25) = some (.vslli 1 2 31 .w32) := by decide +kernel

/-! ### Single steps -/

/-- The state that an outcome goes on with. -/
def after (o : Host.Outcome State Fault Refusal) : State :=
  match o with
  | .next t => t
  | _ => {}

/-- The same, once the register writes that the instruction leaves have been performed: a vector unit's come last, seven ticks
after its issue (R95, R160). -/
def landed (o : Host.Outcome State Fault Refusal) : State :=
  ({ after o with tick := (after o).tick + 7 }).performWrites fun _ => true

/-- What an own scalar register holds after an instruction, from `s1` and `s2`. -/
def result (i : Instr) (x y : Word) (d : Nat) : Word := ((landed (exec i (regs x y))).thread 0).s.get 0 d

theorem test_add_wraps : result (.add 3 1 2) (BitVec.allOnes 64) 2 3 = 1 := by decide +kernel
theorem test_sra_sign : result (.sra 3 1 2) 0x8000000000000000 (64 + 63) 3 = BitVec.allOnes 64 := by decide +kernel
theorem test_sltu_unsigned : result (.sltu 3 1 2) 1 (BitVec.allOnes 64) 3 = 1 ∧ result (.slt 3 1 2) 1 (BitVec.allOnes 64) 3 = 0 := by
  decide +kernel
theorem test_addw_extends : result (.addw 3 1 2) 0x7FFFFFFF 1 3 = 0xFFFFFFFF80000000 := by decide +kernel
theorem test_mulhsu : result (.mulhsu 3 1 2) (BitVec.allOnes 64) (BitVec.allOnes 64) 3 = BitVec.allOnes 64 := by decide +kernel
theorem test_zero_register : result (.add 0 1 2) 5 7 0 = 0 := by decide +kernel
theorem test_popc : result (.popc 3 1) 0xF0F0 0 3 = 8 ∧ result (.clz 3 1) 0 0 3 = 64 ∧ result (.ctz 3 1) 8 0 3 = 3 := by
  decide +kernel
theorem test_bext : result (.bext 3 1 2) 0xABCD (4 + 7 * 64) 3 = 0xBC := by decide +kernel
theorem test_lui : result (.lui 3 (-1)) 0 0 3 = 0xFFFFFFFFFFFFE000 := by decide +kernel
theorem test_addi_sign : result (.addi 3 1 0x1000) 0 0 3 = 0xFFFFFFFFFFFFF000 := by decide +kernel

/-- A division by zero writes all ones 48 ticks after its issue, and its thread is out of the rotation until then (R98, R102). -/
theorem test_div_by_zero : ((after (exec (.div 3 1 2) (regs 5 0))).thread 0).wait = .division 3 (BitVec.allOnes 64) 48 ∧
    ((after (exec (.div 3 1 2) (regs 5 0))).thread 0).state = .wsfu := by decide +kernel

/-- A call through `jal` writes the offset after it and goes to its target (R107). -/
theorem test_jal : ((landed (exec (.jal 3 (-2)) base)).thread 0).s.get 0 3 = 0x104 ∧
    ((after (exec (.jal 3 (-2)) base)).thread 0).pc = 0xFC := by decide +kernel

theorem test_beq : ((after (exec (.beq 1 1 16) base)).thread 0).pc = 0x120 ∧ ((after (exec (.beq 1 2 16) base)).thread 0).pc = 0x104 := by
  decide +kernel

/-- Lanes wrap by themselves (R163). -/
theorem test_vadd_lanes : ((landed (exec (.vadd 3 1 2 .b8) (withMe fun t =>
    { t with v := [(1, 0xFF01), (2, 0x0101)] }))).thread 0).v.get 0 3 = 0x0002 := by decide +kernel

/-- 1 + 2^-24 rounds to even, with NX (R156, R167). -/
theorem test_vfadd_rounds : ((landed (exec (.vfadd 3 1 2 .f32) (withMe fun t =>
    { t with v := [(1, 0x3F800000), (2, 0x33800000)] }))).thread 0).v.get 0 3 = 0x3F800000 ∧
    ((landed (exec (.vfadd 3 1 2 .f32) (withMe fun t => { t with v := [(1, 0x3F800000), (2, 0x33800000)] }))).thread 0).fflags = 1 := by
  decide +kernel

/-- The state after a memory unit and the reply to the request that it sends. -/
def replied (i : Instr) (s : State) : State :=
  let t := after (exec i s)
  after (exec ((t.req s.nextReq).reply s.nextReq) t)

/-- A byte stored in TCM is read back extended by its sign (R116). -/
theorem test_store_load : ((replied (.ldB 3 0 0 2) (replied (.stB 1 0 0 2) (regs 0x1F0 0))).thread 0).s.get 0 3 =
    0xFFFFFFFFFFFFFFF0 := by decide +kernel

/-- A misaligned access traps ALIGN with its offset; one beyond the segment SEG (R114). -/
theorem test_access_traps : ((after (exec (.ldD 3 1 0 0) (withMe fun t => { t with tvec := 0x400 }))).thread 0).tcause = 3 ∧
    ((after (exec (.ldD 3 1 0 0) (withMe fun t => { t with tvec := 0x400 }))).thread 0).taddr = 5 ∧
    ((after (exec (.ldD 3 1 4 0) (withMe fun t => { t with tvec := 0x400 }))).thread 0).tcause = 4 := by decide +kernel

/-- `trap` saves the offset after it, the cause and its code, and goes to the handler (R34, R239); `eret` returns (R240). -/
theorem test_trap_eret : ((after (exec (.trap 9) (withMe fun t => { t with tvec := 0x400 }))).thread 0).pc = 0x400 ∧
    ((after (exec (.trap 9) (withMe fun t => { t with tvec := 0x400 }))).thread 0).tepc = 0x104 ∧
    ((after (exec (.trap 9) (withMe fun t => { t with tvec := 0x400 }))).thread 0).taddr = 9 ∧
    ((after (exec (.trap 9) (withMe fun t => { t with tvec := 0x400 }))).thread 0).tcause = 0x11 ∧
    ((after (exec .eret (withMe fun t => { t with tepc := 0x104, intrap := true }))).thread 0).pc = 0x104 := by decide +kernel

/-- A fetch-and-add on TCM returns the old value (R134). -/
theorem test_amo_add : ((replied (.amoAddW 3 0 1 0) (replied (.stW 2 0 0 0) base)).thread 0).s.get 0 3 = 7 ∧
    (replied (.amoAddW 3 0 1 0) (replied (.stW 2 0 0 0) base)).tcmRead 0 0 4 = 12 := by decide +kernel

/-- The first store of a value that memory reads as already lists nothing (the canonical form). -/
theorem test_canonical : Mem.write [] 7 0 = [] ∧ Mem.write (Mem.write [] 7 1) 7 0 = [] ∧
    Mem.wf (Mem.write (Mem.write [] 9 1) 7 2) = true := by decide +kernel

/-- `step` fetches, decodes and runs the instruction that is placed where the first fetch after reset looks: `addi s3, s0, 5`
by its word (R105). -/
theorem test_first_step : ((landed (step (State.reset.withFetchWord 32 (0x7 + 3 * 2 ^ 7 + 5 * 2 ^ 19)))).thread 0).s.get 0 3 = 5 := by
  decide +kernel

/-! ### Premises of the statements that are met: scalar units -/

theorem plain_regs (x y : Word) : (regs x y).plain 0 := plain_of rfl

theorem witness_ScalarTwoSources :
    (regs 5 7).usable [sreg 1, sreg 2, sreg 3] ∧ (regs 5 7).read2 1 2 = .go (5, 7, regs 5 7) ∧ (regs 5 7).plain 0 ∧
      (regs 5 7).takes 3 12 :=
  ⟨usable_of (by decide), rfl, plain_regs _ _, takes_of rfl (by decide) _⟩

theorem witness_ScalarImmediates :
    (regs 5 7).usable [sreg 1, sreg 3] ∧ (regs 5 7).readS 0 1 = .go (5, regs 5 7) ∧ (regs 5 7).usable [sreg 3] ∧
      (regs 5 7).plain 0 ∧ (regs 5 7).takes 3 12 :=
  ⟨usable_of (by decide), rfl, usable_of (by decide), plain_regs _ _, takes_of rfl (by decide) _⟩

/-- Values of `bins` whose field ends at bit 63, and both cases of `cmov`. -/
theorem witness_BitOperations :
    ((regs 5 7).usable [sreg 1, sreg 2, sreg 3] ∧ (regs 5 (60 + 3 * 64)).read2 1 2 = .go (5, 60 + 3 * 64, regs 5 (60 + 3 * 64)) ∧
      (regs 5 7).sound 0 (sreg 3) = .go () ∧ (regs 5 7).takes 3 (0x5000000000000000 : Word) ∧
      ∀ i, i < 64 → (0x5000000000000000 : Word).getLsbD i =
        if field (60 + 3 * 64) 0 6 ≤ i ∧ i ≤ field (60 + 3 * 64) 0 6 + field (60 + 3 * 64) 6 6
        then (5 : Word).getLsbD (i - field (60 + 3 * 64) 0 6) else (0 : Word).getLsbD i) ∧
    (regs 5 0).read2 1 2 = .go (5, 0, regs 5 0) ∧ (regs 5 7).read2 1 2 = .go (5, 7, regs 5 7) ∧ (regs 5 7).takes 3 5 :=
  ⟨⟨usable_of (by decide), rfl, by decide, takes_of rfl (by decide) _, by decide +kernel⟩, rfl, rfl, takes_of rfl (by decide) _⟩

/-- Divisions that are exact, by zero, and that overflow. -/
theorem witness_DivisionsIssue :
    (regs (-7) 2).read2 1 2 = .go (-7, 2, regs (-7) 2) ∧ isQuotient (-7) 2 (-3) (-1) ∧ isQuotient 7 2 3 1 ∧
      (regs 5 0).read2 1 2 = .go (5, 0, regs 5 0) ∧ (regs 5 7).usable [sreg 1, sreg 2, sreg 3] ∧
      (regs (-7) 2).takes 3 (ofInt64 (-3)) ∧ isQuotient ((2 ^ 32 - 7 : Word).setWidth 32).toInt (2 : BitVec 32).toInt (-3) (-1) :=
  ⟨rfl, by unfold isQuotient; decide, by unfold isQuotient; decide, rfl, usable_of (by decide), takes_of rfl (by decide) _,
    by unfold isQuotient; decide⟩

theorem witness_DivisionCorners :
    (regs 5 0).read2 1 2 = .go (5, 0, regs 5 0) ∧ (2 ^ 63 : Word).toInt = -2 ^ 63 ∧ (BitVec.allOnes 64).toInt = -1 ∧
      (regs (2 ^ 63) (BitVec.allOnes 64)).read2 1 2 = .go (2 ^ 63, BitVec.allOnes 64, regs (2 ^ 63) (BitVec.allOnes 64)) ∧
      ((2 ^ 31 : Word).setWidth 32).toInt = -2 ^ 31 ∧ ((BitVec.allOnes 64).setWidth 32).toInt = -1 ∧
      (regs 5 0).usable [sreg 1, sreg 2, sreg 3] ∧ (regs 5 0).takes 3 (BitVec.allOnes 64) ∧
      (regs (-7) 2).read2 1 2 = .go (-7, 2, regs (-7) 2) ∧ (-7 : Word).toInt = -7 ∧ (-3 : Word).toInt = -3 ∧
      (withMe fun t => { t with wait := .division 3 9 0 }).plain 0 ∧
      ((withMe fun t => { t with wait := .division 3 9 0 }).thread 0).wait = .division 3 9 base.now :=
  ⟨rfl, by decide +kernel, by decide +kernel, rfl, by decide +kernel, by decide +kernel, usable_of (by decide),
    takes_of rfl (by decide) _, rfl, by decide +kernel, by decide +kernel, plain_of rfl, rfl⟩

/-- Every kind of scalar field: `s0`, `s31`, `h0`, `h23`, the four ports with an entry and without, the iteration-record port
in its four cases, the ring port in both, `h30` and `h31`. -/
theorem witness_ScalarSources :
    (∀ f ∈ ([0, 1, 31, 32, 55, 56, 59, 60, 61, 62, 63] : List RegField), base.sound 0 (sreg f) = .go ()) ∧
    (base.core 0).portQ.get [] 3 = [] ∧
    ((withCore { portQ := [(3, [9, 8])] }).core 0).portQ.get [] 3 = [9, 8] ∧
    (thread0.half = none ∧ (base.core 0).seq.queue = [] ∧
      ((withCore { seq := { queue := [(6, 1)] } }).core 0).seq.queue = [(6, 1)] ∧
      ({ thread0 with half := some 4 }).half = some 4) ∧
    base.claim 0 (2 ^ 64 - 1) = none ∧
    ((withCore { entries := [(31, { state := .delivered })] }).claim 0 (2 ^ 64 - 1)).map (·.1) =
      some 31 ∧
    (base.copies.filter fun p => p.2.core == coreOf 0 && p.2.stage != .retired).length ≤ 32 ∧
      (base.core 0).seq.out.length ≤ 255 := by
  decide +kernel

/-- Destinations of every kind, with the writes that a core performs: a shared register, a push to a neighbour that holds a
thread, a release of the last entry. -/
theorem witness_Destinations :
    (∀ f ∈ ([0, 60, 62, 63] : List RegField), f.toNat = 0 ∨ f.toNat = 60 ∨ f.toNat = 62 ∨ f.toNat = 63) ∧
    (0 < (31 : RegField).toNat ∧ (31 : RegField).toNat < 32) ∧
    (∀ f ∈ ([32, 55, 56, 59, 61] : List RegField), 32 ≤ f.toNat ∧ (f.toNat < 60 ∨ f.toNat = 61)) ∧
    (neighbour 0 1 = some 1 ∧ ({ threads := [(16, { state := .ready })] } : State).occupied 1 = true) ∧
    (((withCore { entries := [(31, { state := .claimed 4 })] }).core 0).entries.get {} 31).state = .claimed 4 ∧
      (BitVec.setWidth 64 (0xFF80 : VWord)).toNat = entryAddress 31 ∧
      ((withCore { entries := [(31, { state := .claimed 4 })] }).core 0).entries.rising = true := by
  decide +kernel

/-- A jump forward and back, a target of `jalr` at the end of the offsets and past it. -/
theorem witness_Jumps :
    (regs (2 ^ 57 - 1) 0).usable [sreg 1, sreg 3] ∧ (regs (2 ^ 57 - 1) 0).readS 0 1 = .go (2 ^ 57 - 1, regs (2 ^ 57 - 1) 0) ∧
      (ofInt64 ((2 ^ 57 - 1 : Word).toInt + (0 : BitVec 13).toInt)).toNat < 2 ^ 57 ∧
      2 ^ 57 ≤ (ofInt64 ((2 ^ 57 - 1 : Word).toInt + (1 : BitVec 13).toInt)).toNat ∧ (regs (2 ^ 57 - 1) 0).plain 0 ∧
      (regs (2 ^ 57 - 1) 0).takes 3 0x104 ∧ (withMe fun t => { t with tvec := 0x400, s := [(1, 2 ^ 57 - 1)] }).hasHandler 0 :=
  ⟨usable_of (by decide), rfl, by decide +kernel, by decide +kernel, plain_regs _ _, takes_of rfl (by decide) _,
    by unfold State.hasHandler; decide +kernel⟩

theorem witness_Branches :
    (regs 5 7).usable [sreg 1, sreg 2] ∧ (regs 5 7).read2 1 2 = .go (5, 7, regs 5 7) ∧ (regs 5 7).usable [sreg 1] ∧
      (regs 5 7).readS 0 1 = .go (5, regs 5 7) ∧ (regs 5 7).plain 0 :=
  ⟨usable_of (by decide), rfl, usable_of (by decide), rfl, plain_regs _ _⟩

/-- `rep` with a count of 0 and of 63, resumed in the middle, and resumed through `repc`. -/
theorem witness_PrefixesAndCompletion :
    base.plain 0 ∧ thread0.repAt = none ∧ thread0.repc.act = false ∧ (0 : BitVec 6).toNat = 0 ∧ 0 < (63 : BitVec 6).toNat ∧
      (withMe fun t => { t with repAt := some (2, 3) }).plain 0 ∧
      (withMe fun t => { t with repc := { act := true, done := 62, left := 1 } }).plain 0 ∧
      ({ thread0 with iss := { rep := true, left := 2 } }).iss.rep = true ∧
      ({ thread0 with iss := { rep := true, left := 1 } }).iss.left ≤ 1 :=
  ⟨plain_of (by decide), rfl, rfl, rfl, by decide, plain_of (by decide), plain_of (by decide), rfl, by decide⟩

/-! ### Premises of the statements that are met: vector units -/

/-- With these values in `v1`, `v2` and `v3`. -/
def vregs (x y z : VWord) : State := withMe fun t => { t with v := [(1, x), (2, y), (3, z)] }

theorem plain_vregs (x y z : VWord) : (vregs x y z).plain 0 := plain_of rfl

/-- What the vector statements ask of a state: the fields can be used, the sources read, the destination takes a value. -/
theorem vector_ready (x y z : VWord) :
    (vregs x y z).usable [vreg 1, vreg 2, vreg 3] ∧ (vregs x y z).readV2 1 2 = .go (x, y, vregs x y z) ∧
      (vregs x y z).readV 0 1 = .go (x, vregs x y z) ∧
      (vregs x y z).oldVAgain 3 [(1, x), (2, y)] = .go (z, vregs x y z) ∧ (vregs x y z).plain 0 ∧ (vregs x y z).takesV 3 ∧
      (vregs x y z).usable [vreg 1, vreg 3] ∧ (vregs x y z).usable [vreg 1, vreg 2, sreg 3] ∧
      (vregs x y z).usable [vreg 1, sreg 3] ∧ (∀ r, (vregs x y z).takes 3 r) :=
  ⟨usable_of rfl, rfl, rfl, rfl, plain_vregs _ _ _, takesV_of rfl, usable_of rfl, usable_of rfl, usable_of rfl,
    takes_of rfl (by decide)⟩

/-- Sums of bytes that wrap and that saturate, shifts by the lane width and more, a bitwise choice. -/
theorem witness_VectorIntegers :
    lanewise .b8 (fun x y => (x : Int) + y) base 0xFF01 0x0101 0x0002 0 ∧
    lanewise .b8 (fun x y => clampSigned 8 (signed 8 x + signed 8 y)) base 0x7F80 0x01FF 0x7F80 0 ∧
    lanewise .h16 (fun x y => (x : Int) * 2 ^ (y % Width.h16.bits)) base 0x00018001 0x00110001 0x00020002 0 ∧
    lanewise1 .w32 (fun x => signed 32 x / 2 ^ (31 : BitVec 6).toNat) base 0x80000000 0xFFFFFFFF 0 ∧
    (∀ i, i < 128 → (6 : VWord).getLsbD i = ((3 : VWord).getLsbD i ^^ (5 : VWord).getLsbD i)) ∧
    ∀ i, i < 128 → (0xF5 : VWord).getLsbD i = if (0xF0 : VWord).getLsbD i then (0xFF : VWord).getLsbD i else (0x55 : VWord).getLsbD i := by
  unfold lanewise lanewise1
  decide +kernel

theorem witness_VectorCompares :
    maskWhere .d64 (fun x y => signed 64 x < signed 64 y) base (2 ^ 127 + 1) 1 2 0 ∧
    (∀ i, (1 : Word).getLsbD i = true ↔ i < 128 / (formatOf .f32).width ∧
      (fun p q => !Fp.isNan p && !Fp.isNan q && fpLess p q) ((formatOf .f32).value (lane (formatOf .f32).width 0x7FC00000BF800000 i))
        ((formatOf .f32).value (lane (formatOf .f32).width 0 i)) = true) := by
  constructor
  · refine ⟨rfl, fun i => ?_⟩
    by_cases h : i < 64
    · revert i; decide +kernel
    · simp only [BitVec.getLsbD_of_ge _ _ (Nat.le_of_not_lt h), Bool.false_eq_true, false_iff, not_and]
      intro h2; simp only [Width.bits] at h2; omega
  · intro i
    by_cases h : i < 64
    · revert i; decide +kernel
    · simp only [BitVec.getLsbD_of_ge _ _ (Nat.le_of_not_lt h), Bool.false_eq_true, false_iff, not_and]
      intro h2; rw [show (formatOf .f32).width = 32 from rfl] at h2; omega

/-- A shuffle whose indices pass the lane count, packs that saturate, a widening of the high half. -/
theorem witness_VectorPermutations :
    (∀ i, i < 2 → lane 64 ((2 : VWord) <<< 64 ||| 2) i = lane 64 ((1 : VWord) <<< 64 ||| 2) (lane 64 (2 : VWord) i % 2)) ∧
    (∀ k, k < 8 → (lane 8 (0x7F80 : VWord) k : Int) = clampSigned 8 (signed 16 (lane 16 (0x7FFF8000 : VWord) k)) % 2 ^ 8) ∧
    (∀ k, k < 8 → (lane 8 (0xFF00 : VWord) k : Int) = clampUnsigned 8 (signed 16 (lane 16 (0x7FFF8000 : VWord) k))) ∧
    ∀ i, i < 8 → (lane 16 (0xFFFF : VWord) i : Int) = signed 8 (lane 8 ((0xFF : VWord) <<< 64) (8 + i)) % 2 ^ 16 := by
  decide +kernel

theorem witness_VectorReductionsAndMoves :
    ((BitVec.allOnes 64 : Word) = ofInt64 ((List.range 16).map fun i => signed 8 (lane 8 (0xFF : VWord) i)).sum) ∧
    extreme .d64 (signed 64) (· ≤ ·) base ((2 : VWord) ^ 127) (2 ^ 63) 0 ∧
    (∀ i, i < 16 → lane 8 (0x01010101010101010101010101010101 : VWord) i = (0x101 : Word).toNat % 2 ^ 8) ∧
    (∀ i, i < 4 → lane 32 (0xFFFFFFFF : VWord) i = if (1 : Word).getLsbD i then 2 ^ 32 - 1 else 0) ∧
    ((15 : BitVec 5).toNat < 128 / Width.b8.bits) ∧ (regs 5 7).oldVAgain 3 [] = .go (0, regs 5 7) ∧
    (regs 5 7).usable [sreg 1, vreg 3] ∧ (regs 5 7).takesV 3 ∧
    ∀ i, i < 16 → lane 8 ((5 : VWord) <<< 120) i = if i = 15 then (5 : Word).toNat % 2 ^ 8 else lane 8 (0 : VWord) i :=
  ⟨by decide +kernel, ⟨rfl, 1, by decide, by decide +kernel, by decide +kernel⟩, by decide +kernel, by decide +kernel, by decide,
    rfl, usable_of rfl, takesV_of rfl, by decide +kernel⟩

/-- A sum of a lane that raises NX and of others that raise nothing. -/
theorem witness_VectorFloats :
    (∀ i, i < 4 → lane 32 (0x3F800000 : VWord) i =
      (fpAdd fp32 0 (lane 32 (0x3F800000 : VWord) i) (lane 32 (0x33800000 : VWord) i)).1 % 2 ^ 32) ∧
    (∀ k, k < 5 → ((1 : BitVec 5).getLsbD k = true ↔ ∃ i < 4,
      (fpAdd fp32 0 (lane 32 (0x3F800000 : VWord) i) (lane 32 (0x33800000 : VWord) i)).2.getLsbD k = true)) ∧
    (∀ i, i < 8 → lane 16 (0x8000 : VWord) i % 2 ^ 15 = lane 16 (0 : VWord) i % 2 ^ 15) ∧
    ((0 : VWord), (0 : BitVec 5)) = fpLanes1 .bf16 (fun g p => fpRound g 0 p) 0 ∧
    (∀ i, i < 8 → lane 16 (0 : VWord) i = (fpFma fp16 0 true (lane 16 (0 : VWord) i) (lane 16 (0 : VWord) i) (lane 16 (0 : VWord) 7)).1 % 2 ^ 16) := by
  decide +kernel

/-- A narrowing into the last part, a widening from it, at the highest part that the format has. -/
theorem witness_VectorConversions :
    (vregs 0x3F800000 2 3).usable ([vreg 1] ++ (some (1 : RegField)).toList.map sreg ++ [vreg 3]) ∧
    (vregs 0x3F800000 2 3).readS 0 1 = .go (5, vregs 0x3F800000 2 3) ∧
    (vregs 0x3F800000 2 3).oldVAgain 3 [(1, 0x3F800000)] = .go (3, vregs 0x3F800000 2 3) ∧
    (1 : BitVec 3).toNat < 32 / fp16.width ∧ (3 : BitVec 3).toNat < 32 / e4m3.width ∧ (7 : BitVec 3).toNat < 32 / e2m1.width ∧
    (∀ j, j < 8 → lane 16 ((0x3C00 : VWord) <<< 64 ||| 3) j =
      if j / 4 = 1 then (narrow fp16 0 false none (lane 32 (0x3F800000 : VWord) (j % 4))).1 % 2 ^ 16 else lane 16 (3 : VWord) j) ∧
    (∀ j, j < 4 → lane 32 (0x3F800000 : VWord) j = (widen fp16 0 none (lane 16 ((0x3C00 : VWord) <<< 64) (4 + j))).1 % 2 ^ 32) ∧
    ∀ i, i < 4 → lane 32 (1 : VWord) i = (fpToInt 0 (lane 32 (0x3F800000 : VWord) i)).1 % 2 ^ 32 :=
  ⟨usable_of rfl, rfl, rfl, by decide, by decide, by decide, by decide +kernel, by decide +kernel, by decide +kernel⟩

/-- A reciprocal issues; a division and a special function fall due. -/
theorem witness_SpecialFunctions :
    (∀ j, j < 4 → lane 32 (0x7F8000007F8000007F8000003F800000 : VWord) j = (specRcp 0 (lane 32 (0x3F800000 : VWord) j)).1 % 2 ^ 32) ∧
    (∀ j, j < 4 → lane 32 (0x7FC000007FC000007FC000003F800000 : VWord) j =
      (specDiv 0 (lane 32 (0x3F800000 : VWord) j) (lane 32 (0x3F800000 : VWord) j)).1 % 2 ^ 32) ∧
    ((withMe fun t => { t with wait := .division 3 9 0 }).thread 0).wait = .division 3 9 base.now ∧
    ((withMe fun t => { t with wait := .special 3 9 1 0 }).thread 0).wait = .special 3 9 1 base.now ∧
    (withMe fun t => { t with wait := .division 3 9 0 }).plain 0 ∧ (withMe fun t => { t with wait := .special 3 9 1 0 }).plain 0 :=
  ⟨by decide +kernel, by decide +kernel, rfl, rfl, plain_of rfl, plain_of rfl⟩

/-! ### Premises of the statements that are met: memory -/

/-- The access of `n` bytes at an offset in `s1` through a segment: its operands, its checks, its address. -/
def accessReady (x : Word) (seg : SegField) (sp : Space) (n addr : Nat) : Prop :=
  ∀ s, s = regs x 0 → s.usable ([sreg 1, ⟨false, 3⟩] ++ (none : Option RegField).toList.map sreg) ∧ s.operands s 1 none x 0 ∧
    s.plain s.cur ∧ (s.me.seg.get {} seg.toNat).covers sp (s.operandOffset x 0 0 n) n addr ∧
    (s.me.seg.get {} seg.toNat).rd = true ∧ (s.me.seg.get {} seg.toNat).w = true ∧ s.hasRelaxedRoom

theorem operands_regs (x : Word) : (regs x 0).operands (regs x 0) 1 none x 0 := ⟨regs x 0, rfl, rfl, rfl, rfl⟩

/-- The last byte and the last register of TCM, the first and last of the deck, of a global and of a peer segment. -/
theorem access_ready :
    accessReady 0xFFFF 0 .tcm 1 0xFFFF ∧ accessReady 0xFFF0 0 .tcm 16 0xFFF0 ∧ accessReady 0x1FFFF8 1 .deck 8 0x1FFFF8 ∧
    accessReady 0 2 .global 4 0x10000 ∧ accessReady 0xFFF0 2 .global 16 0x1FFF0 ∧ accessReady 0xFFFE 3 .peer 2 0x4FFFE := by
  refine ⟨?_, ?_, ?_, ?_, ?_, ?_⟩ <;> rintro s rfl <;>
    refine ⟨usable_of rfl, operands_regs _, plain_regs _ _, ?_, rfl, rfl, ?_⟩ <;>
    first
      | (unfold Seg.covers; decide +kernel)
      | (unfold State.hasRelaxedRoom; decide +kernel)

/-- An access to TCM or deck, and one to global or peer memory, leaves its unit. -/
theorem leavesLocal {s : State} {sp : Space} {addr n : Nat} {k : ReqKind} {off : Word} (h : sp = .tcm ∨ sp = .deck)
    (h1 : s.localCheck sp addr n k off = .go ()) : s.leavesUnit sp addr n k off :=
  ⟨fun _ => h1, fun g => by rcases h with rfl | rfl <;> (rcases g with g | g <;> cases g)⟩
theorem leavesGlobal {s : State} {sp : Space} {addr n : Nat} {k : ReqKind} {off : Word} (h : sp = .global ∨ sp = .peer)
    (h1 : fixedMapped s.cur addr = false) : s.leavesUnit sp addr n k off :=
  ⟨fun g => by rcases h with rfl | rfl <;> (rcases g with g | g <;> cases g), fun _ => .inl h1⟩

theorem witness_Loads :
    (regs 0xFFF0 0).leavesUnit .tcm 0xFFF0 16 (.load true) 0xFFF0 ∧ (regs 0 0).leavesUnit .deck 0x1FFFF8 8 (.load false) 0x1FFFF8 ∧
      (regs 0xFFF0 0).leavesUnit .global 0x1FFF0 16 (.load true) 0xFFF0 ∧
      (regs 0xFFFE 0).leavesUnit .peer 0x4FFFE 2 (.load true) 0xFFFE ∧
      (regs 2 3).operands (regs 2 3) 1 (some 2) 2 3 ∧
      (regs 0 0).usable ([sreg 1, ⟨true, 3⟩] ++ (some 2 : Option RegField).toList.map sreg) ∧
      ∀ dir, (Reg.mk true 3).port = some dir → (regs 0 0).roomV 0 dir = true :=
  ⟨leavesLocal (.inl rfl) rfl, leavesLocal (.inr rfl) rfl, leavesGlobal (.inl rfl) rfl, leavesGlobal (.inr rfl) rfl,
    ⟨regs 2 3, rfl, rfl, rfl⟩, usable_of rfl, fun dir h => absurd (show none = some dir from h) (by simp)⟩

theorem witness_Stores :
    (regs 0xFFFF 0).leavesUnit .tcm 0xFFFF 1 .store 0xFFFF ∧ (regs 0 0).leavesUnit .deck 0x1FFFF8 8 .store 0x1FFFF8 ∧
      (regs 0 0).leavesUnit .global 0x10000 4 .store 0 ∧
      (∃ w : Word, (regs 5 0).readS 0 1 = .go (w, regs 5 0) ∧ (5 : VWord) = w.setWidth 128) ∧
      (vregs 1 2 3).readV 0 3 = .go (3, vregs 1 2 3) :=
  ⟨leavesLocal (.inl rfl) rfl, leavesLocal (.inr rfl) rfl, leavesGlobal (.inl rfl) rfl, ⟨5, rfl, rfl⟩, rfl⟩

theorem witness_Atomics :
    (regs 8 9).usable [sreg 1, sreg 2, sreg 3] ∧ (regs 8 9).readS 0 1 = .go (8, regs 8 9) ∧
      (regs 8 9).readS 0 2 = .go (9, regs 8 9) ∧ (regs 8 9).readS 0 3 = .go (0, regs 8 9) ∧ (regs 8 9).plain 0 ∧
      ((regs 8 9).me.seg.get {} 0).covers .tcm ((regs 8 9).operandOffset 8 0 0 8) 8 8 ∧
      (regs 8 9).leavesUnit .tcm 8 8 (.amo .cas) ((regs 8 9).operandOffset 8 0 0 8) ∧
      ((regs 8 9).me.seg.get {} 2).covers .global ((regs 8 9).operandOffset 8 0 0 4) 4 0x10008 ∧
      (regs 8 9).leavesUnit .global 0x10008 4 (.amo .add) 8 ∧ (regs 8 9).hasRelaxedRoom ∧
      ∀ dir, (sreg 3).port = some dir → (regs 8 9).roomS 0 dir = true :=
  ⟨usable_of rfl, rfl, rfl, rfl, plain_regs _ _, by unfold Seg.covers; decide +kernel, leavesLocal (.inl rfl) rfl,
    by unfold Seg.covers; decide +kernel, leavesGlobal (.inl rfl) rfl, by unfold State.hasRelaxedRoom; decide +kernel,
    fun dir h => absurd (show none = some dir from h) (by simp)⟩

/-- A request for the last block of a segment; fences with nothing outstanding, with a store, a load and an atomic. -/
theorem witness_BlocksAndFences :
    ((regs 0xFF00 9).usable ([sreg 1] ++ (some 2 : Option RegField).toList.map sreg ++ (some 3 : Option RegField).toList.map sreg) ∧
      (regs 0xFF00 9).readS 0 1 = .go (0xFF00, regs 0xFF00 9) ∧ (regs 0xFF00 9).readS 0 2 = .go (9, regs 0xFF00 9) ∧
      ((regs 0xFF00 9).me.seg.get {} 2).covers .global 0xFF00 256 0x1FF00 ∧ (regs 0xFF00 9).plain 0 ∧
      (regs 0xFF00 9).leavesUnit .global 0x1FF00 256 .bfin 0xFF00 ∧
      ∀ k dir, (some 3 : Option RegField) = some k → (sreg k).port = some dir → (regs 0xFF00 9).roomS 0 dir = true) ∧
    (base.reqs = [] ∧ base.me.pendingFaults = [] ∧ base.plain 0) ∧
    ∀ k ∈ [ReqKind.load true, .store, .amo .add], ∃ p ∈ ({ base with reqs := [(1, { live := true, kind := k, relaxed := true })] } :
      State).reqs, p.2.live = true ∧ p.2.relaxed = true ∧ p.2.thread = base.cur ∧ p.2.kind = k :=
  ⟨⟨usable_of rfl, rfl, rfl, by unfold Seg.covers; decide +kernel, plain_regs _ _, leavesGlobal (.inl rfl) rfl,
      fun k dir h => by cases h; intro h2; exact absurd (show none = some dir from h2) (by simp)⟩,
    ⟨rfl, rfl, plain_of rfl⟩, fun k _ => ⟨_, List.mem_singleton.2 rfl, rfl, rfl, rfl, rfl⟩⟩

/-! ### Premises of the statements that are met: system units -/

/-- A thread with a handler, and one in its handler, which ends at its next fault. -/
def handled : State := withMe fun t => { t with tvec := 0x400 }
def inHandler : State := withMe fun t => { t with tvec := 0x400, intrap := true, tepc := 0x104 }

theorem handled_hasHandler : handled.hasHandler 0 := by unfold State.hasHandler; decide +kernel

theorem witness_SynchronousFaults : handled.hasHandler handled.cur ∧ inHandler.noHandler inHandler.cur ∧ base.noHandler base.cur := by
  unfold State.hasHandler State.noHandler; decide +kernel

theorem witness_SoftwareTraps : handled.usable [] ∧ handled.hasHandler handled.cur ∧ inHandler.usable [] ∧
    inHandler.noHandler inHandler.cur :=
  ⟨usable_of rfl, handled_hasHandler, usable_of rfl, by unfold State.noHandler; decide +kernel⟩

theorem witness_ExceptionReturn : inHandler.usable [] ∧ inHandler.me.intrap = true ∧ inHandler.plain inHandler.cur ∧
    handled.usable [] ∧ handled.hasHandler handled.cur :=
  ⟨usable_of rfl, rfl, plain_of rfl, usable_of rfl, handled_hasHandler⟩

/-- CSRs that a thread reads alone, reads and writes, the first and the last of the map that a write changes. -/
theorem witness_ControlRegisters :
    base.usable [sreg 1] ∧ base.csrLevel 0 0x10 = some .r ∧ base.csrLevel 0 1 = some .rw ∧ base.csrLevel 0 0 = some .rw ∧
      base.plain 0 ∧ base.readS 0 1 = .go (5, base) ∧ (∀ v, base.takes 1 v) ∧
      csrRights 1 = some (.rw, .rw) ∧ csrRights 0x20 = some (.r, .rw) ∧ (2 ^ 64 - 1 < 2 ^ 64) :=
  ⟨usable_of rfl, by decide +kernel, by decide +kernel, by decide +kernel, plain_of rfl, rfl, takes_of rfl (by decide),
    by decide +kernel, by decide +kernel, by decide⟩

/-- A CSR that the map does not list, ones that an unprivileged thread may not access or not write, and a read-only one. -/
theorem witness_PrivilegeTraps :
    handled.hasHandler handled.cur ∧ handled.csrLevel 0 0xFFF = none ∧ handled.csrLevel 0 0x20 = some .r ∧
      csrRights 0x20 = some (.r, .rw) ∧ handled.csrLevel 0 0x10 = some .r ∧ handled.me.priv = false ∧
      ∃ csr, handled.csrLevel 0 csr = some .none :=
  ⟨handled_hasHandler, by decide +kernel, by decide +kernel, by decide +kernel, by decide +kernel, rfl, 0x31, by decide +kernel⟩

/-- A segment narrowed to its last 16 bytes, with every right asked for. -/
theorem witness_SegmentsNarrow :
    let s := withMe fun t => { t with s := [(1, 0xFFF0), (2, 16), (3, 7)] }
    s.usable [sreg 1, sreg 2, sreg 3] ∧ s.read2 1 2 = .go (0xFFF0, 16, s) ∧ s.readS 0 3 = .go (7, s) ∧ s.plain 0 ∧
      (7 : Word).toNat < 8 ∧ (2 : SegField) ≠ s.me.cseg ∧ (0xFFF0 : Word).toNat + (16 : Word).toNat ≤ (s.me.seg.get {} 2).length.toNat :=
  ⟨usable_of rfl, rfl, rfl, plain_of rfl, by decide, by decide, by decide +kernel⟩

/-- A thread that scrubs the last doubleword of TCM from a tick on. -/
def scrubbing (since : Nat) : State := withMe fun t => { t with state := .wmem, wait := .scrub true 0 0xFFF8 1 since }

/-- The last mode of `tlbinv`, and a scrub of all of TCM: its first tick, its last doubleword. -/
theorem witness_PrivilegedUnits :
    let s := withMe fun t => { t with s := [(1, 0), (2, 0x10000), (3, 2)], priv := true }
    (2 : Word).toNat < 3 ∧ s.usable [sreg 1, sreg 2, sreg 3] ∧ s.me.priv = true ∧ s.read2 1 2 = .go (0, 0x10000, s) ∧
      s.readS 0 3 = .go (2, s) ∧ s.plain 0 ∧ s.relaxedEarlier 0 s.nextReq = [] ∧ (s.me.seg.get {} 0).rd = true ∧
      (s.me.seg.get {} 0).w = true ∧ (s.me.seg.get {} 0).space = .tcm ∧ (0x10000 : Word).toNat % 256 = 0 ∧
      1 ≤ (0x10000 : Word).toNat ∧ (0x10000 : Word).toNat ≤ 0x200000 ∧ (thread0.seg.get {} 0).base.toNat + 0 + 0x10000 ≤ 2 ^ 16 ∧
      ∀ since ∈ [0, 1], (scrubbing since).plain 0 ∧ ((scrubbing since).thread 0).wait = .scrub true 0 0xFFF8 1 since ∧
        (scrubbing since).now = 0 :=
  ⟨by decide +kernel, usable_of rfl, rfl, rfl, rfl, plain_of rfl, rfl, rfl, rfl, rfl, by decide +kernel, by decide +kernel,
    by decide +kernel, by decide +kernel, fun _ _ => ⟨plain_of rfl, rfl, rfl⟩⟩

/-! ### Premises of the statements that are met: threads, messages, barriers -/

/-- The thread and one of the same slot in the next core of its crew. -/
def pairOf (f g : Thread → Thread) : State :=
  { threads := [(0, f { thread0 with ncore := 2 }), (16, g { thread0 with ncore := 2, tid := 16 })] }

/-- A spawn at the last offset with slot 15 free, and with no slot free; an ordinary thread and a member of a gang. -/
theorem witness_ThreadsStartAndEnd :
    let s : State := { threads := [(0, { thread0 with crewId := 4, s := [(1, 2 ^ 57 - 1), (2, 7)] }), (15, { given := some 4 })] }
    let r := regs (2 ^ 57 - 1) 7
    s.usable [sreg 1, sreg 2, sreg 3] ∧ s.read2 1 2 = .go (2 ^ 57 - 1, 7, s) ∧ s.plain 0 ∧
      (2 ^ 57 - 1 : Word).toNat < 2 ^ 57 ∧ s.freeSlotOf 0 4 = some 15 ∧ s.relaxedEarlier 0 s.nextReq = [] ∧ (∀ v, s.takes 3 v) ∧
      0 * 16 + 15 ≠ s.cur ∧ r.usable [sreg 1, sreg 2, sreg 3] ∧ r.read2 1 2 = .go (2 ^ 57 - 1, 7, r) ∧ r.plain 0 ∧
      r.freeSlotOf 0 4 = none ∧ (∀ v, r.takes 3 v) ∧
      base.usable [] ∧ base.plain 0 ∧ base.me.rlxn = 0 ∧ base.me.pendingFaults = [] ∧ base.me.gangSize = 1 ∧
      (pairOf (fun t => { t with gang := 1 }) fun t => { t with gang := 1 }).usable [] ∧
      (pairOf (fun t => { t with gang := 1 }) fun t => { t with gang := 1 }).plain 0 ∧
      (pairOf (fun t => { t with gang := 1 }) fun t => { t with gang := 1 }).me.gangSize ≠ 1 :=
  ⟨usable_of rfl, rfl, plain_of rfl, by decide +kernel, by decide +kernel, rfl, takes_of rfl (by decide), by decide,
    usable_of rfl, rfl, plain_regs _ _, by decide +kernel, takes_of rfl (by decide), usable_of rfl, plain_of rfl, rfl, rfl, rfl,
    usable_of rfl, plain_of rfl, by decide +kernel⟩

/-- The thread with a relaxed store outstanding. -/
def storing : State :=
  { withMe (fun t => { t with rlxn := 1 }) with
    reqs := [(1, { live := true, kind := .store, relaxed := true })], nextReq := 2 }

/-- A park with and without a token and a timeout, a wake of the last core, a wake and a timeout that arrive. -/
theorem witness_ParkAndWake :
    (regs (2 ^ 32 - 1) 0).usable [sreg 1, sreg 3] ∧ (regs (2 ^ 32 - 1) 0).readS 0 1 = .go (2 ^ 32 - 1, regs (2 ^ 32 - 1) 0) ∧
      (2 ^ 32 - 1 : Word).toNat < 2 ^ 32 ∧ (regs 0 0).takes 3 1 ∧ (regs 0 0).plain 0 ∧ (regs 0 0).me.token = false ∧
      (withMe fun t => { t with token := true, s := [(1, 0)] }).plain 0 ∧
      (withMe fun t => { t with token := true, s := [(1, 0)] }).readS 0 1 = .go (0, withMe fun t => { t with token := true, s := [(1, 0)] }) ∧
    ((regs (0x1FFF * 2 ^ 16) 0).usable [sreg 1] ∧ (0x1FFF * 2 ^ 16 : Word).toNat < 2 ^ 29 ∧
      field (0x1FFF * 2 ^ 16 : Word).toNat 0 12 = 0 ∧ base.relaxedEarlier 0 base.nextReq = [] ∧
      storing.relaxedEarlier 0 storing.nextReq ≠ [] ∧ storing.usable [sreg 1] ∧ storing.plain 0) ∧
    ((withMe fun t => { t with wait := .park 3 none, state := .wsync }).plain 0 ∧
      ((withMe fun t => { t with wait := .park 3 none, state := .wsync }).thread 0).live = true ∧ (3 : RegField).toNat < 32) ∧
    ((base.thread 0).live = true ∧ ∀ d due, (base.thread 0).wait ≠ .park d due) ∧
    ((withMe fun t => { t with wait := .park 3 (some 0), state := .wsync }).plain 0 ∧ 0 ≤ base.now ∧
      ∀ i ∈ base.events, wakes 0 i = false) := by
  refine ⟨usable_of rfl, rfl, by decide, takes_of rfl (by decide) _, plain_regs _ _, rfl, plain_of rfl, rfl,
    ⟨usable_of rfl, by decide +kernel, by decide +kernel, rfl, by decide, usable_of rfl, plain_of rfl⟩, ⟨plain_of rfl, rfl, by decide⟩, ⟨rfl, ?_⟩, plain_of rfl,
    Nat.zero_le _, fun i h => absurd h (by simp [base])⟩
  intro d due h; exact absurd (show Wait.none = _ from h) (by simp)

theorem witness_GangsForm :
    let s := pairOf (fun t => { t with s := [(1, 2)] }) fun t => { t with wait := .fuse 3 2, state := .wsync }
    let r := pairOf id fun t => { t with wait := .twinOn 3, state := .wsync }
    (s.plain 0 ∧ s.me.gangSize = 1 ∧ s.usable [sreg 1, sreg 3] ∧ s.readS 0 1 = .go (2, s) ∧ (∀ v, s.takes 3 v) ∧
      s.groupFits 0 2 = true ∧ s.groupPresent 0 2 = true ∧ s.me.twin = false ∧ members 0 2 = [0, 16] ∧
      (s.thread 16).wait = .fuse 3 2) ∧
    r.plain 0 ∧ r.me.gangSize = 1 ∧ r.usable [sreg 3] ∧ (∀ v, r.takes 3 v) ∧ r.groupFits 0 2 = true ∧
      r.groupPresent 0 2 = true ∧ (r.thread 16).wait = .twinOn 3 :=
  ⟨⟨plain_of rfl, rfl, usable_of rfl, rfl, takes_of rfl (by decide), by decide +kernel, by decide +kernel, rfl, by decide +kernel,
    rfl⟩, plain_of rfl, rfl, usable_of rfl, takes_of rfl (by decide), by decide +kernel, by decide +kernel, rfl⟩

/-- A message of 15 words from the end of TCM to a core of the crew, and a migration without payload. -/
theorem witness_MessagesSent :
    let s := withMe fun t => { t with s := [(1, 15 * 2 ^ 8), (2, 0xFF88)], ncore := 1 }
    let r := withMe fun t => { t with s := [(1, 0)], ncore := 1 }
    (s.usable [sreg 1, sreg 2] ∧ s.readS 0 1 = .go (15 * 2 ^ 8, s) ∧ s.readS 0 2 = .go (0xFF88, s) ∧ s.plain 0 ∧
      (∀ w, w = (15 * 2 ^ 8 : Word).toNat → field w 29 3 = 0 ∧ field w 12 4 = 0 ∧ field w 6 2 = 0 ∧ field w 8 4 = 15) ∧
      (s.me.seg.get {} 0).space = .tcm ∧ (s.me.seg.get {} 0).rd = true ∧ 0xFF88 + 8 * 15 ≤ (s.me.seg.get {} 0).length.toNat ∧
      0xFF88 + 8 * 15 ≤ 2 ^ 16 ∧ 0xFF88 % 8 = 0 ∧ (s.core 0).tcmErrors = [] ∧ s.me.proofHold = false ∧
      s.unsent 0 < s.netRoom ∧ s.replaying 0 = false ∧ s.routeOf 0 (15 * 2 ^ 8) = some (0, 0) ∧ 0 = s.dev.toNat) ∧
    r.usable [sreg 1] ∧ r.readS 0 1 = .go (0, r) ∧ r.plain 0 ∧ r.me.twin = false ∧ r.me.gangSize = 1 ∧
      field (0 : Word).toNat 29 3 = 0 ∧ field (0 : Word).toNat 12 4 = 0 ∧ field (0 : Word).toNat 6 2 = 0 ∧
      field (0 : Word).toNat 8 4 = 0 ∧ r.me.rlxn = 0 ∧ r.me.pendingFaults = [] ∧ r.me.errors = [] ∧ r.me.proofHold = false ∧
      r.unsent 0 < r.netRoom ∧ r.routeOf 0 0 = some (0, 0) :=
  ⟨⟨usable_of rfl, rfl, rfl, plain_of rfl, by rintro w rfl; decide +kernel, rfl, rfl, by decide +kernel, by decide, by decide, rfl,
    rfl, by decide +kernel, by decide +kernel, by decide +kernel, rfl⟩, usable_of rfl, rfl, plain_of rfl, rfl, rfl,
    by decide +kernel, by decide +kernel, by decide +kernel, by decide +kernel, rfl, rfl, rfl, rfl, by decide +kernel,
    by decide +kernel⟩

/-- The frame of a message sent and of a thread that migrates. -/
theorem test_send : let s := withMe fun t => { t with s := [(1, 2 ^ 8), (2, 0xFF88)], ncore := 1 }
    (after (exec (.send 1 2) (s.tcmWrite 0 0xFF88 (toBytesLE 7 8)))).flight.map (fun m => (m.payload, m.dstCore)) = [([7], 0)] ∧
      (after (exec (.mig 1) (withMe fun t => { t with s := [(1, 0)], ncore := 1 }))).flight.map (·.payload) =
        [[0x104, 0, 0, 0, 0, 0, 0, 0, 0]] := by decide +kernel

/-- A claim of the last entry by its class, and one that nothing meets. -/
theorem witness_MessagesClaimed :
    let s := withCore { entries := [(31, { state := .delivered, hdr := 63 })] }
    s.usable [sreg 1, sreg 3] ∧ s.readS 0 1 = .go (5, s) ∧ s.plain 0 ∧ (5 : Word) ≠ 0 ∧
      (s.claim 0 (2 ^ 63)).map (·.1) = some 31 ∧ (s.claim 0 5) = none ∧ (∀ v, s.takes 3 v) ∧
      (s.core 0).entries.rising = true ∧ (s.core 0).entries.find 31 = some { state := .delivered, hdr := 63 } ∧
      s.claimable 0 { state := .delivered, hdr := 63 } = true ∧ bitAt (2 ^ 63) (field (63 : Word).toNat 0 6) = true ∧
      s.replaying 0 = false ∧ s.recording 0 = false ∧ (s.core 0).entries.map (·.1) = [31] :=
  ⟨usable_of rfl, rfl, plain_of rfl, by decide, by decide +kernel, by decide +kernel, takes_of rfl (by decide), by decide +kernel,
    by decide +kernel, by decide +kernel, by decide +kernel, by decide +kernel, by decide +kernel, by decide +kernel⟩

theorem witness_BarriersEventsTwins :
    (base.plain 0 ∧ (regs 16 0).usable [sreg 1] ∧ (regs 16 0).readS 0 1 = .go (16, regs 16 0) ∧ 1 ≤ (16 : Word).toNat ∧
      (16 : Word).toNat ≤ 16 ∧ (base.namedBar 0 255).arr = 0) ∧
    (((withCore { bars := [(255, { exp := 2, arr := 1 })] }).namedBar 0 255).exp ≠ 0 ∧
      (withCore { bars := [(255, { exp := 2, arr := 1 })] }).relaxedEarlier 0 1 = [] ∧
      (withCore { bars := [(255, { exp := 2, arr := 1 })] }).plain 0 ∧
      (withCore { bars := [(255, { exp := 2, arr := 1 })] }).usable [sreg 3] ∧ (3 : RegField).toNat ≠ 61 ∧
      (withCore { bars := [(255, { exp := 2, arr := 1 })] }).readS 0 1 = .go (5, withCore { bars := [(255, { exp := 2, arr := 1 })] }) ∧
      (5 : Word).getLsbD 0 = true ∧ ((withCore { bars := [(255, { exp := 2, arr := 1 })] }).namedBar 0 255).phase = false) ∧
    (base.usable [] ∧ base.me.evt = false ∧ (withMe fun t => { t with evt := true }).me.evt = true ∧
      (withMe fun t => { t with evt := true }).plain 0) ∧
    ((0x1FFFFFFF : Word).toNat < 2 ^ 29 ∧ base.relaxedEarlier 0 base.nextReq = [] ∧
      storing.relaxedEarlier 0 storing.nextReq ≠ []) ∧
    (((withMe fun t => { t with wait := .wfe, state := .wsync }).thread 0).live = true ∧
      ((withMe fun t => { t with wait := .wfe, state := .wsync }).thread 0).wait = .wfe ∧ (base.thread 0).live = true ∧
      (base.thread 0).wait ≠ .wfe) ∧
    let s := pairOf (fun t => { t with twin := true, gang := 1, iss := { alone := true } }) fun t => { t with twin := true, gang := 1 }
    s.usable [] ∧ s.me.twin = true ∧ s.me.iss.alone = true ∧ partner s.cur ≠ s.cur :=
  ⟨⟨plain_of rfl, usable_of rfl, rfl, by decide, by decide, rfl⟩,
    ⟨by decide +kernel, rfl, plain_of rfl, usable_of rfl, by decide, rfl, by decide, rfl⟩,
    ⟨usable_of rfl, rfl, rfl, plain_of rfl⟩, ⟨by decide, rfl, by decide⟩, ⟨rfl, rfl, rfl, by decide +kernel⟩,
    ⟨usable_of rfl, rfl, rfl, by decide +kernel⟩⟩

/-! ### Premises of the statements that are met: engines, streams, windows, sequencers, transaction barriers -/

/-- With a transaction barrier in the last granule of the deck. -/
def atEnd (s : State) (b : Barrier) : State := s.deckWrite 0 0x1FFFF0 (toBytesLE b.bits 16)

def okDeck (s : State) (off : Word) (n align addr : Nat) : Bool :=
  let g := s.me.seg.get {} 1
  decide (g.space = .deck ∧ g.rd = true ∧ g.w = true ∧ addr = g.base.toNat + off.toNat ∧ off.toNat + n ≤ g.length.toNat ∧
    addr + n ≤ 2 ^ 21 ∧ off.toNat % align = 0)

theorem inDeck_of {s : State} {off : Word} {n align addr : Nat} (h : okDeck s off n align addr = true) :
    s.inDeck off n align addr := by
  unfold State.inDeck; exact of_decide_eq_true h

def okFree (s : State) (addr n : Nat) : Bool :=
  decide (s.deckBusy (clusterOf (coreOf s.cur)) addr n = false ∧
    (∀ i, i < n → s.windowAt (clusterOf (coreOf s.cur)) (addr + i) = none) ∧
    s.badDeck (clusterOf (coreOf s.cur)) addr n = none)

theorem deckFree_of {s : State} {addr n : Nat} (h : okFree s addr n = true) : s.deckFree addr n := by
  unfold State.deckFree; exact of_decide_eq_true h

/-- The largest tiles in the most slots at the end of the deck; a ring's last slot pushed and popped; scales at the end of the
deck; a full queue; a load of the last rows of TCM. -/
theorem witness_MatrixUnits :
    let r : Ring := { swzen := false, swz := 0, tsz := 4, nslot := 15, base := 0x1F0000 }
    let ring := withCore { rings := [(0, { r with tail := 15, cnt := 15 })] }
    let full := withCore { mxQueue := [{}, {}] }
    ((regs 0x133 0).usable [sreg 1] ∧ (regs 0x133 0).readS 0 1 = .go (0x133, regs 0x133 0) ∧ (0x133 : Word).toNat < 2 ^ 9 ∧
      (cfgRow (0x133 : Word).toNat).isSome = true) ∧
    (∀ x, x = BitVec.ofNat 64 (4 * 2 ^ 28 + 15 * 2 ^ 24 + 0x1F0000) → (regs x 0).readS 0 1 = .go (x, regs x 0) ∧
      r = { swzen := bitAt x.toNat 48, swz := BitVec.ofNat 3 (field x.toNat 45 3), tsz := field x.toNat 28 4,
            nslot := field x.toNat 24 4, base := 0x1F0000 } ∧
      field x.toNat 49 15 = 0 ∧ field x.toNat 32 13 = 0 ∧ field x.toNat 21 3 = 0 ∧ r.tsz ≤ 4 ∧ r.nslot ≠ 0 ∧
      (regs x 0).inDeck (ofNat64 (field x.toNat 0 21)) r.size 1 0x1F0000 ∧ 0x1F0000 % 256 = 0 ∧
      (regs x 0).meetsWindow 0 0x1F0000 r.size = false ∧ (regs x 0).ringBusy 0 3 = false) ∧
    (ring.usable [] ∧ ring.plain 0 ∧ (ring.ring 0 0).nslot ≠ 0 ∧ (ring.ring 0 0).cnt ≠ (ring.ring 0 0).nslot + 1 ∧
      ((ring.ring 0 0).slot (ring.ring 0 0).tail).state = .free ∧ (ring.ring 0 0).cnt ≠ 0 ∧ ring.relaxedEarlier 0 ring.nextReq = []) ∧
    ((regs 0x1FFFC0 0x1FFF00).usable [sreg 1, sreg 2] ∧
      (regs 0x1FFFC0 0x1FFF00).read2 1 2 = .go (0x1FFFC0, 0x1FFF00, regs 0x1FFFC0 0x1FFF00) ∧
      (regs 0x1FFFC0 0x1FFF00).plain 0 ∧ (regs 0x1FFFC0 0x1FFF00).inDeck 0x1FFFC0 64 64 0x1FFFC0 ∧
      (regs 0x1FFFC0 0x1FFF00).inDeck 0x1FFF00 256 64 0x1FFF00 ∧ (regs 0x1FFFC0 0x1FFF00).deckFree 0x1FFFC0 64 ∧
      (regs 0x1FFFC0 0x1FFF00).deckFree 0x1FFF00 256) ∧
    (full.usable [] ∧ base.usable []) ∧
    ((64 * 2 ^ 16 : Word).toNat = 64 * 2 ^ 16 ∧ (regs 0xFC00 (64 * 2 ^ 16)).read2 1 2 = .go (0xFC00, 64 * 2 ^ 16, regs 0xFC00 (64 * 2 ^ 16)) ∧
      field (64 * 2 ^ 16) 32 32 = 0 ∧ field (64 * 2 ^ 16) 8 8 = 0 ∧ field (64 * 2 ^ 16) 0 5 = 0 ∧
      field (64 * 2 ^ 16) 16 16 % 4 = 0 ∧ 64 ≤ field (64 * 2 ^ 16) 16 16 ∧ (thread0.seg.get {} 0).space = .tcm ∧
      ∀ i, i < 16 → (thread0.seg.get {} 0).admits .rd ((0xFC00 : Word).toNat + i * field (64 * 2 ^ 16) 16 16) 64 = true) := by
  refine ⟨⟨usable_of rfl, rfl, by decide, by decide +kernel⟩, ?_, ⟨usable_of rfl, plain_of rfl, by decide +kernel, by decide +kernel,
    by decide +kernel, by decide +kernel, rfl⟩, ⟨usable_of rfl, rfl, plain_regs _ _, inDeck_of (by decide +kernel),
    inDeck_of (by decide +kernel), deckFree_of (by decide +kernel), deckFree_of (by decide +kernel)⟩,
    ⟨usable_of rfl, usable_of rfl⟩, ⟨by decide +kernel, rfl, by decide +kernel,
    by decide +kernel, by decide +kernel, by decide +kernel, by decide +kernel, rfl, by decide +kernel⟩⟩
  rintro x rfl
  exact ⟨rfl, by decide +kernel, by decide +kernel, by decide +kernel, by decide +kernel, by decide +kernel, by decide +kernel,
    inDeck_of (by decide +kernel), by decide +kernel, by decide +kernel, by decide +kernel⟩

/-- The state of the witnesses of copies: a barrier in the last granule of the deck, and values in `s1` to `s3`. -/
def copying (d x y : Word) : State :=
  atEnd (withMe fun t => { t with s := [(1, d), (2, x), (3, y)] }) { init := 1, parr := 1 }

/-- A copy's destination register: the barrier and an offset. -/
def barAnd (doff : Nat) : Word := BitVec.ofNat 64 (0x1FFFF * 2 ^ 36 + doff)

theorem copying_regs (d x y : Word) (h : okPlain (copying d x y) 0 = true) :
    (copying d x y).readS 0 1 = .go (d, copying d x y) ∧ (copying d x y).readS 0 2 = .go (x, copying d x y) ∧
      (copying d x y).readS 0 3 = .go (y, copying d x y) ∧ (copying d x y).readV 0 1 = .go (0x00010002000300040005000600070008, copying d x y) ∧
      (copying d x y).plain 0 := ⟨rfl, rfl, rfl, rfl, plain_of h⟩

theorem witness_Copies :
    (let s := copying (barAnd 0x1FFFEF) 0x1FFFC0 0;
      s.usable [sreg 1, sreg 2, vreg 1] ∧ field (0x1FFFC0 : Word).toNat 21 11 = 0 ∧ field (barAnd 0x1FFFEF).toNat 53 11 = 0 ∧
      field (barAnd 0x1FFFEF).toNat 21 15 = 0 ∧ s.inDeck (ofNat64 (field (barAnd 0x1FFFEF).toNat 36 17 * 16)) 16 1 0x1FFFF0 ∧
      s.inDeck (ofNat64 (field (0x1FFFC0 : Word).toNat 0 21)) 64 64 0x1FFFC0 ∧ (s.barrier 0 0x1FFFF0).init ≠ 0 ∧ s.hasCopyRoom ∧
      s.inDeck (ofNat64 (field (barAnd 0x1FFFEF).toNat 0 21)) 1 1 0x1FFFEF ∧ (s.barrier 0 0x1FFFF0).psect < 2 ^ 24 - 1 ∧
      s.hostSectors = [] ∧ ∀ k m, s.dirtyElsewhere k m none = false) ∧
    (let r : Ring := { tsz := 0, nslot := 1, tail := 1, cnt := 1, base := 0x1000 };
      let s : State := { copying (barAnd 0) 0 0 with cores := [(0, { rings := [(0, r)] })] };
      s.usable [sreg 1, sreg 2, vreg 1] ∧ field (barAnd 0).toNat 2 19 = 0 ∧ field (barAnd 0).toNat 0 2 = 0 ∧ s.ring 0 0 = r ∧
      s.hasCopyRoom ∧ r.nslot ≠ 0 ∧ ¬ (r.base + r.tail * r.tile ≤ 0x1FFFF0 ∧ 0x1FFFF0 + 16 ≤ r.base + r.tail * r.tile + r.tile) ∧
      r.cnt ≠ r.nslot + 1 ∧ (r.slot r.tail).state = .free) ∧
    (let x := BitVec.ofNat 64 (0x100 * 2 ^ 32);
      let s := copying (barAnd 0x80000) x 65535;
      s.usable [sreg 1, sreg 2, sreg 3] ∧ field x.toNat 21 11 = 0 ∧ field x.toNat 53 11 = 0 ∧ (65535 : Word).toNat ≤ 65535 ∧
      s.inDeck (ofNat64 (field x.toNat 0 21)) 64 64 0 ∧
      s.inDeck (ofNat64 (field x.toNat 32 21)) (4 * (65535 : Word).toNat) 4 0x100 ∧
      s.inDeck (ofNat64 (field (barAnd 0x80000).toNat 0 21)) 1 1 0x80000) ∧
    let s := copying (barAnd 0x1FFFE0) 0x1FFFD0 16
    s.usable [sreg 1, sreg 2, sreg 3] ∧ (16 : Word).toNat % 16 = 0 ∧ 16 ≤ (16 : Word).toNat ∧ 0x1FFFD0 + (16 : Word).toNat ≤ 0x1FFFE0 ∧
      s.inDeck 0x1FFFD0 16 16 0x1FFFD0 ∧
      s.inDeck (ofNat64 (field (barAnd 0x1FFFE0).toNat 0 21)) 16 16 0x1FFFE0 ∧ s.meetsWindow 0 0x1FFFE0 16 = false ∧
      ¬ (0x1FFFE0 ≤ 0x1FFFF0 ∧ 0x1FFFF0 + 16 ≤ 0x1FFFE0 + (16 : Word).toNat) ∧ s.hasCopyRoom ∧ s.plain 0 ∧
      s.readS 0 1 = .go (barAnd 0x1FFFE0, s) ∧ s.readS 0 2 = .go (0x1FFFD0, s) ∧ s.readS 0 3 = .go (16, s) :=
  ⟨⟨usable_of rfl, by decide +kernel, by decide +kernel, by decide +kernel, inDeck_of (by decide +kernel),
      inDeck_of (by decide +kernel), by decide +kernel, by unfold State.hasCopyRoom; decide +kernel, inDeck_of (by decide +kernel),
      by decide +kernel, rfl, fun _ _ => rfl⟩,
    ⟨usable_of rfl, by decide +kernel, by decide +kernel, by decide +kernel, by unfold State.hasCopyRoom; decide +kernel,
      by decide +kernel, by decide +kernel, by decide +kernel, by decide +kernel⟩,
    ⟨usable_of rfl, by decide +kernel, by decide +kernel, by decide +kernel, inDeck_of (by decide +kernel),
      inDeck_of (by decide +kernel), inDeck_of (by decide +kernel)⟩,
    usable_of rfl, by decide +kernel, by decide, by decide, inDeck_of (by decide +kernel), inDeck_of (by decide +kernel),
    by decide +kernel, by decide +kernel, by unfold State.hasCopyRoom; decide +kernel, plain_of rfl, rfl, rfl, rfl⟩

/-- A stream record of 1 by 2 by 1 units of TCM, and a nest record of one level. -/
def streamRecord : List Byte := toBytesLE (2 ^ 112 + 2 * 2 ^ 128 + 2 ^ 144 + 16 * 2 ^ 160 + 32 * 2 ^ 192) 32
def nestRecord : List Byte := toBytesLE (7 + 9 * 2 ^ 32 + 3 * 2 ^ 128 + 4 * 2 ^ 160 + 5 * 2 ^ 192) 64

theorem witness_StreamsAndSequencers :
    (let s := (regs 0x1FFFE0 0).deckWrite 0 0x1FFFE0 streamRecord;
      s.usable [sreg 1] ∧ s.readS 0 1 = .go (0x1FFFE0, s) ∧ s.plain 0 ∧ s.inDeck 0x1FFFE0 32 32 0x1FFFE0 ∧
      s.deckFree 0x1FFFE0 32 ∧ s.bindGate 31 0x1FFFE0 (s.deckRead 0 0x1FFFE0 32) =
        .go { reg := 31, seg := thread0.seg.get {} 0, st := [16, 32, 0], cnt := [1, 2, 1] }) ∧
    (let s := withMe fun t => { t with s := [(1, 1), (2, 2)], bindings := [{ reg := 31, cnt := [1, 2, 1], st := [16, 32, 0] }] };
      s.usable [sreg 1] ∧ s.readS 0 1 = .go (1, s) ∧ s.readS 0 2 = .go (2, s) ∧ s.plain 0 ∧
      s.me.bindings.find? (fun b => b.reg == 31) = some { reg := 31, cnt := [1, 2, 1], st := [16, 32, 0] } ∧
      0 + (1 : Word).toNat < [1, 2, 1].foldl (· * ·) 1 ∧ [1, 2, 1].foldl (· * ·) 1 ≤ 0 + (2 : Word).toNat ∧
      s.me.bindings.find? (fun b => b.reg == 30) = none) ∧
    (let s := (regs 0x1FFFC0 255).deckWrite 0 0x1FFFC0 nestRecord;
      s.usable [sreg 1] ∧ s.readS 0 1 = .go (0x1FFFC0, s) ∧ s.inDeck 0x1FFFC0 64 64 0x1FFFC0 ∧ (s.core 0).seq.running = false ∧
      s.deckFree 0x1FFFC0 64 ∧ (nestOf (s.deckRead 0 0x1FFFC0 64)).isSome = true ∧ s.readS 0 2 = .go (255, s) ∧
      (255 : Word).toNat ≤ 255 ∧ ((withCore { seq := { nest := some { n := [3] } } }).core 0).seq.nest ≠ none ∧
      ((withCore { seq := { nest := some { n := [3] } } }).core 0).seq.running = false) ∧
    base.usable [] ∧ base.plain 0 ∧ (withMe fun t => { t with permit := some 3 }).me.permit = some 3 ∧ base.me.permit = none :=
  ⟨⟨usable_of rfl, rfl, plain_of rfl, inDeck_of (by decide +kernel), deckFree_of (by decide +kernel), by decide +kernel⟩,
    ⟨usable_of rfl, rfl, rfl, plain_of rfl, by decide +kernel, by decide +kernel, by decide +kernel, by decide +kernel⟩,
    ⟨usable_of rfl, rfl, inDeck_of (by decide +kernel), by decide +kernel, deckFree_of (by decide +kernel), by decide +kernel, rfl,
      by decide, by decide +kernel, by decide +kernel⟩,
    usable_of rfl, plain_of rfl, rfl, rfl⟩

/-- A thread whose transaction-barrier unit the bank serves, and the barrier that it finds. -/
def atBarrier (w : Wait) (c : Barrier) : State := atEnd (withMe fun t => { t with state := .wmem, wait := w, tvec := 0x400 }) c

/-- The barrier in the last granule of the deck: initialised with the most arrivals, with one arrival and with two missing. -/
theorem witness_TransactionBarriers :
    let s := regs 0x1FFFF0 4095
    let b := fun n => atEnd (regs 0x1FFFF0 0) { phase := 15, init := 2, parr := n }
    (s.usable [sreg 1, sreg 2] ∧ s.read2 1 2 = .go (0x1FFFF0, 4095, s) ∧ s.plain 0 ∧ s.inDeck 0x1FFFF0 16 16 0x1FFFF0 ∧
      s.deckFree 0x1FFFF0 16 ∧ (4095 : Word).toNat < 2 ^ 12) ∧
    ((atEnd base {}).barrier 0 0x1FFFF0).psect = 0 ∧
    (∀ n ∈ [1, 2], ((b n).barrier 0 0x1FFFF0).init ≠ 0 ∧ ((b n).barrier 0 0x1FFFF0).parr = n ∧
      ((b n).barrier 0 0x1FFFF0).poison = false ∧ ((b n).barrier 0 0x1FFFF0).phase ≠ field 0 0 4 ∧
      ((b n).barrier 0 0x1FFFF0).phase = field 15 0 4 ∧ (b n).relaxedEarlier 0 (b n).nextReq = []) ∧
    ((b 1).usable [sreg 1, sreg 2, sreg 3] ∧ (∀ v, (b 1).takes 3 v) ∧ (b 1).deckFree 0x1FFFF0 16) ∧
    (∀ w ∈ [Wait.tbInit 0x1FFFF0 4095, .tbArrive 3 0x1FFFF0 15, .tbWait 0x1FFFF0 0x1FFFF0 15, .tbTest 3 0x1FFFF0 0x1FFFF0 14],
      okPlain (atBarrier w {}) 0 = true ∧ ((atBarrier w {}).thread 0).wait = w) ∧
    (∀ c ∈ [({} : Barrier), { psect := 1 }, { parr := 1 }, { parr := 2 }, { parr := 1, psect := 1 }, { phase := 15 },
        { phase := 15, poison := true }], (atBarrier .none c).barrier 0 0x1FFFF0 = c) ∧
    (atBarrier .none {}).hasHandler 0 ∧ ∀ dir, (sreg 3).port = some dir → base.roomS 0 dir = true :=
  ⟨⟨usable_of rfl, rfl, plain_regs _ _, inDeck_of (by decide +kernel), deckFree_of (by decide +kernel), by decide⟩,
    by decide +kernel, by decide +kernel, ⟨usable_of rfl, takes_of rfl (by decide), deckFree_of (by decide +kernel)⟩,
    by decide +kernel, by decide +kernel, by unfold State.hasHandler; decide +kernel,
    fun dir h => absurd (show none = some dir from h) (by simp)⟩

/-- An arrival completes a phase when the bank has served it, and returns the phase before it (R207, R208). -/
theorem test_arrival : let t := (atBarrier (.tbArrive 3 0x1FFFF0 7) { phase := 7, parr := 1, init := 2 }).serveUnit 0
    t.barrier 0 0x1FFFF0 = { phase := 8, parr := 2, init := 2 } ∧ (t.thread 0).s.get 0 3 = 7 ∧ (t.thread 0).pc = 0x104 := by
  decide +kernel

/-- A window of one block over the last of a segment and of the deck; no window, and one without blocks. -/
theorem witness_WindowUnits :
    let x : Word := 1 * 2 ^ 32 + 0x1FFF00
    let s := regs x 0xFF00
    (s.usable [sreg 1, sreg 2] ∧ s.read2 1 2 = .go (x, 0xFF00, s) ∧ s.plain 0 ∧ field x.toNat 32 12 = 1 ∧
      field x.toNat 44 20 = 0 ∧ field x.toNat 21 11 = 0 ∧ s.inDeck (ofNat64 (field x.toNat 0 21)) 256 256 0x1FFF00 ∧
      (s.me.seg.get {} 2).space = .global ∧ (s.me.seg.get {} 2).rd = true ∧
      (0xFF00 : Word).toNat + 256 ≤ (s.me.seg.get {} 2).length.toNat ∧ (0x1FF00 + 256 ≤ 2 ^ 57) ∧ 0x1FF00 % 256 = 0 ∧
      (s.window 7).valid = false ∧ s.meetsWindow 0 0x1FFF00 256 = false ∧ s.meetsRing 0 0x1FFF00 256 = false ∧
      s.meetsGlobal 0 (s.asidOf s.me.launch) 0x1FF00 256 = false) ∧
    (let w : State := { base with windows := [(7, { valid := true })] };
      w.usable [] ∧ w.plain 0 ∧ (w.window 7).valid = true ∧ (w.window 7).flushes = [] ∧ (w.window 7).blocks = [] ∧
      w.relaxedEarlier 0 w.nextReq = [] ∧ (base.window 7).valid = false ∧ (w.window 7).dirtyWords = []) ∧
    let y : WinBlock := { state := .v, valid := BitVec.allOnes 64, dirty := 2 ^ 63 }
    let d : State := { base with
      windows := [(7, { valid := true, gbase := 0x10000, nblk := 1, dbase := 0x1FFF00, blocks := [(0, y)] })]
      l1 := [(0, [{ tag := 1, leaf := 0x3000F }])] }
    d.usable [] ∧ d.plain 0 ∧ (d.window 7).valid = true ∧ (d.window 7).flushes = [] ∧ (d.window 7).dirtyWords = [(0, (2 ^ 63 : BitVec 64))] ∧
      ((d.window 7).blocks.get {} 0).dirty = 2 ^ 63 ∧ (d.window 7).gbase.toNat + 256 * 0 = 0x10000 ∧
      (d.crewOf (d.window 7).crewId).run < 2 ∧ d.windowHold (d.window 7) = none ∧ d.deckWordBad 7 0 (2 ^ 63) = false ∧
      d.inFlight 7 (0x30000 / 256) = [] ∧ (d.block (0x30000 / 256)).pres ≠ .poison ∧ d.relaxedEarlier 0 d.nextReq = [] ∧
      ∃ l, d.tlbFind 0 (d.window 7).asid 0x10000 = some l ∧ l.w = true ∧ l.dev = d.dev.toNat ∧ d.keyLive l 0x10000 = true ∧
        l.once = false ∧ l.phys 0x10000 = 0x30000 :=
  ⟨⟨usable_of rfl, rfl, plain_regs _ _, by decide +kernel, by decide +kernel, by decide +kernel, inDeck_of (by decide +kernel),
      rfl, rfl, by decide +kernel, by decide +kernel, by decide +kernel, by decide +kernel, by decide +kernel, by decide +kernel,
      by decide +kernel⟩,
    ⟨usable_of rfl, plain_of rfl, by decide +kernel, by decide +kernel, by decide +kernel, rfl, by decide +kernel, by decide +kernel⟩,
    usable_of rfl, plain_of rfl, by decide +kernel, by decide +kernel, by decide +kernel, by decide +kernel, by decide +kernel,
    by decide +kernel, by decide +kernel, by decide +kernel, by decide +kernel, by decide +kernel, rfl,
    { dev := 0, addr := 0x30000, key := 0, nospec := false, once := false, w := true, rd := true, bits := 16 },
    by decide +kernel, rfl, by decide +kernel, by decide +kernel, rfl, by decide +kernel⟩

/-! ### Premises of the statements that are met: homes, caches, windows -/

/-- No row is throttled where no channel lists one. -/
theorem rowFree_of {s : State} (h : s.channels = []) (phys : Nat) : s.rowHeld phys = false := by
  have h2 : ∀ c, s.channel c = {} := fun c => by rw [State.channel, h]; rfl
  simp [State.rowHeld, h2, Channel.throttles]

theorem entriesFree_of {s : State} (h : s.channels = []) (asid dva : Nat) : s.entriesHeld asid dva = false := by
  simp [State.entriesHeld, rowFree_of h]

/-- With request 1, and with block 0x100 as well. -/
def asking (q : Req) : State := { base with reqs := [(1, q)] }
def atHome (q : Req) (x : Block) : State := { base with reqs := [(1, q)], blocks := [(0x100, x)] }

/-- A live request for bytes from 0x10000 on. -/
def askOf (k : ReqKind) (n : Nat) (once : Bool) : Req :=
  { live := true, kind := k, phys := 0x10000, dva := 0x10000, n := n, once := once }

def okAnswers (s : State) (q : Req) : Bool :=
  q.live && okPlain s q.thread && decide (q.from_ = none ∧ q.twin = false ∧ (s.thread q.thread).state ≠ .killed ∧
    (s.thread q.thread).wait ≠ .retry .twinCompare ∧ q.jslot = none ∧ (s.crewOf q.crewId).run = 0)

theorem answers_of {s : State} {q : Req} (h : okAnswers s q = true) : s.answers q := by
  simp only [okAnswers, Bool.and_eq_true, decide_eq_true_eq] at h
  exact ⟨h.1.1, h.2.1, h.2.2.1, plain_of h.1.2, h.2.2.2.1, h.2.2.2.2.1, h.2.2.2.2.2.1, h.2.2.2.2.2.2⟩

theorem takesAt_of {s : State} {q : Req} {d : RegField} (h : (sreg d).port = none) (h2 : d.toNat ≠ 61) (v : Word) :
    s.takesAt q d v :=
  ⟨fun dir hd => absurd (h.symm.trans hd) (by simp), fun h3 => absurd h3 h2⟩

/-- An entry of a block, if it has one, is not spilled. -/
def okBlock (x : Block) : Bool :=
  match x.entry with
  | none => true
  | some e => e.spill.isEmpty

theorem unspilled_of {x : Block} (h : okBlock x = true) : x.unspilled := by
  intro e he
  simp only [okBlock, he, List.isEmpty_iff] at h
  exact h

/-- A reply of one byte and of a vector; a load, a store and an atomic of an OPEN page at its home; accesses to TCM and to the
deck before and after their banks; a load and a store that waited for their sector. -/
theorem witness_RepliesPerformed :
    (∀ vec ∈ [true, false], ∀ rlx ∈ [true, false],
      let q : Req := { askOf (.load true) 1 false with dest := some 3, vec := vec, status := .replied, result := 0x80, relaxed := rlx }
      okAnswers (asking q) ((asking q).req 1) = true ∧ ((asking q).req 1).status = .replied ∧ ((asking q).req 1).dest = some 3) ∧
    (∀ s q v, State.takesAt s q 3 v) ∧ (∀ dir, (vreg 3).port = some dir → base.roomV 0 dir = true) ∧
    (∀ q ∈ [askOf .store 16 false, { askOf (.amo .cas) 8 false with dest := some 3 },
        { askOf (.load false) 4 false with dest := some 3 }],
      okAnswers (asking q) ((asking q).req 1) = true ∧ ((asking q).req 1).status = .issued ∧ (asking q).onControl q = none ∧
      ((asking q).block 0x100).pres ≠ .poison ∧ (asking q).windowsOn 0x100 = [] ∧ (asking q).openWindows 0x100 = [] ∧
      (asking q).agents 0x400 = [] ∧ q.once = false ∧ q.space ≠ .peer ∧ managed q.phys = false ∧
      (asking q).homeLine.get [] 0x100 = [] ∧ ((asking q).block 0x100).win = false ∧ q.phys % 256 + q.n ≤ 256 ∧
      (asking q).dirtyElsewhere 0x100 (wordsOf q.phys q.n) none = false ∧ (asking q).sectorDir.length < 65535) ∧
    (let q := askOf .store 4 false;
      let x : WinBlock := { state := .v, phys := 0x10000, mapped := true, valid := BitVec.allOnes 64, dirty := 2 };
      let s : State := { asking q with windows := [(7, { valid := true, nblk := 1, blocks := [(0, x)] })] };
      okAnswers s (s.req 1) = true ∧ s.openWindows 0x100 = [(7, 0, x)] ∧ (s.window 7).blocks.get {} 0 = x ∧
      s.dirtyElsewhere 0x100 (wordsOf q.phys q.n) none = false ∧ s.onControl q = none ∧ s.agents 0x400 = []) ∧
    (∀ q ∈ [askOf .store 8 false, { askOf (.amo .swap) 8 false with dest := some 3 },
        { askOf (.load true) 8 false with dest := some 3 }],
      ∀ sp ∈ [Space.tcm, .deck], ∀ st ∈ [ReqStatus.banked, .blocked],
      let s := asking { q with phys := 0xFFF8, space := sp, status := st }
      okAnswers s (s.req 1) = true ∧ s.bankFree 1 = true ∧ s.overlapped 1 = false ∧ s.deckBusy 0 0xFFF8 8 = false ∧
        s.windowAt 0 0xFFF8 = none ∧ 0xFFF8 + (s.req 1).n ≤ 2 ^ 16) ∧
    ∀ k ∈ [ReqKind.store, .load true], ∀ st ∈ [SectorState.modified, .exclusive],
      let s : State := { asking { askOf k 4 false with status := .awaiting } with cache := [(0x400, st)] }
      okAnswers s (s.req 1) = true ∧ (s.req 1).status = .awaiting ∧ s.sector 0 0x400 = st ∧ (s.block 0x100).pres ≠ .poison ∧
        s.windowsOn 0x100 = [] ∧ (s.block 0x100).win = false :=
  ⟨by decide +kernel, fun _ _ => takesAt_of rfl (by decide), fun dir h => absurd (show none = some dir from h) (by simp),
    by decide +kernel, by decide +kernel, by decide +kernel, by decide +kernel⟩

theorem witness_LoadsAndStoresAtHome :
    (∀ p ∈ [Presence.empty, .full, .deferred, .poison], ∀ k ∈ [ReqKind.bgen, .bpoll, .bwait, .load false],
      let s := atHome (askOf k 16 true) { pres := p }
      (s.req 1).live = true ∧ (s.req 1).status = .issued ∧ (s.req 1).once = true ∧ (s.req 1).from_ = none ∧
      (s.block 0x100).pres = p ∧ (s.block 0x100).waiters.length < 31 ∧ (s.block 0x100).chain = [] ∧
      okBlock (s.block 0x100) = true ∧ (s.req 1).space ≠ .peer ∧ (s.req 1).cluster < 512 ∧ s.sector 0 0x400 = .invalid ∧
      s.sectorDir.length < 65536 ∧ s.hostSectors = []) ∧
    (∀ x ∈ [({ pres := .poison } : Block), { pres := .full }, { pres := .empty, held := true },
        { pres := .deferred, entry := some { cov := 1 } }, { pres := .deferred, entry := some {}, waiters := [{}] },
        { pres := .empty, entry := some { cov := 2 } }, { pres := .empty, entry := some { cov := BitVec.allOnes 64 - 1 } }],
      ((atHome (askOf .store 4 true) x).req 1).live = true ∧ ((atHome (askOf .store 4 true) x).req 1).status = .issued ∧
      (atHome (askOf .store 4 true) x).relaxedEarlier 0 1 = [] ∧ ((atHome (askOf .store 4 true) x).req 1).hold = false ∧
      (atHome (askOf .store 4 true) x).copies = [] ∧ okBlock x = true) ∧
    wordsOf 0x10000 4 = 1 ∧ (1 : BitVec 64) &&& 1 ≠ 0 ∧ (2 : BitVec 64) &&& 1 = 0 ∧ (2 : BitVec 64) ||| 1 ≠ BitVec.allOnes 64 ∧
    (BitVec.allOnes 64 - 1) &&& (1 : BitVec 64) = 0 ∧ (BitVec.allOnes 64 - 1) ||| (1 : BitVec 64) = BitVec.allOnes 64 ∧
    ∃ x : Block, x = { pres := .empty, entry := some { cov := 2 } } ∧ x.resident { cov := 2 } :=
  ⟨by decide +kernel, by decide +kernel, by decide +kernel, by decide, by decide, by decide, by decide +kernel, by decide +kernel,
    _, rfl, rfl, rfl⟩

/-- A waiter for notices, told from the others by its tag. -/
def waiterTagged (n : BitVec 24) : Waiter := { arm := true, tag := n }

theorem witness_BlockHome :
    (∀ k ∈ [ReqKind.bfin, .bhold, .barm, .bclr, .bclrG], ∀ x ∈ [({ pres := .poison } : Block), { pres := .full, gen := 63 },
        { pres := .empty, held := true }, { pres := .deferred, entry := some { cov := 5 } }, { entry := some {} },
        { entry := some { res := some {}, holds := [3, 4], queue := [0] } }, { pres := .deferred, waiters := [{}] }],
      let s := atHome (askOf k 256 true) x
      (s.req 1).live = true ∧ (s.req 1).status = .issued ∧ (s.req 1).kind = k ∧ (s.req 1).once = true ∧ (s.req 1).from_ = none ∧
      (s.req 1).hold = false ∧ s.relaxedEarlier 0 1 = [] ∧ s.windowsOn 0x100 = [] ∧ s.blockAgents 0x100 = [] ∧ s.copies = [] ∧
      s.block 0x100 = x ∧ okBlock x = true ∧ x.refs = [] ∧ x.chain = [] ∧ s.poolBusy (s.spanKey 0x100) = [] ∧
      s.poolLine (s.spanKey 0x100) = [] ∧ 1 ≤ s.poolSize (s.spanKey 0x100)) ∧
    (∃ x : Block, x.resident { res := some {}, holds := [3, 4], queue := [0] }) ∧
    (∃ x : Block, x.resident { cov := 5 } ∧ x.pres = .deferred) ∧
    ({ askOf .bclrG 256 true with data := 63 } : Req).data.extractLsb' 0 6 = 63 ∧
    ({ askOf .bclr 256 true with priv := true } : Req).priv = true ∧
    ({ (asking (askOf .bhold 256 true)) with poolWait := [(8, [.req 1])] } : State).poolLine 8 = [.req 1] ∧
    base.poolLine 8 = [] ∧
    ((∀ w ∈ [waiterTagged 1], w.word ≠ (waiterTagged 2).word) ∧
      [waiterTagged 1] ++ waiterTagged 2 :: [waiterTagged 1] = [waiterTagged 1, waiterTagged 2, waiterTagged 1]) ∧
    (∃ x : Block, x.resident { res := some { req := 7 } } ∧ x.held = false) ∧
    base.copies = [] ∧ base.sectorDir.length < 65536 ∧ base.hostSectors = [] :=
  ⟨by decide +kernel, ⟨{ entry := some { res := some {}, holds := [3, 4], queue := [0] } }, rfl, rfl⟩,
    ⟨{ pres := .deferred, entry := some { cov := 5 } }, ⟨rfl, rfl⟩, rfl⟩, by decide, rfl, by decide, by decide, by decide +kernel,
    ⟨{ entry := some { res := some { req := 7 } } }, ⟨rfl, rfl⟩, rfl⟩, by decide, by decide, by decide⟩

/-- Holders of sector 0x400 in this span and in the next. -/
def cached (l : List (Nat × SectorState)) : State := { base with cache := l.map fun p => (p.1 * 2 ^ 50 + 0x400, p.2) }

/-- A notice under way beside the one of span 2's port. -/
def noticing (at_ : Nat) : State := { base with spanNet := [{ at_ := at_, kind := .upg }] }

theorem witness_CacheRequests_notices :
    (noticeOf (.rcl 2 0x403)).map (fun n => (n.span, n.injector, n.line, n.sectors)) = some (2, 64, 0x100, 8) ∧
    noticeOf (.rcl 8 0x403) = none ∧
    (∀ n, noticeOf (.rcl 2 0x403) = some n →
      (∀ m ∈ (noticing 0).spanNet, m.span = n.span → m.injector = n.injector → m.at_ < (noticing 0).now) ∧
      (∀ m ∈ (noticing 0).spanNet,
        ¬ (m.span = n.span ∧ m.cluster = n.cluster ∧ m.kind = n.kind ∧ m.line = n.line ∧ m.sectors = n.sectors)) ∧
      ((noticing 0).injectNotice n).spanNet.length = 2) ∧
    ((noticing 0).deliverNotices.spanNet.length = 1 ∧
      ({ noticing 0 with tick := 6 } : State).deliverNotices.events = [.upg 0 0]) ∧
    (∀ n ∈ (noticing 0).spanNet, n.kind = .upg) ∧
    (∀ p ∈ (cached [(64, .modified)]).others 0 0x400, p.1 < 8) ∧
    (let s : State := { cached [] with hostSectors := [(0x400, .modified)] };
      s.others 0 0x400 = [(8, .modified)]) ∧ (cached [(0, .shared), (64, .shared)]).others 0 0x400 = [(1, .shared)] :=
  ⟨by decide +kernel, by decide +kernel, by
    intro n h
    obtain rfl := Option.some.inj h.symm
    decide +kernel, by decide +kernel, by decide +kernel, by decide +kernel, by decide +kernel, by decide +kernel⟩

theorem witness_CacheRequests :
    (((cached [(64, .modified)]).others 0 0x400).any fun p => ownsSector p.2) = true ∧ (cached []).agents 0x400 = [] ∧
      ((cached []).block 0x100).win = false ∧ ((cached []).setLines 0 0x100).length < 8 ∧ (cached []).sectorDir.length < 65536 ∧
      (cached []).mayAdvance 0x100 = true ∧ (cached []).homeLine.get [] 0x100 = [] ∧
      (let s : State := { cached [] with homeLine := [(0x100, [(.gets 1 0x400, false)])] };
        ((s.homeLine.get [] 0x100).head?.map (·.1)) = some (Instr.gets 1 0x400) ∧
        ∀ i ∈ [Instr.gets 0 0x400, .getm 0 0x400, .upg 0 0x400], ∀ p ∈ s.homeLine.get [] 0x100, p.1 ≠ i) ∧
      (cached []).sector 0 0x400 = .invalid ∧
      (((cached [(1, .shared)]).others 0 0x400).any fun p => ownsSector p.2) = false ∧ (cached [(1, .shared)]).sector 1 0x400 = .shared ∧
      (cached [(0, .shared), (1, .shared)]).sector 0 0x400 = .shared ∧ (cached [(0, .shared), (1, .shared)]).others 0 0x400 = [] ∧
      (cached [(0, .shared), (64, .shared)]).others 0 0x400 ≠ [] ∧ (cached [(0, .modified)]).sector 0 0x400 = .modified ∧
      ({ cached [] with blocks := [(0x100, { win := true })] } : State).block 0x100 = { win := true } ∧
      ({ asking { askOf .store 4 false with status := .awaiting } with blocks := [(0x100, { win := true })] } : State).req 1 =
        { askOf .store 4 false with status := .awaiting } ∧
      (((cached [(0, .modified)]).agents 0x400).any fun p => p.1 == 0 && ownsSector p.2) = true ∧
      (((cached [(0, .shared)]).agents 0x400).any fun p => p.1 == 0 && ownsSector p.2) = false ∧ spanOfCluster 0 = 0 ∧
      ({ base with hostSectors := [(2 ^ 50 + 0x400, .modified)] } : State).hostSectors.get .invalid (1 * 2 ^ 50 + 0x400) =
        .modified := by
  decide +kernel

/-- A write-back of the last word of a block. -/
def backOf (rec : Bool) (v : BitVec 4) : WriteBack :=
  { block := 0x100, version := v, mask := 2 ^ 63, data := List.replicate 256 7, isRecall := rec, holder := 3 }

theorem witness_WindowWords :
    (∀ rec ∈ [true, false], ∀ v ∈ [(0 : BitVec 4), 15],
      ({ base with writeBacks := [(5, backOf rec v)], tick := 2 ^ 24 } : State).writeBacks.find 5 = some (backOf rec v) ∧
      (backOf rec v).data.length = 256 ∧ (backOf rec v).asked + 2 ^ 24 ≤ ({ base with tick := 2 ^ 24 } : State).now) ∧
    (base.block 0x100).version = 0 ∧ base.windowsOn 0x100 = [] ∧ base.writeBacks.find 4 = none ∧
    modifiedIn (cached [(1, .modified)]).cache 1 = [0x100] ∧ modifiedIn (cached [(1, .modified)]).cache 0 = [] ∧
    ((cached [(1, .modified)]).windowsOn 0x100 = [] ∧ (cached [(1, .modified)]).crewsAt 1 = [] ∧ (cached [(1, .modified)]).hostSectors = [] ∧
      ∀ p ∈ (cached [(1, .modified)]).cache, p.1 % 2 ^ 50 / 4 = 0x100 → p.1 / 2 ^ 50 = 1) ∧
    (∀ p ∈ [Presence.full, .empty, .deferred, .poison], ∀ once ∈ [true, false], ∃ s : State, s = { base with
        windows := [(7, { valid := true, dbase := 0x1FFF00, gbase := 0x10000, nblk := 1,
                          blocks := [(0, { state := .f, phys := 0x10000, once := once, mapped := true })] })]
        blocks := [(0x100, { pres := p })] } ∧
      (s.windows.get {} (8 * 0 + 7)).valid = true ∧ ((s.windows.get {} 7).blocks.get {} 0).state = .f ∧
      (s.crewOf (s.windows.get {} 7).crewId).run = 0 ∧ (s.block 0x100).pres = p ∧ (s.block 0x100).waiters.length < 31 ∧
      (s.block 0x100).chain = [] ∧ okBlock (s.block 0x100) = true ∧ s.sectorDir.length < 65536 ∧
      s.dirtyElsewhere 0x100 (~~~((s.windows.get {} 7).blocks.get {} 0).valid) (some (8 * 0 + 7)) = false ∧
      s.homeLine.get [] 0x100 = [] ∧ s.channels = [] ∧
      ∀ i, i < 4 → ((s.agents (4 * 0x100 + i)).any fun p => ownsSector p.2) = false) :=
  ⟨by decide +kernel, by decide +kernel, by decide +kernel, by decide +kernel, by decide +kernel, by decide +kernel,
    by decide +kernel, fun p h once g => ⟨_, rfl, by revert p once; decide +kernel⟩⟩

/-! ### Premises of the statements that are met: the engines' steps, messages, page faults -/

/-- A ring of one whole tile, ready at its head. -/
def ready2 (base : Nat) : Ring := { tsz := 2, nslot := 1, cnt := 1, head := 1, base := base, slots := [(1, { state := .ready })] }

/-- A core whose engine has one operation queued, or at work. -/
def mxQueued (k : MxKind) : State :=
  withCore { mxQueue := [{ kind := k, cfg := 0x88 }], rings := [(2, ready2 0), (3, ready2 0x1000)], accInt := [(3, true)] }
def mxAtWork (k : MxKind) : State :=
  { mxQueued k with threads := [(0, { thread0 with wait := .engine 0, state := .wmx })]
                    cores := [(0, { rings := [(2, ready2 0), (3, ready2 0x1000)], accInt := [(3, true)],
                                    mxRun := some ({ kind := k, cfg := 0x88, slots := [1, 0] }, 0) })] }

theorem witness_MatrixEngine :
    (∀ k ∈ [MxKind.zero 3 true, .load 3 true 0 0, .mma 3 2 3 true true],
      ((mxQueued k).core 0).mxRun = none ∧ ((mxQueued k).core 0).mxQueue.length = 1 ∧ ((mxAtWork k).core 0).mxRun.isSome = true ∧
      ((mxAtWork k).thread 0).wait = .engine 0 ∧ (mxQueued k).wantsStop 0 = false) ∧
    (∃ row, cfgRow (0x88 : BitVec 9).toNat = some row ∧ ((mxQueued (.mma 3 2 3 true true)).core 0).accInt.get false 3 = row.2 ∧
      128 + 3 ∉ ((mxQueued (.mma 3 2 3 true true)).core 0).poisoned ∧ (mxQueued (.mma 3 2 3 true true)).deckErrors = [] ∧
      ∀ n ∈ [2, 3], ((mxQueued (.mma 3 2 3 true true)).ring 0 n).tsz = 2 ∧ ((mxQueued (.mma 3 2 3 true true)).ring 0 n).nslot ≠ 0 ∧
        1 ≤ ((mxQueued (.mma 3 2 3 true true)).ring 0 n).cnt ∧ ((mxQueued (.mma 3 2 3 true true)).ring 0 n).swzen = false ∧
        ((mxQueued (.mma 3 2 3 true true)).ring 0 n).head ≤ ((mxQueued (.mma 3 2 3 true true)).ring 0 n).nslot ∧
        (((mxQueued (.mma 3 2 3 true true)).ring 0 n).slot 1).state = .ready ∧
        (((mxQueued (.mma 3 2 3 true true)).ring 0 n).slot 1).linked = false) ∧
    (mxAtWork (.zero 3 true)).plain 0 ∧ ((mxAtWork (.zero 3 true)).core 0).mxNeed = [] ∧ (base.core 0).mxQueue = [] ∧
    ({ kind := .load 3 true 0x100 0, seg := { space := .deck } } : MxOp).seg.space = .deck :=
  ⟨by decide +kernel, ⟨(64, true), by decide +kernel, by decide +kernel, by decide +kernel, by decide +kernel, by decide +kernel⟩,
    plain_of rfl, by decide +kernel, by decide +kernel, rfl⟩

/-- A copy of 65 bytes at its three stages: issued, accepted with a unit requested, one unit done. -/
def copyOf (f : Copy → Copy) : State :=
  { base with copies := [(4, f { kind := .cpDd, bar := 0x1FFFF0, doff := 0x100, src := 0x200, bytes := some 65, outstanding := 1 })]
              deck := (atEnd base { init := 1, parr := 1, psect := 2 }).deck }

theorem witness_EngineSteps :
    ((copyOf id).accepted 0 = [] ∧ ((copyOf id).core 0).lastAccept ≠ (copyOf id).now + 1 ∧ (copyOf id).oldestIssued 0 = some 4 ∧ ((copyOf id).copies.get {} 4).units = 2 ∧
      ((copyOf id).barrier 0 0x1FFFF0).psect + 1 ≤ 2 ^ 24 - 1) ∧
    (let s := copyOf fun c => { c with stage := .accepted, outstanding := 2, requested := [0] };
      s.portRequests 0 < 64 ∧ (s.copies.get {} 4).failing = false ∧ (s.copies.get {} 4).ring = none ∧ (s.copies.get {} 4).after = [] ∧ (s.copies.get {} 4).permit = none ∧
      ((s.accepted 0).find? (fun p => p.2.heldOn.isNone && !p.2.suspended && decide (p.2.requested.length < p.2.units))).isSome =
        true ∧ (∀ c, s.copies.find 4 = some c → 1 < c.units ∧ 1 ∉ c.requested ∧ 0 ∈ c.requested ∧ 0 ∉ c.done ∧
          c.bytes.getD 0 = 65 ∧ c.doff + 65 ≤ c.bar) ∧ s.deckErrors = [] ∧ (s.barrier 0 0x1FFFF0).psect = 2) ∧
    (let s := withMe fun t => { t with bindings := [{ reg := 31, seg := t.seg.get {} 0, cnt := [1, 1, 1], st := [16, 0, 0] }] };
      (s.me.bindings.find? fun c => c.reg == 31).isSome = true ∧ s.badGranule 0 .tcm 0 16 true = false ∧
      (∀ b ∈ s.me.bindings, b.after = [] ∧ b.ahead ≤ b.next) ∧ s.portRequests 0 < 64 ∧
      [1, 1, 1].foldl (· * ·) 1 = 0 + 1) ∧
    (let s : State := { (withMe fun t => { t with
        wait := .retry (.streamUnit 31), state := .wmem, bindings := [{ reg := 31, cnt := [1, 1, 1], st := [16, 0, 0] }] }) with
        reqs := [(1, { live := true, kind := .stream 31 0, status := .replied, result := 5 })] };
      s.streamReq 0 31 = some 1 ∧ (s.req 1).status = .replied ∧ (s.me.bindings.find? fun c => c.reg == 31).isSome = true ∧
      s.me.wait = .retry (.streamUnit 31) ∧ s.me.twin = false ∧
      (s.req 1).twin = false) ∧
    (base.thread 0).bindings.find? (fun c => c.reg == 31) = none ∧
    (let q : Sequencer := { nest := some { n := [65535] }, permits := 1, running := true, emitted := 65534 };
      q.emitted < [65535].foldl (· * ·) 1 ∧ q.queue.length < 8 ∧ q.out.length < q.permits ∧ q.lastAt ≠ base.now + 1) ∧
    [65535].foldl (· * ·) 1 ≤ ({ nest := some { n := [65535] }, running := true, emitted := 65535 } : Sequencer).emitted :=
  ⟨by decide +kernel, ⟨by decide +kernel, by decide +kernel, by decide +kernel, by decide +kernel, by decide +kernel, by decide +kernel,
      fun c h => by cases (show some _ = some c from h); decide +kernel, by decide +kernel, by decide +kernel⟩,
    by decide +kernel, by decide +kernel, by decide +kernel, by decide +kernel, by decide +kernel⟩

/-- A message of 15 words in flight to core 0. -/
def flying (c : Core) : State :=
  { withCore c with flight := [{ hdr := 0xF3F, payload := List.replicate 15 7 }] }

/-- A pair of twins at a check point. -/
def twins (f g : TwinPair → TwinPair) : State :=
  pairOf (fun t => { t with twin := true, gang := 1, leader := true, wait := .retry .twinCompare, state := .wsync, pair := f {} })
    fun t => { t with twin := true, gang := 1, wait := .retry .twinCompare, state := .wsync, pair := g {} }

theorem witness_MessageSteps :
    (((flying {}).core 0).lastDelivery ≠ (flying {}).now + 1 ∧ (flying {}).accepts 0 {} = true ∧ (flying {}).freeEntry 0 = some 0 ∧
      (flying { overflow := [{}] }).freedEntry 0 = some 0 ∧ ({ flying {} with threads := [] } : State).accepts 0 {} = false ∧
      (flying { overflow := [{}] }).overflowRoom 0 = true ∧
      (flying { entries := (List.range 32).map fun i => (i, { state := .delivered }) }).freeEntry 0 = none ∧
      ({ flying { overflow := [{}] } with overflowSize := [(0, 128)] } : State).overflowRoom 0 = false) ∧
    ((withMe fun t => { t with wait := .retry (.network 0) }).thread 0).wait = .retry (.network 0) ∧
    (∀ en ∈ [true, false],
      let s := (withCore { rtabBy := some { crewId := 4 }, rtabEn := en, entries := [(31, { state := .delivered, hdr := 63 })] }).tcmWrite 0
        (8 * 63) [5, 1, 0, 0, 0, 0, 0, 0];
      let s1 : State := { s with threads := s.threads.put 15 { given := some 4 } };
      (s1.core 0).lastStart ≠ s1.now + 1 ∧ s1.routine 0 63 = (1, 1, 2) ∧ s1.liveOfClass 0 63 < 1 ∧ s1.freeSlotOf 0 4 = some 15 ∧
      ({ crewId := 4 } : Writer).proofRun ≠ 1 ∧ ({ crewId := 4 } : Writer).stores = [] ∧ field (63 : Word).toNat 6 2 = 0) ∧
    (∀ p ∈ ([((true, true), 0), ((false, false), 0), ((false, false), 1)] : List ((Bool × Bool) × Nat)),
      let s := twins (fun t => { t with approved := p.1.1 }) fun t => { t with approved := p.1.2, print := t.print - BitVec.ofNat 32 p.2 };
      s.leaderOf 16 = 0 ∧ partner 0 = 16 ∧ (s.thread 0).comparing = true ∧ (s.thread 16).comparing = true ∧
      (s.thread 0).pair.toDo = 0 ∧ (s.thread 0).pair.units = 0 ∧ (s.thread 0).repAt = none ∧ (s.thread 0).pair.disagreed = false) ∧
    ({} : Notice) ∉ base.notices :=
  ⟨by decide +kernel, rfl, by decide +kernel, by decide +kernel, by decide +kernel⟩

/-- Tables that map one page at DVA 0x10000. -/
def tables (leaf : Nat) : Mem :=
  [(0, 0x4001), (0x4000, 0x5001), (0x5000, 0x8001), (0x8000, 0x9001), (0x9008, leaf)].foldl
    (fun m (p : Nat × Nat) => m.writeList p.1 (toBytesLE p.2 8)) []

/-- A fetch that awaits a walk, or an answer, or the walk after it, with its page mapped or not. -/
def missing (answering serving mapped : Bool) : State :=
  { base with mem := if mapped then tables 0x3000F else []
              misses := [(4095, { asid := 0, dva := 0x10000, joined := [.fetch 0 255], answering := answering, serving := serving })]
              threads := [(0, { thread0 with wait := .fetch 0x10000, state := .pfault, park := 255, tvec := 0x400 })] }

/-- A thread whose page fault is old enough, with a message that waits for its slot. -/
def asideReady : State :=
  { (withCore { rtabBy := some {}, rtabEn := true, entries := [(31, { state := .delivered, hdr := 63 })] }).tcmWrite 0 (8 * 63)
      [5, 1, 0, 0, 0, 0, 0, 0] with
    threads := [(0, { thread0 with wait := .fetch 0x10000, state := .pfault, park := 255 })], tick := 4096
    launches := [(0, { lend := true })] }

theorem witness_PageFaultSteps :
    (∀ a ∈ [true, false], ∀ v ∈ [true, false], ∀ p ∈ [true, false],
      ((missing a v p).misses.find (0 * 4096 + 4095)).map (fun m => (m.answering, m.serving, m.joined)) =
        some (a, v, [.fetch 0 255]) ∧
      ((missing a v p).walk 0 0x10000).isSome = p ∧ (missing a v p).heldEntry 0 0x10000 = none) ∧
    (∀ a v p, (missing a v p).entriesHeld 0 0x10000 = false) ∧
    ((missing true false false).asides = [] ∧ ((missing true false false).thread 0).state = .pfault ∧
      ((missing true false false).thread 0).park.toNat = 255 ∧ ((missing true false false).thread 0).wait = .fetch 0x10000 ∧
      (missing true false false).hasHandler 0) ∧
    base.mayAside 0 = false ∧ asideReady.mayAside 0 = true ∧
    ∃ s : State, s = { base with threads := [(0, {})], asides := [{ thread := 0, woken := true, saved := { wait := .fetch 0x10000 } }] } ∧
      (s.asides.find? fun b => b.thread == 0 && b.woken).isSome = true ∧ (s.thread 0).state = .free :=
  ⟨by decide +kernel, fun _ _ _ => entriesFree_of rfl _ _,
    ⟨by decide +kernel, by decide +kernel, by decide +kernel, by decide +kernel, by
    unfold State.hasHandler; decide +kernel⟩, by decide +kernel, by decide +kernel, _, rfl, by decide +kernel, by decide +kernel⟩

/-! ### Premises of the statements that are met: crews, proof runs, sites, links -/

/-- A launch of one-core crews with its queue, a crew of it, and what else a witness needs. -/
def launched (k : Crew) (f : State → State) : State :=
  f { launches := [(1, { live := true, queue := 5, stageCrews := [1], entries := [0x100], spans := [0], crews := [4] })]
      queues := [(5, { en := true, lg := 12 })], crews := [(4, { k with launch := 1 })] }

/-- A crew in core 0, slot 15, whose thread is `x`. -/
def resident (k : Crew) (x : Thread) : State :=
  launched { k with placed := true, slots := [15] } fun s =>
    { s with threads := [(15, { x with given := some 4, crewId := 4, launch := 1 })] }

/-- A command processor's submission of slot 4095 whose packet is accepted: a crew of 1 core and 1 thread in one stage. -/
def packetBytes : List Byte :=
  toBytesLE (3 * 2 + 2 ^ 40) 8 ++ toBytesLE 0x10008 8 ++ toBytesLE (2 ^ 57 - 1) 8 ++ toBytesLE 0x10040 8 ++ toBytesLE 128 8 ++
    toBytesLE 0 16 ++ toBytesLE (1 + 2 ^ 8 + 2 ^ 16) 8 ++ toBytesLE 1 32 ++ toBytesLE 0x200 64 ++ toBytesLE 0 80 ++
    toBytesLE 0 8 ++ toBytesLE (2 ^ 61) 8
/-- A page of an interface's address space, mapped at DVA 0x10000 under key 1. -/
def hosted (m : Mem) : State :=
  { mem := m, ifaces := [(0, { asid := some 0, queues := [(0, 5)], nq := 1, keyFirst := 1, keyCount := 1 })]
    keys := [(1, { state := .live, ranges := [(0, 0xC000000000)] })]
    mapped := [{ asid := 0, dva := 0x10000, phys := 0x30000, bits := 16, key := 1 }]
    queues := [(5, { en := true, lg := 12, ring := 0x10000 })] }
/-- The leaf of the page that `hosted` maps. -/
def page1 : Leaf :=
  { dev := 0, addr := 0x30000, key := 1, nospec := false, once := false, w := true, rd := true, bits := 16 }

def submitted : State :=
  { hosted ((tables 0x3004F).writeList 0x3FF00 packetBytes) with cps := [(5, { submitted := [(5, 255, none, 3)] })] }

/-- A placement at a tick that is a multiple of 32; a crew that retires; a victim; a crew that stops, with its thread and
without; a killed slot; the packet above. -/
theorem witness_CrewSteps :
    (let s := launched {} id;
      s.now % 32 = 0 ∧ s.candidates 0 = [(4, s.crewOf 4)] ∧ (s.crewOf 4).save = none ∧
      s.fit (s.crewOf 4) = some { cluster := 0, first := 0, slots := [0], deck := 0 } ∧ (s.launchOf 1).cores = 1 ∧
      ({ s with tick := 33 } : State).now % 32 ≠ 0) ∧
    (let s := resident { status := .resident } {};
      s.mayRetire 4 = true ∧ s.crewWindows 4 = [] ∧ (s.crewOf 4).run = 0 ∧ s.crewCores 4 = [0] ∧ (s.core 0).entries = [] ∧
      (s.core 0).overflow = []) ∧
    (let s := resident { status := .retired } {};
      s.mayRetire 4 = false ∧ (s.crewOf 4).status = .retired ∧ (s.crewOf 4).placed = true ∧ (s.launchOf 1).completed = false ∧
      s.launchWindows 1 = [] ∧ (s.launchOf 1).told = false) ∧
    (let k : Crew := { launch := 1, status := .pending, avoid := List.range 64 };
      let v : Crew := { launch := 1, stage := 1, status := .resident, placed := true };
      let s := launched {} fun s => { s with crews := [(4, k), (5, v)], parkedTicks := [(0, 2 ^ 16)] };
      2 ^ 16 ≤ s.parkedTicks.get 0 0 ∧ s.eligible k = true ∧ s.fit k = none ∧ s.saveRoom 0 (s.maxRecord v) = true ∧
      base.parkedTicks.get 0 0 < 2 ^ 16) ∧
    (let s := resident { status := .resident } { state := .ready };
      (s.crewOf 4).status = .resident ∧ s.saveRoom 0 (s.maxRecord (s.crewOf 4)) = true ∧
      ({ s with saveSize := [(0, 1)] } : State).saveRoom 0 (s.maxRecord (s.crewOf 4)) = false ∧ s.wantsStop 15 = false) ∧
    (let s := resident { status := .stopping } { state := .ready, repAt := some (63, 1) };
      s.wantsStop 15 = true ∧ (s.thread 15).twin = false ∧ (s.thread 15).gangSize = 1 ∧ (s.thread 15).state = .ready ∧
      (s.thread 15).wait = .none ∧ (s.thread 15).rlxn = 0 ∧ (s.thread 15).pendingFaults = [] ∧ s.endsRun 15 = false ∧
      s.misses = [] ∧ s.crewStopped 4 = false) ∧
    (∀ r ∈ [none, some ({} : SaveRecord)],
      let s := resident { status := .stopping, save := r } { state := .stopping };
      (s.crewOf 4).status = .stopping ∧ s.crewStopped 4 = true ∧ s.crewWindows 4 = [] ∧ s.mayRetire 4 = false ∧
      (s.crewOf 4).save = r ∧ s.crewCopies 4 = [] ∧ s.asides = [] ∧ (s.thread 15).given = some 4) ∧
    (∀ n ∈ [0, 1], (({ base with threads := [(0, { state := .killed, rlxn := n })] } : State).thread 0).state = .killed ∧
      ({ state := .killed, rlxn := n } : Thread).scrubEnd ≤ base.now) ∧
    (submitted.mayTake 5 = true ∧ (submitted.queue 5).en = true ∧ (submitted.iface (submitted.queueIface 5)).asid = some 0 ∧
      ((submitted.walk 0 0x1FF00).map fun l => (l.phys 0x1FF00, submitted.packetStatus 5 0 (submitted.memRead (l.phys 0x1FF00) 256))) =
        some (0x3FF00, 1) ∧ ({ submitted with bootStopped := true } : State).mayTake 5 = false) := by
  decide +kernel

/-- That packet's slot is read at its home. -/
theorem witness_CrewSteps_packet : submitted.heldEntry 0 0x1FF00 = none ∧ submitted.noteMapped 0 0x1FF00 page1 = submitted ∧
    submitted.walk 0 0x1FF00 = some page1 ∧ submitted.windowsOn (0x3FF00 / 256) = [] ∧
    submitted.blockAgents (0x3FF00 / 256) = [] := by decide +kernel

/-- The region that R392 gives as its example: its header, its first and last body, its length. -/
def codedRegion : List Byte :=
  List.replicate 256 0 ++ (List.replicate 64 (toBytesLE 0x3F803F80 4)).flatten ++ toBytesLE (2 ^ 16 + 2 ^ 4 + 7) 256 ++
    (List.replicate 64 (toBytesLE 1 4)).flatten ++ List.replicate 3072 0
theorem test_region_coding : (codeRegion 3 codedRegion).length = 272 ∧
    (codeRegion 3 codedRegion).take 12 = toBytesLE (0x0000000300000064 + 0x3F803F80 * 2 ^ 64) 12 ∧
    (codeRegion 3 codedRegion).drop 268 = toBytesLE 1 4 := by decide +kernel

/-- A proof run and its original, which used one site each and holds a fill; a third run. -/
def proving (d : Digest) : State :=
  launched {} fun s => { s with
    crews := [(4, { launch := 1, status := .retired, run := 1, hold := true, drawn := true, sampled := true,
                    heldBlocks := [0x100], usedSites := [7] }),
              (6, { launch := 1, status := .retired, run := 2, original := 4, digest := d, usedSites := [8] })]
    blocks := [(0x100, { held := true, entry := some { verdicts := [4], cov := BitVec.allOnes 64 } })] }
def third : State :=
  launched {} fun s => { s with
    crews := [(4, { launch := 1, status := .retired, run := 1, usedSites := [7], digest := { lo := 1 } }),
              (6, { launch := 1, status := .retired, run := 2, original := 4 }),
              (7, { launch := 1, status := .retired, run := 3, original := 4 })] }

theorem witness_ProofAndSites :
    (let s := proving {};
      (s.crewOf 6).original = 4 ∧ (s.crewOf 6).status = .retired ∧ (s.crewOf 6).void = false ∧ (s.crewOf 6).run = 2 ∧
      (s.crewOf 6).digest.agrees (s.crewOf 4).digest = true ∧ (s.crewOf 4).heldBlocks = [0x100] ∧ (s.block 0x100).held = true ∧
      (s.block 0x100).entry.map (·.verdicts) = some [4] ∧ (s.crewOf 4).usedSites = [7] ∧ (s.crewOf 6).usedSites = [8] ∧
      (s.site 7).pass + 1 < 2 ^ 16 ∧ s.copies = []) ∧
    ((proving { lo := 1 }).crewOf 6).digest.agrees ((proving { lo := 1 }).crewOf 4).digest = false ∧
    ((third.crewOf 7).run = 3 ∧ (third.crews.find? fun (n : Nat × Crew) => n.2.original == 4 && n.2.run == 2 && !n.2.void) =
        some (6, third.crewOf 6) ∧ (third.crewOf 7).digest.agrees (third.crewOf 6).digest = true ∧ (third.crewOf 4).hold = false ∧
      (third.crewOf 4).usedSites = [7] ∧ (third.crewOf 7).usedSites = []) ∧
    (∀ b ∈ [true, false], (({ base with journalWait := [(7, [1])], reqs := [(1, { live := b })] } : State).req 1).live = b ∧
      ({ base with journalWait := [(7, [1])] } : State).journalWait.get [] 7 = [1]) ∧
    (({ base with reqs := [(1, { live := true })] } : State).journalRoom 7 16 = true ∧
      ({ base with journalSize := [(7, 1)] } : State).journalRoom 7 16 = false) ∧
    (let s : State := { resident { status := .resident } { state := .ready } with sites := [(19, { closing := true })] };
      (s.site 19).closing = true ∧ (s.site 18).closing = false ∧ clusterOf (coreOf 15) = 19 / 20 ∧ (s.thread 15).state = .ready ∧
      (s.crewOf 4).placed = true ∧ (s.crewOf 4).cluster = 0 ∧ (s.crewOf 4).status = .resident ∧
      s.saveRoom 0 (s.maxRecord (s.crewOf 4)) = true) ∧
    (∀ p ∈ ({ threads := [(15, { state := .stopping }), (14, {})], sites := [(19, { closing := true })] } : State).threads,
      clusterOf (coreOf p.1) = 19 / 20 → p.2.state = .free ∨ p.2.state = .stopping) ∧
    (0xFFFF ≤ 0xFFFF) ∧
    (let x : Channel := { listed := [5], last := [(5, 10)], counts := [(6, 2047)] };
      5 ∈ x.listed ∧ base.now < x.last.get 0 5 + base.power.ticks 40960 ∧ 6 ∉ x.listed ∧ x.counts.get 0 6 + 1 = 2048 ∧
      x.listed.length < 64 ∧ 64 ≤ (List.range 64).length ∧ 100 ∉ List.range 64) := by
  decide +kernel

/-- A block request that waits for its row, the last address of HBM4, a crew that a row no longer holds. -/
theorem witness_ProofAndSites_rows :
    okBlock ((proving {}).block 0x100) = true ∧
    (∀ p ∈ (launched { placed := true, status := .saved } id).crews, p.2.status ≠ .resident ∧ p.2.status ≠ .stopping) ∧
    (∀ w ∈ [({ row := 6, due := 0 } : RowWait)], w.row = 6 ∧ w.due ≤ base.now) ∧ 768 * 2 ^ 30 - 1 < 768 * 2 ^ 30 := by
  decide +kernel

/-- The last channel of HBM4 is 511, of stack 15; address bits 14 to 19 fold onto bits 8 to 13 (R338). -/
theorem test_channels : channelOf (768 * 2 ^ 30 - 1) = 448 ∧ channelOf (768 * 2 ^ 30 - 1 - 63 * 2 ^ 14) = 511 ∧
    stackOf (768 * 2 ^ 30 - 1 - 63 * 2 ^ 14) = 15 ∧ channelOf 0x4100 = 0 ∧ channelOf 0x100 = 1 ∧ channelOf 0x4000 = 1 := by
  decide +kernel

/-- CRC-32C of "123456789"; a flit as it is received, and with bit 0 of lane 1 inverted by an injector (R414, R417). -/
theorem test_flit_bytes :
    crc32c [0x31, 0x32, 0x33, 0x34, 0x35, 0x36, 0x37, 0x38, 0x39] = 0xE3069283 ∧
    (match flitIn 3 ({ seq := 4095, typ := 2, payload := [7] } : Flit).bytes with
      | .flitReceive p n k ok bs => p == 3 && n == 4095 && k == 2 && ok && bs.length == 58 && bs.head? == some 7
      | _ => false) = true ∧
    (injectFlit [(1, 0x8000000100000000)]).2.map (·.bit) = [64] ∧
    (match flitIn 3 ({ seq := 4095, typ := 2, payload := [7], flipped := [64] } : Flit).bytes with
      | .flitReceive _ _ _ ok bs => !ok && bs.getD 8 0 == 1
      | _ => false) = true := by decide +kernel

/-- FIPS 197's example for AES-256, whose key counts from 00 and whose block counts from 00 in steps of 11 (R437). -/
theorem test_cipher :
    aes256 ((List.range 32).map (BitVec.ofNat 8)) ((List.range 16).map fun i => BitVec.ofNat 8 (17 * i)) =
      [0x8E, 0xA2, 0xB7, 0xCA, 0x51, 0x67, 0x45, 0xBF, 0xEA, 0xFC, 0x49, 0x90, 0x4B, 0x49, 0x60, 0x89] := by decide +kernel

/-- A port with 3 flits unacknowledged. -/
def linked (f : Port → Port) : State :=
  { base with ports := [(11, f { replay := [{ seq := 4094 }, { seq := 4095 }, { seq := 0 }] })] }

theorem witness_CausewaySteps :
    (((linked fun p => { p with up := false }).port 11).up = false ∧ ((linked id).port 11).up = true ∧
      ((linked id).port 11).training = false ∧ ((linked id).port 11).injectors = [] ∧ ((linked id).port 11).delayed = [] ∧
      ((linked fun p => { p with gap := true }).port 11).gap = true ∧ ((linked fun p => { p with rxSeq := 4095 }).port 11).rxSeq = 4095 ∧
      ((linked fun p => { p with unacked := 31 }).port 11).unacked = 31 ∧ ((linked id).port 11).unacked < 31) ∧
    (((linked id).port 11).replay = [{ seq := 4094 }] ++ { seq := 4095 } :: [{ seq := 0 }] ∧ (∀ g ∈ [({ seq := 4094 } : Flit)], g.seq ≠ 4095) ∧
      (∀ g ∈ ((linked id).port 11).replay, g.seq ≠ 7) ∧ ((linked id).port 11).backlog = [] ∧ (linked id).pendingRoutes = [] ∧
      (((linked id).port 11).replay.map Flit.seq).Nodup) ∧
    (((linked fun p => { p with training := true, failedTrains := 3 }).port 11).training = true ∧
      (let s : State := { (linked fun p => { p with failedTrains := 4, replay := [] }) with routes := [(9, 2 ^ 11)] };
        4 ≤ (s.port 11).failedTrains ∧ (s.port 11).replay = [] ∧ (∀ p ∈ s.ports, p.2.backlog = []) ∧ s.devicesOn 11 = [9] ∧ (∀ q ∈ s.portsTo 9, q = 11) ∧
        9 ≠ s.dev.toNat ∧ 9 ∉ s.gone ∧ s.blocks = [] ∧ s.reqs = [] ∧ s.flight = []) ∧
      (let s : State := { (linked fun p => { p with failedTrains := 4, replay := [] }) with routes := [(9, 2 ^ 11 + 1)] };
        ∀ d ∈ s.devicesOn 11, ∃ q, q ∈ List.range 11 ∧ q ∈ s.portsTo d)) ∧
    (∀ q ∈ (linked id).ports, ∀ f ∈ q.2.replay ++ q.2.backlog, f.dst ≠ 9) ∧
    ((0x800 : BitVec 12).getLsbD 11 = true ∧ ((linked id).port 11).up = true ∧ 9 ≠ (linked id).dev.toNat ∧
      9 ∉ (linked id).gone ∧ (linked id).blocks = [] ∧ (linked id).reqs = [] ∧ (linked id).flight = []) ∧
    (∀ k ∈ [ReqKind.load true, .store], ∀ st ∈ [ReqStatus.issued, .replied, .refused .poison 0],
      let s := asking { askOf k 8 false with from_ := some { dev := 9 }, status := st }
      (s.req 1).live = true ∧ (s.req 1).from_ = some { dev := 9 } ∧ (s.req 1).status = st ∧ (s.block 0x100).pres ≠ .poison ∧
        s.agents 0x400 = [] ∧ s.windowsOn 0x100 = [] ∧ s.homeLine.get [] 0x100 = [] ∧ s.sectorDir.length < 65536) ∧
    ∃ q ∈ (linked id).ports, ∃ f ∈ q.2.replay ++ q.2.backlog, f.dst = 0 := by
  decide +kernel

/-- Flits sent again fewer than 8 times and an eighth time; one whose injected delay has ended and one whose has not. -/
theorem witness_CausewaySteps_flits :
    ((linked id).port 11).unacked = 0 ∧
    (∀ g ∈ ((linked id).port 11).replay.map (fun g => { g with again := g.again + 1 }), g.again < 8) ∧
    (∃ g ∈ [({ seq := 4095, again := 7 } : Flit)].map (fun g => { g with again := g.again + 1 }), 8 ≤ g.again) ∧
    (({ base with ports := [(11, { delayed := [(0, { seq := 1 }), (9, { seq := 2 })] })] } : State).port 11).delayed =
      [(0, { seq := 1 })] ++ [(9, { seq := 2 })] := by
  decide +kernel

/-! ### Premises of the statements that are met: the host, the package, the machine as a whole -/

/-- The memory of `hosted`, whose aperture begins at DVA 0. -/
def hostSide (f : State → State) : State := f (hosted (tables 0x3004F))

/-- A queue register of a function, a doubleword at the end of the aperture's mapped page, a CXL port, a virtual function, the
stores of a control page. -/
theorem witness_HostSteps :
    (let s := hostSide fun s => { s with crews := [(4, { launch := 1, status := .resident })], launches := [(1, { live := true, queue := 5 })] };
      s.packageQueue 0 0 = some 5 ∧ s.bootStopped = false ∧ s.checkpointTo = none ∧ s.queueCrews 5 = [4] ∧
      (s.crewOf 4).status = .resident ∧ (0xFFFFFFFF : Word).toNat < 2 ^ 32 ∧ 2 ^ 32 ≤ (0x100000000 : Word).toNat) ∧
    ((hostSide fun s => { s with checkpointTo := some 9 }).checkpointTo = some 9) ∧
    (let s := hostSide id;
      (s.iface 0).asid = some 0 ∧ s.walk 0 0x1FFF8 = some page1 ∧ page1.dev = s.dev.toNat ∧ s.keyLive page1 0x1FFF8 = true ∧ s.keyLive page1 0x1FFC0 = true ∧ s.channels = [] ∧
      okBlock (s.block (0x3FFF8 / 256)) = true ∧ s.homeLine.get [] (0x3FFC0 / 256) = [] ∧
      page1.phys 0x1FFF8 = 0x3FFF8 ∧ 0x1FFF8 % 16 + 8 ≤ 16 ∧ (s.block (0x3FFF8 / 256)).pres ≠ .poison ∧
      s.notHost 0 (0x3FFF8 / 64) = [] ∧ page1.rd = true ∧ page1.w = true ∧ page1.once = false ∧ s.windowsOn (0x3FFF8 / 256) = [] ∧
      (s.iface 0).apbase.toNat + 0x1FFF8 = 0x1FFF8 ∧ (s.iface 0).apbase.toNat + 64 * 0x7FF = 0x1FFC0 ∧
      s.walk 0 0x1FFC0 = some page1 ∧ (∀ p ∈ s.notHost 0 (page1.phys 0x1FFC0 / 64), ownsSector p.2 = false) ∧
      ({ s with cxl := [(0, true)] } : State).cxl.get false 0 = true) ∧
    (let s := hostSide fun s => { s with ifaces := [(1, { asid := some 3, nq := 1, queues := [(0, 21)] })] };
      1 % 128 ≠ 0 ∧ s.ifaceQueues 1 = [21] ∧ s.launches = [] ∧ (s.cps.get {} (21 % 16)).submitted = [] ∧ (s.iface 1).asid = some 3) ∧
    (let s := hostSide fun s => { s with
        cps := [(5, { launchReqs := [(1, 0x500000007)], statReqs := [1], results := [(3, (1, 9))], lastAccept := some 0 })]
        reqs := [(1, { live := true, thread := 3 })], tick := 255 };
      (s.cps.get {} 5).launchReqs = [(1, 0x500000007)] ∧ field (0x500000007 : Word).toNat 32 12 = 5 ∧
      (0x500000007 : Word).toNat < 2 ^ 44 ∧ (s.queue 5).lg ≠ 0 ∧ s.mayTake 5 = false ∧ (s.cps.get {} 5).statReqs = [1] ∧
      (s.cps.get {} 5).results.get (0, 0) (slotOf (s.req 1).thread) = (1, 9) ∧ (s.queue 21).lg = 0) ∧
    (let s := hostSide fun s => { s with
        cps := [(5, { decReqs := [(1, 1)] })], launches := [(1, { live := true, cp := 5, signal := 0x10008 })] };
      (s.cps.get {} 5).decReqs = [(1, 1)] ∧ (s.launchOf 1).live = true ∧ (s.launchOf 1).cp = 5 ∧ (s.launchOf 1).signalled = false ∧
      s.walk (s.launchOf 1).asid 0x10008 = some page1 ∧ s.windowsOn (page1.phys 0x10008 / 256) = [] ∧
      s.agents (page1.phys 0x10008 / 64) = []) := by
  decide +kernel

/-- What the requests of a host meet: an empty line of its port and one that is not; a page seen mapped, whose tables are at home;
a slot that holds a packet and one that does not; a sector that a cluster has modified, and one that none holds. -/
theorem witness_HostSteps_lines :
    (let s := hostSide id;
      s.portLine 0 = [] ∧ ({ s with hostQueue := [(0, [.tick])] } : State).portLine 0 ≠ [] ∧ s.checkpointTo = none ∧
      s.heldEntry 0 0x1FFF8 = none ∧ s.noteMapped 0 0x1FFF8 page1 = s ∧ s.heldEntry 0 0x1FFC0 = none ∧
      s.noteMapped 0 0x1FFC0 page1 = s ∧ s.heldEntry 0 0x10008 = none ∧ s.sectorDir.length < 65536 ∧ page1.dev = s.dev.toNat) ∧
    ((hostSide fun s => { s with queues := [(5, { en := true, lg := 1, ring := 0x1FE00 })] }).slotHeld 0 0x1FFF8 8 = false) ∧
    ((hosted ((tables 0x3004F).write 0x3FF00 1)).packageQueue 0 0 = some 5 ∧
      ({ hosted ((tables 0x3004F).write 0x3FF00 1) with
          queues := [(5, { en := true, lg := 1, ring := 0x1FE00 })] } : State).slotHeld 0 0x1FFF8 8 = true) ∧
    (let s := hostSide fun s => { s with cache := [(0x3FFC0 / 64, .modified)] };
      s.notHost 0 (0x3FFC0 / 64) = [(0, .modified)] ∧ s.mayAdvance (0x3FFC0 / 256) = true ∧
      noticesTo (0x3FFC0 / 64) true ((hostSide id).notHost 0 (0x3FFC0 / 64)) = [] ∧
      ownsSector ((hostSide id).hostSectors.get .invalid (0x3FFC0 / 64)) = false ∧
      ((hostSide id).block (0x3FFC0 / 256)).win = false) ∧
    (hostSide id).launchWindows 1 = [] ∧
      ({ hostSide id with
        launches := [(1, { crews := [4] })], windows := [(7, { valid := true, crewId := 4 })] } : State).launchWindows 1 = [7] := by
  decide +kernel

/-- A checkpoint's buddy over a port, and its image. -/
def buddy (f : State → State) : State := f { routes := [(9, 1)] }

theorem witness_PackageSteps :
    ((1 ≤ 511 ∧ ([(0, 0xC000000000)] : List (Nat × Nat)).length ≤ 8 ∧
        ∀ r ∈ ([(0, 0xC000000000)] : List (Nat × Nat)), r.1 + r.2 ≤ 0xC000000000) ∧
      ¬ (1 ≤ 512 ∧ 512 ≤ 511 ∧ ([] : List (Nat × Nat)).length ≤ 8 ∧ ∀ r ∈ ([] : List (Nat × Nat)), r.1 + r.2 ≤ 0xC000000000)) ∧
    ((hosted []).keyId 1).state = .live ∧ ((hosted []).keyId 2).state = .free ∧ (hosted []).reqs = [] ∧ (hosted []).windows = [] ∧
    (hosted []).copies = [] ∧ (({ keys := [(1, { state := .clearing })] } : State).keyId 1).state = .clearing ∧
    ((buddy id).checkpointTo = none ∧ 9 ≠ (buddy id).dev.toNat ∧ (buddy id).reaches 9 = true ∧ (buddy id).reaches 8 = false ∧
      (buddy id).crews = [] ∧ (buddy id).drained = true ∧ (buddy id).cache = [] ∧ (buddy id).hostSectors = [] ∧
      base.drained = false ∧ (buddy fun s => { s with checkpointTo := some 9 }).checkpointTo = some 9 ∧
      (buddy id).refuge.find 9 = none) ∧
    (∃ r : Refuge, r = { mem := [(2 ^ 48 - 1, 7)] } ∧ (buddy fun s => { s with refuge := [(9, r)] }).refuge.find 9 = some r ∧
      Mem.wf r.mem = true ∧ ∀ c ∈ r.mem, c.1 < 2 ^ 48) ∧
    (base.power = .p0 ∧ ∀ p ∈ [Power.p0, .p1, .p2, .p3, .idle], ({ base with power := p } : State).power = p) :=
  ⟨by decide, by decide +kernel, by decide +kernel, rfl, rfl, rfl, by decide +kernel, by decide +kernel,
    ⟨_, rfl, by decide +kernel, by decide +kernel, by decide +kernel⟩, by decide +kernel⟩

/-- An outcome goes on. -/
def goesOn (o : Host.Outcome State Fault Refusal) : Bool :=
  match o with
  | .next _ => true
  | _ => false

theorem next_of {o : Host.Outcome State Fault Refusal} (h : goesOn o = true) : o = .next (after o) := by
  cases o <;> simp_all [goesOn, after]

/-- A tick with nothing due but a step of another agent, and a tick that selects a thread. -/
def quietState : State :=
  { base with timers := [(0, .relief 0), (2, .relief 1)], cores := [(0, { pend := [{ due := 9 }] })] }

theorem quiet_still : quietState.still := by
  refine ⟨by decide +kernel, by decide +kernel, ?_, rfl, rfl, rfl, rfl, rfl, rfl, rfl⟩
  intro p hp
  cases List.mem_singleton.1 hp
  exact ⟨rfl, by decide +kernel, fun _ _ _ h => absurd (show Wait.none = _ from h) (by simp)⟩

/-- The request of a thread, and of an engine, for the last bank of a deck, and a state in which they wait. -/
def bankAsk (engine : Bool) (number r : Nat) : Ask := { engine := engine, number := number, banks := [127], asker := .access r }
def contended (l : List Ask) (e : Bool) : State := { quietState with asks := l, banks := [(127, { thread := 5, engineLast := e })] }

theorem contended_still (l : List Ask) (e : Bool) : (contended l e).still := quiet_still

theorem witness_TickSteps : quietState.still ∧ quietState.asks = [] ∧ (∀ l e, (contended l e).still ∧ (contended l e).asks = l) ∧
    (∀ l e f n r, (contended l e).atBank (bankAsk f n r) 0 127 r) ∧ (bankAsk false 5 1).number < (bankAsk false 6 2).number ∧
    (∀ e, ((contended [] e).banks.get {} 127).thread = 5 ∧ ((contended [] e).banks.get {} 127).engineLast = e) ∧
    ∀ x ∈ (contended [bankAsk true 5 1] true).asks, ∃ r, x.asker = .access r :=
  ⟨quiet_still, rfl, fun _ _ => ⟨contended_still _ _, rfl⟩, fun _ _ _ _ _ => ⟨rfl, rfl, by decide, Nat.zero_le _, rfl⟩, by decide,
    fun _ => ⟨rfl, rfl⟩, fun x h => by cases List.mem_singleton.1 h; exact ⟨1, rfl⟩⟩

/-- The round robin of a bank serves the thread after the last one; a bank with threads and engines that wait alternates. -/
theorem test_bank_turns :
    (after (exec .tick (contended [bankAsk false 5 1, bankAsk false 6 2] false))).asks = [bankAsk false 5 1] ∧
    (after (exec .tick (contended [bankAsk true 0 1, bankAsk false 6 2] true))).asks = [bankAsk true 0 1] := by decide +kernel

theorem witness_TickSteps_selects : exec .tick base = .next (after (exec .tick base)) := next_of (by decide +kernel)
theorem test_tick_selects : (after (exec .tick base)).sels = [0] := by decide +kernel

/-- `add s5, s6, h2` at the PC of a thread that is selected, and the state in which it attempts it. -/
def atUnit : State := { base.tcmWrite 0 0x100 (toBytesLE 0x0110C281 4) with sels := [0] }
def attempting : State := { atUnit with sels := [], cur := 0 }.modThread 0 fun x => { x with lastAttempt := some atUnit.now }

theorem fetch_of {s : State} {w : Nat} (h : (match s.fetch 0 with
    | .unit v => v == w
    | _ => false) = true) : s.fetch 0 = .unit w := by
  split at h
  · rename_i v hv; rw [hv, eq_of_beq h]
  · cases h

theorem witness_StepRunsUnit :
    (atUnit.events = [] ∧ atUnit.sels = [0] ∧ (atUnit.thread 0).state = .ready ∧ (atUnit.thread 0).wait = .none ∧
      (atUnit.thread 0).gangSize = 1 ∧ (atUnit.thread 0).twin = false ∧ (atUnit.thread 0).repAt = none) ∧
    attempting.fetch 0 = .unit 0x0110C281 ∧
    unitOf 0x0110C281 = { rep := none, rlx := false, instr := some (.add 5 6 34), size := 2 } ∧
    attempting.attemptReads 0 (Instr.add 5 6 34).vreads = (attempting, true) ∧
    ((after (exec (.add 5 6 34) ({ attempting with cur := 0 }.modThread 0 fun x =>
      { x with iss := (unitOf 0x0110C281).issue (atUnit.thread 0).pc 0x0110C281 false }))).thread 0).iss.ended = .issued ∧
    ({ base with events := [.tick] } : State).events = .tick :: [] ∧ base.events = [] ∧ base.sels = [] :=
  ⟨by decide +kernel, fetch_of (by decide +kernel), by decide +kernel, by decide +kernel, by decide +kernel, rfl, rfl, rfl⟩

/-- That unit issues by `step`, and is counted. -/
theorem test_step_issues : ((after (step atUnit)).thread 0).pc = 0x104 ∧ ((after (step atUnit)).thread 0).counters.get 0 0 = 1 := by
  decide +kernel

theorem witness_MemoryStaysCanonical :
    ({ base with mem := [(2 ^ 56, 1)] } : State).mem.wf = true ∧
      step { base with mem := [(2 ^ 56, 1)] } = .next (after (step { base with mem := [(2 ^ 56, 1)] })) :=
  ⟨by decide +kernel, next_of (by decide +kernel)⟩

/-- Instructions of one word and of one halfword, with fields at the ends of their ranges. -/
theorem witness_DecodeInvertsEncode :
    (Instr.add 63 0 63).wellFormed = true ∧ (Instr.add 63 0 63).size ≠ 0 ∧ (Instr.rep 4 (-1)).wellFormed = true ∧
      (Instr.rep 4 (-1)).size ≠ 0 ∧ (Instr.jal 3 (-(2 ^ 18))).wellFormed = true ∧ (Instr.jal 3 (-(2 ^ 18))).size ≠ 0 := by
  decide +kernel

/-- A pattern of each clause on what is ILLEGAL, at the first value that is: R73, R163, R164, R166, R175. -/
theorem witness_illegalWhere :
    ∀ w ∈ [3 * 2 ^ 26 + 2 ^ 24 + 0x13, 15 * 2 ^ 27 + 0x59, 11 * 2 ^ 27 + 0x5B, 2 ^ 25 + 0x5B, 8 * 2 ^ 27 + 8 * 2 ^ 19 + 0x5B,
        12 * 2 ^ 27 + 0x5F, 6 * 2 ^ 27 + 0x5F, 5 * 2 ^ 27 + 2 ^ 19 + 0x5F, 6 * 2 ^ 27 + 0x69, 2 ^ 25 + 0x69,
        2 ^ 27 + 2 ^ 19 + 0x69, 2 * 2 ^ 27 + 16 * 2 ^ 19 + 0x69],
      w % 2 = 1 ∧ field w 1 6 ∈ [0x09, 0x2C, 0x2D, 0x2F, 0x34] ∧ decodeWord w = none := by
  decide +kernel

/-- The offsets 0x180 and 0x1B0, which a span of 128 bytes exchanges. -/
theorem witness_Swizzles : 128 = 16 * 2 ^ 3 ∧ swizzle (some 3) 0x180 = 0x1B0 ∧ swizzle (some 3) 0x1B0 = 0x180 := by
  decide +kernel

/-- A unit of every shape that issues. -/
theorem witness_RegisterFrames :
    (regs 5 7).plain (regs 5 7).cur ∧ (regs 5 7).replaying (regs 5 7).cur = false ∧
      (∀ i ∈ [Instr.add 3 1 2, .div 3 1 2, .cmov 3 1 2, .popc 3 1, .addi 3 1 5, .jalr 3 1 6, .lui 3 7, .jal 3 8, .beq 1 2 4,
          .bany 1 2 4, .bbs 1 0 4, .bbc 1 0 4],
        goesOn (exec i (regs 5 7)) = true ∧ (after (exec i (regs 5 7))).me.iss.ended = .issued) ∧
    (vregs 1 2 3).plain (vregs 1 2 3).cur ∧ (vregs 1 2 3).replaying (vregs 1 2 3).cur = false ∧
      ∀ i ∈ [Instr.vadd 4 1 2 .b8, .vbsl 3 1 2, .vshuf 4 1 2 .h16, .vfadd 4 1 2 .f32, .vrev 4 1 .w32, .vfsqrt 4 1,
          .vceq 4 1 2 .b8, .vfclt 4 1 2 .f32, .vrsum 4 1 .h16, .vextr 4 1 1 .d64, .vbcst 4 1 .b8, .vmexp 4 1 .b8,
          .vins 4 1 1 .d64],
        goesOn (exec i (vregs 1 2 3)) = true ∧ (after (exec i (vregs 1 2 3))).me.iss.ended = .issued :=
  ⟨plain_regs _ _, by decide +kernel, by decide +kernel, plain_of rfl, by decide +kernel, by decide +kernel⟩

end Sys2Proof.Tests
end

/-! The round trip of decoding and encoding (O59): the bits of every instruction, then their bytes. -/

namespace Sys2Proof.Laws.RoundTrip

/-- Every well-formed instruction that has an encoding is decoded from its bits, and bit 0 says how many halfwords they fill.
The remaining constructors are the steps, which have no encoding. -/
theorem forall_instr (i : Instr) : Statement i := by
  cases i with
  | add d a b => exact add d a b
  | sub d a b => exact sub d a b
  | and d a b => exact and d a b
  | or d a b => exact or d a b
  | xor d a b => exact xor d a b
  | andn d a b => exact andn d a b
  | orn d a b => exact orn d a b
  | sll d a b => exact sll d a b
  | srl d a b => exact srl d a b
  | sra d a b => exact sra d a b
  | rol d a b => exact rol d a b
  | ror d a b => exact ror d a b
  | slt d a b => exact slt d a b
  | sltu d a b => exact sltu d a b
  | min d a b => exact min d a b
  | max d a b => exact max d a b
  | minu d a b => exact minu d a b
  | maxu d a b => exact maxu d a b
  | cmov d a b => exact cmov d a b
  | addw d a b => exact addw d a b
  | subw d a b => exact subw d a b
  | sllw d a b => exact sllw d a b
  | srlw d a b => exact srlw d a b
  | sraw d a b => exact sraw d a b
  | mul d a b => exact mul d a b
  | mulh d a b => exact mulh d a b
  | mulhu d a b => exact mulhu d a b
  | mulhsu d a b => exact mulhsu d a b
  | div d a b => exact div d a b
  | divu d a b => exact divu d a b
  | rem d a b => exact rem d a b
  | remu d a b => exact remu d a b
  | mulw d a b => exact mulw d a b
  | divw d a b => exact divw d a b
  | remw d a b => exact remw d a b
  | popc d a => exact popc d a
  | clz d a => exact clz d a
  | ctz d a => exact ctz d a
  | brev d a => exact brev d a
  | bswap d a => exact bswap d a
  | bext d a b => exact bext d a b
  | bins d a b => exact bins d a b
  | sextB d a => exact sextB d a
  | sextH d a => exact sextH d a
  | sextW d a => exact sextW d a
  | zextB d a => exact zextB d a
  | zextH d a => exact zextH d a
  | zextW d a => exact zextW d a
  | lsb d a => exact lsb d a
  | msk d a => exact msk d a
  | addi d a i => exact addi d a i
  | andi d a i => exact andi d a i
  | ori d a i => exact ori d a i
  | xori d a i => exact xori d a i
  | slti d a i => exact slti d a i
  | sltiu d a i => exact sltiu d a i
  | addiw d a i => exact addiw d a i
  | slli d a s => exact slli d a s
  | srli d a s => exact srli d a s
  | srai d a s => exact srai d a s
  | slliw d a s => exact slliw d a s
  | srliw d a s => exact srliw d a s
  | sraiw d a s => exact sraiw d a s
  | lui d i => exact lui d i
  | lpc d i => exact lpc d i
  | jal d i => exact jal d i
  | jalr d a i => exact jalr d a i
  | beq a b i => exact beq a b i
  | bne a b i => exact bne a b i
  | blt a b i => exact blt a b i
  | bge a b i => exact bge a b i
  | bltu a b i => exact bltu a b i
  | bgeu a b i => exact bgeu a b i
  | bany a b i => exact bany a b i
  | ball a b i => exact ball a b i
  | bnone a b i => exact bnone a b i
  | bbs a n i => exact bbs a n i
  | bbc a n i => exact bbc a n i
  | ldB d base seg imm => exact ldB d base seg imm
  | ldBu d base seg imm => exact ldBu d base seg imm
  | ldH d base seg imm => exact ldH d base seg imm
  | ldHu d base seg imm => exact ldHu d base seg imm
  | ldW d base seg imm => exact ldW d base seg imm
  | ldWu d base seg imm => exact ldWu d base seg imm
  | ldD d base seg imm => exact ldD d base seg imm
  | stB d base seg imm => exact stB d base seg imm
  | stH d base seg imm => exact stH d base seg imm
  | stW d base seg imm => exact stW d base seg imm
  | stD d base seg imm => exact stD d base seg imm
  | vld d base seg imm => exact vld d base seg imm
  | vst d base seg imm => exact vst d base seg imm
  | ldBIndexed d base idx seg => exact ldBIndexed d base idx seg
  | ldBuIndexed d base idx seg => exact ldBuIndexed d base idx seg
  | ldHIndexed d base idx seg => exact ldHIndexed d base idx seg
  | ldHuIndexed d base idx seg => exact ldHuIndexed d base idx seg
  | ldWIndexed d base idx seg => exact ldWIndexed d base idx seg
  | ldWuIndexed d base idx seg => exact ldWuIndexed d base idx seg
  | ldDIndexed d base idx seg => exact ldDIndexed d base idx seg
  | stBIndexed d base idx seg => exact stBIndexed d base idx seg
  | stHIndexed d base idx seg => exact stHIndexed d base idx seg
  | stWIndexed d base idx seg => exact stWIndexed d base idx seg
  | stDIndexed d base idx seg => exact stDIndexed d base idx seg
  | vldIndexed d base idx seg => exact vldIndexed d base idx seg
  | vstIndexed d base idx seg => exact vstIndexed d base idx seg
  | bwait base seg => exact bwait base seg
  | bhold d base seg => exact bhold d base seg
  | barm base idx seg => exact barm base idx seg
  | bpoll d base seg => exact bpoll d base seg
  | bgen d base seg => exact bgen d base seg
  | bclr base seg => exact bclr base seg
  | bclrG base idx seg => exact bclrG base idx seg
  | bfin base seg => exact bfin base seg
  | amoAddW d base idx seg => exact amoAddW d base idx seg
  | amoAndW d base idx seg => exact amoAndW d base idx seg
  | amoOrW d base idx seg => exact amoOrW d base idx seg
  | amoXorW d base idx seg => exact amoXorW d base idx seg
  | amoMinW d base idx seg => exact amoMinW d base idx seg
  | amoMaxW d base idx seg => exact amoMaxW d base idx seg
  | amoMinuW d base idx seg => exact amoMinuW d base idx seg
  | amoMaxuW d base idx seg => exact amoMaxuW d base idx seg
  | amoSwapW d base idx seg => exact amoSwapW d base idx seg
  | amoCasW d base idx seg => exact amoCasW d base idx seg
  | amoFaddW d base idx seg => exact amoFaddW d base idx seg
  | amoIncW d base idx seg => exact amoIncW d base idx seg
  | amoAddD d base idx seg => exact amoAddD d base idx seg
  | amoAndD d base idx seg => exact amoAndD d base idx seg
  | amoOrD d base idx seg => exact amoOrD d base idx seg
  | amoXorD d base idx seg => exact amoXorD d base idx seg
  | amoMinD d base idx seg => exact amoMinD d base idx seg
  | amoMaxD d base idx seg => exact amoMaxD d base idx seg
  | amoMinuD d base idx seg => exact amoMinuD d base idx seg
  | amoMaxuD d base idx seg => exact amoMaxuD d base idx seg
  | amoSwapD d base idx seg => exact amoSwapD d base idx seg
  | amoCasD d base idx seg => exact amoCasD d base idx seg
  | amoIncD d base idx seg => exact amoIncD d base idx seg
  | fenceAcq s => exact fenceAcq s
  | fenceRel s => exact fenceRel s
  | fenceFull s => exact fenceFull s
  | rlx => exact rlx
  | rep count stride => exact rep count stride
  | cAddi d a i => exact cAddi d a i
  | cLi d i => exact cLi d i
  | cMv d a => exact cMv d a
  | cAdd d a => exact cAdd d a
  | cSub d a => exact cSub d a
  | cAnd d a => exact cAnd d a
  | cSlli d s => exact cSlli d s
  | cSrli d s => exact cSrli d s
  | cBeqz a o => exact cBeqz a o
  | cBnez a o => exact cBnez a o
  | cLdD d a i => exact cLdD d a i
  | cStD d a i => exact cStD d a i
  | cVld d a i => exact cVld d a i
  | cVst d a i => exact cVst d a i
  | cJ o => exact cJ o
  | vadd d a b w => exact vadd d a b w
  | vsub d a b w => exact vsub d a b w
  | vadds d a b w => exact vadds d a b w
  | vaddsu d a b w => exact vaddsu d a b w
  | vsubs d a b w => exact vsubs d a b w
  | vsubsu d a b w => exact vsubsu d a b w
  | vmul d a b w => exact vmul d a b w
  | vmulh d a b w => exact vmulh d a b w
  | vmulhu d a b w => exact vmulhu d a b w
  | vmin d a b w => exact vmin d a b w
  | vminu d a b w => exact vminu d a b w
  | vmax d a b w => exact vmax d a b w
  | vmaxu d a b w => exact vmaxu d a b w
  | vabsd d a b w => exact vabsd d a b w
  | vavgu d a b w => exact vavgu d a b w
  | vand d a b => exact vand d a b
  | vor d a b => exact vor d a b
  | vxor d a b => exact vxor d a b
  | vandn d a b => exact vandn d a b
  | vbsl d a b => exact vbsl d a b
  | vsll d a b w => exact vsll d a b w
  | vsrl d a b w => exact vsrl d a b w
  | vsra d a b w => exact vsra d a b w
  | vslli d a k w => exact vslli d a k w
  | vsrli d a k w => exact vsrli d a k w
  | vsrai d a k w => exact vsrai d a k w
  | vceq d a b w => exact vceq d a b w
  | vcne d a b w => exact vcne d a b w
  | vclt d a b w => exact vclt d a b w
  | vcltu d a b w => exact vcltu d a b w
  | vcle d a b w => exact vcle d a b w
  | vcleu d a b w => exact vcleu d a b w
  | vfceq d a b t => exact vfceq d a b t
  | vfcne d a b t => exact vfcne d a b t
  | vfclt d a b t => exact vfclt d a b t
  | vfcle d a b t => exact vfcle d a b t
  | vfcun d a b t => exact vfcun d a b t
  | vshuf d a b w => exact vshuf d a b w
  | vzipl d a b w => exact vzipl d a b w
  | vziph d a b w => exact vziph d a b w
  | vunzipe d a b w => exact vunzipe d a b w
  | vunzipo d a b w => exact vunzipo d a b w
  | vrev d a w => exact vrev d a w
  | vpacks d a b w => exact vpacks d a b w
  | vpacksu d a b w => exact vpacksu d a b w
  | vwidenl d a w => exact vwidenl d a w
  | vwidenh d a w => exact vwidenh d a w
  | vwidenlu d a w => exact vwidenlu d a w
  | vwidenhu d a w => exact vwidenhu d a w
  | vfadd d a b t => exact vfadd d a b t
  | vfsub d a b t => exact vfsub d a b t
  | vfmul d a b t => exact vfmul d a b t
  | vfmin d a b t => exact vfmin d a b t
  | vfmax d a b t => exact vfmax d a b t
  | vfabs d a t => exact vfabs d a t
  | vfneg d a t => exact vfneg d a t
  | vfround d a t => exact vfround d a t
  | vfma d a b l bc t => exact vfma d a b l bc t
  | vfms d a b l bc t => exact vfms d a b l bc t
  | vcvtF16F32 d a p => exact vcvtF16F32 d a p
  | vcvtBf16F32 d a p => exact vcvtBf16F32 d a p
  | vcvtE4m3F32 d a b p => exact vcvtE4m3F32 d a b p
  | vcvtE5m2F32 d a b p => exact vcvtE5m2F32 d a b p
  | vcvtE2m1F32 d a b p => exact vcvtE2m1F32 d a b p
  | vcvtF16F32Sat d a p => exact vcvtF16F32Sat d a p
  | vcvtBf16F32Sat d a p => exact vcvtBf16F32Sat d a p
  | vcvtE4m3F32Sat d a b p => exact vcvtE4m3F32Sat d a b p
  | vcvtE5m2F32Sat d a b p => exact vcvtE5m2F32Sat d a b p
  | vcvtE2m1F32Sat d a b p => exact vcvtE2m1F32Sat d a b p
  | vcvtF32F16 d a p => exact vcvtF32F16 d a p
  | vcvtF32Bf16 d a p => exact vcvtF32Bf16 d a p
  | vcvtF32E4m3 d a b p => exact vcvtF32E4m3 d a b p
  | vcvtF32E5m2 d a b p => exact vcvtF32E5m2 d a b p
  | vcvtF32E2m1 d a b p => exact vcvtF32E2m1 d a b p
  | vcvtI32F32 d a => exact vcvtI32F32 d a
  | vcvtF32I32 d a => exact vcvtF32I32 d a
  | vrsum d a w => exact vrsum d a w
  | vrsumu d a w => exact vrsumu d a w
  | vrmin d a w => exact vrmin d a w
  | vrminu d a w => exact vrminu d a w
  | vrmax d a w => exact vrmax d a w
  | vrmaxu d a w => exact vrmaxu d a w
  | vfrsum d a t => exact vfrsum d a t
  | vfrmin d a t => exact vfrmin d a t
  | vfrmax d a t => exact vfrmax d a t
  | vmv d a => exact vmv d a
  | vbcst d a w => exact vbcst d a w
  | vins d a l w => exact vins d a l w
  | vextr d a l w => exact vextr d a l w
  | vextru d a l w => exact vextru d a l w
  | vmexp d a w => exact vmexp d a w
  | vfrcp d a => exact vfrcp d a
  | vfrsq d a => exact vfrsq d a
  | vfexp2 d a => exact vfexp2 d a
  | vflog2 d a => exact vflog2 d a
  | vfdiv d a b => exact vfdiv d a b
  | vfsqrt d a => exact vfsqrt d a
  | mxCfg a => exact mxCfg a
  | mxRing a n => exact mxRing a n
  | mxZero acc int => exact mxZero acc int
  | mxMma acc ra rb ka kb ret => exact mxMma acc ra rb ka kb ret
  | mxMma4 ra rb ka kb ret => exact mxMma4 ra rb ka kb ret
  | mxScale a b => exact mxScale a b
  | mxDrain acc a b clr ret => exact mxDrain acc a b clr ret
  | mxLoad acc a b int => exact mxLoad acc a b int
  | mxPush n => exact mxPush n
  | mxPop n => exact mxPop n
  | cpIn d a b ring ret => exact cpIn d a b ring ret
  | cpOut d a b sys ret => exact cpOut d a b sys ret
  | cpDd d a b ret => exact cpDd d a b ret
  | cpGather d a b ring ret => exact cpGather d a b ring ret
  | cpPf a b => exact cpPf a b
  | smBind d a => exact smBind d a
  | smFree d => exact smFree d
  | smSkip d a => exact smSkip d a
  | tbInit a b => exact tbInit a b
  | tbArrive d a => exact tbArrive d a
  | tbWait a b => exact tbWait a b
  | tbTest d a b => exact tbTest d a b
  | winOpen a b w seg => exact winOpen a b w seg
  | winFlush w => exact winFlush w
  | winClose w => exact winClose w
  | winDrop w => exact winDrop w
  | seqCfg a => exact seqCfg a
  | seqStart a => exact seqStart a
  | seqStop => exact seqStop
  | seqRet => exact seqRet
  | spawn d a b => exact spawn d a b
  | exit => exact exit
  | yield => exact yield
  | park d a => exact park d a
  | wake a => exact wake a
  | fuse d a => exact fuse d a
  | split => exact split
  | send a b => exact send a b
  | recv d a => exact recv d a
  | recvp d a => exact recvp d a
  | mig a => exact mig a
  | barInit a n => exact barInit a n
  | barArrive d n => exact barArrive d n
  | barWait a n => exact barWait a n
  | barSync n => exact barSync n
  | wfe => exact wfe
  | sev a => exact sev a
  | csrr d csr => exact csrr d csr
  | csrw x csr => exact csrw x csr
  | csrs x csr => exact csrs x csr
  | csrc x csr => exact csrc x csr
  | trap k => exact trap k
  | brk => exact brk
  | eret => exact eret
  | segw a b c seg => exact segw a b c seg
  | tlbinv a b => exact tlbinv a b
  | scrub a b seg => exact scrub a b seg
  | twinOn d => exact twinOn d
  | twinOff => exact twinOff
  | _ => exact fun _ h => absurd rfl h

end Sys2Proof.Laws.RoundTrip

namespace Sys2Proof

open Machine

/-! ### Bytes, little-endian -/

theorem length_toBytesLE (x n : Nat) : (toBytesLE x n).length = n := by
  induction n generalizing x with
  | zero => rfl
  | succ n ih => rw [toBytesLE, List.length_cons, ih]

/-- The bytes of a number are those of its low part, then those of its high part. -/
theorem toBytesLE_add (x m n : Nat) : toBytesLE x (m + n) = toBytesLE x m ++ toBytesLE (x / 256 ^ m) n := by
  induction m generalizing x with
  | zero => simp only [Nat.zero_add, Nat.pow_zero, Nat.div_one, toBytesLE, List.nil_append]
  | succ m ih => rw [Nat.succ_add, toBytesLE, toBytesLE, ih, List.cons_append, Nat.div_div_eq_div_mul, Nat.pow_succ']

/-- What lies above the bytes does not show in them. -/
theorem toBytesLE_mod (x n : Nat) : toBytesLE (x % 256 ^ n) n = toBytesLE x n := by
  induction n generalizing x with
  | zero => rfl
  | succ n ih =>
    have hlow : BitVec.ofNat 8 (x % 256 ^ (n + 1)) = BitVec.ofNat 8 x := by
      apply BitVec.eq_of_toNat_eq
      rw [BitVec.toNat_ofNat, BitVec.toNat_ofNat, Nat.pow_succ']
      exact Nat.mod_mul_right_mod x 256 _
    rw [toBytesLE, toBytesLE, hlow, Nat.pow_succ', Nat.mod_mul_right_div_self, ih]

/-- Reading the bytes of a number back, with what follows them. -/
theorem ofBytesLE_toBytesLE_append {x n : Nat} (h : x < 256 ^ n) (bs : List Byte) :
    ofBytesLE (toBytesLE x n ++ bs) = x + 256 ^ n * ofBytesLE bs := by
  induction n generalizing x with
  | zero =>
    obtain rfl : x = 0 := by omega
    simp only [toBytesLE, List.nil_append, Nat.pow_zero, Nat.one_mul, Nat.zero_add]
  | succ n ih =>
    have hdiv : x / 256 < 256 ^ n := by rw [Nat.pow_succ] at h; omega
    rw [toBytesLE, List.cons_append, ofBytesLE, ih hdiv, BitVec.toNat_ofNat, Nat.pow_succ' (n := n), Nat.mul_assoc]
    omega

/-! ### An instruction at the start of bytes (R59) -/

theorem halfwords_cases (w : Nat) : w % 2 = 1 ∧ halfwords w = 2 ∨ w % 2 = 0 ∧ halfwords w = 1 := by
  obtain even | odd := Nat.mod_two_eq_zero_or_one w
  · exact .inr ⟨even, halfwords_compact even⟩
  · exact .inl ⟨odd, halfwords_major odd⟩

/-- What follows an instruction's halfwords changes neither their number nor what they decode to. -/
theorem decodeWord_append (w r : Nat) :
    halfwords (w + 256 ^ (2 * halfwords w) * r) = halfwords w ∧
      decodeWord (w + 256 ^ (2 * halfwords w) * r) = decodeWord w := by
  obtain ⟨odd, hn⟩ | ⟨even, hn⟩ := halfwords_cases w
  · have hodd : (w + 256 ^ (2 * 2) * r) % 2 = 1 := by omega
    rw [hn]
    refine ⟨halfwords_major hodd, ?_⟩
    rw [decodeWord, decodeWord, if_pos hodd, if_pos odd, show 256 ^ (2 * 2) = 2 ^ 32 from rfl, Nat.add_mul_mod_self_left]
  · have heven : ¬ (w + 256 ^ (2 * 1) * r) % 2 = 1 := by omega
    rw [hn]
    refine ⟨halfwords_compact (by omega), ?_⟩
    rw [decodeWord, decodeWord, if_neg heven, if_neg (by omega), show 256 ^ (2 * 1) = 2 ^ 16 from rfl,
      Nat.add_mul_mod_self_left]

/-- A word that decodes to an instruction is decoded from its bytes, whatever follows them. -/
theorem decode_toBytesLE_append {w : Nat} {i : Instr} (hi : decodeWord w = some i) (hw : w < 256 ^ (2 * halfwords w))
    (rest : List Byte) : decode (toBytesLE w (2 * halfwords w) ++ rest) = .ok (i, rest) := by
  have hlen : 1 ≤ halfwords w ∧ 2 * halfwords w ≤ 4 := by
    have hcases := halfwords_cases w
    omega
  have htake : (toBytesLE w (2 * halfwords w) ++ rest).take 4 =
      toBytesLE w (2 * halfwords w) ++ rest.take (4 - 2 * halfwords w) := by
    rw [List.take_append, length_toBytesLE, List.take_of_length_le (by rw [length_toBytesLE]; exact hlen.2)]
  obtain ⟨hn, hd⟩ := decodeWord_append w (ofBytesLE (rest.take (4 - 2 * halfwords w)))
  unfold decode
  simp only [htake, ofBytesLE_toBytesLE_append hw, hn, hd, hi, List.length_append, length_toBytesLE]
  rw [if_neg (by omega), List.drop_left' (length_toBytesLE _ _)]

/-- The halfwords of an instruction, each little-endian, are the bytes of its bits. -/
theorem flatMap_encode {i : Instr} (hs : i.size = 1 ∨ i.size = 2) :
    (encode i).flatMap (fun h => toBytesLE h 2) = toBytesLE i.bits (2 * i.size) := by
  unfold encode
  obtain hs | hs := hs
  · simp only [hs, List.flatMap_cons, List.flatMap_nil, List.append_nil, Nat.mul_one]
  · have hlow := toBytesLE_mod i.bits 2
    have hsplit := toBytesLE_add i.bits 2 2
    simp only [Nat.reducePow, Nat.reduceAdd] at hlow hsplit
    simp only [hs, List.flatMap_cons, List.flatMap_nil, List.append_nil, Nat.reducePow, Nat.reduceMul, hlow, hsplit]

/-- Settles O59: the bits of each instruction decode to it (`Laws.RoundTrip.forall_instr`), and its halfwords laid out in memory are the
bytes of these bits, of which `decode` reads as many as bit 0 says. -/
theorem decodeInvertsEncode : Obligations.DecodeInvertsEncode := by
  unfold Obligations.DecodeInvertsEncode
  intro i rest hwf hsize
  obtain ⟨hdec, hhalf, hlt⟩ := Laws.RoundTrip.forall_instr i hwf hsize
  have hs : i.size = 1 ∨ i.size = 2 := by
    have hcases := halfwords_cases i.bits
    omega
  have hbits : i.bits < 256 ^ (2 * halfwords i.bits) := by
    rw [hhalf, show 256 = 2 ^ 8 from rfl, ← Nat.pow_mul, ← Nat.mul_assoc]
    exact hlt
  rw [flatMap_encode hs, ← hhalf]
  exact decode_toBytesLE_append hdec hbits rest

end Sys2Proof

/-! The register-register units and the products (O1): their expressions over words are the values that the rules state. -/

namespace Sys2Proof.Machine

/-! ### Words as numbers and integers modulo a power of two -/

theorem ofNat64_toNat (x : Word) : ofNat64 x.toNat = x :=
  (BitVec.ofNat_toNat 64 x).trans (BitVec.setWidth_eq x)
theorem ofInt64_toInt (x : Word) : ofInt64 x.toInt = x := BitVec.ofInt_toInt

/-- A natural number is the same word whichever way it is taken modulo 2^64. -/
theorem ofInt64_natCast (n : Nat) : ofInt64 (n : Int) = ofNat64 n := BitVec.ofInt_natCast 64 n

theorem low_eq_ofNat (x : Word) : low x = BitVec.ofNat 32 x.toNat := (BitVec.ofNat_toNat 32 x).symm

theorem ofInt_sub_natCast {n : Nat} (a b : Nat) :
    BitVec.ofInt n ((a : Int) - b) = BitVec.ofNat n a - BitVec.ofNat n b := by
  rw [Int.sub_eq_add_neg, BitVec.ofInt_add, BitVec.ofInt_neg, BitVec.ofInt_natCast, BitVec.ofInt_natCast,
    BitVec.sub_eq_add_neg]

theorem natCast_two_pow (k : Nat) : ((2 ^ k : Nat) : Int) = 2 ^ k := Int.natCast_pow 2 k

theorem shiftLeft_eq_ofNat_mul {n : Nat} (x : BitVec n) (k : Nat) : x <<< k = BitVec.ofNat n (x.toNat * 2 ^ k) :=
  congrArg (BitVec.ofNat n) (Nat.shiftLeft_eq x.toNat k)

theorem ushiftRight_eq_ofNat_div {n : Nat} (x : BitVec n) (k : Nat) : x >>> k = BitVec.ofNat n (x.toNat / 2 ^ k) := by
  rw [← Nat.shiftRight_eq_div_pow, ← BitVec.toNat_ushiftRight, BitVec.ofNat_toNat, BitVec.setWidth_eq]

theorem sshiftRight_eq_ofInt_div {n : Nat} (x : BitVec n) (k : Nat) :
    x.sshiftRight k = BitVec.ofInt n (x.toInt / 2 ^ k) := by
  rw [BitVec.sshiftRight, Int.shiftRight_eq_div_pow, natCast_two_pow]

theorem boolWord_decide (p : Prop) [Decidable p] : boolWord (decide p) = if p then 1 else 0 := by
  simp only [boolWord, decide_eq_true_eq]

/-! ### The values of R100: what each unit computes is what the rule says -/

theorem add_eq_ofNat64 (x y : Word) : x + y = ofNat64 (x.toNat + y.toNat) := by
  simp only [ofNat64, BitVec.ofNat_add, BitVec.ofNat_toNat, BitVec.setWidth_eq]

theorem sub_eq_ofInt64 (x y : Word) : x - y = ofInt64 ((x.toNat : Int) - y.toNat) := by
  simp only [ofInt64, ofInt_sub_natCast, BitVec.ofNat_toNat, BitVec.setWidth_eq]

theorem rotateLeft_mod_eq (x : Word) (n : Nat) :
    x.rotateLeft (n % 64) = (x <<< (n % 64)) ||| (x >>> (64 - n % 64)) := by
  rw [BitVec.rotateLeft_def, Nat.mod_mod]

theorem rotateRight_mod_eq (x : Word) (n : Nat) :
    x.rotateRight (n % 64) = (x >>> (n % 64)) ||| (x <<< (64 - n % 64)) := by
  rw [BitVec.rotateRight_def, Nat.mod_mod]

theorem boolWord_slt (x y : Word) : boolWord (x.slt y) = if x.toInt < y.toInt then 1 else 0 := by
  rw [BitVec.slt_eq_decide, boolWord_decide]

theorem boolWord_ult (x y : Word) : boolWord (x.ult y) = if x.toNat < y.toNat then 1 else 0 := by
  rw [BitVec.ult_eq_decide, boolWord_decide]

/-- Of two words the chosen one is the word that stands for its key. -/
theorem ite_eq_word {α : Type} {key : Word → α} {word : α → Word} (h : ∀ x, word (key x) = x) {c : Prop} [Decidable c]
    {x y : Word} {m : α} (hpos : c → m = key y) (hneg : ¬ c → m = key x) : (if c then y else x) = word m := by
  split
  · next hc => rw [hpos hc, h]
  · next hc => rw [hneg hc, h]

theorem ite_slt_eq_min (x y : Word) : (if y.slt x then y else x) = ofInt64 (min x.toInt y.toInt) := by
  simp only [BitVec.slt_eq_decide, decide_eq_true_eq]
  exact ite_eq_word ofInt64_toInt (fun _ => by omega) (fun _ => by omega)

theorem ite_slt_eq_max (x y : Word) : (if x.slt y then y else x) = ofInt64 (max x.toInt y.toInt) := by
  simp only [BitVec.slt_eq_decide, decide_eq_true_eq]
  exact ite_eq_word ofInt64_toInt (fun _ => by omega) (fun _ => by omega)

theorem ite_ult_eq_min (x y : Word) : (if y.ult x then y else x) = ofNat64 (min x.toNat y.toNat) := by
  simp only [BitVec.ult_eq_decide, decide_eq_true_eq]
  exact ite_eq_word ofNat64_toNat (fun _ => by omega) (fun _ => by omega)

theorem ite_ult_eq_max (x y : Word) : (if x.ult y then y else x) = ofNat64 (max x.toNat y.toNat) := by
  simp only [BitVec.ult_eq_decide, decide_eq_true_eq]
  exact ite_eq_word ofNat64_toNat (fun _ => by omega) (fun _ => by omega)

/-! ### The values of the word forms and of the products (R99 to R101) -/

theorem sext32_eq_ofWord {b : BitVec 32} {z : Int} (h : b = BitVec.ofInt 32 z) : sext32 b = ofWord z :=
  congrArg sext32 h

theorem addw_eq_ofWord (x y : Word) : sext32 (low x + low y) = ofWord (x.toNat + y.toNat) := by
  refine sext32_eq_ofWord ?_
  rw [low_eq_ofNat, low_eq_ofNat, BitVec.ofInt_add, BitVec.ofInt_natCast, BitVec.ofInt_natCast]

theorem subw_eq_ofWord (x y : Word) : sext32 (low x - low y) = ofWord ((x.toNat : Int) - y.toNat) := by
  refine sext32_eq_ofWord ?_
  rw [low_eq_ofNat, low_eq_ofNat, ofInt_sub_natCast]

theorem mulw_eq_ofWord (x y : Word) : sext32 (low x * low y) = ofWord (x.toNat * y.toNat) := by
  refine sext32_eq_ofWord ?_
  rw [low_eq_ofNat, low_eq_ofNat, BitVec.ofInt_mul, BitVec.ofInt_natCast, BitVec.ofInt_natCast]

/-- Shifting the low half left is shifting the whole number and taking the low half of that. -/
theorem sllw_eq_ofWord (x : Word) (k : Nat) : sext32 (low x <<< k) = ofWord (x.toNat * 2 ^ k) := by
  refine sext32_eq_ofWord ?_
  have h : ((x.toNat : Int) * 2 ^ k) = ((x.toNat * 2 ^ k : Nat) : Int) := by
    rw [Int.natCast_mul, natCast_two_pow]
  rw [h, BitVec.ofInt_natCast, shiftLeft_eq_ofNat_mul, BitVec.ofNat_mul, BitVec.ofNat_mul, BitVec.ofNat_toNat,
    BitVec.ofNat_toNat, BitVec.setWidth_eq, low]

theorem srlw_eq_ofWord (x : Word) (k : Nat) : sext32 (low x >>> k) = ofWord (x.toNat % 2 ^ 32 / 2 ^ k) := by
  refine sext32_eq_ofWord ?_
  have h : ((x.toNat : Int) % 2 ^ 32 / 2 ^ k) = ((x.toNat % 2 ^ 32 / 2 ^ k : Nat) : Int) := by
    rw [Int.natCast_ediv, Int.natCast_emod, natCast_two_pow, natCast_two_pow]
  rw [h, BitVec.ofInt_natCast, ushiftRight_eq_ofNat_div, low, BitVec.toNat_setWidth]

theorem sraw_eq_ofWord (x : Word) (k : Nat) :
    sext32 ((low x).sshiftRight k) = ofWord ((x.setWidth 32).toInt / 2 ^ k) :=
  sext32_eq_ofWord (sshiftRight_eq_ofInt_div (low x) k)

theorem mul_eq_ofNat64 (x y : Word) : x * y = ofNat64 (x.toNat * y.toNat % 2 ^ 64) := by
  rw [← BitVec.toNat_mul, ofNat64_toNat]

theorem highProduct_toNat (x y : Word) : highProduct x.toNat y.toNat = ofNat64 (x.toNat * y.toNat / 2 ^ 64) := by
  rw [highProduct, ← ofInt64_natCast, ofInt64, Int.natCast_ediv, Int.natCast_mul, natCast_two_pow]

/-! ### The units -/

/-- A unit of two scalar sources that computes `f`, by whatever expression `g`, delivers `f`. -/
theorem completes2_of_unitS2 {i : Instr} {d a b : RegField} {delay : Nat} {f g : Word → Word → Word}
    (hv : ∀ x y, g x y = f x y) (hi : ∀ s, exec i s = s.unitS2 d a b delay g) : completes2 i d a b delay f := by
  obtain rfl : g = f := funext fun x => funext fun y => hv x y
  intro s s1 x y hu hr hc hp ht
  rw [hi]
  exact completes2_unitS2 d a b delay g s s1 x y hu hr hc hp ht

/-- Settles O1: every unit is one of two scalar sources (`State.unitS2`), and its value is the one that R100 and R101 state. -/
theorem scalarTwoSources : Obligations.ScalarTwoSources := by
  unfold Obligations.ScalarTwoSources
  refine ⟨fun d a b => ?_, fun d a b => ?_, fun d a => ⟨?_, ?_, ?_⟩⟩
  · simp only [List.forall_mem_cons]
    exact
      ⟨completes2_of_unitS2 add_eq_ofNat64 fun _ => rfl,
       completes2_of_unitS2 sub_eq_ofInt64 fun _ => rfl,
       completes2_of_unitS2 (fun _ _ => rfl) fun _ => rfl,
       completes2_of_unitS2 (fun _ _ => rfl) fun _ => rfl,
       completes2_of_unitS2 (fun _ _ => rfl) fun _ => rfl,
       completes2_of_unitS2 (fun _ _ => rfl) fun _ => rfl,
       completes2_of_unitS2 (fun _ _ => rfl) fun _ => rfl,
       completes2_of_unitS2 (fun x y => shiftLeft_eq_ofNat_mul x (y.toNat % 64)) fun _ => rfl,
       completes2_of_unitS2 (fun x y => ushiftRight_eq_ofNat_div x (y.toNat % 64)) fun _ => rfl,
       completes2_of_unitS2 (fun x y => sshiftRight_eq_ofInt_div x (y.toNat % 64)) fun _ => rfl,
       completes2_of_unitS2 (fun x y => rotateLeft_mod_eq x y.toNat) fun _ => rfl,
       completes2_of_unitS2 (fun x y => rotateRight_mod_eq x y.toNat) fun _ => rfl,
       completes2_of_unitS2 boolWord_slt fun _ => rfl,
       completes2_of_unitS2 boolWord_ult fun _ => rfl,
       completes2_of_unitS2 ite_slt_eq_min fun _ => rfl,
       completes2_of_unitS2 ite_slt_eq_max fun _ => rfl,
       completes2_of_unitS2 ite_ult_eq_min fun _ => rfl,
       completes2_of_unitS2 ite_ult_eq_max fun _ => rfl,
       List.forall_mem_nil _⟩
  · simp only [List.forall_mem_cons]
    exact
      ⟨completes2_of_unitS2 addw_eq_ofWord fun _ => rfl,
       completes2_of_unitS2 subw_eq_ofWord fun _ => rfl,
       completes2_of_unitS2 (fun x y => sllw_eq_ofWord x (y.toNat % 32)) fun _ => rfl,
       completes2_of_unitS2 (fun x y => srlw_eq_ofWord x (y.toNat % 32)) fun _ => rfl,
       completes2_of_unitS2 (fun x y => sraw_eq_ofWord x (y.toNat % 32)) fun _ => rfl,
       completes2_of_unitS2 mul_eq_ofNat64 fun _ => rfl,
       completes2_of_unitS2 (fun _ _ => rfl) fun _ => rfl,
       completes2_of_unitS2 highProduct_toNat fun _ => rfl,
       completes2_of_unitS2 (fun _ _ => rfl) fun _ => rfl,
       completes2_of_unitS2 mulw_eq_ofWord fun _ => rfl,
       List.forall_mem_nil _⟩
  · exact completes2_of_unitS2 add_eq_ofNat64 fun _ => rfl
  · exact completes2_of_unitS2 sub_eq_ofInt64 fun _ => rfl
  · exact completes2_of_unitS2 (fun _ _ => rfl) fun _ => rfl

end Sys2Proof.Machine

/-! The immediate forms (O2): units of one scalar source, or of none, and the word shifts that are no instructions. -/

namespace Sys2Proof.Machine

/-! ### The values of R105 and R106 -/

theorem toInt_imm13 (i : BitVec 13) : (imm13 i).toInt = i.toInt := BitVec.toInt_signExtend_of_le (by decide)

theorem low_eq_ofInt (x : Word) : low x = BitVec.ofInt 32 x.toInt :=
  (BitVec.signExtend_eq_setWidth_of_le x (by decide)).symm

theorem add_signExtend_eq_ofInt64 {n : Nat} (x : Word) (i : BitVec n) :
    x + i.signExtend 64 = ofInt64 (x.toInt + i.toInt) := by
  rw [ofInt64, BitVec.ofInt_add, BitVec.ofInt_toInt, BitVec.signExtend]

theorem boolWord_slt_imm13 (x : Word) (i : BitVec 13) :
    boolWord (x.slt (imm13 i)) = if x.toInt < i.toInt then 1 else 0 := by
  rw [boolWord_slt, toInt_imm13]

theorem addiw_eq_ofWord (x : Word) (i : BitVec 13) : sext32 (low x + low (imm13 i)) = ofWord (x.toInt + i.toInt) :=
  sext32_eq_ofWord <| by rw [low_eq_ofInt, low_eq_ofInt, toInt_imm13, BitVec.ofInt_add]

theorem upper19_eq_ofInt64 (i : BitVec 19) : upper19 i = ofInt64 (i.toInt * 2 ^ 13) := by
  rw [upper19, BitVec.shiftLeft_eq_mul_twoPow, ofInt64, BitVec.ofInt_mul, BitVec.signExtend]
  rfl

theorem lpc_eq_ofInt64 (p : BitVec 57) (i : BitVec 19) :
    p.setWidth 64 + upper19 i = ofInt64 (p.toNat + i.toInt * 2 ^ 13) := by
  rw [upper19_eq_ofInt64, ofInt64, ofInt64, BitVec.ofInt_add, BitVec.ofInt_natCast, BitVec.ofNat_toNat]

/-! ### The units -/

/-- A unit of one scalar source that computes `f`, by whatever expression `g`, delivers `f`. -/
theorem completes1_of_unitS1 {i : Instr} {d a : RegField} {delay : Nat} {f g : Word → Word}
    (hv : ∀ x, g x = f x) (hi : ∀ s, exec i s = s.unitS1 d a delay g) : completes1 i d a delay f := by
  obtain rfl : g = f := funext hv
  intro s s1 x hu hr hc hp ht
  rw [hi]
  exact completes1_unitS1 d a delay g s s1 x hu hr hc hp ht

/-- A unit without a source that computes `f`, by whatever expression `g`, delivers `f`. -/
theorem completes0_of_unitS0 {i : Instr} {d : RegField} {f g : State → Word} (hv : ∀ s, g s = f s)
    (hi : ∀ s, exec i s = s.unitS0 d (g s)) : completes0 i d f := by
  obtain rfl : g = f := funext hv
  intro s hu hp ht
  rw [hi]
  exact completes0_unitS0 d (g s) s hu hp ht

/-! ### Word shifts by more than 31 -/

/-- What lies above a word's 32 bits does not show in a field of them. -/
theorem field_mod {lo n m : Nat} (h : lo + n ≤ m) (w : Nat) : field (w % 2 ^ m) lo n = field w lo n := by
  rw [← field_pack_low h (r := w / 2 ^ m), Nat.mod_add_div]

/-- Bits [31:26] of a word shift are 3 to 5: with bit 24 set bits [31:25] and [31:24] are no code of major 0x09. -/
theorem decodeShiftImm_eq_none {w : Nat} (h3 : 3 ≤ field w 26 6) (h5 : field w 26 6 ≤ 5) (h24 : bitAt w 24 = true) :
    decodeShiftImm w = none := by
  simp only [field, Nat.reducePow, bitAt, beq_iff_eq] at h3 h5 h24
  have not_long : ∀ k, k ≤ 4 → ¬ field w 25 7 = k := by
    intro k hk
    simp only [field, Nat.reducePow]
    omega
  have not_word : ∀ k, k % 2 = 0 → ¬ field w 24 8 = k := by
    intro k hk
    simp only [field, Nat.reducePow]
    omega
  rw [decodeShiftImm, if_neg (not_long 0 (by decide)), if_neg (not_long 2 (by decide)), if_neg (not_long 4 (by decide)),
    if_neg (not_word 12 rfl), if_neg (not_word 16 rfl), if_neg (not_word 20 rfl)]

theorem bitAt_mod {i m : Nat} (h : i < m) (w : Nat) : bitAt (w % 2 ^ m) i = bitAt w i := by
  have h1 := field_mod (lo := i) (n := 1) h w
  simp only [field, Nat.pow_one] at h1
  simp only [bitAt, h1]

/-- A 32-bit word is decoded from its low 32 bits, by its major. -/
theorem decodeWord_eq_none {w : Nat} (odd : w % 2 = 1) (h : decodeMajor (w % 2 ^ 32) = none) : decodeWord w = none := by
  rw [decodeWord, if_pos odd, h]
  rfl

theorem illegalWhere_wordShift :
    illegalWhere 0x09 fun w => 3 ≤ field w 26 6 ∧ field w 26 6 ≤ 5 ∧ bitAt w 24 = true := by
  rintro w odd major ⟨h3, h5, h24⟩
  apply decodeWord_eq_none odd
  rw [decodeMajor_shiftimm (by rw [field_mod (by decide), major])]
  apply decodeShiftImm_eq_none
  · rwa [field_mod (by decide)]
  · rwa [field_mod (by decide)]
  · rwa [bitAt_mod (by decide)]

/-- Settles O2: every unit is one of one scalar source (`State.unitS1`) or of none (`State.unitS0`), and its value is the one that
R105 and R106 state; the decoder knows no word shift with shift bit 5 set. -/
theorem scalarImmediates : Obligations.ScalarImmediates := by
  unfold Obligations.ScalarImmediates
  refine ⟨⟨fun d a i => ?_, fun d a n => ?_, fun d a n => ?_, fun d a => ⟨fun i => ?_, ?_⟩, fun d n => ⟨?_, ?_⟩,
    fun d i => ⟨?_, ?_⟩, fun d i => ?_⟩, illegalWhere_wordShift⟩
  · simp only [List.forall_mem_cons]
    exact
      ⟨completes1_of_unitS1 (fun x => add_signExtend_eq_ofInt64 x i) fun _ => rfl,
       completes1_of_unitS1 (fun _ => rfl) fun _ => rfl,
       completes1_of_unitS1 (fun _ => rfl) fun _ => rfl,
       completes1_of_unitS1 (fun _ => rfl) fun _ => rfl,
       completes1_of_unitS1 (fun x => boolWord_slt_imm13 x i) fun _ => rfl,
       completes1_of_unitS1 (fun x => boolWord_ult x (imm13 i)) fun _ => rfl,
       completes1_of_unitS1 (fun x => addiw_eq_ofWord x i) fun _ => rfl,
       List.forall_mem_nil _⟩
  · simp only [List.forall_mem_cons]
    exact
      ⟨completes1_of_unitS1 (fun x => shiftLeft_eq_ofNat_mul x n.toNat) fun _ => rfl,
       completes1_of_unitS1 (fun x => ushiftRight_eq_ofNat_div x n.toNat) fun _ => rfl,
       completes1_of_unitS1 (fun x => sshiftRight_eq_ofInt_div x n.toNat) fun _ => rfl,
       List.forall_mem_nil _⟩
  · simp only [List.forall_mem_cons]
    exact
      ⟨completes1_of_unitS1 (fun x => sllw_eq_ofWord x n.toNat) fun _ => rfl,
       completes1_of_unitS1 (fun x => srlw_eq_ofWord x n.toNat) fun _ => rfl,
       completes1_of_unitS1 (fun x => sraw_eq_ofWord x n.toNat) fun _ => rfl,
       List.forall_mem_nil _⟩
  · exact completes1_of_unitS1 (fun x => add_signExtend_eq_ofInt64 x i) fun _ => rfl
  · exact completes1_of_unitS1 (fun _ => rfl) fun _ => rfl
  · exact completes1_of_unitS1 (fun x => shiftLeft_eq_ofNat_mul x n.toNat) fun _ => rfl
  · exact completes1_of_unitS1 (fun x => ushiftRight_eq_ofNat_div x n.toNat) fun _ => rfl
  · exact completes0_of_unitS0 (fun _ => upper19_eq_ofInt64 i) fun _ => rfl
  · exact completes0_of_unitS0 (fun s => lpc_eq_ofInt64 s.me.iss.ipc i) fun _ => rfl
  · exact completes0_of_unitS0 (fun _ => rfl) fun _ => rfl

end Sys2Proof.Machine

/-! The bit operations, field extraction and insertion, and the conditional move (O3). -/

namespace Sys2Proof.Machine

/-! ### Bits of numbers -/

theorem bitAt_toNat {n : Nat} (x : BitVec n) (i : Nat) : bitAt x.toNat i = x.getLsbD i := by
  rw [bitAt, BitVec.getLsbD, Nat.testBit_eq_decide_div_mod_eq]
  rfl

/-- Bit `i + 1` of a number is bit `i` of its half. -/
theorem bitAt_succ (x i : Nat) : bitAt x (i + 1) = bitAt (x / 2) i := by
  rw [bitAt, bitAt, Nat.pow_succ', Nat.div_div_eq_div_mul]

theorem bitAt_zero (x : Nat) : bitAt x 0 = (x % 2 == 1) := by
  rw [bitAt, Nat.pow_zero, Nat.div_one]

/-- The value of a bit. -/
theorem ite_bitAt (x i m : Nat) : (if bitAt x i then m else 0) = x / 2 ^ i % 2 * m := by
  obtain h | h := Nat.mod_two_eq_zero_or_one (x / 2 ^ i) <;> simp [bitAt, h]

/-! ### Counting bits (R103) -/

theorem popCount_eq_countP (x n : Nat) : popCount x n = (List.range n).countP fun i => bitAt x i := by
  induction n generalizing x with
  | zero => rfl
  | succ n ih =>
    have hrest : ((fun i => bitAt x i) ∘ Nat.succ) = fun i => bitAt (x / 2) i := funext (bitAt_succ x)
    rw [popCount, ih, List.range_succ_eq_map, List.countP_cons, List.countP_map, hrest, bitAt_zero, Nat.add_comm]
    obtain h | h := Nat.mod_two_eq_zero_or_one x <;> simp [h]

theorem leadingZeros_toNat (x : Word) : leadingZeros x.toNat = if x = 0 then 64 else 63 - x.toNat.log2 := by
  have hx : x.toNat = 0 ↔ x = 0 := (BitVec.toNat_eq (x := x) (y := 0)).symm
  simp only [leadingZeros, hx]

theorem trailingZeros_eq_find (x n : Nat) :
    trailingZeros x n = ((List.range n).find? fun i => bitAt x i).getD n := by
  induction n generalizing x with
  | zero => rfl
  | succ n ih =>
    have hrest : ((fun i => bitAt x i) ∘ Nat.succ) = fun i => bitAt (x / 2) i := funext (bitAt_succ x)
    rw [trailingZeros, List.range_succ_eq_map, List.find?_cons, bitAt_zero, List.find?_map, hrest]
    by_cases h : x % 2 = 1
    · simp [h]
    · rw [if_neg h, ih, beq_false_of_ne h]
      cases (List.range n).find? fun i => bitAt (x / 2) i with
      | none => simp [Nat.add_comm]
      | some k => simp [Nat.add_comm]

/-! ### Digits in reverse order (R103) -/

/-- What takes a number's lowest digit to the top, and then the rest, lays out its digits in reverse order. -/
theorem eq_sum_reversed {f : Nat → Nat → Nat} {b : Nat} (zero : ∀ x, f x 0 = 0)
    (succ : ∀ x n, f x (n + 1) = x % b * b ^ n + f (x / b) n) (x n : Nat) :
    f x n = ((List.range n).map fun k => x / b ^ (n - 1 - k) % b * b ^ k).sum := by
  induction n generalizing x with
  | zero => exact zero x
  | succ n ih =>
    have hrest : ∀ k ∈ List.range n, x / b ^ (n + 1 - 1 - k) % b * b ^ k = x / b / b ^ (n - 1 - k) % b * b ^ k := by
      intro k hk
      have hlt := List.mem_range.1 hk
      rw [Nat.div_div_eq_div_mul, ← Nat.pow_succ', show (n - 1 - k).succ = n + 1 - 1 - k by omega]
    rw [succ, ih, List.range_succ, List.map_append, List.sum_append, List.map_congr_left hrest, Nat.add_comm]
    simp

theorem reverseBits_eq_sum (x n : Nat) :
    reverseBits x n = ((List.range n).map fun i => if bitAt x (n - 1 - i) then 2 ^ i else 0).sum := by
  simp only [ite_bitAt]
  exact eq_sum_reversed (fun _ => rfl) (fun _ _ => rfl) x n

theorem ofBytesLE_append_singleton (bs : List Byte) (b : Byte) :
    ofBytesLE (bs ++ [b]) = b.toNat * 256 ^ bs.length + ofBytesLE bs := by
  induction bs with
  | nil => simp [ofBytesLE]
  | cons c cs ih =>
    rw [List.cons_append, ofBytesLE, ih, ofBytesLE, List.length_cons, Nat.pow_succ', Nat.mul_add, Nat.mul_left_comm]
    exact Nat.add_left_comm _ _ _

/-- The bytes of a number read in reverse order are its digits to base 256 in reverse order. -/
theorem ofBytesLE_reverse_eq_sum (x n : Nat) :
    ofBytesLE (toBytesLE x n).reverse = ((List.range n).map fun k => x / 256 ^ (n - 1 - k) % 256 * 256 ^ k).sum := by
  refine eq_sum_reversed (f := fun x n => ofBytesLE (toBytesLE x n).reverse) (fun _ => rfl) (fun x n => ?_) x n
  rw [toBytesLE, List.reverse_cons, ofBytesLE_append_singleton, List.length_reverse, length_toBytesLE, BitVec.toNat_ofNat]

theorem swapBytes_eq_ofNat64 (x : Word) :
    swapBytes x = ofNat64 (((List.range 8).map fun k => field x.toNat (8 * (7 - k)) 8 * 2 ^ (8 * k)).sum) := by
  have hdigit : ∀ k, x.toNat / 256 ^ (7 - k) % 256 * 256 ^ k = field x.toNat (8 * (7 - k)) 8 * 2 ^ (8 * k) := fun k =>
    congr (congrArg (fun p q => x.toNat / p % 256 * q) (Nat.pow_mul 2 8 (7 - k)).symm) (Nat.pow_mul 2 8 k).symm
  exact congrArg ofNat64
    ((ofBytesLE_reverse_eq_sum x.toNat 8).trans (congrArg List.sum (List.map_congr_left fun k _ => hdigit k)))

/-! ### Sign and zero extension, the lowest 1 bit, masks (R103) -/

theorem toInt_eq_signed {n : Nat} (x : BitVec (n + 1)) : x.toInt = signed (n + 1) x.toNat := by
  rw [BitVec.toInt_eq_toNat_cond, signed, Nat.add_sub_cancel, Nat.pow_succ]
  have h : 2 * x.toNat < 2 ^ n * 2 ↔ x.toNat < 2 ^ n := by omega
  simp only [h, Int.pow_succ]
  push_cast
  rfl

theorem signExtend_setWidth_eq_ofInt64 (n : Nat) (x : Word) :
    (x.setWidth (n + 1)).signExtend 64 = ofInt64 (signed (n + 1) (x.toNat % 2 ^ (n + 1))) := by
  rw [BitVec.signExtend, toInt_eq_signed, BitVec.toNat_setWidth, ofInt64]

theorem setWidth_setWidth_eq_ofNat64 (n : Nat) (x : Word) : (x.setWidth n).setWidth 64 = ofNat64 (x.toNat % 2 ^ n) := by
  rw [← BitVec.toNat_setWidth, ofNat64, BitVec.ofNat_toNat]

theorem neg_eq_ofInt64 (x : Word) : -x = ofInt64 (-(x.toNat : Int)) := by
  rw [ofInt64, BitVec.ofInt_neg, BitVec.ofInt_natCast, BitVec.ofNat_toNat, BitVec.setWidth_eq]

theorem maskWord_eq_ite (n : Nat) : maskWord n = if n < 64 then ofNat64 (2 ^ n - 1) else BitVec.allOnes 64 := by
  rw [maskWord, ofNat64]
  by_cases h : n < 64
  · rw [if_pos h, if_neg (by omega)]
  · rw [if_neg h, if_pos (by omega)]

theorem getLsbD_maskWord (n i : Nat) : (maskWord n).getLsbD i = (decide (i < 64) && decide (i < n)) := by
  rw [maskWord]
  split
  · next h =>
    rw [BitVec.getLsbD_allOnes]
    by_cases hi : i < 64
    · simp [hi, show i < n by omega]
    · simp [hi]
  · rw [BitVec.getLsbD_ofNat, Nat.testBit_two_pow_sub_one]

/-! ### Fields (R104) -/

theorem field_lt (x lo n : Nat) : field x lo n < 2 ^ n := Nat.mod_lt _ (Nat.two_pow_pos n)

theorem extractField_eq_ofNat64 (x y : Word) :
    extractField x y = ofNat64 (x.toNat / 2 ^ field y.toNat 0 6 % 2 ^ (field y.toNat 6 6 + 1)) := by
  apply BitVec.eq_of_getLsbD_eq
  intro i hi
  rw [extractField, fieldPos, fieldLen, BitVec.getLsbD_and, BitVec.getLsbD_ushiftRight, getLsbD_maskWord, ofNat64,
    BitVec.getLsbD_ofNat, Nat.testBit_mod_two_pow, ← Nat.shiftRight_eq_div_pow, Nat.testBit_shiftRight, BitVec.getLsbD]
  simp only [hi, decide_true, Bool.true_and, Bool.and_comm]

/-- Within the field the bits of an insertion are those of the source, outside of it those of the old value. -/
theorem getLsbD_insertField (d x y : Word) {i : Nat} (hi : i < 64) :
    (insertField d x y).getLsbD i =
      if field y.toNat 0 6 ≤ i ∧ i ≤ field y.toNat 0 6 + field y.toNat 6 6 then x.getLsbD (i - field y.toNat 0 6)
      else d.getLsbD i := by
  rw [insertField, fieldPos, fieldLen]
  generalize field y.toNat 0 6 = pos
  generalize field y.toNat 6 6 = len
  simp only [BitVec.getLsbD_or, BitVec.getLsbD_and, BitVec.getLsbD_not, BitVec.getLsbD_shiftLeft, getLsbD_maskWord, hi,
    decide_true, Bool.true_and]
  by_cases below : i < pos
  · simp [below, show ¬ pos ≤ i by omega]
  · by_cases inside : i ≤ pos + len
    · simp [below, show pos ≤ i by omega, inside, show i - pos < 64 by omega, show i - pos < len + 1 by omega]
    · simp [below, inside, show ¬ i - pos < len + 1 by omega]

/-- A descriptor made from a position and a length names them. -/
theorem field_descriptor {pos len : Nat} (hp : pos < 64) (h1 : 1 ≤ len) (h64 : len ≤ 64) :
    field (pos + 64 * (len - 1)) 0 6 = pos ∧ field (pos + 64 * (len - 1)) 6 6 + 1 = len := by
  simp only [field, Nat.reducePow]
  omega

/-! ### The units -/

/-- `bins`: the old `d` is read behind the sources (R96). -/
theorem exec_bins {d a b : RegField} {s s1 : State} {x y : Word} (hu : s.usable [sreg a, sreg b, sreg d])
    (hr : s.read2 a b = .go (x, y, s1)) (hd : s.sound s.cur (sreg d) = .go ()) (hc : s1.cur = s.cur)
    (hp : s1.plain s.cur) (ht : s1.takes d (insertField (s.oldS s.cur d) x y)) :
    exec (.bins d a b) s = .next (s1.wrote d (insertField (s.oldS s.cur d) x y) 2) := by
  change execBins d a b s = _
  rw [execBins, State.unit_of_usable hu, hr]
  simp only [Gate.next_go, hd]
  generalize insertField (s.oldS s.cur d) x y = r at ht ⊢
  rw [← hc] at hp ⊢
  rw [State.putS_complete hp ht, State.finish_go]

/-- `cmov` with a condition other than 0 is a move of its first source (R100). -/
theorem exec_cmov_of_ne {d a b : RegField} {s s1 : State} {x y : Word} (hu : s.usable [sreg a, sreg b, sreg d])
    (hr : s.read2 a b = .go (x, y, s1)) (hd : s.sound s.cur (sreg d) = .go ()) (hc : s1.cur = s.cur)
    (hp : s1.plain s.cur) (hy : y ≠ 0) (ht : s1.takes d x) : exec (.cmov d a b) s = .next (s1.wrote d x 2) := by
  change execCmov d a b s = _
  rw [execCmov, State.unit_of_usable hu, hr]
  simp only [Gate.next_go, hd, if_neg hy]
  rw [← hc] at hp ⊢
  rw [State.putS_complete hp ht, State.finish_go]

/-- `cmov` with condition 0 writes and pushes nothing (R446). -/
theorem exec_cmov_zero {d a b : RegField} {s s1 : State} {x : Word} (hu : s.usable [sreg a, sreg b, sreg d])
    (hr : s.read2 a b = .go (x, 0, s1)) (hd : s.sound s.cur (sreg d) = .go ()) (hc : s1.cur = s.cur)
    (hp : s1.plain s.cur) : exec (.cmov d a b) s = .next s1.done := by
  change execCmov d a b s = _
  rw [execCmov, State.unit_of_usable hu, hr]
  simp only [Gate.next_go, hd, if_true, State.finish_go]
  rw [State.complete_of_untwinned hp.1, State.done, hc]

/-- Settles O3: the unary operations by their values, the insertion bit by bit (`getLsbD_insertField`), the conditional move by
its condition. -/
theorem bitOperations : Obligations.BitOperations := by
  unfold Obligations.BitOperations
  refine ⟨⟨fun d a => ?_, fun d a b => ?_, ?_⟩, ?_, by decide, by decide, fun pos len => field_descriptor⟩
  · simp only [List.forall_mem_cons]
    exact
      ⟨completes1_of_unitS1 (fun x => congrArg ofNat64 (popCount_eq_countP x.toNat 64)) fun _ => rfl,
       completes1_of_unitS1 (fun x => congrArg ofNat64 (leadingZeros_toNat x)) fun _ => rfl,
       completes1_of_unitS1 (fun x => congrArg ofNat64 (trailingZeros_eq_find x.toNat 64)) fun _ => rfl,
       completes1_of_unitS1 (fun x => congrArg ofNat64 (reverseBits_eq_sum x.toNat 64)) fun _ => rfl,
       completes1_of_unitS1 swapBytes_eq_ofNat64 fun _ => rfl,
       completes1_of_unitS1 (signExtend_setWidth_eq_ofInt64 7) fun _ => rfl,
       completes1_of_unitS1 (signExtend_setWidth_eq_ofInt64 15) fun _ => rfl,
       completes1_of_unitS1 (signExtend_setWidth_eq_ofInt64 31) fun _ => rfl,
       completes1_of_unitS1 (setWidth_setWidth_eq_ofNat64 8) fun _ => rfl,
       completes1_of_unitS1 (setWidth_setWidth_eq_ofNat64 16) fun _ => rfl,
       completes1_of_unitS1 (setWidth_setWidth_eq_ofNat64 32) fun _ => rfl,
       completes1_of_unitS1 (fun x => congrArg (x &&& ·) (neg_eq_ofInt64 x)) fun _ => rfl,
       completes1_of_unitS1 (fun x => maskWord_eq_ite x.toNat) fun _ => rfl,
       List.forall_mem_nil _⟩
  · exact completes2_of_unitS2 extractField_eq_ofNat64 fun _ => rfl
  · intro d a b s s1 x y r hu hr hd hc hp ht bits
    obtain rfl : r = insertField (s.oldS s.cur d) x y :=
      BitVec.eq_of_getLsbD_eq fun i hi => (bits i hi).trans (getLsbD_insertField _ x y hi).symm
    exact exec_bins hu hr hd hc hp ht
  · intro d a b s s1 x y hu hr hd hc hp
    refine ⟨exec_cmov_of_ne hu hr hd hc hp, fun hy => ?_⟩
    subst hy
    exact exec_cmov_zero hu hr hd hc hp

end Sys2Proof.Machine

/-! The divisions (O4, O5): quotient and remainder rounded toward zero, the table's corners, and the write that falls due. -/

namespace Sys2Proof.Machine

/-! ### Quotient and remainder (R101) -/

/-- The rule's quotient and remainder are those of the division rounded toward zero. -/
theorem isQuotient.eq_tdiv_tmod {x y q r : Int} (hy : y ≠ 0) (h : isQuotient x y q r) :
    x.tdiv y = q ∧ x.tmod y = r := by
  obtain ⟨hx, hlt, hsign⟩ := h
  have hsum : r + y * q = x := by rw [hx, Int.mul_comm, Int.add_comm]
  obtain hpos | hneg := Int.lt_or_le 0 x
  · exact (Int.tdiv_tmod_unique (Int.le_of_lt hpos) hy).2 ⟨hsum, by omega, by omega⟩
  · exact (Int.tdiv_tmod_unique' hneg hy).2 ⟨hsum, by omega, by omega⟩

theorem toInt_ne_zero {n : Nat} {y : BitVec n} (hy : y ≠ 0) : y.toInt ≠ 0 :=
  fun h => hy (BitVec.eq_of_toInt_eq (h.trans BitVec.toInt_zero.symm))

theorem divSigned_zero {n : Nat} (x : BitVec n) : divSigned n x 0 = BitVec.allOnes n := if_pos rfl
theorem remSigned_zero {n : Nat} (x : BitVec n) : remSigned n x 0 = x := if_pos rfl
theorem divUnsigned_zero (x : Word) : divUnsigned x 0 = BitVec.allOnes 64 := if_pos rfl
theorem remUnsigned_zero (x : Word) : remUnsigned x 0 = x := if_pos rfl

theorem divSigned_eq_ofInt {n : Nat} {x y : BitVec n} {q r : Int} (hy : y ≠ 0) (h : isQuotient x.toInt y.toInt q r) :
    divSigned n x y = BitVec.ofInt n q := by
  rw [divSigned, if_neg hy, (h.eq_tdiv_tmod (toInt_ne_zero hy)).1]

theorem remSigned_eq_ofInt {n : Nat} {x y : BitVec n} {q r : Int} (hy : y ≠ 0) (h : isQuotient x.toInt y.toInt q r) :
    remSigned n x y = BitVec.ofInt n r := by
  rw [remSigned, if_neg hy, (h.eq_tdiv_tmod (toInt_ne_zero hy)).2]

theorem natCast_toNat_ne_zero {y : Word} (hy : y ≠ 0) : (y.toNat : Int) ≠ 0 :=
  fun h => hy (BitVec.eq_of_toNat_eq (Int.ofNat_inj.1 h))

theorem divUnsigned_eq_ofInt64 {x y : Word} {q r : Int} (hy : y ≠ 0) (h : isQuotient x.toNat y.toNat q r) :
    divUnsigned x y = ofInt64 q := by
  rw [divUnsigned, if_neg hy, ← (h.eq_tdiv_tmod (natCast_toNat_ne_zero hy)).1, ← Int.ofNat_tdiv, ofInt64_natCast,
    ← BitVec.toNat_udiv, ofNat64_toNat]

theorem remUnsigned_eq_ofInt64 {x y : Word} {q r : Int} (hy : y ≠ 0) (h : isQuotient x.toNat y.toNat q r) :
    remUnsigned x y = ofInt64 r := by
  rw [remUnsigned, if_neg hy, ← (h.eq_tdiv_tmod (natCast_toNat_ne_zero hy)).2, ← Int.ofNat_tmod, ofInt64_natCast,
    ← BitVec.toNat_umod, ofNat64_toNat]

/-! ### The word forms (R99) -/

theorem low_eq_zero_iff (y : Word) : low y = 0 ↔ y.toNat % 2 ^ 32 = 0 := by
  rw [← BitVec.toNat_setWidth]
  exact BitVec.toNat_eq

theorem sext32_low (x : Word) : sext32 (low x) = ofWord x.toNat :=
  sext32_eq_ofWord <| by rw [low_eq_ofNat, BitVec.ofInt_natCast]

/-! ### The units -/

/-- A division whose value is the one that `p` names issues, and that value falls due. -/
theorem startsDivision_of_unitDivision {i : Instr} {d a b : RegField} {delay : Nat} {f : Word → Word → Word}
    {p : Word → Word → Word → Prop} (hv : ∀ x y v, p x y v → f x y = v) (hi : ∀ s, exec i s = s.unitDivision d a b delay f) :
    startsDivision i d a b delay p := by
  intro s s1 x y v hu hr hc hpv ht
  obtain rfl := hv x y v hpv
  rw [hi, State.unitDivision, State.unit_of_usable hu, hr]
  simp only [Gate.next_go]
  rw [← hc, State.destS_of_takes ht, Gate.next_go, State.finish_go]

/-- Settles O4: every division is a `State.unitDivision`, and its value is the quotient or the remainder of the rule
(`isQuotient.eq_tdiv_tmod`). -/
theorem divisionsIssue : Obligations.DivisionsIssue := by
  unfold Obligations.DivisionsIssue
  intro d a b
  simp only [List.forall_mem_cons]
  refine
    ⟨startsDivision_of_unitDivision (f := divSigned 64) ?_ fun _ => rfl,
     startsDivision_of_unitDivision (f := divUnsigned) ?_ fun _ => rfl,
     startsDivision_of_unitDivision (f := remSigned 64) ?_ fun _ => rfl,
     startsDivision_of_unitDivision (f := remUnsigned) ?_ fun _ => rfl,
     startsDivision_of_unitDivision (f := fun x y => sext32 (divSigned 32 (low x) (low y))) ?_ fun _ => rfl,
     startsDivision_of_unitDivision (f := fun x y => sext32 (remSigned 32 (low x) (low y))) ?_ fun _ => rfl,
     List.forall_mem_nil _⟩
  · rintro x y v (⟨rfl, rfl⟩ | ⟨hy, q, r, h, rfl⟩)
    · exact divSigned_zero x
    · exact divSigned_eq_ofInt hy h
  · rintro x y v (⟨rfl, rfl⟩ | ⟨hy, q, r, h, rfl⟩)
    · exact divUnsigned_zero x
    · exact divUnsigned_eq_ofInt64 hy h
  · rintro x y v (⟨rfl, rfl⟩ | ⟨hy, q, r, h, rfl⟩)
    · exact remSigned_zero _
    · exact remSigned_eq_ofInt hy h
  · rintro x y v (⟨rfl, rfl⟩ | ⟨hy, q, r, h, rfl⟩)
    · exact remUnsigned_zero _
    · exact remUnsigned_eq_ofInt64 hy h
  · rintro x y v (⟨hy, rfl⟩ | ⟨hy, q, r, h, rfl⟩)
    · simp only [(low_eq_zero_iff y).2 hy, divSigned_zero]
      decide
    · exact sext32_eq_ofWord (divSigned_eq_ofInt (mt (low_eq_zero_iff y).1 hy) h)
  · rintro x y v (⟨hy, rfl⟩ | ⟨hy, q, r, h, rfl⟩)
    · simp only [(low_eq_zero_iff y).2 hy, remSigned_zero, sext32_low]
    · exact sext32_eq_ofWord (remSigned_eq_ofInt (mt (low_eq_zero_iff y).1 hy) h)

/-! ### The corners (R102) -/

theorem ne_zero_of_toInt {n : Nat} {y : BitVec n} {z : Int} (hy : y.toInt = z) (hz : z ≠ 0) : y ≠ 0 := by
  rintro rfl
  exact hz (hy.symm.trans BitVec.toInt_zero)

/-- The quotient and the remainder of operands given as integers. -/
theorem divSigned_of_toInt {n : Nat} {x y : BitVec n} {a b : Int} (hx : x.toInt = a) (hy : y.toInt = b) (hb : b ≠ 0) :
    divSigned n x y = BitVec.ofInt n (a.tdiv b) := by
  rw [divSigned, if_neg (ne_zero_of_toInt hy hb), hx, hy]

theorem remSigned_of_toInt {n : Nat} {x y : BitVec n} {a b : Int} (hx : x.toInt = a) (hy : y.toInt = b) (hb : b ≠ 0) :
    remSigned n x y = BitVec.ofInt n (a.tmod b) := by
  rw [remSigned, if_neg (ne_zero_of_toInt hy hb), hx, hy]

theorem eq_of_toInt {n : Nat} {v : BitVec n} {z z' : Int} (hz : BitVec.ofInt n z' = BitVec.ofInt n z) (hv : v.toInt = z) :
    BitVec.ofInt n z' = v := by
  rw [hz, ← hv, BitVec.ofInt_toInt]

/-- A division whose value is due is written in that tick, and its thread goes on (R98). -/
theorem exec_divisionWrite {s : State} {u due : Nat} {d : RegField} {v : Word} (hp : s.plain u)
    (hw : (s.thread u).wait = .division d v due) (hdue : due ≤ s.now) :
    exec (.divisionWrite u) s = .next ((s.placeS u d v 0).modThread u Thread.completed) := by
  change execDivisionWrite u s = _
  have htwin : ((s.placeS u d v 0).thread u).twin = false := (s.placeS_twin u u d v 0).trans hp.1
  rw [execDivisionWrite, hw]
  simp only [if_neg (Nat.not_lt.2 hdue)]
  rw [State.writeS_of_plain hp, State.complete_of_untwinned htwin]

/-- Settles O5: the corners by evaluating the division of the operands that the table names. -/
theorem divisionCorners : Obligations.DivisionCorners := by
  unfold Obligations.DivisionCorners
  refine ⟨fun d a b => ⟨startsDivision_of_unitDivision (f := divSigned 64) ?_ fun _ => rfl,
    startsDivision_of_unitDivision (f := divUnsigned) ?_ fun _ => rfl,
    startsDivision_of_unitDivision (f := remSigned 64) ?_ fun _ => rfl,
    startsDivision_of_unitDivision (f := remUnsigned) ?_ fun _ => rfl,
    startsDivision_of_unitDivision (f := fun x y => sext32 (divSigned 32 (low x) (low y))) ?_ fun _ => rfl,
    startsDivision_of_unitDivision (f := fun x y => sext32 (remSigned 32 (low x) (low y))) ?_ fun _ => rfl⟩,
    fun s u due d v hp hw hdue => exec_divisionWrite hp hw hdue⟩
  · rintro x y v (⟨rfl, rfl⟩ | ⟨hx, hy, hv⟩ | ⟨hx, hy, hv⟩ | ⟨hx, hy, hv⟩)
    · exact divSigned_zero x
    · exact (divSigned_of_toInt hx hy (by decide)).trans (eq_of_toInt (by decide) hv)
    · exact (divSigned_of_toInt hx hy (by decide)).trans (eq_of_toInt (by decide) hv)
    · exact (divSigned_of_toInt hx hy (by decide)).trans (eq_of_toInt (by decide) hv)
  · rintro x y v ⟨rfl, rfl⟩
    exact divUnsigned_zero x
  · rintro x y v (⟨rfl, rfl⟩ | ⟨hx, hy, rfl⟩ | ⟨hx, hy, hv⟩ | ⟨hx, hy, hv⟩)
    · exact remSigned_zero v
    · exact (remSigned_of_toInt hx hy (by decide)).trans (by decide)
    · exact (remSigned_of_toInt hx hy (by decide)).trans (eq_of_toInt (by decide) hv)
    · exact (remSigned_of_toInt hx hy (by decide)).trans (eq_of_toInt (by decide) hv)
  · rintro x y v ⟨rfl, rfl⟩
    exact remUnsigned_zero v
  · rintro x y v (⟨hy, rfl⟩ | ⟨hx, hy, rfl⟩)
    · simp only [low, hy, divSigned_zero]
      decide
    · exact (congrArg sext32 (divSigned_of_toInt hx hy (by decide))).trans (by decide)
  · rintro x y v (⟨hy, rfl⟩ | ⟨hx, hy, rfl⟩)
    · simp only [low, hy, remSigned_zero]
      rfl
    · exact (congrArg sext32 (remSigned_of_toInt hx hy (by decide))).trans (by decide)

end Sys2Proof.Machine

/-! Branches and mask tests (O9), and jumps (O8): where a thread goes on. -/

namespace Sys2Proof.Machine

/-! ### Where a thread goes on -/

theorem relative_eq_ofInt (p : BitVec 57) (n : Int) : relative p n = BitVec.ofInt 57 (p.toNat + n * 2) := by
  rw [relative, BitVec.ofInt_add, BitVec.ofInt_natCast, BitVec.ofNat_toNat, BitVec.setWidth_eq, Int.mul_comm]

/-- A taken branch of an ordinary thread goes to its target. -/
theorem State.branch_true {s : State} (hp : s.plain s.cur) (off : Int) :
    s.branch true off = s.wentTo (BitVec.ofInt 57 (s.me.iss.ipc.toNat + off * 2)) := by
  rw [State.branch, if_pos rfl, State.jump_of_untwinned hp.1, relative_eq_ofInt, State.wentTo]

/-- A branch of an ordinary thread that is not taken completes. -/
theorem State.branch_false {s : State} (hp : s.plain s.cur) (off : Int) : s.branch false off = s.done := by
  rw [State.branch, if_neg Bool.false_ne_true, State.complete_of_untwinned hp.1, State.done]

/-! ### The units -/

/-- A branch that tests its condition by `c` goes to its target exactly where the condition holds. -/
theorem branches2_of_unitBranch {i : Instr} {a b : RegField} {off : Int} {c : Word → Word → Bool}
    {p : Word → Word → Prop} (hc : ∀ x y, c x y = true ↔ p x y) (hi : ∀ s, exec i s = s.unitBranch a b off c) :
    branches2 i a b off p := by
  intro s s1 x y hu hr hcur hp
  have hexec : exec i s = .next (s1.branch (c x y) off) := by
    rw [hi, State.unitBranch, State.unit_of_usable hu, hr, Gate.next_go, State.finish_go]
  rw [← hcur] at hp
  rw [hexec]
  refine ⟨fun h => ?_, fun h => ?_⟩
  · rw [(hc x y).2 h, State.branch_true hp]
  · rw [Bool.eq_false_iff.2 (mt (hc x y).1 h), State.branch_false hp]

/-- The same of a branch on one register. -/
theorem branches1_of_unitBranch1 {i : Instr} {a : RegField} {off : Int} {c : Word → Bool} {p : Word → Prop}
    (hc : ∀ x, c x = true ↔ p x) (hi : ∀ s, exec i s = s.unitBranch1 a off c) : branches1 i a off p := by
  intro s s1 x hu hr hcur hp
  have hexec : exec i s = .next (s1.branch (c x) off) := by
    rw [hi, State.unitBranch1, State.unit_of_usable hu, hr, Gate.next_go, State.finish_go]
  rw [← hcur] at hp
  rw [hexec]
  refine ⟨fun h => ?_, fun h => ?_⟩
  · rw [(hc x).2 h, State.branch_true hp]
  · rw [Bool.eq_false_iff.2 (mt (hc x).1 h), State.branch_false hp]

/-! ### The conditions (R109, R110) -/

theorem slt_iff (x y : Word) : x.slt y = true ↔ x.toInt < y.toInt := by
  rw [BitVec.slt_eq_decide, decide_eq_true_eq]

theorem not_slt_iff (x y : Word) : (!x.slt y) = true ↔ y.toInt ≤ x.toInt := by
  rw [Bool.not_eq_true', ← Bool.not_eq_true, slt_iff, Int.not_lt]

theorem ult_iff (x y : Word) : x.ult y = true ↔ x.toNat < y.toNat := by
  rw [BitVec.ult_eq_decide, decide_eq_true_eq]

theorem not_ult_iff (x y : Word) : (!x.ult y) = true ↔ y.toNat ≤ x.toNat := by
  rw [Bool.not_eq_true', ← Bool.not_eq_true, ult_iff, Nat.not_lt]

/-- Two words have no 1 bit in common. -/
theorem and_eq_zero_iff_getLsbD (x y : Word) :
    x &&& y = 0 ↔ ∀ n, ¬ (x.getLsbD n = true ∧ y.getLsbD n = true) := by
  simp only [← Bool.and_eq_true, ← BitVec.getLsbD_and, Bool.not_eq_true]
  refine ⟨fun h n => ?_, fun h => ?_⟩
  · rw [h]
    exact BitVec.getLsbD_zero
  · exact BitVec.eq_of_getLsbD_eq fun n _ => (h n).trans BitVec.getLsbD_zero.symm

/-- Every 1 bit of the second word is one of the first. -/
theorem and_eq_right_iff_getLsbD (x y : Word) : x &&& y = y ↔ ∀ n, y.getLsbD n = true → x.getLsbD n = true := by
  refine ⟨fun h n hy => ?_, fun h => BitVec.eq_of_getLsbD_eq fun n _ => ?_⟩
  · rw [← h, BitVec.getLsbD_and, Bool.and_eq_true] at hy
    exact hy.1
  · rw [BitVec.getLsbD_and, Bool.and_eq_right_iff_imp]
    exact h n

theorem bany_iff (x y : Word) : (x &&& y != 0) = true ↔ ∃ n, x.getLsbD n = true ∧ y.getLsbD n = true := by
  rw [bne_iff_ne, Ne, and_eq_zero_iff_getLsbD, Classical.not_forall_not]

theorem ball_iff (x y : Word) : (x &&& y == y) = true ↔ ∀ n, y.getLsbD n = true → x.getLsbD n = true := by
  rw [beq_iff_eq, and_eq_right_iff_getLsbD]

theorem bnone_iff (x y : Word) : (x &&& y == 0) = true ↔ ∀ n, ¬ (x.getLsbD n = true ∧ y.getLsbD n = true) := by
  rw [beq_iff_eq, and_eq_zero_iff_getLsbD]

theorem bbs_iff (x : Word) (n : Nat) : bitAt x.toNat n = true ↔ x.getLsbD n = true := by
  rw [bitAt_toNat]

theorem bbc_iff (x : Word) (n : Nat) : (!bitAt x.toNat n) = true ↔ x.getLsbD n = false := by
  rw [bitAt_toNat, Bool.not_eq_true']

/-- Settles O9: every unit is a `State.unitBranch` or a `State.unitBranch1`, and its test is the rule's condition. -/
theorem branches : Obligations.Branches := by
  unfold Obligations.Branches
  refine ⟨fun a b i => ?_, fun a b i => ?_, fun a n i => ⟨?_, ?_⟩, fun a o => ⟨?_, ?_⟩⟩
  · simp only [List.forall_mem_cons]
    exact
      ⟨branches2_of_unitBranch (fun _ _ => beq_iff_eq) fun _ => rfl,
       branches2_of_unitBranch (fun _ _ => bne_iff_ne) fun _ => rfl,
       branches2_of_unitBranch slt_iff fun _ => rfl,
       branches2_of_unitBranch not_slt_iff fun _ => rfl,
       branches2_of_unitBranch ult_iff fun _ => rfl,
       branches2_of_unitBranch not_ult_iff fun _ => rfl,
       List.forall_mem_nil _⟩
  · simp only [List.forall_mem_cons]
    exact
      ⟨branches2_of_unitBranch bany_iff fun _ => rfl,
       branches2_of_unitBranch ball_iff fun _ => rfl,
       branches2_of_unitBranch bnone_iff fun _ => rfl,
       List.forall_mem_nil _⟩
  · exact branches1_of_unitBranch1 (fun x => bbs_iff x n.toNat) fun _ => rfl
  · exact branches1_of_unitBranch1 (fun x => bbc_iff x n.toNat) fun _ => rfl
  · exact branches1_of_unitBranch1 (fun _ => beq_iff_eq) fun _ => rfl
  · exact branches1_of_unitBranch1 (fun _ => bne_iff_ne) fun _ => rfl

/-! ### Jumps -/

/-- `c.j` of an ordinary thread goes to its target, as `jal s0` does: the write of its link stands in the core's list, there to be
discarded when it is performed (R83, R96, R107). -/
theorem exec_cJ {s : State} (hp : s.plain s.cur) (o : BitVec 11) :
    exec (.cJ o) s = .next ((s.placeS s.cur 0 ((s.me.iss.ipc + 2).setWidth 64) 2).wentTo
      (BitVec.ofInt 57 (s.me.iss.ipc.toNat + o.toInt * 2))) := by
  change execCJ o s = _
  have htwin := (s.placeS_twin s.cur s.cur 0 ((s.me.iss.ipc + 2).setWidth 64) 2).trans hp.1
  rw [execCJ, State.writeS_of_plain hp, State.jump_of_untwinned htwin, relative_eq_ofInt, State.wentTo, State.placeS_cur]

/-- A value placed with a delay makes its core's list of writes longer. -/
theorem length_pend_placeS (s : State) (t : Nat) (d : RegField) (v : Word) {delay : Nat} (h : 0 < delay) :
    ((s.placeS t d v delay).core (coreOf t)).pend.length = (s.core (coreOf t)).pend.length + 1 := by
  rw [State.placeS, State.placeAt_of_delay h, State.pend, State.core_modCore, if_pos rfl, List.length_append,
    List.length_singleton]

/-- With every field at its default an ordinary thread executes. -/
theorem plain_default : ({} : State).plain 0 := by
  refine ⟨rfl, rfl, fun k _ => ?_⟩
  change ((0 : Word)).toNat < 2 ^ 63
  decide

/-- Refutes O8: `c.j` is `jal s0`, and the discarded write of its link stands in its core's list for 2 ticks, like that of every
unit with destination `s0`; the clause of `c.j` has the state differ in the thread alone. From the default state a `c.j` of
offset 0 leaves one entry in the list of core 0, where the clause leaves none. -/
theorem not_jumps : ¬ Obligations.Jumps := by
  unfold Obligations.Jumps
  rintro ⟨-, -, hcJ⟩
  have heq := (exec_cJ plain_default 0).symm.trans (hcJ 0 {} plain_default)
  simp only [Host.Outcome.next.injEq] at heq
  have hpend := congrArg (fun t => (t.core (coreOf 0)).pend.length) heq
  simp only [State.wentTo, State.core_modThread, length_pend_placeS _ _ _ _ Nat.two_pos] at hpend
  exact absurd hpend (by decide)

end Sys2Proof.Machine
